-- ==== Sys2Proof/Word.lean ====
section
/-!
DEFINITION. The word types of the NXS1024 model and its sparse tables as plain data.
-/

namespace Sys2Proof

/-- A register: 32 bits (R8). -/
abbrev Word := BitVec 32

/-- A byte of memory. -/
abbrev Byte := BitVec 8

/-- A sparse table: keys strictly rising, and no entry equal to the table's default. -/
abbrev Tbl (α : Type) := List (Nat × α)

end Sys2Proof
end

