-- ==== Sys2Proof/Syntax.lean ====
section
/-!
DEFINITION. The commands of the NXS1024: what the parties outside the block and its own timers, engines and sequencers
send it, one constructor per row of the command table.
-/

namespace Sys2Proof

/-- The privilege level of a master's access: task, supervisor or machine (R285). -/
inductive Level where
  | t
  | s
  | m
deriving DecidableEq, Repr

/-- A parity error met in cluster memory (R236): in a working buffer or in configuration memory, with its offset. -/
inductive FexParity where
  | none
  | working (offset : BitVec 24)
  | configuration (offset : BitVec 24)
deriving DecidableEq, Repr

/-- What the line layer of a backhaul port says of a received frame: its FCS is good, and how many of the FEC codewords it came in were
corrected and how many could not be (Table 3-9). -/
structure EthFec where
  good : Bool
  corr : BitVec 16 := 0
  unc : BitVec 16 := 0
deriving DecidableEq, Repr

/-- What parity does to a read of one store line on its way (Table 7-1): the word met, how many of three attempts failed between requester and
bank, what its array gave (0 good, 1 good on the re-sense, 2 bad), how many attempts failed between bank and requester. -/
structure ReadHops where
  word : Fin 8 := 0
  req : Fin 4 := 0
  arr : Fin 3 := 0
  ret : Fin 4 := 0
deriving DecidableEq, Repr

/-- What parity does to a write on its way to the bank: the word met, and how many of three attempts failed. -/
structure WriteHop where
  word : Fin 8 := 0
  fails : Fin 4 := 0
deriving DecidableEq, Repr

/-- A unit that a producer computes anew (R183): the reader of its input ring, the word position at which its output begins, and its lines,
each with its erase flag. -/
structure RegenUnit where
  reader : Fin 2
  at_ : BitVec 64
  lines : List (Vector (BitVec 64) 8 × Bool)
deriving DecidableEq, Repr

/-- Two 64-bit words received 1,024 UI apart where an antenna lane looks for its sync word (R115), the first bit received in place 0. -/
structure SyncPair where
  first : BitVec 64
  second : BitVec 64
deriving DecidableEq, Repr

/-- Where the four far sections of an echo canceller are placed at the end of a cold P2, the strongest reflection first, in UI beyond 256
(Table 4-6). -/
structure EchoFar where
  p0 : Fin 1280
  p1 : Fin 1280 := 0
  p2 : Fin 1280 := 0
  p3 : Fin 1280 := 0
deriving DecidableEq, Repr

/-- One instruction on its way through a core: the core (engine 0–191, or 192 for Laruri's lockstep pair), and how many of the three
reads of the instruction word failed parity (R302). -/
structure Issue where
  core : Fin 193
  fails : Fin 4 := 0
deriving DecidableEq, Repr

/-- The fields of a vector instruction (Table 13-2): [25:21], [20:16], [15:11], type [10:7], pg [6:4], span [3:2]. -/
structure VecFields where
  a : Fin 32
  b : Fin 32
  c : Fin 32
  ty : Fin 16
  pg : Fin 8
  span : Fin 4
deriving DecidableEq, Repr

/-- The fields of a COP instruction (Table 14-2). -/
structure CopFields where
  rd : Fin 32
  rs1 : Fin 32
  rs2 : Fin 32
  slot : Fin 4
  keep : Bool
  op : BitVec 8
deriving DecidableEq, Repr
/-- Where the planner puts an admitted plan (R358): stream, cluster and slot; cell, pod and harness (32 and above none); pod and firmware
instance. How the planner chooses is its own; `refuse` is the outcome of those checks of Table 16-2 that rest on its own figures
(0x06, 0x09–0x0B, 0x0F–0x11): the reason and the index of the first offender. -/
structure PlcLayout where
  streams : List (Fin 2048 × Fin 17 × Fin 128)
  cells : List (Fin 256 × Fin 24 × Fin 64)
  fw : List (Fin 24 × BitVec 16)
  refuse : Option (BitVec 8 × BitVec 12)
deriving DecidableEq, Repr

/-- How a management message came (R412): in an Ethernet frame, with its source, destination, ethertype and number of VLAN tags, or in a console
frame, whose FCS is good or not. -/
inductive MgtVia where
  | port (src dst : BitVec 48) (etype : BitVec 16) (tags : Fin 3)
  | console (fcsOk : Bool)
deriving DecidableEq, Repr


/-- What an ageing monitor gives (R444): the counts of a pair's stressed and reference oscillators over 2^20 SYSREF cycles, or the first failing setting of a
replica's delay line in steps of 2 ps, none where no setting fails. -/
inductive MonReading where
  | pair (stressed ref : BitVec 32)
  | replica (first : Option (BitVec 16))
deriving DecidableEq, Repr

/-- A command: one constructor per row of the command table. Operands that are not addresses or values written are what the
outside world shows the block at that event (a measured offset, a received frame, a parity outcome, a pin edge). -/
inductive Instr where
  /-- A write to a register field that has no row of its own, with the effect given by its access code (R9). -/
  | registerWrite (a : BitVec 40) (v : Word)
  /-- A read of the low half of a 64-bit value latches its high half for the next read (R14). -/
  | lowHalfRead (a : BitVec 40)
  /-- A die-to-die bridge transfer is checked for parity and replayed up to twice; a third failure erases the stream data or returns a bus error (R17). Stream data of an antenna stream, with whether they go toward its lane, or a control access; `fails`: attempts that fail parity. -/
  | bridgeTransfer (die : Fin 4) (stream : Option (Fin 2048 × Bool)) (fails : Fin 4)
  /-- In FREE with no catch-up running, air time loads V and enters LOCKED, or starts a catch-up at half rate (R35). Laruri's request for time lock. -/
  | timeLock
  /-- The catch-up count meets V; air time follows the selected domain, enters LOCKED and disarms armed trigger slots (R35). -/
  | catchUpComplete
  /-- Setting AIR_CTL.arm arms the start of air time at the next frame boundary at or after AIR_START, or refuses it with AIR_START_LATE (R36). The write of AIR_CTL.arm = 1. -/
  | airStartArm
  /-- Writing arm = 0 while a start is pending withdraws the start without logging (R36). The write of AIR_CTL.arm = 0. -/
  | airStartWithdraw
  /-- At the armed start boundary air time enters RUN, arm clears and AIR_RUN is logged (R36). -/
  | airRun
  /-- An FRC parity error or time-base PLL unlock in RUN moves air time to FALLBACK, served from FBC (R37). `pll` false: FRC parity error; true: PLL unlock. -/
  | airFallbackEnter (pll : Bool)
  /-- After 60 s in FALLBACK, air time enters FREE, every lane carries filler and Laruri repeats time lock and start (R37). -/
  | airUnqualified
  /-- An FRC parity error or PLL unlock in LOCKED returns air time to FREE, and one in FREE holds the count (R474). As AIR_FALLBACK_ENTER. -/
  | mainPathFailUnlocked (pll : Bool)
  /-- A write of AIR_TRG_T_LO arms a trigger slot with both target halves, or reports it late under R39 (R41). The write of `lo` to AIR_TRG_T_LO[n]. -/
  | trgArm (n : Fin 16) (lo : Word)
  /-- At an output target the pin goes active, or the target is counted late when not allowed in FREE or LOCKED, and a periodic slot takes its next target (R41). -/
  | trgOutputFire (n : Fin 16)
  /-- The trigger pulse width expires and the pin returns to its inactive level (R41). -/
  | trgPulseEnd (n : Fin 16)
  /-- An active capture edge is time-stamped and queued, or dropped at a full queue (R41). An active edge at the pin; `odd` is the interpolated Tc beyond the count. -/
  | trgCapture (n : Fin 16) (odd : Bool)
  /-- A read of AIR_TRG_CAP_LO pops the oldest capture and latches its high half, or returns all ones on an empty queue (R43). A read of AIR_TRG_CAP_LO[n]. -/
  | trgCapPop (n : Fin 16)
  /-- A bus cycle with select 0x0 latches a coherent snapshot of every time-query word and drives air count bits 15:0 (R45). `viol`: the select changed inside its setup or hold window (R47). -/
  | tqbSnapshot (viol : Bool)
  /-- A bus cycle with any other select drives the chosen word of the last snapshot (R44). As TQB_SNAPSHOT, with the select. -/
  | tqbWordRead (sel : BitVec 4) (viol : Bool)
  /-- A read of AIR_CNT_LO latches AIR_CNT_HI, AIR_CRD and AIR_CRD_OFS from the same instant (R48). -/
  | airCntRead
  /-- Once the time-base PLL locks again the FRC restarts from zero and every enabled domain re-anchors to FBC and enters ACQUIRE (R51). -/
  | frcRestart
  /-- A read of TDOM_RD_LO latches the domain's middle and high words from the same cycle (R54). -/
  | tdomRead (n : Fin 8)
  /-- A write of TDOM_MEAS runs one servo update: a phase step or a rate update, with lock state transitions (R56). The write of `e` to TDOM_MEAS[n]. -/
  | servoUpdate (n : Fin 8) (e : Word)
  /-- A domain with no measurement for meas_to intervals enters FAULT and holds its rate (R58). -/
  | tdomTimeout (n : Fin 8)
  /-- A write of TDOM_RATE with servo_en = 0 sets the rate directly and re-anchors the domain (R57). The write of `r` to TDOM_RATE[n]. -/
  | rateWrite (n : Fin 8) (r : Word)
  /-- A write of TDOM_ADJ steps a domain in ACQUIRE that is not the air-time source, or is ignored (R57). The write of `adj` to TDOM_ADJ[n]. -/
  | phaseAdjust (n : Fin 8) (adj : Word)
  /-- Setting TDOM_LOAD_CTL.go loads a time into a domain in OFF or ACQUIRE, or refuses it with load_ref (R475). The write of `v`, with go = 1, to TDOM_LOAD_CTL. -/
  | tdomLoad (v : Word)
  /-- A change of qualification moves air time to a new domain without a step, capturing a residual to slew out (R60). Laruri sets or clears src_ok of TD_n. -/
  | tdomSwitch (n : Fin 8) (ok : Bool)
  /-- A higher-priority domain that has stayed qualified for wtr × 10 s is returned to (R59). -/
  | wtrExpire
  /-- Each tick TD_3 is re-anchored to the air view while another domain carries air time (R61). -/
  | td3Reanchor
  /-- Once a second TD_3 records the air view's rate and refits its mean rate and drift (R61). -/
  | td3RateRecord
  /-- After lim × 10 s on TD_3 the holdover limit is logged and, with off_air, cells go off air (R62). -/
  | tdomHoldLimit
  /-- Cells return on air once a qualified domain is selected and the residual falls below its lock threshold (R62). -/
  | holdoverCellsReturn
  /-- A time-base reference is lost over 1 ms and the PLL switches to ref2 with phase build-out (R63). The reference found out of limits: 0 SYSREF, 1 TREF_10M, 2 SyncE. -/
  | tdomRefLoss (r : Fin 3)
  /-- With revert = 1 the PLL returns to the primary after 10 s within limits (R63). -/
  | pllRevert
  /-- A reference returns and the PLL leaves holdover to the primary or ref2 (R63). The reference found within limits again. -/
  | pllHoldExit (r : Fin 3)
  /-- A PPS_IN edge is captured on the FRC, or ignored and counted if within 900 ms of the last (R65). An active edge, with its place in the FRC cycle in sixteenths. -/
  | ppsCapture (i : Fin 16)
  /-- A TOD_IN message completing within 500 ms of an edge is paired and a GNSS measurement written (R65). The TAI second named for the last edge, and whether the receiver reports its time valid and its PPS locked. -/
  | todMessage (sec : BitVec 48) (ok : Bool)
  /-- A write of an FBC or MTC INC_INT commits the increment at the next SYSREF cycle, or is refused for privilege or range (R67). The write of `v` to INC_INT of FBC or MTC. -/
  | clockIncWrite (mtc : Bool) (v : Word) (lvl : Level)
  /-- CTL.load copies the SET registers into FBC or MTC at the next SYSREF cycle, refused for FBC while it serves air time (R67). The write of CTL.load of FBC or MTC. -/
  | clockLoad (mtc : Bool) (lvl : Level)
  /-- Each tick the device measures air view minus FBC and MTC into their DIFF registers (R68). -/
  | fbcDiffMeasure
  /-- A backhaul port completes negotiation, training and FEC lock and comes up (R71). -/
  | ethLinkUp (p : Fin 16)
  /-- A backhaul port loses its link (R71). -/
  | ethLinkDown (p : Fin 16) (cause : BitVec 4)
  /-- A received frame is checked, classified, timestamped and written to its ring or Laruri's timing queue, or dropped (R73). The frame with its FCS, what the line layer says of it, whether a third parity attempt failed, and the stamp's sixteenth of an FRC cycle. -/
  | ethFrameReceive (p : Fin 16) (frame : List Byte) (fcs : EthFec) (lost : Bool) (i : Fin 16)
  /-- A received IEEE 802.3 PAUSE frame pauses every class of the port (R72). A PAUSE frame, or with `pfc` a priority-based one for those classes. -/
  | ethPauseReceive (p : Fin 16) (pfc : Option (BitVec 8)) (quanta : BitVec 16)
  /-- A write of ETH_TXQ_DB posts descriptors to a transmit queue (R75). The write of `n` to ETH_TXQ_DB[i]. -/
  | txqDoorbell (i : Fin 256) (n : BitVec 16)
  /-- A queue wins its port and sends its head frame, writing a completion record when asked (R75). Port p is free to send; `lost`: a third parity attempt failed. -/
  | ethFrameSend (p : Fin 16) (lost : Bool)
  /-- A timed frame is launched at its air-count target, slipped past an overlap, or returned late (R76). The head of queue q is timed. -/
  | ethFrameLaunch (q : Fin 256) (lost : Bool)
  /-- A write of LNK_LINE_CFG starts cold training, takes effect at the next codeword boundary, or quiets the lane into OFF (R113). The write of `v` to LNK_LINE_CFG[n]. -/
  | lineCfgWrite (n : Fin 1024) (v : Word)
  /-- LNK_LINE_CTL.cold quiets the transmitter and starts training from QUIET (R113). -/
  | coldTrainingRequest (n : Fin 1024)
  /-- LNK_LINE_CTL.warm starts a warm retrain, or a cold one without valid stored coefficients (R113). -/
  | warmRetrainRequest (n : Fin 1024)
  /-- A monitored lane reference goes absent or out of frequency and the device enters ENVIRONMENT STOP (R85). Reference LREF_A–LREF_D of the die. -/
  | lnkRefBad (die : Fin 4) (r : Fin 4)
  /-- A quiet lane detects a far-end signal and begins acquisition (R89). -/
  | signalDetect (n : Fin 1024)
  /-- A waiting lane takes a freed rate searcher in ascending lane order (R115). -/
  | searcherGrant (die : Fin 4)
  /-- A searcher reports rate, timing and polarity of the first candidate showing U twice, or a rate mismatch (R115). `rate` is the code found; `words`: the sync words seen. -/
  | searcherResult (n : Fin 1024) (rate : Fin 7) (words : SyncPair)
  /-- A lane without a searcher accepts a candidate after two sync-word matches 1,024 UI apart (R115). -/
  | syncAcquired (n : Fin 1024) (words : SyncPair)
  /-- Every 100 ms spent in QUIET, ACQ and WAIT sets acq_to and logs it (R116). -/
  | lnkAcqTimeout (n : Fin 1024)
  /-- A training block with a good CRC is taken up, advances the phase, or ends it with link frames (R110). Bits 0–95 of the block (bit 0 first); `grid`: at a position that the lane reads (R110 step 8). -/
  | trainingBlockReceive (n : Fin 1024) (hdr : BitVec 96) (grid : Bool)
  /-- The device starts sending P2 blocks 1,024–2,048 UI after the radio's last P1 block (R110). -/
  | p2Start (n : Fin 1024)
  /-- Both ends start P3 1,024–2,048 UI after the device's last P2 block (R110). The figures measured in the P2 that ends. -/
  | p3Start (n : Fin 1024) (erle : BitVec 8) (rl : BitVec 8) (far : EchoFar)
  /-- No P3 block or far-end count-0 block within 8,192 block times returns the device to QUIET (R110). -/
  | trainingTimeout (n : Fin 1024)
  /-- Three consecutive bad sync words lose line lock, count it, log it and return the lane to QUIET (R117). -/
  | lnkLol (n : Fin 1024)
  /-- A received codeword is decoded to a zero syndrome or the iteration limit and delivered at fixed latency (R102). The soft slicer's 5-bit LLRs: the hard decisions (bit b in place b) and their magnitudes (bit b's in places 4b to 4b + 3); when the last symbol left the equaliser, in 1/16 Tc. -/
  | codewordDecode (n : Fin 1024) (hard : BitVec 2048) (mag : BitVec 8192) (at_ : BitVec 68)
  /-- Each 2^24 symbols the lane computes SNR, margins and gap and sets valid (R105). Slicer SNR in 0.001 dB, signed; SNR_k of the 64 bins in 1/1024; the equaliser's peaking and noise enhancement. -/
  | qualityInterval (n : Fin 1024) (snr : BitVec 24) (bins : Vector (BitVec 32) 64) (ctle : BitVec 4) (enh : BitVec 8)
  /-- A received link frame's sync word, marker, headers, payload and control channel are checked and processed (R123). The sync word and marker as decided at the slicer (bit 0 first) and the arrival stamp in 1/16 Tc. -/
  | linkFrameReceive (n : Fin 1024) (head : BitVec 128) (at_ : BitVec 68)
  /-- With timing conditions met, the next boundary carries the first marked group with realign and the link enters RUN (R145). -/
  | lnkLinkUp (n : Fin 1024)
  /-- A write of LNK_LINK_CFG or LNK_LINK_CFG2 takes a running link to OFF and restarts bring-up with checked values (R126). The write of `v` to LNK_LINK_CFG[n], or with `cfg2` to LNK_LINK_CFG2[n]. -/
  | linkCfgWrite (n : Fin 1024) (cfg2 : Bool) (v : Word)
  /-- At each frame start the device sends sync, marker, control channel with steer and command slot, and payload (R132). The departure stamp in 1/16 Tc. -/
  | linkFrameSend (n : Fin 1024) (at_ : BitVec 68)
  /-- A write of LNK_CMD_HI queues a radio command with the next cseq, or drops it when full or short of lead (R136). -/
  | commandQueue (n : Fin 1024) (hi : Word)
  /-- A command is withdrawn when its target is less than one frame ahead, and dropped as late if never sent (R136). -/
  | commandExpire (n : Fin 1024)
  /-- Four link frames before each TDD entry's target the device queues the TDD command itself (R138). -/
  | tddAutoQueue (n : Fin 1024)
  /-- At each boundary with a new e the steering loop updates s and its state, queuing BSHIFT in PULL if needed (R142). -/
  | steerUpdate (n : Fin 1024)
  /-- After 64 boundaries without a valid e steering enters HOLD (R143). -/
  | steerHold (n : Fin 1024)
  /-- At the DOZE target the link sends only sync, marker and codeword 0 and the streams go off air (R148). -/
  | dozeEntry (n : Fin 1024)
  /-- From the codeword one codeword time before the exit target both ends send full codewords (R148). -/
  | dozeExit (n : Fin 1024)
  /-- At the DEEP target payload stops, the lane goes quiet at frame end, steering holds and tests end (R149). -/
  | deepEntry (n : Fin 1024)
  /-- 168 ticks before the exit target the device powers the lane up and sends a wake burst for a warm retrain (R149). -/
  | deepExitStart (n : Fin 1024)
  /-- A link not in TIMING at its DEEP exit target logs a wake failure and starts cold training (R149). -/
  | lnkWakeFail (n : Fin 1024)
  /-- A write of LNK_TEST_CTL.loop requests a loopback, queuing LOOP for FE, or is refused (R158). -/
  | testLoopWrite (n : Fin 1024) (loop : Fin 4)
  /-- A write of gen_en starts or stops the pattern generator, subject to the live rule (R155). -/
  | genEnWrite (n : Fin 1024) (on : Bool)
  /-- A write of chk_en starts or stops the pattern checker, subject to the live rule (R156). -/
  | chkEnWrite (n : Fin 1024) (on : Bool)
  /-- A write of inj_en starts or stops periodic error injection (R157). -/
  | injEnWrite (n : Fin 1024) (on : Bool)
  /-- A write of inj_one makes one injection at the next eligible unit (R157). -/
  | injOne (n : Fin 1024)
  /-- A write of clr zeroes the test counters at the next frame start (R156). -/
  | testClr (n : Fin 1024)
  /-- At the lane's next frame start the latest test configuration takes effect, logging test start or end (R158). -/
  | testApply (n : Fin 1024)
  /-- At a LOOP or LOOP off target the far-end loopback starts or ends and is logged (R164). -/
  | feLoopTarget (n : Fin 1024)
  /-- The injection interval expires and one error of the configured type is applied (R157). -/
  | injection (n : Fin 1024)
  /-- After 256 error-free compared bits the checker declares sync (R156). -/
  | lnkChkSync (n : Fin 1024)
  /-- More than 32 errors in 256 bits lose checker sync, count and reseed (R156). -/
  | lnkChkLoss (n : Fin 1024)
  /-- A bank reads a line with parity replays and poison handling, delivering it 8 cycles later (R169). `req`, `arr` and `ret` count the attempts that fail parity at the three hops of Table 7-1, `word` is the failing word; a ring reader is a ring, a reader and how many words it consumes. -/
  | storeRead (line : BitVec 20) (word : Fin 8) (req : Fin 4) (arr : Fin 3) (ret : Fin 4) (reader : Option (Fin 4096 × Fin 2 × Fin 9))
  /-- A bank writes 1–8 words of a line, setting or clearing poison as R168 lays down (R169). `fails`: attempts that fail parity at the bank input. -/
  | storeWrite (line : BitVec 20) (mask : BitVec 8) (words : Vector (BitVec 64) 8) (erase : Bool) (hop : WriteHop)
  /-- The producer rewrites the poisoned unit, readers get rep set and a completion is posted (R183). The producer of ring k is reader j of its input ring. -/
  | stoRegenDone (k : Fin 4096) (unit : RegenUnit)
  /-- STO_RCMD CREATE draws base grains, chains them and validates the ring, or returns an error result (R174). -/
  | create (k : Fin 4096)
  /-- STO_RCMD DESTROY returns every grain of the ring at the next cycle (R174). -/
  | destroy (k : Fin 4096)
  /-- STO_RCMD op 3 zeroes a ring's overrun and mark-lost counts and sticky bits (R174). -/
  | zeroCounts (k : Fin 4096)
  /-- A write of STO_CLS sets a class's quota and shared limit, or is refused with quota_bad (R171). The write of `v` to STO_CLS[c]. -/
  | quotaWrite (c : Fin 16) (v : Word)
  /-- A ring writer writes a word, requesting a grain at capacity and overrunning readers or stalling when refused (R176). -/
  | ringWrite (k : Fin 4096) (words : List (BitVec 64)) (erase : Bool)
  /-- A HOLD ring writer stalled for space resumes when O advances or a grain is granted (R176). -/
  | stalledWriteResume (k : Fin 4096)
  /-- A write of RP_ADV advances a reader's count, stopping at wcnt (R175). -/
  | rpAdv (k : Fin 4096) (j : Fin 2) (n : BitVec 19)
  /-- MARK sets the reader's rewind mark at its current count (R179). -/
  | mark (k : Fin 4096) (j : Fin 2)
  /-- UNMARK invalidates the reader's rewind mark (R179). -/
  | unmark (k : Fin 4096) (j : Fin 2)
  /-- REWIND returns the read count to a valid mark, or reports LOST or NONE (R179). -/
  | rewind (k : Fin 4096) (j : Fin 2)
  /-- intv cycles after its last scrub slot a bank raises its next scrub request (R186). -/
  | scrubRequest (b : Fin 256)
  /-- A scrub request takes an idle bank cycle and zeroes or checks one line, ending a pass when all lines are done (R186). `err`: the word found to be a stored-word error. -/
  | scrubSlot (b : Fin 256) (err : Option (Fin 8))
  /-- A scrub request waiting through 4,096 foreground cycles takes cycle 4,097, delaying foreground by one cycle (R187). The bank's 4,096th consecutive foreground cycle has passed. -/
  | scrubForced (b : Fin 256) (err : Option (Fin 8))
  /-- STO_CTL.pk_clr sets every class peak to its held value (R171). -/
  | stoPeakClear
  /-- STO_CTL.xf_clr clears every crossing FIFO sticky bit (R192). -/
  | xfClear
  /-- A crossing FIFO write enters an entry, or is discarded and counted as overflow when full (R192). `sync`: the read pointer has crossed to the write side since it last moved (R191). -/
  | fifoWrite (id : BitVec 16) (v : BitVec 512) (erase : Bool) (sync : Bool)
  /-- A crossing FIFO read takes an entry with parity re-reads, or counts an underrun when empty (R193). `fails`: reads of the entry that fail parity; `stream`: whose data the entry holds, none for a control word; `sync`: the write pointer has crossed to the read side. -/
  | fifoRead (id : BitVec 16) (fails : Fin 4) (stream : Option (Fin 2048)) (sync : Bool)
  /-- The write of MOV_Q word 15 enqueues a mover descriptor, stalling on a full queue (R196). The write of `v` to word 15 of MOV_Q[c]. -/
  | descriptorPost (c : Fin 128) (v : Word)
  /-- A mover channel takes its next descriptor, checks it and begins or completes it with an error status (R197). -/
  | descriptorStart (c : Fin 128)
  /-- A timed descriptor makes its first access at its air-count start, or completes late or slipped (R210). `slip`: another start of the unit fell in the same cycle before it, or a HOLD stall held the unit (R211). -/
  | timedStart (c : Fin 128) (slip : Bool)
  /-- A unit starts one burst from its highest-priority requesting channel, sized at its start (R204). -/
  | burstStart (u : Fin 8)
  /-- A descriptor posts its half event once half its words are done and, with barrier, arrived (R206). -/
  | halfEvent (c : Fin 128)
  /-- A descriptor ends, posting its full event and completion record after the barrier (R206). -/
  | descriptorComplete (c : Fin 128)
  /-- A linked descriptor is fetched from the store, or abandoned after a parity failure (R197). `fails`: attempts that fail parity. -/
  | linkedFetch (c : Fin 128) (hops : ReadHops)
  /-- MOV_CH_CTL.stop completes the burst and flushes every descriptor with status 2 (R209). -/
  | channelStop (c : Fin 128)
  /-- MOV_CH_CTL.clr zeroes the channel's counters and sticky bits (R196). -/
  | channelClear (c : Fin 128)
  /-- At the sw_frame boundary a dual crossbar entry takes its new cluster and slot and clears dual (R214). -/
  | fexXbSwitch (a : Fin 2048)
  /-- A write of a front-end slot descriptor is accepted, or validation fails with FEX_CFG_BAD (R216). -/
  | slotDescriptorWrite (cl : Fin 17) (slot : Fin 128) (w : Fin 16) (v : Word)
  /-- At an uplink symbol boundary the cluster decimates, FFTs and writes resource elements to the ring (R218). The view whose symbol has just ended; `par`: a parity error met. -/
  | ulSymbol (cl : Fin 17) (slot : Fin 128) (second : Bool) (par : FexParity)
  /-- After a symbol's last line has arrived its completion event is posted (R219). -/
  | ulSymbolEvent (cl : Fin 17)
  /-- At t_rd the cluster reads a downlink symbol and runs IFFT, window, filter, mask and predistortion (R223). The view whose t_rd has come. -/
  | dlSymbol (cl : Fin 17) (slot : Fin 128) (second : Bool) (par : FexParity)
  /-- At each slot end the mask periodogram is checked, muting or resuming the stream (R225). The bands whose power is above their limit in the slot's periodogram. -/
  | maskCheck (cl : Fin 17) (slot : Fin 128) (ended : BitVec 16)
  /-- The write of FEX_CQ word 7 enqueues a front-end command, stalling on a full queue (R228). -/
  | fexCommandPost (cl : Fin 17) (v : Word)
  /-- A NOP front-end command completes with its record and event (R228). -/
  | fexNop (cl : Fin 17)
  /-- LOAD_DPD copies coefficients into the slot's inactive predistortion bank (R229). -/
  | loadDpd (cl : Fin 17)
  /-- At the first half-subframe boundary after the copy the predistortion banks swap (R229). -/
  | dpdBankSwap (cl : Fin 17) (slot : Fin 128)
  /-- OBS writes predistorter input and observation to a ring and optionally computes EVM (R229). The figures of the fit, used with evm = 1. -/
  | obs (cl : Fin 17) (evm : BitVec 16) (gain : BitVec 16) (phase : BitVec 16)
  /-- CAPTURE writes a window of the stream's uplink input to a ring (R229). -/
  | capture (cl : Fin 17)
  /-- INJECT sends ring samples in place of filter output, or refuses an overlap with a downlink symbol (R229). -/
  | inject (cl : Fin 17)
  /-- At a PRACH occasion the cluster correlates and forwards or detects and writes a report (R231). The occasion's start and the summed squared magnitudes of the cluster's own antennas, per root, N_p bins each. -/
  | prachOccasion (cl : Fin 17) (j : Fin 16) (fdm : Fin 8) (tOcc : BitVec 64) (prof : List (List Nat))
  /-- A forwarded profile is added and, after nin profiles, detection and reporting run (R231). -/
  | prachProfileReceive (cl : Fin 17) (j : Fin 16)
  /-- At each slot end a quality record is written per uplink-active slot and view (R235). The measured figures. -/
  | qualityRecord (cl : Fin 17) (slot : Fin 128) (second : Bool) (rssi : BitVec 16) (nf : BitVec 16) (ended : Unit)
  /-- A write of SCA_HCFG configures a harness, or is refused with cfg_bad (R241). -/
  | harnessConfigWrite (h : Fin 32) (v : Word)
  /-- The write of SCA_JQ word 15 enqueues a job, stalling when full or discarding it for a disabled harness (R248). The write of `v` to word 15 of SCA_JQ[h]. -/
  | scaJobPost (h : Fin 32) (v : Word)
  /-- A job at the head starts at t_start, or ends LATE after t_dead, reading set and weights (R249). `perr`: the byte of the set's entry at which it read PERR. -/
  | scaJobStart (h : Fin 32) (perr : Option (Fin 4096))
  /-- An uplink combine job combines antennas into layer symbols for nsym symbols (R238). The store offsets of cache words fetched again and of a weight line that read PERR, and a residue mismatch (symbol, tile). -/
  | uplinkCombine (h : Fin 32) (refetch : List (BitVec 26)) (lost : Option (BitVec 26)) (fault : Option (Fin 14 × Fin 64))
  /-- A downlink precode job precodes layers onto antennas with calibration (R238). As for UPLINK_COMBINE. -/
  | downlinkPrecode (h : Fin 32) (refetch : List (BitVec 26)) (lost : Option (BitVec 26)) (fault : Option (Fin 14 × Fin 64))
  /-- A CAL_SWAP job makes its calibration bank active for later jobs of the set (R256). -/
  | calSwap (h : Fin 32)
  /-- A job writes its completion record and posts its event (R252). -/
  | scaJobComplete (h : Fin 32)
  /-- A job waiting over 1 ms on one input line ends INPUT_SHORT (R250). -/
  | scaShort (h : Fin 32)
  /-- SCA_HCTL.stop ends the running job after its symbol and flushes the queue STOPPED (R253). -/
  | harnessStop (h : Fin 32)
  /-- SCA_HCTL.clr zeroes the harness cycle count and cfg_bad (R241). -/
  | harnessClear (h : Fin 32)
  /-- The write of COD_JQ word 15 enqueues a coding job, stalling or discarding as required (R262). The write of `v` to word 15 of COD_JQ[q]. -/
  | codJobPost (q : Fin 32) (v : Word)
  /-- A freed unit takes the next code block or job from the highest-priority eligible queue (R263). The unit that takes work; `dirBad`: both copies of the job's HARQ directory entry fail parity. -/
  | codDispatch (u : Fin 50) (dirBad : Bool)
  /-- A NOP job completes when it reaches the head of its queue (R263). -/
  | codNop (q : Fin 32)
  /-- A DEMAP job reads layer symbols and writes data and UCI LLRs per entry (R267). Demapper u; `par`: an error in its working memory. -/
  | demap (u : Fin 8) (par : Bool)
  /-- A DEMAP job waiting over 1 ms on one line ends INPUT_SHORT (R270). The demapper that waits. -/
  | codShort (u : Fin 8)
  /-- A DECODE_LDPC job recovers rate, combines HARQ and decodes each code block (R272). Decoder u; an error in its working memory, and the line of its stored record that reads PERR; what it decides is computed, so the last two hold nothing. -/
  | decodeLdpc (u : Fin 16) (par : Bool) (recBad : Option (BitVec 10)) (pass : Unit) (iters : Unit)
  /-- A DECODE_TURBO job decodes each E-UTRA code block by max-log-MAP (R273). As for DECODE_LDPC. -/
  | decodeTurbo (u : Fin 4) (par : Bool) (recBad : Option (BitVec 10)) (pass : Unit) (iters : Unit)
  /-- A DECODE_POLAR job decodes by CRC-aided list decoding and writes A bits (R273). -/
  | decodePolar (u : Fin 4) (par : Bool) (pass : Unit)
  /-- An ENCODE_LDPC job attaches CRC, segments, encodes, rate-matches and scrambles (R274). -/
  | encodeLdpc (u : Fin 8) (par : Bool)
  /-- An ENCODE_TURBO job encodes a transport block under TS 36.212 (R274). -/
  | encodeTurbo (u : Fin 2) (par : Bool)
  /-- An ENCODE_POLAR job attaches CRC, encodes and rate-matches to E bits (R274). -/
  | encodePolar (u : Fin 4) (par : Bool)
  /-- An ENCODE_TBCC job attaches CRC and encodes with the tail-biting convolutional code (R274). -/
  | encodeTbcc (u : Fin 2) (par : Bool)
  /-- A MAP job writes nsym whole symbols of a layer ring from its entries (R269). -/
  | map (u : Fin 8) (par : Bool)
  /-- HARQ_REL discards its HARQ entry at the head of its queue in HARQ order (R277). -/
  | harqRel (q : Fin 32)
  /-- A decoder finishes a code block and its HARQ records are written (R276). The TB CRC is computed with the last one: `tb` holds nothing. -/
  | codeBlockComplete (u : Fin 50) (tb : Unit)
  /-- A coding job writes its completion record and event in acceptance order (R279). -/
  | codJobComplete (q : Fin 32)
  /-- COD_CTL.hclr stops dispatch, discards every HARQ entry after in-flight jobs drain, then resumes (R277). -/
  | harqClear
  /-- ADD writes the wrapped sum of two registers (R292). -/
  | add (i : Issue) (rd rs1 rs2 : Fin 32)
  /-- SUB writes the wrapped difference (R292). -/
  | sub (i : Issue) (rd rs1 rs2 : Fin 32)
  /-- AND writes the bitwise and (R292). -/
  | and (i : Issue) (rd rs1 rs2 : Fin 32)
  /-- OR writes the bitwise or (R292). -/
  | or (i : Issue) (rd rs1 rs2 : Fin 32)
  /-- XOR writes the bitwise exclusive or (R292). -/
  | xor (i : Issue) (rd rs1 rs2 : Fin 32)
  /-- SLL shifts left by s[rs2][5:0] (R292). -/
  | sll (i : Issue) (rd rs1 rs2 : Fin 32)
  /-- SRL shifts right logically (R292). -/
  | srl (i : Issue) (rd rs1 rs2 : Fin 32)
  /-- SRA shifts right arithmetically (R292). -/
  | sra (i : Issue) (rd rs1 rs2 : Fin 32)
  /-- SLT writes 1 if less, signed (R292). -/
  | slt (i : Issue) (rd rs1 rs2 : Fin 32)
  /-- SLTU writes 1 if less, unsigned (R292). -/
  | sltu (i : Issue) (rd rs1 rs2 : Fin 32)
  /-- MIN writes the signed minimum (R292). -/
  | min (i : Issue) (rd rs1 rs2 : Fin 32)
  /-- MAX writes the signed maximum (R292). -/
  | max (i : Issue) (rd rs1 rs2 : Fin 32)
  /-- MINU writes the unsigned minimum (R292). -/
  | minu (i : Issue) (rd rs1 rs2 : Fin 32)
  /-- MAXU writes the unsigned maximum (R292). -/
  | maxu (i : Issue) (rd rs1 rs2 : Fin 32)
  /-- CLZ counts leading zeros (R292). -/
  | clz (i : Issue) (rd rs1 rs2 : Fin 32)
  /-- CTZ counts trailing zeros (R292). -/
  | ctz (i : Issue) (rd rs1 rs2 : Fin 32)
  /-- POPC counts set bits (R292). -/
  | popc (i : Issue) (rd rs1 rs2 : Fin 32)
  /-- ADDW adds 32-bit values and sign-extends (R292). -/
  | addw (i : Issue) (rd rs1 rs2 : Fin 32)
  /-- SUBW subtracts 32-bit values and sign-extends (R292). -/
  | subw (i : Issue) (rd rs1 rs2 : Fin 32)
  /-- SLLW shifts a 32-bit value left (R292). -/
  | sllw (i : Issue) (rd rs1 rs2 : Fin 32)
  /-- SRLW shifts a 32-bit value right logically (R292). -/
  | srlw (i : Issue) (rd rs1 rs2 : Fin 32)
  /-- SRAW shifts a 32-bit value right arithmetically (R292). -/
  | sraw (i : Issue) (rd rs1 rs2 : Fin 32)
  /-- ADDS adds with signed saturation (R292). -/
  | adds (i : Issue) (rd rs1 rs2 : Fin 32)
  /-- SUBS subtracts with signed saturation (R292). -/
  | subs (i : Issue) (rd rs1 rs2 : Fin 32)
  /-- ANDN writes s[rs1] AND NOT s[rs2] (R292). -/
  | andn (i : Issue) (rd rs1 rs2 : Fin 32)
  /-- ORN writes s[rs1] OR NOT s[rs2] (R292). -/
  | orn (i : Issue) (rd rs1 rs2 : Fin 32)
  /-- MUL writes the low 64 bits of the product (R292). -/
  | mul (i : Issue) (rd rs1 rs2 : Fin 32)
  /-- MULH writes the signed high 64 bits (R292). -/
  | mulh (i : Issue) (rd rs1 rs2 : Fin 32)
  /-- MULHU writes the unsigned high 64 bits (R292). -/
  | mulhu (i : Issue) (rd rs1 rs2 : Fin 32)
  /-- MULHSU writes the signed-by-unsigned high 64 bits (R292). -/
  | mulhsu (i : Issue) (rd rs1 rs2 : Fin 32)
  /-- MULW multiplies 32-bit values and sign-extends (R292). -/
  | mulw (i : Issue) (rd rs1 rs2 : Fin 32)
  /-- DIV divides signed, saturating exceptional cases and setting dz or dov (R292). -/
  | div (i : Issue) (rd rs1 rs2 : Fin 32)
  /-- DIVU divides unsigned, saturating division by zero (R292). -/
  | divu (i : Issue) (rd rs1 rs2 : Fin 32)
  /-- REM writes the signed remainder (R292). -/
  | rem (i : Issue) (rd rs1 rs2 : Fin 32)
  /-- REMU writes the unsigned remainder (R292). -/
  | remu (i : Issue) (rd rs1 rs2 : Fin 32)
  /-- AMO SWAP exchanges a memory word indivisibly (R292). `mem` of the three reads of the word failed parity. -/
  | amoSwap (i : Issue) (rd rs1 rs2 : Fin 32) (mem : Fin 4)
  /-- AMO ADD adds to a memory word indivisibly (R292). `mem` of the three reads of the word failed parity. -/
  | amoAdd (i : Issue) (rd rs1 rs2 : Fin 32) (mem : Fin 4)
  /-- AMO AND ands into a memory word (R292). `mem` of the three reads of the word failed parity. -/
  | amoAnd (i : Issue) (rd rs1 rs2 : Fin 32) (mem : Fin 4)
  /-- AMO OR ors into a memory word (R292). `mem` of the three reads of the word failed parity. -/
  | amoOr (i : Issue) (rd rs1 rs2 : Fin 32) (mem : Fin 4)
  /-- AMO MIN keeps the signed minimum (R292). `mem` of the three reads of the word failed parity. -/
  | amoMin (i : Issue) (rd rs1 rs2 : Fin 32) (mem : Fin 4)
  /-- AMO MAX keeps the signed maximum (R292). `mem` of the three reads of the word failed parity. -/
  | amoMax (i : Issue) (rd rs1 rs2 : Fin 32) (mem : Fin 4)
  /-- AMO MINU keeps the unsigned minimum (R292). `mem` of the three reads of the word failed parity. -/
  | amoMinu (i : Issue) (rd rs1 rs2 : Fin 32) (mem : Fin 4)
  /-- AMO MAXU keeps the unsigned maximum (R292). `mem` of the three reads of the word failed parity. -/
  | amoMaxu (i : Issue) (rd rs1 rs2 : Fin 32) (mem : Fin 4)
  /-- AMO CAS compares and swaps a memory word (R292). `mem` of the three reads of the word failed parity. -/
  | amoCas (i : Issue) (rd rs1 rs2 : Fin 32) (mem : Fin 4)
  /-- ADDI adds a sign-extended immediate (R292). -/
  | addi (i : Issue) (rd rs1 : Fin 32) (imm : BitVec 16)
  /-- ANDI ands a zero-extended immediate (R292). -/
  | andi (i : Issue) (rd rs1 : Fin 32) (imm : BitVec 16)
  /-- ORI ors a zero-extended immediate (R292). -/
  | ori (i : Issue) (rd rs1 : Fin 32) (imm : BitVec 16)
  /-- XORI exclusive-ors a zero-extended immediate (R292). -/
  | xori (i : Issue) (rd rs1 : Fin 32) (imm : BitVec 16)
  /-- SLTI compares signed with an immediate (R292). -/
  | slti (i : Issue) (rd rs1 : Fin 32) (imm : BitVec 16)
  /-- SLTIU compares unsigned with an immediate (R292). -/
  | sltiu (i : Issue) (rd rs1 : Fin 32) (imm : BitVec 16)
  /-- SLLI shifts left by an immediate (R292). -/
  | slli (i : Issue) (rd rs1 : Fin 32) (imm : BitVec 16)
  /-- SRLI shifts right logically by an immediate (R292). -/
  | srli (i : Issue) (rd rs1 : Fin 32) (imm : BitVec 16)
  /-- SRAI shifts right arithmetically by an immediate (R292). -/
  | srai (i : Issue) (rd rs1 : Fin 32) (imm : BitVec 16)
  /-- LUI writes sext(imm16) × 2^16 (R292). -/
  | lui (i : Issue) (rd rs1 : Fin 32) (imm : BitVec 16)
  /-- ADDIH adds sext(imm16) × 2^32 (R292). -/
  | addih (i : Issue) (rd rs1 : Fin 32) (imm : BitVec 16)
  /-- LB loads a sign-extended byte (R292). `mem` of the three reads of the word failed parity. -/
  | lb (i : Issue) (rd rs1 : Fin 32) (off : BitVec 16) (mem : Fin 4)
  /-- LH loads a sign-extended halfword (R292). `mem` of the three reads of the word failed parity. -/
  | lh (i : Issue) (rd rs1 : Fin 32) (off : BitVec 16) (mem : Fin 4)
  /-- LW loads a sign-extended word (R292). `mem` of the three reads of the word failed parity. -/
  | lw (i : Issue) (rd rs1 : Fin 32) (off : BitVec 16) (mem : Fin 4)
  /-- LD loads a doubleword, with fault, erasure and parity handling (R292). `mem` of the three reads of the word failed parity. -/
  | ld (i : Issue) (rd rs1 : Fin 32) (off : BitVec 16) (mem : Fin 4)
  /-- LBU loads a zero-extended byte (R292). `mem` of the three reads of the word failed parity. -/
  | lbu (i : Issue) (rd rs1 : Fin 32) (off : BitVec 16) (mem : Fin 4)
  /-- LHU loads a zero-extended halfword (R292). `mem` of the three reads of the word failed parity. -/
  | lhu (i : Issue) (rd rs1 : Fin 32) (off : BitVec 16) (mem : Fin 4)
  /-- LWU loads a zero-extended word (R292). `mem` of the three reads of the word failed parity. -/
  | lwu (i : Issue) (rd rs1 : Fin 32) (off : BitVec 16) (mem : Fin 4)
  /-- SB stores a byte (R292). `mem` of the three attempts at the bank failed parity, for a store to the sample store. -/
  | sb (i : Issue) (rt rs1 : Fin 32) (off : BitVec 16) (mem : Fin 4)
  /-- SH stores a halfword (R292). `mem` of the three attempts at the bank failed parity, for a store to the sample store. -/
  | sh (i : Issue) (rt rs1 : Fin 32) (off : BitVec 16) (mem : Fin 4)
  /-- SW stores a word (R292). `mem` of the three attempts at the bank failed parity, for a store to the sample store. -/
  | sw (i : Issue) (rt rs1 : Fin 32) (off : BitVec 16) (mem : Fin 4)
  /-- SD stores a doubleword, stalling at a full queue port (R292). `mem` of the three attempts at the bank failed parity, for a store to the sample store. -/
  | sd (i : Issue) (rt rs1 : Fin 32) (off : BitVec 16) (mem : Fin 4)
  /-- BEQ branches if equal (R292). `wrong`: the slots of the CPIs accepted on the predicted path, squashed where the prediction fails. -/
  | beq (i : Issue) (rs1 rs2 : Fin 32) (off : BitVec 16) (wrong : List (Fin 3))
  /-- BNE branches if not equal (R292). `wrong`: the slots of the CPIs accepted on the predicted path, squashed where the prediction fails. -/
  | bne (i : Issue) (rs1 rs2 : Fin 32) (off : BitVec 16) (wrong : List (Fin 3))
  /-- BLT branches if less, signed (R292). `wrong`: the slots of the CPIs accepted on the predicted path, squashed where the prediction fails. -/
  | blt (i : Issue) (rs1 rs2 : Fin 32) (off : BitVec 16) (wrong : List (Fin 3))
  /-- BGE branches if greater or equal, signed (R292). `wrong`: the slots of the CPIs accepted on the predicted path, squashed where the prediction fails. -/
  | bge (i : Issue) (rs1 rs2 : Fin 32) (off : BitVec 16) (wrong : List (Fin 3))
  /-- BLTU branches if less, unsigned (R292). `wrong`: the slots of the CPIs accepted on the predicted path, squashed where the prediction fails. -/
  | bltu (i : Issue) (rs1 rs2 : Fin 32) (off : BitVec 16) (wrong : List (Fin 3))
  /-- BGEU branches if greater or equal, unsigned (R292). `wrong`: the slots of the CPIs accepted on the predicted path, squashed where the prediction fails. -/
  | bgeu (i : Issue) (rs1 rs2 : Fin 32) (off : BitVec 16) (wrong : List (Fin 3))
  /-- JAL links and jumps pc-relative (R292). -/
  | jal (i : Issue) (rd r2 : Fin 32) (off : BitVec 16)
  /-- JALR jumps to a register target and links (R292). -/
  | jalr (i : Issue) (rd rs1 : Fin 32) (off : BitVec 16)
  /-- CSRR reads a CSR at an allowed level (R293). -/
  | csrr (i : Issue) (rd rs1 : Fin 32) (imm : BitVec 12)
  /-- CSRW swaps a CSR with a register (R293). -/
  | csrw (i : Issue) (rd rs1 : Fin 32) (imm : BitVec 12)
  /-- CSRS sets CSR bits (R293). -/
  | csrs (i : Issue) (rd rs1 : Fin 32) (imm : BitVec 12)
  /-- CSRC clears CSR bits (R293). -/
  | csrc (i : Issue) (rd rs1 : Fin 32) (imm : BitVec 12)
  /-- ECALL raises ECALL_T, ECALL_S or ECALL_M (R295). -/
  | ecall (i : Issue) (rd rs1 : Fin 32) (imm : BitVec 12)
  /-- ERET returns from a trap to the saved level and pc (R296). -/
  | eret (i : Issue) (rd rs1 : Fin 32) (imm : BitVec 12)
  /-- FENCE waits until earlier loads return and writes arrive (R290). -/
  | fence (i : Issue) (rd rs1 : Fin 32) (imm : BitVec 12)
  /-- WFE waits until an interrupt is eligible (R292). -/
  | wfe (i : Issue) (rd rs1 : Fin 32) (imm : BitVec 12)
  /-- A waiting WFE or TNEXT wakes for an eligible interrupt (R297). -/
  | wfeWake (g : Fin 193)
  /-- TNEXT loads the task from the prefetch slot, or waits in WAIT while it is empty (R299). -/
  | tnext (i : Issue) (rd rs1 : Fin 32) (imm : BitVec 12)
  /-- A waiting TNEXT finds the slot filled and loads the task (R299). -/
  | tnextWake (g : Fin 192)
  /-- TRUN enters the loaded task at T (R299). -/
  | trun (i : Issue) (rd rs1 : Fin 32) (imm : BitVec 12)
  /-- TEND reports completion with status, waits for coprocessor commands and returns to S (R300). -/
  | tend (i : Issue) (rd rs1 : Fin 32) (imm : BitVec 12)
  /-- TCHK reads the task's cancel bit (R292). -/
  | tchk (i : Issue) (rd rs1 : Fin 32) (imm : BitVec 12)
  /-- EBREAK raises the EBREAK exception (R292). -/
  | ebreak (i : Issue) (rd rs1 : Fin 32) (imm : BitVec 12)
  /-- FENCE.I makes later fetches see earlier instruction-memory stores (R292). -/
  | fenceI (i : Issue) (rd rs1 : Fin 32) (imm : BitVec 12)
  /-- A store stalled at a full queue port is accepted and the engine resumes (R290). -/
  | qstallRelease (g : Fin 193)
  /-- A write of ALARM_LO arms the engine's air-count alarm (R297). -/
  | alarmArm (g : Fin 193) (v : Word)
  /-- The air count reaches ALARM and IPEND.alarm sets (R297). -/
  | alarmExpire (g : Fin 193)
  /-- A pending ALARM is taken at S at an instruction boundary (R297). -/
  | alarmInterrupt (g : Fin 193)
  /-- A pending MAINT is taken at S or M (R297). -/
  | maintInterrupt (g : Fin 193)
  /-- A task reaching TK_LIM cycles raises TASK_LIMIT (R301). -/
  | taskLimit (g : Fin 192)
  /-- POD_ECTL.run = 1 starts the engine at POD_EBOOT at M (R287). -/
  | engineRun (g : Fin 192)
  /-- POD_ECTL.run = 0 resets the engine, abandoning commands and losing its task (R352). -/
  | engineReset (g : Fin 192)
  /-- POD_ECTL.halt halts the engine at the next boundary after QSTALL (R287). -/
  | engineHalt (g : Fin 192)
  /-- POD_ECTL.maint sets IPEND.maint (R297). -/
  | maintRequest (g : Fin 192)
  /-- A Laruri write to engine instruction memory is accepted, or discarded while the engine runs (R287). Doubleword `k` of the instruction memory. -/
  | engineImemWrite (g : Fin 192) (k : Fin 8192) (v : BitVec 64)
  /-- VADD adds elements (R313). -/
  | vadd (i : Issue) (f : VecFields)
  /-- VSUB subtracts elements (R313). -/
  | vsub (i : Issue) (f : VecFields)
  /-- VMUL multiplies elements (R313). -/
  | vmul (i : Issue) (f : VecFields)
  /-- VMULH writes high product halves (R313). -/
  | vmulh (i : Issue) (f : VecFields)
  /-- VMAC accumulates products (R313). -/
  | vmac (i : Issue) (f : VecFields)
  /-- VMSC subtracts products from the accumulator (R313). -/
  | vmsc (i : Issue) (f : VecFields)
  /-- VMACW accumulates exact products into widened elements (R313). -/
  | vmacw (i : Issue) (f : VecFields)
  /-- VCMACW accumulates conjugate products widened (R313). -/
  | vcmacw (i : Issue) (f : VecFields)
  /-- VMIN writes element minima (R313). -/
  | vmin (i : Issue) (f : VecFields)
  /-- VMAX writes element maxima (R313). -/
  | vmax (i : Issue) (f : VecFields)
  /-- VABS writes absolute values (R313). -/
  | vabs (i : Issue) (f : VecFields)
  /-- VNEG negates elements (R313). -/
  | vneg (i : Issue) (f : VecFields)
  /-- VAND ands elements (R313). -/
  | vand (i : Issue) (f : VecFields)
  /-- VOR ors elements (R313). -/
  | vor (i : Issue) (f : VecFields)
  /-- VXOR exclusive-ors elements (R313). -/
  | vxor (i : Issue) (f : VecFields)
  /-- VANDN writes vs1 AND NOT vs2 (R313). -/
  | vandn (i : Issue) (f : VecFields)
  /-- VSLL shifts elements left (R313). -/
  | vsll (i : Issue) (f : VecFields)
  /-- VSRL shifts elements right logically (R313). -/
  | vsrl (i : Issue) (f : VecFields)
  /-- VSRA shifts elements right arithmetically (R313). -/
  | vsra (i : Issue) (f : VecFields)
  /-- VNRSR narrows with rounding shift and saturation (R313). -/
  | vnrsr (i : Issue) (f : VecFields)
  /-- VADDS adds with saturation (R313). -/
  | vadds (i : Issue) (f : VecFields)
  /-- VSUBS subtracts with saturation (R313). -/
  | vsubs (i : Issue) (f : VecFields)
  /-- VCONJ conjugates complex elements (R313). -/
  | vconj (i : Issue) (f : VecFields)
  /-- VCJMUL multiplies by the conjugate, scaled (R313). -/
  | vcjmul (i : Issue) (f : VecFields)
  /-- VCVT converts between element types (R313). -/
  | vcvt (i : Issue) (f : VecFields)
  /-- VRECIP approximates reciprocals (R313). -/
  | vrecip (i : Issue) (f : VecFields)
  /-- VRSQRT approximates reciprocal square roots (R313). -/
  | vrsqrt (i : Issue) (f : VecFields)
  /-- VMAG2 writes squared magnitudes (R313). -/
  | vmag2 (i : Issue) (f : VecFields)
  /-- VCMPEQ writes a predicate of equality (R313). -/
  | vcmpeq (i : Issue) (f : VecFields)
  /-- VCMPNE writes a predicate of inequality (R313). -/
  | vcmpne (i : Issue) (f : VecFields)
  /-- VCMPLT writes a predicate of less-than (R313). -/
  | vcmplt (i : Issue) (f : VecFields)
  /-- VCMPLE writes a predicate of less-or-equal (R313). -/
  | vcmple (i : Issue) (f : VecFields)
  /-- VLD loads contiguous elements, checked whole before access (R317). `bad`: the lowest element whose word still fails parity after its replays. -/
  | vld (i : Issue) (f : VecFields) (bad : Option (Fin 1024))
  /-- VST stores contiguous elements after all checks pass (R316). -/
  | vst (i : Issue) (f : VecFields)
  /-- VLDS loads strided elements (R317). `bad`: the lowest element whose word still fails parity after its replays. -/
  | vlds (i : Issue) (f : VecFields) (bad : Option (Fin 1024))
  /-- VSTS stores strided elements (R316). -/
  | vsts (i : Issue) (f : VecFields)
  /-- VGATHER loads elements at vector offsets (R317). `bad`: the lowest element whose word still fails parity after its replays. -/
  | vgather (i : Issue) (f : VecFields) (bad : Option (Fin 1024))
  /-- VSCATTER stores elements at vector offsets (R316). -/
  | vscatter (i : Issue) (f : VecFields)
  /-- VPLD loads a predicate register (R313). `bad`: the lowest element whose word still fails parity after its replays. -/
  | vpld (i : Issue) (f : VecFields) (bad : Option (Fin 1024))
  /-- VPST stores a predicate register (R313). -/
  | vpst (i : Issue) (f : VecFields)
  /-- PRANGE builds a tail predicate (R311). -/
  | prange (i : Issue) (f : VecFields)
  /-- PAND ands predicates (R313). -/
  | pand (i : Issue) (f : VecFields)
  /-- POR ors predicates (R313). -/
  | por (i : Issue) (f : VecFields)
  /-- PXOR exclusive-ors predicates (R313). -/
  | pxor (i : Issue) (f : VecFields)
  /-- PANDN writes ps1 AND NOT ps2 (R313). -/
  | pandn (i : Issue) (f : VecFields)
  /-- PNOT inverts a predicate (R313). -/
  | pnot (i : Issue) (f : VecFields)
  /-- PCNT counts active elements (R313). -/
  | pcnt (i : Issue) (f : VecFields)
  /-- PFIRST finds the first active element (R313). -/
  | pfirst (i : Issue) (f : VecFields)
  /-- VREDADD sums active elements into a scalar (R313). -/
  | vredadd (i : Issue) (f : VecFields)
  /-- VREDMAX finds the greatest active element (R313). -/
  | vredmax (i : Issue) (f : VecFields)
  /-- VMOVS moves one element to a scalar (R313). -/
  | vmovs (i : Issue) (f : VecFields)
  /-- VINS inserts a scalar into one element (R313). -/
  | vins (i : Issue) (f : VecFields)
  /-- VPERM permutes elements by index (R313). -/
  | vperm (i : Issue) (f : VecFields)
  /-- VSLIDE slides elements by a signed amount (R313). -/
  | vslide (i : Issue) (f : VecFields)
  /-- VSEL selects elements by predicate (R313). -/
  | vsel (i : Issue) (f : VecFields)
  /-- VSPLAT broadcasts a scalar (R313). -/
  | vsplat (i : Issue) (f : VecFields)
  /-- VBITS returns the vector width (R307). -/
  | vbits (i : Issue) (f : VecFields)
  /-- VCNT returns elements per register for a type (R307). -/
  | vcnt (i : Issue) (f : VecFields)
  /-- CPI checks a coprocessor descriptor, takes a tag and issues the command, or raises a coprocessor exception (R328). `desc` of the three reads of the descriptor failed parity. -/
  | cpi (i : Issue) (f : CopFields) (desc : Fin 4)
  /-- CPR waits for a keep command's result and frees its tag (R326). -/
  | cpr (i : Issue) (f : CopFields)
  /-- CPSYNC waits until every accepted command of the slot has completed and arrived (R324). -/
  | cpsync (i : Issue) (f : CopFields)
  /-- When a CPI retires, CONFIRM releases the command's buffered writes and result (R329). -/
  | copConfirm (g : Fin 192)
  /-- Within 64 cycles of a squash the unit drains and the tag returns to the free list (R330). -/
  | squashDrainDone (g : Fin 192) (slot : Fin 3) (tag : Fin 16)
  /-- MXU CHOL computes a Cholesky factor or reports NOT_PD (R333). `fails` of three reads of a word failed parity. -/
  | chol (g : Fin 192) (st : Unit) (col : Unit) (fails : Fin 4)
  /-- MXU TRSM solves a triangular system (R333). `fails` of three reads of a word failed parity. -/
  | trsm (g : Fin 192) (st : Unit) (col : Unit) (fails : Fin 4)
  /-- MXU GEMM computes a matrix product (R333). `fails` of three reads of a word failed parity. -/
  | gemm (g : Fin 192) (st : Unit) (col : Unit) (fails : Fin 4)
  /-- MXU GRAM computes a Gram matrix with diagonal loading (R333). `fails` of three reads of a word failed parity. -/
  | gram (g : Fin 192) (st : Unit) (col : Unit) (fails : Fin 4)
  /-- BXU CRC computes a 3GPP CRC of a bit string (R334). `fails` of three reads of a word failed parity. -/
  | crc (g : Fin 192) (fails : Fin 4)
  /-- BXU GOLD scrambles or generates a Gold sequence (R334). `fails` of three reads of a word failed parity. -/
  | gold (g : Fin 192) (fails : Fin 4)
  /-- BXU ILV interleaves or de-interleaves a bit string (R334). `fails` of three reads of a word failed parity. -/
  | ilv (g : Fin 192) (fails : Fin 4)
  /-- The shared SXU takes the next slot-2 command in round robin (R336). -/
  | sxuCommandStart (pod : Fin 24)
  /-- SXU TOPK selects the k largest keys (R335). `fails` of three reads of a word failed parity. -/
  | topk (g : Fin 192) (fails : Fin 4)
  /-- SXU PFTOPK selects the k largest proportional-fair metrics (R335). `fails` of three reads of a word failed parity. -/
  | pftopk (g : Fin 192) (fails : Fin 4)
  /-- A coprocessor command ends with its result word and status, freeing a keep = 0 tag (R332). -/
  | copCommandComplete (g : Fin 192) (slot : Fin 3)
  /-- The scheduler accepts an event for a descriptor, counting it and forming an activation if enough have arrived (R340). `perr`: the descriptor reads PERR; `lost`: a ready-list entry, by place, that reads PERR. -/
  | eventAccept (cls : Fin 8) (perr : Bool) (lost : Option (Fin 16384))
  /-- A write of EV_HI posts an event from an engine or Laruri port (R344). A write of EV_HI. -/
  | eventPost (g : Fin 193) (v : Word)
  /-- A write of TE_T_HI enters an event or periodic release into the delay list (R345). A write of TE_T_HI. -/
  | timedEventEnter (g : Fin 193) (v : Word)
  /-- At its tick boundary a delay entry is posted as an event and a periodic entry re-entered (R345). -/
  | delayRelease
  /-- A write of CAN_HI cancels a matching activation by its state, or counts as stale (R353). A write of CAN_HI. -/
  | taskCancel (g : Fin 193) (v : Word)
  /-- Each cycle the scheduler fills up to four empty prefetch slots from the ready lists (R349). `perr`: the first descriptor read reads PERR; `lost`: a ready-list entry, by place, that reads PERR. -/
  | slotFill (perr : Bool) (lost : Option (Fin 16384))
  /-- At a tick boundary a ddrop activation past its deadline is removed with DEADLINE_DROPPED (R350). -/
  | deadlineDrop
  /-- A Laruri write to a task descriptor through the window is applied, refused, or clears en as a cancel (R339). -/
  | descriptorWindowWrite (d : BitVec 16) (k : Fin 8) (v : Word)
  /-- A write of TSK_CLS.rsv sets a class reserve or is refused with rsv_bad (R348). -/
  | reserveWrite (c : Fin 8) (v : Word)
  /-- TSK_CTL.hist_clr zeroes every waiting-time histogram (R356). -/
  | histClear
  /-- TSK_CTL.pk_clr sets every peak to its current value (R356). -/
  | tskPeakClear
  /-- At each frame end TSK_LOAD takes each engine's busy fraction (R356). -/
  | loadUpdate
  /-- A fault, ageing, roll or recover trigger starts a re-placement with planning and preparation (R369). -/
  | replaceStart
  /-- Preparation ends and the next frame boundary begins the shadow frame or the fault switch (R370). -/
  | preparationComplete
  /-- At the switch frame the PLC applies crossbar, set, mask, pmask and ring changes in order (R371). `perr`: a word of the reference copy that failed parity, its offset, and whether in both copies. -/
  | plcSwitch (perr : Option (BitVec 24 × Bool))
  /-- One frame after the switch the old units are released as spares (R370). -/
  | oldUnitsRelease
  /-- A faulted unit reloaded and self-tested becomes a spare or is retired (R366). `kind` as Table 16-8; `pass`: the self-test's outcome; `perr` as for PLC_SWITCH. -/
  | unitSelfTest (kind : Fin 4) (index : Fin 64) (pass : Bool) (perr : Option (BitVec 24 × Bool))
  /-- At each frame end a cell meeting the outage condition counts an outage frame (R377). -/
  | outageFrame
  /-- Reset by power-on, RESET_N, command, auto, environment or trial restart is released, straps sampled and the cause recorded (R380). `straps`: STRAP_MGT, STRAP_FCLK, STRAP_BANK, from bit 0. -/
  | sysReset (straps : BitVec 4)
  /-- ROM checks lockstep and memory and reads both calibration copies, or ends in HOLD (R400). `mismatch`: the lockstep check fails; the two factory calibration copies as read. -/
  | romPhase (mismatch : Bool) (copy0 copy1 : List Byte)
  /-- The flash is started, SFDP read and the fastest mode chosen, or HOLD with cause FLASH (R385). Valid SFDP, the size in MB, and an 8D-8D-8D read offered. -/
  | flashPhase (sfdp : Bool) (mb : BitVec 16) (octal : Bool)
  /-- A bank is chosen, the image copied and checked, and the trial record consumed (R390). -/
  | selectPhase
  /-- Laruri firmware sets SYS_BOOT_CTL.fw_ready, ending LOAD (R382). -/
  | fwReady
  /-- fw_ready not set within 1 s of LOAD is failure cause LARURI_FW (R402). -/
  | loadTimeout
  /-- APPLY sets power, calibration, preload, time plan, sense sequences and policy (R382). `pmb`: transactions that failed three times (regulator, PMBus command); `readings`: the ageing monitors; `codes`: sixteen conversions of SNS_00. -/
  | applyPhase (pmb : List (Fin 8 × BitVec 8)) (readings : List MonReading) (codes : List (BitVec 14))
  /-- Each lock_to seconds in TIME the device logs SYS_TIME_WAIT (R383). -/
  | sysTimeWait
  /-- LANES writes the link plan and ends when every lane is UP (R383). -/
  | lanesPhase
  /-- lane_to expires with lanes not UP; the sequence continues and the number is logged (R383). -/
  | sysLanesPartial
  /-- The planner tests admission, writes steering tables and builds the reference copy, or refuses the plan (R361). `perr` as for PLC_SWITCH. -/
  | placePhase (layout : PlcLayout) (perr : Option (BitVec 24 × Bool))
  /-- Engine firmware is loaded, verified and started, and boot completes (R398). `bad`: pods whose read-back fails, and how often. -/
  | enginesPhase (bad : List (Fin 24 × Fin 3))
  /-- Air time is armed for the second frame boundary after the arm (R382). -/
  | startPhase
  /-- A Laruri lockstep mismatch halts both cores (R406). -/
  | lockstepMismatch
  /-- A write of MGT_WDOG feeds the watchdog (R406). -/
  | watchdogFeed (v : Word)
  /-- The watchdog expires after 1 s and restarts the device with cause auto (R406). -/
  | mgtWdogExp
  /-- A Laruri memory word failing three reads restarts the device (R407). -/
  | mgtLmemPerr (addr : Fin 0x200000)
  /-- PRES_N low for 50 samples sets the cinch timer to 1,800 s and opens the cinch (R408). -/
  | press
  /-- PRES_N low for more than 10 s sets pres_stuck (R408). -/
  | mgtPresStuck
  /-- KEY_N going low holds the cinch timer at 1,800 s (R408). -/
  | keyAssert
  /-- KEY_N going high lets the cinch timer run down (R408). -/
  | keyRelease
  /-- The cinch timer reaches zero and the cinch closes (R408). -/
  | cinchExpire
  /-- The seal loop found open for 10 samples sets opened and logs (R411). -/
  | mgtSealOpen
  /-- A management message is checked, answered from the kept copy, served, or queued (R413). The message from its header on. -/
  | messageReceive (via : MgtVia) (msg : List Byte)
  /-- DISCOVER returns serial, part, bank, phase and image seq (R414). -/
  | discover
  /-- READ returns words from control blocks, Laruri memory or the store (R415). -/
  | read
  /-- TELEMETRY returns the telemetry record from one instant (R417). -/
  | telemetry
  /-- LOG_READ returns log entries, newest first (R414). -/
  | logRead
  /-- NOTES_READ returns bytes of a notes section (R414). -/
  | notesRead
  /-- SUBSCRIBE sets or renews a subscription, or ends BUSY (R418). -/
  | subscribe
  /-- CINCH_CLOSE closes the cinch unless KEY_N is low (R408). -/
  | cinchClose
  /-- STAGE_BEGIN starts staging into the inactive bank, or is refused (R424). `err`: a flash program or erase error. -/
  | stageBegin (err : Bool)
  /-- STAGE_DATA writes the next bytes, erasing sectors as reached (R424). `err` as for STAGE_BEGIN. -/
  | stageData (err : Bool)
  /-- STAGE_END checks the staged image and writes STAGED (R424). `err` as for STAGE_BEGIN. -/
  | stageEnd (err : Bool)
  /-- STAGE_ABORT abandons staging (R424). -/
  | stageAbort
  /-- ACTIVATE commits notes, starts a roll, or schedules a trial restart (R425). `err` as for STAGE_BEGIN. -/
  | activate (err : Bool)
  /-- RESTART schedules a restart 100 ms after the response (R414). -/
  | restart
  /-- 100 ms after a RESTART or restart-kind ACTIVATE response the device restarts with cause cmd (R425). -/
  | delayedRestart
  /-- WRITE performs a masked write to an allowed control register (R415). -/
  | write
  /-- LOG_CLEAR erases the ring, and with all the pinned area (R422). -/
  | logClear
  /-- DEBUG_UNLOCK opens private test instructions and engine run and halt writes (R416). -/
  | debugUnlock
  /-- SEAL_CLEAR clears opened while the loop is closed (R411). -/
  | sealClear
  /-- ATT_CLEAR clears the SYS_BOOT_ATT failed marks (R392). -/
  | attClear
  /-- A subscription period elapses and a telemetry record is sent (R418). -/
  | subscriptionPeriod (k : Fin 4)
  /-- A subscription lapses 300 s after its last SUBSCRIBE (R418). -/
  | subscriptionLapse (k : Fin 4)
  /-- A raised event is written to the on-chip log and sent to subscribers (R420). -/
  | logEntry
  /-- Waiting log entries are copied to the flash ring and pinned area (R420). `err`: a program (false) or erase (true) error at the head sector of the ring. -/
  | logFlush (err : Option Bool)
  /-- 100 frames after the previous switch the next pod's ROLL re-placement starts (R426). -/
  | rollStep
  /-- A trial meeting its 600 s criteria is committed (R427). -/
  | mgtCommit
  /-- After 60 s within limits the device restarts with cause env (R429). -/
  | mgtEnvClear
  /-- A write of SNS_CTL.en = 1 starts a stopped sequencer at entry 0 (R435). The word written to SNS_CTL. -/
  | sequencerEnable (v : Word)
  /-- A write of SNS_CTL.en = 0 stops the sequencer at the end of its entry (R435). The word written to SNS_CTL. -/
  | sequencerStop (v : Word)
  /-- After its delay and settling, a sequencer entry starts its conversions (R436). -/
  | sequencerEntry
  /-- A result is corrected, checked against limits, and written to its ring (R440). The raw codes: one, or every code of an averaged entry. -/
  | senseResult (codes : List (BitVec 14))
  /-- A write of SNS_MAN requests a manual conversion (R437). -/
  | manualConversionRequest (v : Word)
  /-- A manual conversion runs at the first free clock and writes SNS_MAN_RES (R437). The raw codes of its conversions. -/
  | manualConversionRun (codes : List (BitVec 14))
  /-- A write of AGE_CTL.meas starts an ageing measurement (R445). -/
  | ageMeasRequest
  /-- 86,400 s after the last measurement a new one starts (R445). -/
  | ageMeasureTimer
  /-- A measurement completes and sets voltage offset, pod clocks and life estimate (R445). What each monitor gives. -/
  | ageMeasure (readings : List MonReading)
  /-- Each ms VDD_CORE is raised by 5 mV toward its new setpoint (R446). `pmb`: transactions that failed three times (regulator, PMBus command). -/
  | ageVstep (pmb : List (Fin 8 × BitVec 8))
  /-- PMB_ALERT_N low makes the device read every regulator's status (R453). The STATUS_WORD of regulators 0–7; none where the read and its two retries failed. -/
  | pwrAlert (status : List (Option (BitVec 16)))
  /-- A write of PWR_REQ switches domains on, or off unless refused (R455). The word written to PWR_REQ_HI or PWR_REQ_LO. -/
  | domainRequest (hi : Bool) (v : Word)
  /-- A power domain finishes switching and is logged (R454). -/
  | pwrDom (d : Fin 48)
  /-- One tick after its last lane is disabled or in DEEP, an auto lane group switches off (R456). -/
  | laneGroupAutoOff (g : Fin 16)
  /-- A system PLL loss of lock holds reset until relock, then restarts with cause auto (R458). -/
  | sysPllUnlock
  /-- SYSREF absent or off frequency enters ENVIRONMENT STOP, cause 5 (R457). The deviation in 0.01 %, signed; −10,000 when SYSREF is absent. -/
  | sysSysrefBad (dev : BitVec 16)
  /-- At the air-count target of a TDD command the link's TDD state changes, which sets the direction of later symbols and what the uplink and downlink positions carry (R217). -/
  | tddCommandTarget (n : Fin 1024)
  /-- With tdd_frz_en = 1, the echo, NEXT and feed-forward coefficients stop adapting 1 tick before the air time of each TDD command the lane sends (R96). -/
  | coefficientFreezeStart (n : Fin 1024)
  /-- 4 ticks after a TDD command's air time the freeze window ends and the coefficients adapt again, with overlapping windows merged (R96). -/
  | coefficientFreezeEnd (n : Fin 1024)
  /-- The switch residual slewed toward zero reaches zero, and TDOM_SW_STAT.slewing and the slew frequency clear (R60). -/
  | residualSlewDone
  /-- After the device has run for one hour in RUN, SYS_BOOT_ATT.n_auto clears (R404). -/
  | restartCountClear
  /-- The seal loop between SEAL_A and SEAL_B is found closed again: loop_open clears, and SEAL_CLEAR becomes possible (R411). -/
  | sealLoopClose
  /-- RESET_N held low for 1 µs, or the supplies removed, puts the device into reset, which resets every state and clears the always-on region (R380). `power`: the supplies were removed; otherwise RESET_N is low. -/
  | resetAssert (power : Bool)
deriving DecidableEq, Repr

end Sys2Proof
end

