-- ==== Sys2Proof/WellFormed.lean ====
section
/-!
DEFINITION. Which commands are well formed. The operands' types bound most of them; what is checked here is the length of the lists that the spec gives
a length: the factory calibration copies (R400), the readings of the 384 ageing monitors (R445), the sixteen conversions of SNS_00 (R396), an
averaged entry's codes (R435), the eight regulators (Table 20-3) and a management message (R413).
-/

namespace Sys2Proof

/-- The command is one that a party outside the block, or the block's own engines, can send. -/
def WellFormed : Instr → Bool
  | .registerWrite _ _ => true
  | .lowHalfRead _ => true
  | .bridgeTransfer _ _ _ => true
  | .timeLock => true
  | .catchUpComplete => true
  | .airStartArm => true
  | .airStartWithdraw => true
  | .airRun => true
  | .airFallbackEnter _ => true
  | .airUnqualified => true
  | .mainPathFailUnlocked _ => true
  | .trgArm _ _ => true
  | .trgOutputFire _ => true
  | .trgPulseEnd _ => true
  | .trgCapture _ _ => true
  | .trgCapPop _ => true
  | .tqbSnapshot _ => true
  | .tqbWordRead _ _ => true
  | .airCntRead => true
  | .frcRestart => true
  | .tdomRead _ => true
  | .servoUpdate _ _ => true
  | .tdomTimeout _ => true
  | .rateWrite _ _ => true
  | .phaseAdjust _ _ => true
  | .tdomLoad _ => true
  | .tdomSwitch _ _ => true
  | .wtrExpire => true
  | .td3Reanchor => true
  | .td3RateRecord => true
  | .tdomHoldLimit => true
  | .holdoverCellsReturn => true
  | .tdomRefLoss _ => true
  | .pllRevert => true
  | .pllHoldExit _ => true
  | .ppsCapture _ => true
  | .todMessage _ _ => true
  | .clockIncWrite _ _ _ => true
  | .clockLoad _ _ => true
  | .fbcDiffMeasure => true
  | .ethLinkUp _ => true
  | .ethLinkDown _ _ => true
  | .ethFrameReceive _ _ _ _ _ => true
  | .ethPauseReceive _ _ _ => true
  | .txqDoorbell _ _ => true
  | .ethFrameSend _ _ => true
  | .ethFrameLaunch _ _ => true
  | .lineCfgWrite _ _ => true
  | .coldTrainingRequest _ => true
  | .warmRetrainRequest _ => true
  | .lnkRefBad _ _ => true
  | .signalDetect _ => true
  | .searcherGrant _ => true
  | .searcherResult _ _ _ => true
  | .syncAcquired _ _ => true
  | .lnkAcqTimeout _ => true
  | .trainingBlockReceive _ _ _ => true
  | .p2Start _ => true
  | .p3Start _ _ _ _ => true
  | .trainingTimeout _ => true
  | .lnkLol _ => true
  | .codewordDecode _ _ _ _ => true
  | .qualityInterval _ _ _ _ _ => true
  | .linkFrameReceive _ _ _ => true
  | .lnkLinkUp _ => true
  | .linkCfgWrite _ _ _ => true
  | .linkFrameSend _ _ => true
  | .commandQueue _ _ => true
  | .commandExpire _ => true
  | .tddAutoQueue _ => true
  | .steerUpdate _ => true
  | .steerHold _ => true
  | .dozeEntry _ => true
  | .dozeExit _ => true
  | .deepEntry _ => true
  | .deepExitStart _ => true
  | .lnkWakeFail _ => true
  | .testLoopWrite _ _ => true
  | .genEnWrite _ _ => true
  | .chkEnWrite _ _ => true
  | .injEnWrite _ _ => true
  | .injOne _ => true
  | .testClr _ => true
  | .testApply _ => true
  | .feLoopTarget _ => true
  | .injection _ => true
  | .lnkChkSync _ => true
  | .lnkChkLoss _ => true
  | .storeRead _ _ _ _ _ _ => true
  | .storeWrite _ _ _ _ _ => true
  | .stoRegenDone _ _ => true
  | .create _ => true
  | .destroy _ => true
  | .zeroCounts _ => true
  | .quotaWrite _ _ => true
  | .ringWrite _ _ _ => true
  | .stalledWriteResume _ => true
  | .rpAdv _ _ _ => true
  | .mark _ _ => true
  | .unmark _ _ => true
  | .rewind _ _ => true
  | .scrubRequest _ => true
  | .scrubSlot _ _ => true
  | .scrubForced _ _ => true
  | .stoPeakClear => true
  | .xfClear => true
  | .fifoWrite _ _ _ _ => true
  | .fifoRead _ _ _ _ => true
  | .descriptorPost _ _ => true
  | .descriptorStart _ => true
  | .timedStart _ _ => true
  | .burstStart _ => true
  | .halfEvent _ => true
  | .descriptorComplete _ => true
  | .linkedFetch _ _ => true
  | .channelStop _ => true
  | .channelClear _ => true
  | .fexXbSwitch _ => true
  | .slotDescriptorWrite _ _ _ _ => true
  | .ulSymbol _ _ _ _ => true
  | .ulSymbolEvent _ => true
  | .dlSymbol _ _ _ _ => true
  | .maskCheck _ _ _ => true
  | .fexCommandPost _ _ => true
  | .fexNop _ => true
  | .loadDpd _ => true
  | .dpdBankSwap _ _ => true
  | .obs _ _ _ _ => true
  | .capture _ => true
  | .inject _ => true
  | .prachOccasion _ _ _ _ _ => true
  | .prachProfileReceive _ _ => true
  | .qualityRecord _ _ _ _ _ _ => true
  | .harnessConfigWrite _ _ => true
  | .scaJobPost _ _ => true
  | .scaJobStart _ _ => true
  | .uplinkCombine _ _ _ _ => true
  | .downlinkPrecode _ _ _ _ => true
  | .calSwap _ => true
  | .scaJobComplete _ => true
  | .scaShort _ => true
  | .harnessStop _ => true
  | .harnessClear _ => true
  | .codJobPost _ _ => true
  | .codDispatch _ _ => true
  | .codNop _ => true
  | .demap _ _ => true
  | .codShort _ => true
  | .decodeLdpc _ _ _ _ _ => true
  | .decodeTurbo _ _ _ _ _ => true
  | .decodePolar _ _ _ => true
  | .encodeLdpc _ _ => true
  | .encodeTurbo _ _ => true
  | .encodePolar _ _ => true
  | .encodeTbcc _ _ => true
  | .map _ _ => true
  | .harqRel _ => true
  | .codeBlockComplete _ _ => true
  | .codJobComplete _ => true
  | .harqClear => true
  | .add _ _ _ _ => true
  | .sub _ _ _ _ => true
  | .and _ _ _ _ => true
  | .or _ _ _ _ => true
  | .xor _ _ _ _ => true
  | .sll _ _ _ _ => true
  | .srl _ _ _ _ => true
  | .sra _ _ _ _ => true
  | .slt _ _ _ _ => true
  | .sltu _ _ _ _ => true
  | .min _ _ _ _ => true
  | .max _ _ _ _ => true
  | .minu _ _ _ _ => true
  | .maxu _ _ _ _ => true
  | .clz _ _ _ _ => true
  | .ctz _ _ _ _ => true
  | .popc _ _ _ _ => true
  | .addw _ _ _ _ => true
  | .subw _ _ _ _ => true
  | .sllw _ _ _ _ => true
  | .srlw _ _ _ _ => true
  | .sraw _ _ _ _ => true
  | .adds _ _ _ _ => true
  | .subs _ _ _ _ => true
  | .andn _ _ _ _ => true
  | .orn _ _ _ _ => true
  | .mul _ _ _ _ => true
  | .mulh _ _ _ _ => true
  | .mulhu _ _ _ _ => true
  | .mulhsu _ _ _ _ => true
  | .mulw _ _ _ _ => true
  | .div _ _ _ _ => true
  | .divu _ _ _ _ => true
  | .rem _ _ _ _ => true
  | .remu _ _ _ _ => true
  | .amoSwap _ _ _ _ _ => true
  | .amoAdd _ _ _ _ _ => true
  | .amoAnd _ _ _ _ _ => true
  | .amoOr _ _ _ _ _ => true
  | .amoMin _ _ _ _ _ => true
  | .amoMax _ _ _ _ _ => true
  | .amoMinu _ _ _ _ _ => true
  | .amoMaxu _ _ _ _ _ => true
  | .amoCas _ _ _ _ _ => true
  | .addi _ _ _ _ => true
  | .andi _ _ _ _ => true
  | .ori _ _ _ _ => true
  | .xori _ _ _ _ => true
  | .slti _ _ _ _ => true
  | .sltiu _ _ _ _ => true
  | .slli _ _ _ _ => true
  | .srli _ _ _ _ => true
  | .srai _ _ _ _ => true
  | .lui _ _ _ _ => true
  | .addih _ _ _ _ => true
  | .lb _ _ _ _ _ => true
  | .lh _ _ _ _ _ => true
  | .lw _ _ _ _ _ => true
  | .ld _ _ _ _ _ => true
  | .lbu _ _ _ _ _ => true
  | .lhu _ _ _ _ _ => true
  | .lwu _ _ _ _ _ => true
  | .sb _ _ _ _ _ => true
  | .sh _ _ _ _ _ => true
  | .sw _ _ _ _ _ => true
  | .sd _ _ _ _ _ => true
  | .beq _ _ _ _ _ => true
  | .bne _ _ _ _ _ => true
  | .blt _ _ _ _ _ => true
  | .bge _ _ _ _ _ => true
  | .bltu _ _ _ _ _ => true
  | .bgeu _ _ _ _ _ => true
  | .jal _ _ _ _ => true
  | .jalr _ _ _ _ => true
  | .csrr _ _ _ _ => true
  | .csrw _ _ _ _ => true
  | .csrs _ _ _ _ => true
  | .csrc _ _ _ _ => true
  | .ecall _ _ _ _ => true
  | .eret _ _ _ _ => true
  | .fence _ _ _ _ => true
  | .wfe _ _ _ _ => true
  | .wfeWake _ => true
  | .tnext _ _ _ _ => true
  | .tnextWake _ => true
  | .trun _ _ _ _ => true
  | .tend _ _ _ _ => true
  | .tchk _ _ _ _ => true
  | .ebreak _ _ _ _ => true
  | .fenceI _ _ _ _ => true
  | .qstallRelease _ => true
  | .alarmArm _ _ => true
  | .alarmExpire _ => true
  | .alarmInterrupt _ => true
  | .maintInterrupt _ => true
  | .taskLimit _ => true
  | .engineRun _ => true
  | .engineReset _ => true
  | .engineHalt _ => true
  | .maintRequest _ => true
  | .engineImemWrite _ _ _ => true
  | .vadd _ _ => true
  | .vsub _ _ => true
  | .vmul _ _ => true
  | .vmulh _ _ => true
  | .vmac _ _ => true
  | .vmsc _ _ => true
  | .vmacw _ _ => true
  | .vcmacw _ _ => true
  | .vmin _ _ => true
  | .vmax _ _ => true
  | .vabs _ _ => true
  | .vneg _ _ => true
  | .vand _ _ => true
  | .vor _ _ => true
  | .vxor _ _ => true
  | .vandn _ _ => true
  | .vsll _ _ => true
  | .vsrl _ _ => true
  | .vsra _ _ => true
  | .vnrsr _ _ => true
  | .vadds _ _ => true
  | .vsubs _ _ => true
  | .vconj _ _ => true
  | .vcjmul _ _ => true
  | .vcvt _ _ => true
  | .vrecip _ _ => true
  | .vrsqrt _ _ => true
  | .vmag2 _ _ => true
  | .vcmpeq _ _ => true
  | .vcmpne _ _ => true
  | .vcmplt _ _ => true
  | .vcmple _ _ => true
  | .vld _ _ _ => true
  | .vst _ _ => true
  | .vlds _ _ _ => true
  | .vsts _ _ => true
  | .vgather _ _ _ => true
  | .vscatter _ _ => true
  | .vpld _ _ _ => true
  | .vpst _ _ => true
  | .prange _ _ => true
  | .pand _ _ => true
  | .por _ _ => true
  | .pxor _ _ => true
  | .pandn _ _ => true
  | .pnot _ _ => true
  | .pcnt _ _ => true
  | .pfirst _ _ => true
  | .vredadd _ _ => true
  | .vredmax _ _ => true
  | .vmovs _ _ => true
  | .vins _ _ => true
  | .vperm _ _ => true
  | .vslide _ _ => true
  | .vsel _ _ => true
  | .vsplat _ _ => true
  | .vbits _ _ => true
  | .vcnt _ _ => true
  | .cpi _ _ _ => true
  | .cpr _ _ => true
  | .cpsync _ _ => true
  | .copConfirm _ => true
  | .squashDrainDone _ _ _ => true
  | .chol _ _ _ _ => true
  | .trsm _ _ _ _ => true
  | .gemm _ _ _ _ => true
  | .gram _ _ _ _ => true
  | .crc _ _ => true
  | .gold _ _ => true
  | .ilv _ _ => true
  | .sxuCommandStart _ => true
  | .topk _ _ => true
  | .pftopk _ _ => true
  | .copCommandComplete _ _ => true
  | .eventAccept _ _ _ => true
  | .eventPost _ _ => true
  | .timedEventEnter _ _ => true
  | .delayRelease => true
  | .taskCancel _ _ => true
  | .slotFill _ _ => true
  | .deadlineDrop => true
  | .descriptorWindowWrite _ _ _ => true
  | .reserveWrite _ _ => true
  | .histClear => true
  | .tskPeakClear => true
  | .loadUpdate => true
  | .replaceStart => true
  | .preparationComplete => true
  | .plcSwitch _ => true
  | .oldUnitsRelease => true
  | .unitSelfTest _ _ _ _ => true
  | .outageFrame => true
  | .sysReset _ => true
  | .romPhase _ copy0 copy1 => copy0.length == 4096 && copy1.length == 4096
  | .flashPhase _ _ _ => true
  | .selectPhase => true
  | .fwReady => true
  | .loadTimeout => true
  | .applyPhase _ readings codes => readings.length == 384 && codes.length == 16
  | .sysTimeWait => true
  | .lanesPhase => true
  | .sysLanesPartial => true
  | .placePhase _ _ => true
  | .enginesPhase _ => true
  | .startPhase => true
  | .lockstepMismatch => true
  | .watchdogFeed _ => true
  | .mgtWdogExp => true
  | .mgtLmemPerr _ => true
  | .press => true
  | .mgtPresStuck => true
  | .keyAssert => true
  | .keyRelease => true
  | .cinchExpire => true
  | .mgtSealOpen => true
  | .messageReceive _ msg => decide (msg.length ≤ 1500)
  | .discover => true
  | .read => true
  | .telemetry => true
  | .logRead => true
  | .notesRead => true
  | .subscribe => true
  | .cinchClose => true
  | .stageBegin _ => true
  | .stageData _ => true
  | .stageEnd _ => true
  | .stageAbort => true
  | .activate _ => true
  | .restart => true
  | .delayedRestart => true
  | .write => true
  | .logClear => true
  | .debugUnlock => true
  | .sealClear => true
  | .attClear => true
  | .subscriptionPeriod _ => true
  | .subscriptionLapse _ => true
  | .logEntry => true
  | .logFlush _ => true
  | .rollStep => true
  | .mgtCommit => true
  | .mgtEnvClear => true
  | .sequencerEnable _ => true
  | .sequencerStop _ => true
  | .sequencerEntry => true
  | .senseResult codes => decide (1 ≤ codes.length) && decide (codes.length ≤ 256)
  | .manualConversionRequest _ => true
  | .manualConversionRun codes => decide (1 ≤ codes.length) && decide (codes.length ≤ 256)
  | .ageMeasRequest => true
  | .ageMeasureTimer => true
  | .ageMeasure readings => readings.length == 384
  | .ageVstep _ => true
  | .pwrAlert status => status.length == 8
  | .domainRequest _ _ => true
  | .pwrDom _ => true
  | .laneGroupAutoOff _ => true
  | .sysPllUnlock => true
  | .sysSysrefBad _ => true
  | .tddCommandTarget _ => true
  | .coefficientFreezeStart _ => true
  | .coefficientFreezeEnd _ => true
  | .residualSlewDone => true
  | .restartCountClear => true
  | .sealLoopClose => true
  | .resetAssert _ => true

end Sys2Proof
end

