-- ==== Sys2Proof/Config.lean ====
section
/-!
DEFINITION. Free values: constants without a body for what the spec leaves open. Nothing in Lean can evaluate one, so a statement
proved about the model holds whatever they are.
-/

namespace Sys2Proof.Config

/-- How many steps of 2 Tc a snapshot of the time query bus lies behind the count at the edge: 0, 1 or 2 (R45). -/
opaque tqbLag : Nat → Fin 3

/-- A word that the spec leaves undefined: what TQB_D drives in a violated cycle (R47). -/
opaque freeWord : Nat → BitVec 16

/-- Any other value that the spec leaves open: the model's counter of free values gives the first argument, the place in a list of
values the second. A value of `w` bits is this number modulo 2^w. -/
opaque freeNat : Nat → Nat → Nat

/-- Whether an inexact quotient of the servo is rounded up to the next 2^-40 (R56 gives no rounding of r). -/
opaque rateUp : Int → Nat → Bool

/-- The taps of the lane's shaping filter (R90 gives its spectrum, not its taps). -/
opaque shapeTap : Nat → Int

/-- The register that a lane's PRBS31 of training blocks starts from, as a number below 2^31 − 1 to which 1 is added (R108 names no start). -/
opaque prbsStart : Nat → Nat

/-- How a decoder rounds a magnitude times 0.75 to a whole: what is added to three times it before the division by 4, modulo 4. Decoder 0 is a lane's (R102), 1 the LDPC
and 2 the turbo decoder of the coding cluster (R272, R273). -/
opaque minSumRound : Nat → Nat

/-- The shift of a base graph (0 BG1, 1 BG2) for a set of lifting sizes at a row and a column; none where the graph has no edge (TS 38.212 tables 5.3.2-2 and 5.3.2-3,
which the spec does not retell, R271). -/
opaque nrShift : Nat → Nat → Nat → Nat → Option Nat

/-- f1 and f2 of the turbo interleaver of a block size (TS 36.212 table 5.1.3-3, R271). -/
opaque qpp : Nat → Nat × Nat

/-- The polar sequence: the places of a code of 1,024, the least reliable first (TS 38.212 table 5.3.1.2-1, R271). -/
opaque polarOrder : Nat → Nat

/-- The polar input interleaver's pattern (TS 38.212 table 5.3.1.1-1, R271). -/
opaque polarIl : Nat → Nat

/-- What the list decoder of polar codes gives for a segment, from the job's parameters and the segment's LLRs: its bits, the first lowest (R273 gives the list size,
not the decoder's arithmetic). -/
opaque polarList : List Nat → List Int → Nat

/-- Whether a soft value scaled down for its record is rounded up (R276 gives no rounding). -/
opaque softUp : Int → Nat → Bool

/-- The weight of place `i` of a raised-cosine ramp of `n` samples in 2^-15: the spec gives the shape, not the places (R224). -/
opaque rampWeight : Nat → Nat → Nat

/-- Whether an inexact quotient of the downlink window or filter is rounded up (R224 gives no rounding). -/
opaque fexUp : Int → Nat → Bool

/-- The baseline that a factory calibration word gives ageing monitor `m`, in ppm (R444; the format of the words is not given). -/
opaque ageBaseline : Nat → Nat → Int

/-- How many occasions of a PRACH configuration, by its word 0 and word 1, end in a millisecond, counted modulo 160 (the index tables of 3GPP TS 38.211 and 36.211,
which the spec does not retell, R230). -/
opaque prachEnds : Nat → Nat → Nat → Nat

end Sys2Proof.Config
end

