-- ==== Sys2Proof/Machine/Events.lean ====
section
/-!
DEFINITION. The event codes of every block (R15, Table 21-3 and the event table of each chapter), with the data items
each event carries.
-/

namespace Sys2Proof.Machine.Ev

/-- none. -/
abbrev SYS_PLL_UNLOCK : Nat := 0x0000

/-- deviation, signed, 0.01 %; −10,000 when SYSREF is absent. -/
abbrev SYS_SYSREF_BAD : Nat := 0x0001

/-- register offset. -/
abbrev SYS_CNT_SAT : Nat := 0x0002

/-- cause bits. -/
abbrev SYS_RESET : Nat := 0x0100

/-- phase, ms. -/
abbrev SYS_BOOT_PHASE : Nat := 0x0101

/-- bank, check of R389, section index. -/
abbrev SYS_IMG_BAD : Nat := 0x0102

/-- bank, seq, trial. -/
abbrev SYS_IMG_SELECT : Nat := 0x0103

/-- bank, cause. -/
abbrev SYS_TRIAL_FAIL : Nat := 0x0104

/-- cause. -/
abbrev SYS_HOLD : Nat := 0x0105

/-- none. -/
abbrev SYS_FLASH_SLOW : Nat := 0x0106

/-- type, inst. -/
abbrev SYS_SECT_SKIP : Nat := 0x0107

/-- ms since reset release. -/
abbrev SYS_BOOT_DONE : Nat := 0x0108

/-- seconds in TIME. -/
abbrev SYS_TIME_WAIT : Nat := 0x0109

/-- lanes not UP. -/
abbrev SYS_LANES_PARTIAL : Nat := 0x010A

/-- pod. -/
abbrev SYS_FW_LOAD_PERR : Nat := 0x010B

/-- bank failed, bank chosen. -/
abbrev SYS_FALLBACK_IMG : Nat := 0x010C

/-- restarts in the hour. -/
abbrev SYS_RESTART_LOOP : Nat := 0x010D

/-- domain, 1 on or 0 off, cause: 0 plan, 1 automatic, 2 command, 3 retire, 4 ENVIRONMENT STOP. -/
abbrev PWR_DOM : Nat := 0x0400

/-- domain. -/
abbrev PWR_REFUSED : Nat := 0x0401

/-- address, PMBus command. -/
abbrev PWR_PMB_ERR : Nat := 0x0402

/-- address, STATUS_WORD. -/
abbrev PWR_ALERT : Nat := 0x0403

/-- register offset. -/
abbrev PWR_CNT_SAT : Nat := 0x0404

/-- air count of the start boundary. -/
abbrev AIR_RUN : Nat := 0x0800

/-- cause: 0 FRC parity, 1 PLL unlock. -/
abbrev AIR_FALLBACK_ENTER : Nat := 0x0801

/-- duration in ms. -/
abbrev AIR_FALLBACK_EXIT : Nat := 0x0802

/-- none. -/
abbrev AIR_UNQUALIFIED : Nat := 0x0803

/-- requested target. -/
abbrev AIR_START_LATE : Nat := 0x0804

/-- pin number and target. -/
abbrev AIR_TRG_LATE : Nat := 0x0805

/-- pin number. -/
abbrev AIR_TRG_DROP : Nat := 0x0806

/-- AIR_FBC_CNT or AIR_TRG_DROP[n] saturated; register offset. -/
abbrev AIR_CNT_SAT : Nat := 0x0807

/-- domain. -/
abbrev TDOM_LOCK : Nat := 0x0C00

/-- domain, last e. -/
abbrev TDOM_UNLOCK : Nat := 0x0C01

/-- domain. -/
abbrev TDOM_TIMEOUT : Nat := 0x0C02

/-- from, to, Δ. -/
abbrev TDOM_SWITCH : Nat := 0x0C03

/-- air time now follows TD_3. -/
abbrev TDOM_HOLDOVER : Nat := 0x0C04

/-- seconds in holdover. -/
abbrev TDOM_HOLD_LIMIT : Nat := 0x0C05

/-- reference. -/
abbrev TDOM_REF_LOSS : Nat := 0x0C06

/-- none. -/
abbrev TDOM_PLL_HOLD : Nat := 0x0C07

/-- address, level. -/
abbrev TDOM_PRIV_WRITE : Nat := 0x0C08

/-- domain, step. -/
abbrev TDOM_STEP : Nat := 0x0C09

/-- domain. -/
abbrev TDOM_CLAMP : Nat := 0x0C0A

/-- FRC of the edge. -/
abbrev TDOM_PPS_EXTRA : Nat := 0x0C0B

/-- register offset. -/
abbrev TDOM_CNT_SAT : Nat := 0x0C0C

/-- clock, increment. -/
abbrev TDOM_INC_RANGE : Nat := 0x0C0D

/-- lane, rate code, fec, cold or warm. -/
abbrev LNK_LINE_UP : Nat := 0x1000

/-- lane, state at loss. -/
abbrev LNK_LOL : Nat := 0x1001

/-- lane. -/
abbrev LNK_ACQ_TIMEOUT : Nat := 0x1002

/-- lane, planned and found rate codes. -/
abbrev LNK_RATE_MISMATCH : Nat := 0x1003

/-- lane. -/
abbrev LNK_CW_UNCORR : Nat := 0x1004

/-- lane, op_margin. -/
abbrev LNK_MARGIN_LOW : Nat := 0x1005

/-- lane, erle below Table 4-6 at the end of P2. -/
abbrev LNK_ECHO_LOW : Nat := 0x1006

/-- die, reference. -/
abbrev LNK_REF_BAD : Nat := 0x1007

/-- lane, field (Table 5-18). -/
abbrev LNK_CFG_BAD : Nat := 0x1008

/-- die; on the first AUTO lane waiting after none. -/
abbrev LNK_SRCH_WAIT : Nat := 0x1009

/-- lane. -/
abbrev LNK_POL_INV : Nat := 0x100A

/-- lane, register offset. -/
abbrev LNK_CNT_SAT : Nat := 0x100B

/-- link, bsize. -/
abbrev LNK_LINK_UP : Nat := 0x1040

/-- link, lane. -/
abbrev LNK_LINK_DOWN : Nat := 0x1041

/-- link, lane, skew. -/
abbrev LNK_SKEW : Nat := 0x1042

/-- link, lane, field. -/
abbrev LNK_BOND_BAD : Nat := 0x1043

/-- link, bpos per lane. -/
abbrev LNK_LANE_REORDER : Nat := 0x1044

/-- link. -/
abbrev LNK_STEER_LOCK : Nat := 0x1045

/-- link, e. -/
abbrev LNK_STEER_UNLOCK : Nat := 0x1046

/-- link. -/
abbrev LNK_STEER_HOLD : Nat := 0x1047

/-- link, samples. -/
abbrev LNK_BSHIFT : Nat := 0x1048

/-- link, opcode, target. -/
abbrev LNK_CMD_LATE : Nat := 0x1049

/-- link, cseq, status. -/
abbrev LNK_CMD_REFUSED : Nat := 0x104A

/-- link. -/
abbrev LNK_DL_UNDERRUN : Nat := 0x104B

/-- link, alarm bits. -/
abbrev LNK_RADIO_ALARM : Nat := 0x104C

/-- link, lane; on 0-to-1 of hdr_bad. -/
abbrev LNK_HDR_BAD : Nat := 0x104D

/-- link; on 0-to-1 of cc_bad. -/
abbrev LNK_CC_BAD : Nat := 0x104E

/-- link. -/
abbrev LNK_OVERRUN : Nat := 0x104F

/-- link, field. -/
abbrev LNK_LINK_CFG_BAD : Nat := 0x1050

/-- link, entry or exit. -/
abbrev LNK_DOZE : Nat := 0x1051

/-- link, entry or exit. -/
abbrev LNK_DEEP : Nat := 0x1052

/-- link. -/
abbrev LNK_WAKE_FAIL : Nat := 0x1053

/-- lane, loop, gen_en, chk_en. -/
abbrev LNK_TEST_START : Nat := 0x1080

/-- lane, cause: 0 firmware, 1 DEEP, 2 radio refused. -/
abbrev LNK_TEST_END : Nat := 0x1081

/-- lane. -/
abbrev LNK_CHK_SYNC : Nat := 0x1082

/-- lane. -/
abbrev LNK_CHK_LOSS : Nat := 0x1083

/-- lane, reason. -/
abbrev LNK_TEST_REFUSED : Nat := 0x1084

/-- lane, field: 14 pat or 15 type (Table 5-18). -/
abbrev LNK_MODE_BAD : Nat := 0x1085

/-- port. -/
abbrev ETH_LINK_UP : Nat := 0x1400

/-- port, cause. -/
abbrev ETH_LINK_DOWN : Nat := 0x1401

/-- port. -/
abbrev ETH_FEC_UNCORR : Nat := 0x1402

/-- port, queue. -/
abbrev ETH_TX_LATE : Nat := 0x1403

/-- port, queue. -/
abbrev ETH_TX_SLIP : Nat := 0x1404

/-- queue, seq. -/
abbrev ETH_TX_BAD : Nat := 0x1405

/-- queue. -/
abbrev ETH_RXQ_DROP : Nat := 0x1406

/-- entry. -/
abbrev ETH_CLS_BAD : Nat := 0x1407

/-- quad. -/
abbrev ETH_QUAD_BAD : Nat := 0x1408

/-- port, direction. -/
abbrev ETH_PARITY : Nat := 0x1409

/-- port, register offset. -/
abbrev ETH_CNT_SAT : Nat := 0x140A

/-- hop, line. -/
abbrev STO_PERR_REPLAY : Nat := 0x1800

/-- hop, line, ring. -/
abbrev STO_PERR_LOST : Nat := 0x1801

/-- line, ring. -/
abbrev STO_PERR_STORED : Nat := 0x1802

/-- ring, word count. -/
abbrev STO_REGEN_DONE : Nat := 0x1803

/-- ring, line. -/
abbrev STO_ERASED : Nat := 0x1804

/-- ring, reader. -/
abbrev STO_MARK_LOST : Nat := 0x1805

/-- ring, reader. -/
abbrev STO_OVERRUN : Nat := 0x1806

/-- ring, class. -/
abbrev STO_ALLOC_REFUSED : Nat := 0x1807

/-- class, value refused. -/
abbrev STO_QUOTA_BAD : Nat := 0x1808

/-- ring, op, result. -/
abbrev STO_CMD_BAD : Nat := 0x1809

/-- pass number, errors found. -/
abbrev STO_SCRUB_PASS : Nat := 0x180A

/-- ring destroyed. -/
abbrev STO_SYS_PERR : Nat := 0x180B

/-- FIFO identity. -/
abbrev STO_XF_UNDERRUN : Nat := 0x180C

/-- FIFO identity. -/
abbrev STO_XF_OVERFLOW : Nat := 0x180D

/-- register offset, or ring and word. -/
abbrev STO_CNT_SAT : Nat := 0x180E

/-- channel, seq. -/
abbrev MOV_LATE : Nat := 0x1C00

/-- channel, seq, status. -/
abbrev MOV_BAD : Nat := 0x1C01

/-- channel, seq. -/
abbrev MOV_ERASED : Nat := 0x1C02

/-- channel, descriptors flushed. -/
abbrev MOV_STOPPED : Nat := 0x1C03

/-- channel, store offset. -/
abbrev MOV_DESC_PERR : Nat := 0x1C04

/-- channel, register offset. -/
abbrev MOV_CNT_SAT : Nat := 0x1C05

/-- cluster, slot, air count. -/
abbrev FEX_UL_DROP : Nat := 0x2000

/-- cluster, slot, air count. -/
abbrev FEX_DL_LATE : Nat := 0x2001

/-- cluster, slot, band. -/
abbrev FEX_MASK_VIOL : Nat := 0x2002

/-- cluster, slot, 1 muted or 0 resumed. -/
abbrev FEX_MUTE : Nat := 0x2003

/-- cluster, op, seq, status. -/
abbrev FEX_CMD_BAD : Nat := 0x2004

/-- cluster, 0 working or 1 configuration, offset. -/
abbrev FEX_PERR : Nat := 0x2005

/-- cluster. -/
abbrev FEX_FAULT : Nat := 0x2006

/-- cluster, slot. -/
abbrev FEX_SAT : Nat := 0x2007

/-- cluster, configuration. -/
abbrev FEX_PRACH_MORE : Nat := 0x2008

/-- stream, from cluster, to cluster. -/
abbrev FEX_XB_SWITCH : Nat := 0x2009

/-- cluster, slot or configuration, field. -/
abbrev FEX_CFG_BAD : Nat := 0x200A

/-- cluster, register offset. -/
abbrev FEX_CNT_SAT : Nat := 0x200B

/-- harness, set, seq. -/
abbrev SCA_LATE : Nat := 0x2400

/-- harness, seq, status. -/
abbrev SCA_BAD : Nat := 0x2401

/-- harness, set, gen expected. -/
abbrev SCA_STALE : Nat := 0x2402

/-- harness, set, subband. -/
abbrev SCA_WERA : Nat := 0x2403

/-- harness, set, ring. -/
abbrev SCA_SHORT : Nat := 0x2404

/-- harness, 0 cache or 1 set entry, offset. -/
abbrev SCA_PERR : Nat := 0x2405

/-- tile. -/
abbrev SCA_FAULT : Nat := 0x2406

/-- harness, set. -/
abbrev SCA_SAT : Nat := 0x2407

/-- harness, jobs flushed. -/
abbrev SCA_STOPPED : Nat := 0x2408

/-- harness, value refused. -/
abbrev SCA_CFG_BAD : Nat := 0x2409

/-- register offset. -/
abbrev SCA_CNT_SAT : Nat := 0x240A

/-- queue, seq. -/
abbrev COD_LATE : Nat := 0x2800

/-- queue, seq, status. -/
abbrev COD_BAD : Nat := 0x2801

/-- queue, ring. -/
abbrev COD_SHORT : Nat := 0x2802

/-- queue, ring. -/
abbrev COD_LOST : Nat := 0x2803

/-- hid. -/
abbrev COD_HARQ_MISMATCH : Nat := 0x2804

/-- hid, code block. -/
abbrev COD_HARQ_FULL : Nat := 0x2805

/-- hid, code block. -/
abbrev COD_HARQ_PERR : Nat := 0x2806

/-- unit. -/
abbrev COD_PERR : Nat := 0x2807

/-- unit. -/
abbrev COD_FAULT : Nat := 0x2808

/-- hid. -/
abbrev COD_HDIR_PERR : Nat := 0x2809

/-- register offset. -/
abbrev COD_CNT_SAT : Nat := 0x280A

/-- engine, pc. -/
abbrev POD_ENG_HALT : Nat := 0x2C00

/-- engine, code, pc. -/
abbrev POD_DFAULT : Nat := 0x2C01

/-- engine, address. -/
abbrev POD_IMEM_PERR : Nat := 0x2C02

/-- engine, address. -/
abbrev POD_DMEM_PERR : Nat := 0x2C03

/-- engine, 0 instruction or 1 data memory. -/
abbrev POD_PERR_REPLAY : Nat := 0x2C04

/-- engine, address. -/
abbrev POD_LOAD_BUSY : Nat := 0x2C05

/-- engine, register offset. -/
abbrev POD_CNT_SAT : Nat := 0x2C06

/-- engine, slot, op, status. -/
abbrev POD_CP_ERR : Nat := 0x2C40

/-- engine, results discarded. -/
abbrev POD_CP_DISC : Nat := 0x2C41

/-- engine, slot, op. -/
abbrev POD_CP_PERR : Nat := 0x2C42

/-- descriptor, gen. -/
abbrev TSK_LATE : Nat := 0x3000

/-- descriptor. -/
abbrev TSK_EV_DROP : Nat := 0x3001

/-- descriptor, word. -/
abbrev TSK_CFG_BAD : Nat := 0x3002

/-- class, value refused. -/
abbrev TSK_RSV_BAD : Nat := 0x3003

/-- descriptor. -/
abbrev TSK_DESC_PERR : Nat := 0x3004

/-- descriptor. -/
abbrev TSK_LIST_PERR : Nat := 0x3005

/-- engine, descriptor, gen. -/
abbrev TSK_ENG_LOST : Nat := 0x3006

/-- register offset. -/
abbrev TSK_CNT_SAT : Nat := 0x3007

/-- cells, streams. -/
abbrev PLC_ADMITTED : Nat := 0x3400

/-- reason, index. -/
abbrev PLC_REFUSED : Nat := 0x3401

/-- kind, unit kind (0 pod, 1 cluster, 2 tile, 3 coding unit, 4 ring or set), index. -/
abbrev PLC_REPLACE_START : Nat := 0x3402

/-- kind, frame. -/
abbrev PLC_SWITCH : Nat := 0x3403

/-- cell. -/
abbrev PLC_SHED : Nat := 0x3404

/-- unit kind, index. -/
abbrev PLC_RETIRED : Nat := 0x3405

/-- unit kind, index. -/
abbrev PLC_SPARE_BACK : Nat := 0x3406

/-- cell, state. -/
abbrev PLC_CELL_STATE : Nat := 0x3407

/-- offset, 0 repaired or 1 both copies. -/
abbrev PLC_REF_PERR : Nat := 0x3408

/-- register offset. -/
abbrev PLC_CNT_SAT : Nat := 0x3409

/-- address (R10). -/
abbrev MGT_LOCKED_WRITE : Nat := 0x3800

/-- cause; pinned. -/
abbrev MGT_CINCH_OPEN : Nat := 0x3801

/-- cause, session seconds; pinned. -/
abbrev MGT_CINCH_CLOSE : Nat := 0x3802

/-- none. -/
abbrev MGT_PRES_STUCK : Nat := 0x3803

/-- none. -/
abbrev MGT_SEAL_OPEN : Nat := 0x3804

/-- none. -/
abbrev MGT_SEAL_CLEAR : Nat := 0x3805

/-- cmd, status, source; every P command executed. -/
abbrev MGT_CMD : Nat := 0x3806

/-- cmd, source. -/
abbrev MGT_REFUSED : Nat := 0x3807

/-- 0 begin, 1 staged, 2 abort or abandoned; seq. -/
abbrev MGT_STAGE : Nat := 0x3808

/-- kind, seq. -/
abbrev MGT_ACTIVATE : Nat := 0x3809

/-- bank, seq. -/
abbrev MGT_COMMIT : Nat := 0x380A

/-- pod at failure. -/
abbrev MGT_ROLL_BACK : Nat := 0x380B

/-- cause, value. -/
abbrev MGT_ENV_STOP : Nat := 0x380C

/-- seconds stopped. -/
abbrev MGT_ENV_CLEAR : Nat := 0x380D

/-- all; pinned. -/
abbrev MGT_LOG_CLEAR : Nat := 0x380E

/-- none. -/
abbrev MGT_PIN_FULL : Nat := 0x380F

/-- entries lost since the last MGT_LOG_DROP entry (R420). -/
abbrev MGT_LOG_DROP : Nat := 0x3810

/-- address. -/
abbrev MGT_LMEM_PERR : Nat := 0x3811

/-- 1 unlocked, 0 locked. -/
abbrev MGT_DBG : Nat := 0x3812

/-- register offset. -/
abbrev MGT_CNT_SAT : Nat := 0x3813

/-- flash offset, 0 program or 1 erase. -/
abbrev MGT_FLASH_ERR : Nat := 0x3814

/-- input, value, 1 above or 0 below, action. -/
abbrev SNS_LIMIT : Nat := 0x3C00

/-- input, value. -/
abbrev SNS_RETURN : Nat := 0x3C01

/-- ring. -/
abbrev SNS_RING_OVF : Nat := 0x3C02

/-- entry. -/
abbrev SNS_SLIP : Nat := 0x3C03

/-- entry, field. -/
abbrev SNS_CFG_BAD : Nat := 0x3C04

/-- register offset. -/
abbrev SNS_CNT_SAT : Nat := 0x3C05

/-- largest D_g, group, AGE_LIFE. -/
abbrev AGE_MEASURE : Nat := 0x4000

/-- old and new offset, mV. -/
abbrev AGE_VSTEP : Nat := 0x4001

/-- pod, new clock code. -/
abbrev AGE_CLK_STEP : Nat := 0x4002

/-- group, D_g. -/
abbrev AGE_EXHAUSTED : Nat := 0x4003

/-- monitor. -/
abbrev AGE_MON_BAD : Nat := 0x4004

/-- register offset. -/
abbrev AGE_CNT_SAT : Nat := 0x4005

/-- copy used; always 1, raised only when copy 0 fails (R400). -/
abbrev CAL_COPY : Nat := 0x4200

/-- none. -/
abbrev CAL_FACTORY_BAD : Nat := 0x4201

/-- class, index, value requested. -/
abbrev CAL_CLAMP : Nat := 0x4202

/-- die (3 bits: 0 core die, 1–4 LD_0–LD_3), revision code. -/
abbrev CAL_REV_BAD : Nat := 0x4203

end Sys2Proof.Machine.Ev
end

