-- ==== Sys2Proof/Machine/Regs.lean ====
section
/-!
DEFINITION. The register map: the address of every register of Table 21-2's control blocks and of the engines' CSRs,
the bit field of every field, and which bits a register write reaches by the access codes of R9.
An engine's CSRs have no address in Laruri's map; the model keys them at 2^40 + g * 0x1000 + csr.
-/

namespace Sys2Proof.Machine

/-- A field of a register: the register's address, its lowest bit and its width (R8). -/
structure Field where
  addr : Nat
  lo : Nat
  width : Nat
deriving DecidableEq, Repr

/-- One register of the map, or one regular array of registers (count and stride, twice nested), with the bits of each
access code that a write reaches (Table 0-5). -/
structure RegRow where
  base : Nat
  c1 : Nat
  s1 : Nat
  c2 : Nat
  s2 : Nat
  rw : Nat
  rwl : Nat
  w1c : Nat
  w1s : Nat
deriving DecidableEq, Repr

/-- The row covers this address. -/
def RegRow.covers (r : RegRow) (a : Nat) : Bool :=
  r.base ≤ a &&
    (let d := a - r.base
     d / r.s1 < r.c1 && d % r.s1 / r.s2 < r.c2 && d % r.s1 % r.s2 == 0)

namespace R


/-! Table 2-7 -/

abbrev AIR_CTL : Nat := 0x302000000
abbrev AIR_CTL_arm : Field := ⟨AIR_CTL, 0, 1⟩
abbrev AIR_CTL_tqb_en : Field := ⟨AIR_CTL, 1, 1⟩
abbrev AIR_CTL_crd_mu : Field := ⟨AIR_CTL, 2, 2⟩
abbrev AIR_CTL_crd_ecp : Field := ⟨AIR_CTL, 4, 1⟩

/-! Table 2-8 -/

abbrev AIR_STAT : Nat := 0x302000004
abbrev AIR_STAT_state : Field := ⟨AIR_STAT, 0, 2⟩
abbrev AIR_STAT_src_dom : Field := ⟨AIR_STAT, 2, 3⟩
abbrev AIR_STAT_qualified : Field := ⟨AIR_STAT, 5, 1⟩
abbrev AIR_STAT_fbc : Field := ⟨AIR_STAT, 6, 1⟩

/-! Table 2-9 -/

abbrev AIR_OFS : Nat := 0x302000008
abbrev AIR_OFS_ofs : Field := ⟨AIR_OFS, 0, 32⟩
abbrev AIR_CNT_LO : Nat := 0x302000010
abbrev AIR_CNT_LO_cnt : Field := ⟨AIR_CNT_LO, 0, 32⟩
abbrev AIR_CNT_HI : Nat := 0x302000014
abbrev AIR_CNT_HI_cnt : Field := ⟨AIR_CNT_HI, 0, 32⟩
abbrev AIR_START_LO : Nat := 0x302000018
abbrev AIR_START_LO_start : Field := ⟨AIR_START_LO, 0, 32⟩
abbrev AIR_START_HI : Nat := 0x30200001C
abbrev AIR_START_HI_start : Field := ⟨AIR_START_HI, 0, 32⟩
abbrev AIR_CRD : Nat := 0x302000020
abbrev AIR_CRD_sfn : Field := ⟨AIR_CRD, 0, 10⟩
abbrev AIR_CRD_hfn : Field := ⟨AIR_CRD, 10, 10⟩
abbrev AIR_CRD_slot : Field := ⟨AIR_CRD, 20, 7⟩
abbrev AIR_CRD_symbol : Field := ⟨AIR_CRD, 27, 4⟩
abbrev AIR_CRD_OFS : Nat := 0x302000024
abbrev AIR_CRD_OFS_ofs : Field := ⟨AIR_CRD_OFS, 0, 18⟩
abbrev AIR_TQB_CNT_LO : Nat := 0x302000030
abbrev AIR_TQB_CNT_LO_cnt : Field := ⟨AIR_TQB_CNT_LO, 0, 32⟩
abbrev AIR_TQB_CNT_HI : Nat := 0x302000034
abbrev AIR_TQB_CNT_HI_cnt : Field := ⟨AIR_TQB_CNT_HI, 0, 32⟩
abbrev AIR_FBC_CNT : Nat := 0x302000038
abbrev AIR_FBC_CNT_cnt : Field := ⟨AIR_FBC_CNT, 0, 32⟩
abbrev AIR_CNT_OVF : Nat := 0x30200003C
abbrev AIR_CNT_OVF_fbc_ovf : Field := ⟨AIR_CNT_OVF, 0, 1⟩

/-! Table 2-10 -/

abbrev AIR_TRG_CTL (n : Nat) : Nat := 0x302000100 + n * 0x20
abbrev AIR_TRG_CTL_en (n : Nat) : Field := ⟨AIR_TRG_CTL n, 0, 1⟩
abbrev AIR_TRG_CTL_dir (n : Nat) : Field := ⟨AIR_TRG_CTL n, 1, 1⟩
abbrev AIR_TRG_CTL_pol (n : Nat) : Field := ⟨AIR_TRG_CTL n, 2, 1⟩
abbrev AIR_TRG_CTL_free (n : Nat) : Field := ⟨AIR_TRG_CTL n, 3, 1⟩
abbrev AIR_TRG_CTL_width_unit (n : Nat) : Field := ⟨AIR_TRG_CTL n, 4, 1⟩
abbrev AIR_TRG_CTL_width (n : Nat) : Field := ⟨AIR_TRG_CTL n, 16, 16⟩
abbrev AIR_TRG_T_LO (n : Nat) : Nat := 0x302000104 + n * 0x20
abbrev AIR_TRG_T_LO_target (n : Nat) : Field := ⟨AIR_TRG_T_LO n, 0, 32⟩
abbrev AIR_TRG_T_HI (n : Nat) : Nat := 0x302000108 + n * 0x20
abbrev AIR_TRG_T_HI_target (n : Nat) : Field := ⟨AIR_TRG_T_HI n, 0, 32⟩
abbrev AIR_TRG_PER (n : Nat) : Nat := 0x30200010C + n * 0x20
abbrev AIR_TRG_PER_period (n : Nat) : Field := ⟨AIR_TRG_PER n, 0, 32⟩
abbrev AIR_TRG_CAP_LO (n : Nat) : Nat := 0x302000110 + n * 0x20
abbrev AIR_TRG_CAP_LO_cap (n : Nat) : Field := ⟨AIR_TRG_CAP_LO n, 0, 32⟩
abbrev AIR_TRG_CAP_HI (n : Nat) : Nat := 0x302000114 + n * 0x20
abbrev AIR_TRG_CAP_HI_cap (n : Nat) : Field := ⟨AIR_TRG_CAP_HI n, 0, 32⟩
abbrev AIR_TRG_STAT (n : Nat) : Nat := 0x302000118 + n * 0x20
abbrev AIR_TRG_STAT_cap_cnt (n : Nat) : Field := ⟨AIR_TRG_STAT n, 0, 3⟩
abbrev AIR_TRG_STAT_armed (n : Nat) : Field := ⟨AIR_TRG_STAT n, 3, 1⟩
abbrev AIR_TRG_STAT_late (n : Nat) : Field := ⟨AIR_TRG_STAT n, 4, 1⟩
abbrev AIR_TRG_STAT_cap_ovf (n : Nat) : Field := ⟨AIR_TRG_STAT n, 5, 1⟩
abbrev AIR_TRG_STAT_cfg_err (n : Nat) : Field := ⟨AIR_TRG_STAT n, 6, 1⟩
abbrev AIR_TRG_STAT_disarmed (n : Nat) : Field := ⟨AIR_TRG_STAT n, 7, 1⟩
abbrev AIR_TRG_STAT_drop_ovf (n : Nat) : Field := ⟨AIR_TRG_STAT n, 8, 1⟩
abbrev AIR_TRG_DROP (n : Nat) : Nat := 0x30200011C + n * 0x20
abbrev AIR_TRG_DROP_cnt (n : Nat) : Field := ⟨AIR_TRG_DROP n, 0, 32⟩

/-! Table 3-6 -/

abbrev TDOM_SEL : Nat := 0x303000000
abbrev TDOM_SEL_pri0 : Field := ⟨TDOM_SEL, 0, 3⟩
abbrev TDOM_SEL_pri1 : Field := ⟨TDOM_SEL, 3, 3⟩
abbrev TDOM_SEL_pri2 : Field := ⟨TDOM_SEL, 6, 3⟩
abbrev TDOM_SEL_forced : Field := ⟨TDOM_SEL, 9, 1⟩
abbrev TDOM_SEL_fdom : Field := ⟨TDOM_SEL, 10, 2⟩
abbrev TDOM_SEL_wtr : Field := ⟨TDOM_SEL, 12, 8⟩
abbrev TDOM_SW_STAT : Nat := 0x303000004
abbrev TDOM_SW_STAT_slewing : Field := ⟨TDOM_SW_STAT, 0, 1⟩
abbrev TDOM_SW_STAT_from_ : Field := ⟨TDOM_SW_STAT, 1, 2⟩
abbrev TDOM_SW_STAT_to : Field := ⟨TDOM_SW_STAT, 3, 2⟩
abbrev TDOM_RESID : Nat := 0x303000008
abbrev TDOM_RESID_resid : Field := ⟨TDOM_RESID, 0, 32⟩
abbrev TDOM_SLEW : Nat := 0x30300000C
abbrev TDOM_SLEW_slew : Field := ⟨TDOM_SLEW, 0, 32⟩
abbrev TDOM_FRC_LO : Nat := 0x303000010
abbrev TDOM_FRC_LO_frc : Field := ⟨TDOM_FRC_LO, 0, 32⟩
abbrev TDOM_FRC_MID : Nat := 0x303000014
abbrev TDOM_FRC_MID_frc : Field := ⟨TDOM_FRC_MID, 0, 32⟩
abbrev TDOM_FRC_HI : Nat := 0x303000018
abbrev TDOM_FRC_HI_frc : Field := ⟨TDOM_FRC_HI, 0, 32⟩
abbrev TDOM_PLL : Nat := 0x303000020
abbrev TDOM_PLL_ref : Field := ⟨TDOM_PLL, 0, 2⟩
abbrev TDOM_PLL_ref2 : Field := ⟨TDOM_PLL, 2, 2⟩
abbrev TDOM_PLL_synce_port : Field := ⟨TDOM_PLL, 4, 4⟩
abbrev TDOM_PLL_out1_port : Field := ⟨TDOM_PLL, 8, 4⟩
abbrev TDOM_PLL_out0_en : Field := ⟨TDOM_PLL, 12, 1⟩
abbrev TDOM_PLL_out1_en : Field := ⟨TDOM_PLL, 13, 1⟩
abbrev TDOM_PLL_out_div : Field := ⟨TDOM_PLL, 14, 2⟩
abbrev TDOM_PLL_lock : Field := ⟨TDOM_PLL, 16, 1⟩
abbrev TDOM_PLL_hold : Field := ⟨TDOM_PLL, 17, 1⟩
abbrev TDOM_PLL_ref_ok : Field := ⟨TDOM_PLL, 18, 3⟩
abbrev TDOM_PLL_revert : Field := ⟨TDOM_PLL, 21, 1⟩
abbrev TDOM_HOLD : Nat := 0x303000028
abbrev TDOM_HOLD_avg : Field := ⟨TDOM_HOLD, 0, 16⟩
abbrev TDOM_HOLD_lim : Field := ⟨TDOM_HOLD, 16, 15⟩
abbrev TDOM_HOLD_off_air : Field := ⟨TDOM_HOLD, 31, 1⟩
abbrev TDOM_GNSS : Nat := 0x303000030
abbrev TDOM_GNSS_en : Field := ⟨TDOM_GNSS, 0, 1⟩
abbrev TDOM_GNSS_pps_pol : Field := ⟨TDOM_GNSS, 1, 1⟩
abbrev TDOM_GNSS_extra_ovf : Field := ⟨TDOM_GNSS, 2, 1⟩
abbrev TDOM_GNSS_DLY : Nat := 0x303000034
abbrev TDOM_GNSS_DLY_dly : Field := ⟨TDOM_GNSS_DLY, 0, 32⟩
abbrev TDOM_PPS_LO : Nat := 0x303000038
abbrev TDOM_PPS_LO_cap : Field := ⟨TDOM_PPS_LO, 0, 32⟩
abbrev TDOM_PPS_MID : Nat := 0x30300003C
abbrev TDOM_PPS_MID_cap : Field := ⟨TDOM_PPS_MID, 0, 32⟩
abbrev TDOM_PPS_HI : Nat := 0x303000040
abbrev TDOM_PPS_HI_cap : Field := ⟨TDOM_PPS_HI, 0, 32⟩
abbrev TDOM_PPS_EXTRA : Nat := 0x303000044
abbrev TDOM_PPS_EXTRA_cnt : Field := ⟨TDOM_PPS_EXTRA, 0, 32⟩
abbrev TDOM_LOAD_LO : Nat := 0x303000048
abbrev TDOM_LOAD_LO_t : Field := ⟨TDOM_LOAD_LO, 0, 32⟩
abbrev TDOM_LOAD_MID : Nat := 0x30300004C
abbrev TDOM_LOAD_MID_t : Field := ⟨TDOM_LOAD_MID, 0, 32⟩
abbrev TDOM_LOAD_HI : Nat := 0x303000050
abbrev TDOM_LOAD_HI_t : Field := ⟨TDOM_LOAD_HI, 0, 32⟩
abbrev TDOM_LOAD_CTL : Nat := 0x303000054
abbrev TDOM_LOAD_CTL_dom : Field := ⟨TDOM_LOAD_CTL, 0, 3⟩
abbrev TDOM_LOAD_CTL_go : Field := ⟨TDOM_LOAD_CTL, 3, 1⟩
abbrev TDOM_LOAD_CTL_load_ref : Field := ⟨TDOM_LOAD_CTL, 4, 1⟩

/-! Table 3-7 -/

abbrev TDOM_CLK_SEC_LO (x : Nat) : Nat := 0x303000060 + x * 0x40
abbrev TDOM_CLK_SEC_LO_sec (x : Nat) : Field := ⟨TDOM_CLK_SEC_LO x, 0, 32⟩
abbrev TDOM_CLK_SEC_HI (x : Nat) : Nat := 0x303000064 + x * 0x40
abbrev TDOM_CLK_SEC_HI_sec (x : Nat) : Field := ⟨TDOM_CLK_SEC_HI x, 0, 16⟩
abbrev TDOM_CLK_NS (x : Nat) : Nat := 0x303000068 + x * 0x40
abbrev TDOM_CLK_NS_ns (x : Nat) : Field := ⟨TDOM_CLK_NS x, 0, 30⟩
abbrev TDOM_CLK_INC_FRAC (x : Nat) : Nat := 0x30300006C + x * 0x40
abbrev TDOM_CLK_INC_FRAC_frac (x : Nat) : Field := ⟨TDOM_CLK_INC_FRAC x, 0, 32⟩
abbrev TDOM_CLK_INC_INT (x : Nat) : Nat := 0x303000070 + x * 0x40
abbrev TDOM_CLK_INC_INT_int_ (x : Nat) : Field := ⟨TDOM_CLK_INC_INT x, 0, 8⟩
abbrev TDOM_CLK_SET_LO (x : Nat) : Nat := 0x303000074 + x * 0x40
abbrev TDOM_CLK_SET_LO_sec (x : Nat) : Field := ⟨TDOM_CLK_SET_LO x, 0, 32⟩
abbrev TDOM_CLK_SET_HI (x : Nat) : Nat := 0x303000078 + x * 0x40
abbrev TDOM_CLK_SET_HI_sec (x : Nat) : Field := ⟨TDOM_CLK_SET_HI x, 0, 16⟩
abbrev TDOM_CLK_SET_NS (x : Nat) : Nat := 0x30300007C + x * 0x40
abbrev TDOM_CLK_SET_NS_ns (x : Nat) : Field := ⟨TDOM_CLK_SET_NS x, 0, 30⟩
abbrev TDOM_CLK_CTL (x : Nat) : Nat := 0x303000080 + x * 0x40
abbrev TDOM_CLK_CTL_load (x : Nat) : Field := ⟨TDOM_CLK_CTL x, 0, 1⟩
abbrev TDOM_CLK_CTL_valid (x : Nat) : Field := ⟨TDOM_CLK_CTL x, 1, 1⟩
abbrev TDOM_CLK_DIFF (x : Nat) : Nat := 0x303000084 + x * 0x40
abbrev TDOM_CLK_DIFF_diff (x : Nat) : Field := ⟨TDOM_CLK_DIFF x, 0, 32⟩

/-! Table 3-8 -/

abbrev TDOM_DCTL (n : Nat) : Nat := 0x303000100 + n * 0x40
abbrev TDOM_DCTL_en (n : Nat) : Field := ⟨TDOM_DCTL n, 0, 1⟩
abbrev TDOM_DCTL_servo_en (n : Nat) : Field := ⟨TDOM_DCTL n, 1, 1⟩
abbrev TDOM_DCTL_src_ok (n : Nat) : Field := ⟨TDOM_DCTL n, 2, 1⟩
abbrev TDOM_DCTL_follow (n : Nat) : Field := ⟨TDOM_DCTL n, 3, 1⟩
abbrev TDOM_DCTL_parent (n : Nat) : Field := ⟨TDOM_DCTL n, 4, 2⟩
abbrev TDOM_SRV (n : Nat) : Nat := 0x303000104 + n * 0x40
abbrev TDOM_SRV_kp (n : Nat) : Field := ⟨TDOM_SRV n, 0, 5⟩
abbrev TDOM_SRV_ki (n : Nat) : Field := ⟨TDOM_SRV n, 5, 5⟩
abbrev TDOM_SRV_log_intv (n : Nat) : Field := ⟨TDOM_SRV n, 10, 4⟩
abbrev TDOM_SRV_step_ok (n : Nat) : Field := ⟨TDOM_SRV n, 14, 1⟩
abbrev TDOM_SRV_fmax (n : Nat) : Field := ⟨TDOM_SRV n, 15, 17⟩
abbrev TDOM_LCK (n : Nat) : Nat := 0x303000108 + n * 0x40
abbrev TDOM_LCK_lock_thr (n : Nat) : Field := ⟨TDOM_LCK n, 0, 8⟩
abbrev TDOM_LCK_lock_cnt (n : Nat) : Field := ⟨TDOM_LCK n, 8, 4⟩
abbrev TDOM_LCK_unlock_thr (n : Nat) : Field := ⟨TDOM_LCK n, 12, 8⟩
abbrev TDOM_LCK_unlock_cnt (n : Nat) : Field := ⟨TDOM_LCK n, 20, 4⟩
abbrev TDOM_LCK_meas_to (n : Nat) : Field := ⟨TDOM_LCK n, 24, 8⟩
abbrev TDOM_STEP (n : Nat) : Nat := 0x30300010C + n * 0x40
abbrev TDOM_STEP_step_thr (n : Nat) : Field := ⟨TDOM_STEP n, 0, 32⟩
abbrev TDOM_MEAS (n : Nat) : Nat := 0x303000110 + n * 0x40
abbrev TDOM_MEAS_e (n : Nat) : Field := ⟨TDOM_MEAS n, 0, 32⟩
abbrev TDOM_RATE (n : Nat) : Nat := 0x303000114 + n * 0x40
abbrev TDOM_RATE_r (n : Nat) : Field := ⟨TDOM_RATE n, 0, 32⟩
abbrev TDOM_ADJ (n : Nat) : Nat := 0x303000118 + n * 0x40
abbrev TDOM_ADJ_adj (n : Nat) : Field := ⟨TDOM_ADJ n, 0, 32⟩
abbrev TDOM_STAT (n : Nat) : Nat := 0x30300011C + n * 0x40
abbrev TDOM_STAT_state (n : Nat) : Field := ⟨TDOM_STAT n, 0, 2⟩
abbrev TDOM_STAT_qualified (n : Nat) : Field := ⟨TDOM_STAT n, 2, 1⟩
abbrev TDOM_STAT_clamp (n : Nat) : Field := ⟨TDOM_STAT n, 3, 1⟩
abbrev TDOM_STAT_unlk_ovf (n : Nat) : Field := ⟨TDOM_STAT n, 4, 1⟩
abbrev TDOM_STAT_tout_ovf (n : Nat) : Field := ⟨TDOM_STAT n, 5, 1⟩
abbrev TDOM_LAST (n : Nat) : Nat := 0x303000120 + n * 0x40
abbrev TDOM_LAST_e (n : Nat) : Field := ⟨TDOM_LAST n, 0, 32⟩
abbrev TDOM_RD_LO (n : Nat) : Nat := 0x303000124 + n * 0x40
abbrev TDOM_RD_LO_t (n : Nat) : Field := ⟨TDOM_RD_LO n, 0, 32⟩
abbrev TDOM_RD_MID (n : Nat) : Nat := 0x303000128 + n * 0x40
abbrev TDOM_RD_MID_t (n : Nat) : Field := ⟨TDOM_RD_MID n, 0, 32⟩
abbrev TDOM_RD_HI (n : Nat) : Nat := 0x30300012C + n * 0x40
abbrev TDOM_RD_HI_t (n : Nat) : Field := ⟨TDOM_RD_HI n, 0, 32⟩
abbrev TDOM_UNLK (n : Nat) : Nat := 0x303000130 + n * 0x40
abbrev TDOM_UNLK_cnt (n : Nat) : Field := ⟨TDOM_UNLK n, 0, 32⟩
abbrev TDOM_TOUT (n : Nat) : Nat := 0x303000134 + n * 0x40
abbrev TDOM_TOUT_cnt (n : Nat) : Field := ⟨TDOM_TOUT n, 0, 32⟩
abbrev TDOM_UOFS (n : Nat) : Nat := 0x303000138 + n * 0x40
abbrev TDOM_UOFS_ofs (n : Nat) : Field := ⟨TDOM_UOFS n, 0, 32⟩

/-! Table 3-9 -/

abbrev ETH_QUAD_CTL (q : Nat) : Nat := 0x305000000 + q * 0x4
abbrev ETH_QUAD_CTL_en (q : Nat) : Field := ⟨ETH_QUAD_CTL q, 0, 1⟩
abbrev ETH_QUAD_CTL_mode (q : Nat) : Field := ⟨ETH_QUAD_CTL q, 1, 2⟩
abbrev ETH_QUAD_CTL_medium (q : Nat) : Field := ⟨ETH_QUAD_CTL q, 3, 2⟩
abbrev ETH_QUAD_CTL_an_en (q : Nat) : Field := ⟨ETH_QUAD_CTL q, 5, 1⟩
abbrev ETH_QUAD_CTL_lt_en (q : Nat) : Field := ⟨ETH_QUAD_CTL q, 6, 1⟩
abbrev ETH_PORT_CFG (p : Nat) : Nat := 0x305000100 + p * 0x100
abbrev ETH_PORT_CFG_max_len (p : Nat) : Field := ⟨ETH_PORT_CFG p, 0, 14⟩
abbrev ETH_PORT_CFG_pfc_en (p : Nat) : Field := ⟨ETH_PORT_CFG p, 14, 1⟩
abbrev ETH_PORT_CFG_pfc_pri (p : Nat) : Field := ⟨ETH_PORT_CFG p, 15, 8⟩
abbrev ETH_PORT_CFG_ts_dom (p : Nat) : Field := ⟨ETH_PORT_CFG p, 23, 3⟩
abbrev ETH_PORT_STAT (p : Nat) : Nat := 0x305000104 + p * 0x100
abbrev ETH_PORT_STAT_link (p : Nat) : Field := ⟨ETH_PORT_STAT p, 0, 1⟩
abbrev ETH_PORT_STAT_an_done (p : Nat) : Field := ⟨ETH_PORT_STAT p, 1, 1⟩
abbrev ETH_PORT_STAT_lt_done (p : Nat) : Field := ⟨ETH_PORT_STAT p, 2, 1⟩
abbrev ETH_PORT_STAT_align (p : Nat) : Field := ⟨ETH_PORT_STAT p, 3, 1⟩
abbrev ETH_PORT_STAT_fec_lock (p : Nat) : Field := ⟨ETH_PORT_STAT p, 4, 1⟩
abbrev ETH_PORT_STAT_hi_ser (p : Nat) : Field := ⟨ETH_PORT_STAT p, 5, 1⟩
abbrev ETH_PORT_STAT_lf (p : Nat) : Field := ⟨ETH_PORT_STAT p, 6, 1⟩
abbrev ETH_PORT_STAT_rf (p : Nat) : Field := ⟨ETH_PORT_STAT p, 7, 1⟩
abbrev ETH_PORT_STAT_fec_unc (p : Nat) : Field := ⟨ETH_PORT_STAT p, 8, 1⟩
abbrev ETH_PORT_STAT_tx_late (p : Nat) : Field := ⟨ETH_PORT_STAT p, 9, 1⟩
abbrev ETH_PORT_STAT_tx_slip (p : Nat) : Field := ⟨ETH_PORT_STAT p, 10, 1⟩
abbrev ETH_PORT_STAT_cnt_ovf (p : Nat) : Field := ⟨ETH_PORT_STAT p, 11, 1⟩
abbrev ETH_TS_DLY_RX (p : Nat) : Nat := 0x305000108 + p * 0x100
abbrev ETH_TS_DLY_RX_dly (p : Nat) : Field := ⟨ETH_TS_DLY_RX p, 0, 32⟩
abbrev ETH_TS_DLY_TX (p : Nat) : Nat := 0x30500010C + p * 0x100
abbrev ETH_TS_DLY_TX_dly (p : Nat) : Field := ⟨ETH_TS_DLY_TX p, 0, 32⟩
abbrev ETH_RX_FRM (p : Nat) : Nat := 0x305000120 + p * 0x100
abbrev ETH_RX_FRM_cnt (p : Nat) : Field := ⟨ETH_RX_FRM p, 0, 32⟩
abbrev ETH_RX_FRM_HI (p : Nat) : Nat := 0x305000124 + p * 0x100
abbrev ETH_RX_FRM_HI_cnt (p : Nat) : Field := ⟨ETH_RX_FRM_HI p, 0, 32⟩
abbrev ETH_RX_OCT (p : Nat) : Nat := 0x305000128 + p * 0x100
abbrev ETH_RX_OCT_cnt (p : Nat) : Field := ⟨ETH_RX_OCT p, 0, 32⟩
abbrev ETH_RX_OCT_HI (p : Nat) : Nat := 0x30500012C + p * 0x100
abbrev ETH_RX_OCT_HI_cnt (p : Nat) : Field := ⟨ETH_RX_OCT_HI p, 0, 32⟩
abbrev ETH_TX_FRM (p : Nat) : Nat := 0x305000130 + p * 0x100
abbrev ETH_TX_FRM_cnt (p : Nat) : Field := ⟨ETH_TX_FRM p, 0, 32⟩
abbrev ETH_TX_FRM_HI (p : Nat) : Nat := 0x305000134 + p * 0x100
abbrev ETH_TX_FRM_HI_cnt (p : Nat) : Field := ⟨ETH_TX_FRM_HI p, 0, 32⟩
abbrev ETH_TX_OCT (p : Nat) : Nat := 0x305000138 + p * 0x100
abbrev ETH_TX_OCT_cnt (p : Nat) : Field := ⟨ETH_TX_OCT p, 0, 32⟩
abbrev ETH_TX_OCT_HI (p : Nat) : Nat := 0x30500013C + p * 0x100
abbrev ETH_TX_OCT_HI_cnt (p : Nat) : Field := ⟨ETH_TX_OCT_HI p, 0, 32⟩
abbrev ETH_FEC_CORR (p : Nat) : Nat := 0x305000140 + p * 0x100
abbrev ETH_FEC_CORR_cnt (p : Nat) : Field := ⟨ETH_FEC_CORR p, 0, 32⟩
abbrev ETH_FEC_CORR_HI (p : Nat) : Nat := 0x305000144 + p * 0x100
abbrev ETH_FEC_CORR_HI_cnt (p : Nat) : Field := ⟨ETH_FEC_CORR_HI p, 0, 32⟩
abbrev ETH_RX_FCS (p : Nat) : Nat := 0x305000148 + p * 0x100
abbrev ETH_RX_FCS_cnt (p : Nat) : Field := ⟨ETH_RX_FCS p, 0, 32⟩
abbrev ETH_FEC_UNC (p : Nat) : Nat := 0x30500014C + p * 0x100
abbrev ETH_FEC_UNC_cnt (p : Nat) : Field := ⟨ETH_FEC_UNC p, 0, 32⟩
abbrev ETH_CLS_MISS (p : Nat) : Nat := 0x305000150 + p * 0x100
abbrev ETH_CLS_MISS_cnt (p : Nat) : Field := ⟨ETH_CLS_MISS p, 0, 32⟩
abbrev ETH_RXQ_DROP (p : Nat) : Nat := 0x305000154 + p * 0x100
abbrev ETH_RXQ_DROP_cnt (p : Nat) : Field := ⟨ETH_RXQ_DROP p, 0, 32⟩
abbrev ETH_TX_LATE (p : Nat) : Nat := 0x305000158 + p * 0x100
abbrev ETH_TX_LATE_cnt (p : Nat) : Field := ⟨ETH_TX_LATE p, 0, 32⟩
abbrev ETH_TX_SLIP (p : Nat) : Nat := 0x30500015C + p * 0x100
abbrev ETH_TX_SLIP_cnt (p : Nat) : Field := ⟨ETH_TX_SLIP p, 0, 32⟩
abbrev ETH_TX_BAD (p : Nat) : Nat := 0x305000160 + p * 0x100
abbrev ETH_TX_BAD_cnt (p : Nat) : Field := ⟨ETH_TX_BAD p, 0, 32⟩
abbrev ETH_PAUSE_RX (p : Nat) : Nat := 0x305000164 + p * 0x100
abbrev ETH_PAUSE_RX_cnt (p : Nat) : Field := ⟨ETH_PAUSE_RX p, 0, 32⟩
abbrev ETH_RXQ_CFG (i : Nat) : Nat := 0x305002000 + i * 0x8
abbrev ETH_RXQ_CFG_ring (i : Nat) : Field := ⟨ETH_RXQ_CFG i, 0, 12⟩
abbrev ETH_RXQ_CFG_tc (i : Nat) : Field := ⟨ETH_RXQ_CFG i, 12, 3⟩
abbrev ETH_RXQ_CFG_en (i : Nat) : Field := ⟨ETH_RXQ_CFG i, 15, 1⟩
abbrev ETH_RXQ_CFG_xoff (i : Nat) : Field := ⟨ETH_RXQ_CFG i, 16, 8⟩
abbrev ETH_RXQ_CFG_coal (i : Nat) : Field := ⟨ETH_RXQ_CFG i, 24, 8⟩
abbrev ETH_RXQ_EVT (i : Nat) : Nat := 0x305002004 + i * 0x8
abbrev ETH_RXQ_EVT_sq (i : Nat) : Field := ⟨ETH_RXQ_EVT i, 0, 16⟩
abbrev ETH_TXQ_CFG (i : Nat) : Nat := 0x305003000 + i * 0x4
abbrev ETH_TXQ_CFG_port (i : Nat) : Field := ⟨ETH_TXQ_CFG i, 0, 4⟩
abbrev ETH_TXQ_CFG_tc (i : Nat) : Field := ⟨ETH_TXQ_CFG i, 4, 3⟩
abbrev ETH_TXQ_CFG_en (i : Nat) : Field := ⟨ETH_TXQ_CFG i, 7, 1⟩
abbrev ETH_TXQ_CFG_dring (i : Nat) : Field := ⟨ETH_TXQ_CFG i, 8, 12⟩
abbrev ETH_TXQ_CFG_cring (i : Nat) : Field := ⟨ETH_TXQ_CFG i, 20, 12⟩
abbrev ETH_TXQ_DB (i : Nat) : Nat := 0x305003800 + i * 0x4
abbrev ETH_TXQ_DB_n (i : Nat) : Field := ⟨ETH_TXQ_DB i, 0, 16⟩

/-! Table 4-13 -/

abbrev LNK_LINE_CFG (n : Nat) : Nat := 0x304000000 + n * 0x1000
abbrev LNK_LINE_CFG_en (n : Nat) : Field := ⟨LNK_LINE_CFG n, 0, 1⟩
abbrev LNK_LINE_CFG_rate_code (n : Nat) : Field := ⟨LNK_LINE_CFG n, 1, 3⟩
abbrev LNK_LINE_CFG_reach (n : Nat) : Field := ⟨LNK_LINE_CFG n, 4, 1⟩
abbrev LNK_LINE_CFG_split (n : Nat) : Field := ⟨LNK_LINE_CFG n, 5, 1⟩
abbrev LNK_LINE_CFG_fec (n : Nat) : Field := ⟨LNK_LINE_CFG n, 6, 2⟩
abbrev LNK_LINE_CFG_sync_tol (n : Nat) : Field := ⟨LNK_LINE_CFG n, 8, 4⟩
abbrev LNK_LINE_CFG_max_iter (n : Nat) : Field := ⟨LNK_LINE_CFG n, 12, 5⟩
abbrev LNK_LINE_CFG_tx_pre1 (n : Nat) : Field := ⟨LNK_LINE_CFG n, 17, 4⟩
abbrev LNK_LINE_CFG_tx_post1 (n : Nat) : Field := ⟨LNK_LINE_CFG n, 21, 5⟩
abbrev LNK_LINE_CFG_tdd_frz_en (n : Nat) : Field := ⟨LNK_LINE_CFG n, 26, 1⟩

/-! Table 4-14 -/

abbrev LNK_LINE_CTL (n : Nat) : Nat := 0x304000004 + n * 0x1000
abbrev LNK_LINE_CTL_cold (n : Nat) : Field := ⟨LNK_LINE_CTL n, 0, 1⟩
abbrev LNK_LINE_CTL_warm (n : Nat) : Field := ⟨LNK_LINE_CTL n, 1, 1⟩
abbrev LNK_LINE_CTL_adapt_frz (n : Nat) : Field := ⟨LNK_LINE_CTL n, 2, 1⟩
abbrev LNK_LINE_STAT (n : Nat) : Nat := 0x304000008 + n * 0x1000
abbrev LNK_LINE_STAT_state (n : Nat) : Field := ⟨LNK_LINE_STAT n, 0, 4⟩
abbrev LNK_LINE_STAT_found_rate (n : Nat) : Field := ⟨LNK_LINE_STAT n, 4, 3⟩
abbrev LNK_LINE_STAT_pol_inv (n : Nat) : Field := ⟨LNK_LINE_STAT n, 7, 1⟩
abbrev LNK_LINE_STAT_searcher (n : Nat) : Field := ⟨LNK_LINE_STAT n, 8, 1⟩
abbrev LNK_LINE_STAT_lock (n : Nat) : Field := ⟨LNK_LINE_STAT n, 9, 1⟩
abbrev LNK_LINE_STAT_warm_ok (n : Nat) : Field := ⟨LNK_LINE_STAT n, 10, 1⟩
abbrev LNK_LINE_STAT_acq_to (n : Nat) : Field := ⟨LNK_LINE_STAT n, 11, 1⟩
abbrev LNK_LINE_STAT_mismatch (n : Nat) : Field := ⟨LNK_LINE_STAT n, 12, 1⟩
abbrev LNK_LINE_STAT_lol (n : Nat) : Field := ⟨LNK_LINE_STAT n, 13, 1⟩
abbrev LNK_LINE_STAT_cw_unc (n : Nat) : Field := ⟨LNK_LINE_STAT n, 14, 1⟩
abbrev LNK_LINE_STAT_margin_low (n : Nat) : Field := ⟨LNK_LINE_STAT n, 15, 1⟩
abbrev LNK_LINE_STAT_cfg_bad (n : Nat) : Field := ⟨LNK_LINE_STAT n, 16, 1⟩
abbrev LNK_QTHR (n : Nat) : Nat := 0x30400000C + n * 0x1000
abbrev LNK_QTHR_thr (n : Nat) : Field := ⟨LNK_QTHR n, 0, 10⟩
abbrev LNK_QUAL0 (n : Nat) : Nat := 0x304000010 + n * 0x1000
abbrev LNK_QUAL0_snr (n : Nat) : Field := ⟨LNK_QUAL0 n, 0, 10⟩
abbrev LNK_QUAL0_op_margin (n : Nat) : Field := ⟨LNK_QUAL0 n, 10, 10⟩
abbrev LNK_QUAL0_cap_margin (n : Nat) : Field := ⟨LNK_QUAL0 n, 20, 10⟩
abbrev LNK_QUAL0_valid (n : Nat) : Field := ⟨LNK_QUAL0 n, 30, 1⟩
abbrev LNK_QUAL1 (n : Nat) : Nat := 0x304000014 + n * 0x1000
abbrev LNK_QUAL1_gap (n : Nat) : Field := ⟨LNK_QUAL1 n, 0, 10⟩
abbrev LNK_QUAL1_ctle (n : Nat) : Field := ⟨LNK_QUAL1 n, 10, 4⟩
abbrev LNK_QUAL1_ffe_enh (n : Nat) : Field := ⟨LNK_QUAL1 n, 14, 8⟩
abbrev LNK_ECHO (n : Nat) : Nat := 0x304000018 + n * 0x1000
abbrev LNK_ECHO_erle (n : Nat) : Field := ⟨LNK_ECHO n, 0, 8⟩
abbrev LNK_ECHO_rl (n : Nat) : Field := ⟨LNK_ECHO n, 8, 8⟩
abbrev LNK_ECHO_far_pos (n : Nat) : Field := ⟨LNK_ECHO n, 16, 11⟩
abbrev LNK_CW_CNT (n : Nat) : Nat := 0x304000040 + n * 0x1000
abbrev LNK_CW_CNT_cnt (n : Nat) : Field := ⟨LNK_CW_CNT n, 0, 32⟩
abbrev LNK_CW_CNT_HI (n : Nat) : Nat := 0x304000044 + n * 0x1000
abbrev LNK_CW_CNT_HI_cnt (n : Nat) : Field := ⟨LNK_CW_CNT_HI n, 0, 32⟩
abbrev LNK_CW_CORR (n : Nat) : Nat := 0x304000048 + n * 0x1000
abbrev LNK_CW_CORR_cnt (n : Nat) : Field := ⟨LNK_CW_CORR n, 0, 32⟩
abbrev LNK_CW_CORR_HI (n : Nat) : Nat := 0x30400004C + n * 0x1000
abbrev LNK_CW_CORR_HI_cnt (n : Nat) : Field := ⟨LNK_CW_CORR_HI n, 0, 32⟩
abbrev LNK_BIT_CORR (n : Nat) : Nat := 0x304000050 + n * 0x1000
abbrev LNK_BIT_CORR_cnt (n : Nat) : Field := ⟨LNK_BIT_CORR n, 0, 32⟩
abbrev LNK_BIT_CORR_HI (n : Nat) : Nat := 0x304000054 + n * 0x1000
abbrev LNK_BIT_CORR_HI_cnt (n : Nat) : Field := ⟨LNK_BIT_CORR_HI n, 0, 32⟩
abbrev LNK_ITER_MAX (n : Nat) : Nat := 0x304000058 + n * 0x1000
abbrev LNK_ITER_MAX_cnt (n : Nat) : Field := ⟨LNK_ITER_MAX n, 0, 32⟩
abbrev LNK_ITER_MAX_HI (n : Nat) : Nat := 0x30400005C + n * 0x1000
abbrev LNK_ITER_MAX_HI_cnt (n : Nat) : Field := ⟨LNK_ITER_MAX_HI n, 0, 32⟩
abbrev LNK_CW_UNC (n : Nat) : Nat := 0x304000060 + n * 0x1000
abbrev LNK_CW_UNC_cnt (n : Nat) : Field := ⟨LNK_CW_UNC n, 0, 32⟩
abbrev LNK_LOL (n : Nat) : Nat := 0x304000064 + n * 0x1000
abbrev LNK_LOL_cnt (n : Nat) : Field := ⟨LNK_LOL n, 0, 32⟩
abbrev LNK_RETRAIN (n : Nat) : Nat := 0x304000068 + n * 0x1000
abbrev LNK_RETRAIN_cnt (n : Nat) : Field := ⟨LNK_RETRAIN n, 0, 32⟩
abbrev LNK_CNT_OVF (n : Nat) : Nat := 0x30400006C + n * 0x1000
abbrev LNK_CNT_OVF_unc_ovf (n : Nat) : Field := ⟨LNK_CNT_OVF n, 0, 1⟩
abbrev LNK_CNT_OVF_lol_ovf (n : Nat) : Field := ⟨LNK_CNT_OVF n, 1, 1⟩
abbrev LNK_CNT_OVF_rtr_ovf (n : Nat) : Field := ⟨LNK_CNT_OVF n, 2, 1⟩

/-! Table 4-15 -/

abbrev LNK_SRCH (d : Nat) : Nat := 0x304400000 + d * 0x1000
abbrev LNK_SRCH_busy (d : Nat) : Field := ⟨LNK_SRCH d, 0, 7⟩
abbrev LNK_SRCH_waiting (d : Nat) : Field := ⟨LNK_SRCH d, 7, 9⟩
abbrev LNK_REF_STAT (d : Nat) : Nat := 0x304400004 + d * 0x1000
abbrev LNK_REF_STAT_ok (d : Nat) : Field := ⟨LNK_REF_STAT d, 0, 4⟩
abbrev LNK_REF_STAT_mon (d : Nat) : Field := ⟨LNK_REF_STAT d, 4, 4⟩

/-! Table 5-16 -/

abbrev LNK_LINK_CFG (n : Nat) : Nat := 0x304000100 + n * 0x1000
abbrev LNK_LINK_CFG_en (n : Nat) : Field := ⟨LNK_LINK_CFG n, 0, 1⟩
abbrev LNK_LINK_CFG_bsize (n : Nat) : Field := ⟨LNK_LINK_CFG n, 1, 2⟩
abbrev LNK_LINK_CFG_bgid (n : Nat) : Field := ⟨LNK_LINK_CFG n, 3, 8⟩
abbrev LNK_LINK_CFG_fmt (n : Nat) : Field := ⟨LNK_LINK_CFG n, 11, 3⟩
abbrev LNK_LINK_CFG_srate (n : Nat) : Field := ⟨LNK_LINK_CFG n, 14, 3⟩
abbrev LNK_LINK_CFG_nstr (n : Nat) : Field := ⟨LNK_LINK_CFG n, 17, 8⟩
abbrev LNK_LINK_CFG_obs_en (n : Nat) : Field := ⟨LNK_LINK_CFG n, 25, 1⟩
abbrev LNK_LINK_CFG2 (n : Nat) : Nat := 0x304000104 + n * 0x1000
abbrev LNK_LINK_CFG2_str_base (n : Nat) : Field := ⟨LNK_LINK_CFG2 n, 0, 11⟩
abbrev LNK_LINK_CFG2_master (n : Nat) : Field := ⟨LNK_LINK_CFG2 n, 11, 10⟩
abbrev LNK_LINK_STAT (n : Nat) : Nat := 0x304000108 + n * 0x1000
abbrev LNK_LINK_STAT_state (n : Nat) : Field := ⟨LNK_LINK_STAT n, 0, 3⟩
abbrev LNK_LINK_STAT_steer (n : Nat) : Field := ⟨LNK_LINK_STAT n, 3, 2⟩
abbrev LNK_LINK_STAT_lane_rev (n : Nat) : Field := ⟨LNK_LINK_STAT n, 5, 1⟩
abbrev LNK_LINK_STAT_radio_lock (n : Nat) : Field := ⟨LNK_LINK_STAT n, 6, 1⟩
abbrev LNK_LINK_STAT_sync_bad (n : Nat) : Field := ⟨LNK_LINK_STAT n, 8, 1⟩
abbrev LNK_LINK_STAT_skew (n : Nat) : Field := ⟨LNK_LINK_STAT n, 9, 1⟩
abbrev LNK_LINK_STAT_bond_bad (n : Nat) : Field := ⟨LNK_LINK_STAT n, 10, 1⟩
abbrev LNK_LINK_STAT_hdr_bad (n : Nat) : Field := ⟨LNK_LINK_STAT n, 11, 1⟩
abbrev LNK_LINK_STAT_cc_bad (n : Nat) : Field := ⟨LNK_LINK_STAT n, 12, 1⟩
abbrev LNK_LINK_STAT_cmd_late (n : Nat) : Field := ⟨LNK_LINK_STAT n, 13, 1⟩
abbrev LNK_LINK_STAT_cmd_ref (n : Nat) : Field := ⟨LNK_LINK_STAT n, 14, 1⟩
abbrev LNK_LINK_STAT_dl_unf (n : Nat) : Field := ⟨LNK_LINK_STAT n, 15, 1⟩
abbrev LNK_LINK_STAT_unlock (n : Nat) : Field := ⟨LNK_LINK_STAT n, 16, 1⟩
abbrev LNK_LINK_STAT_overrun (n : Nat) : Field := ⟨LNK_LINK_STAT n, 17, 1⟩
abbrev LNK_LINK_STAT_cfg_bad (n : Nat) : Field := ⟨LNK_LINK_STAT n, 18, 1⟩
abbrev LNK_STEER_CFG (n : Nat) : Nat := 0x30400010C + n * 0x1000
abbrev LNK_STEER_CFG_bw (n : Nat) : Field := ⟨LNK_STEER_CFG n, 0, 9⟩
abbrev LNK_STEER_CFG_lock_thr (n : Nat) : Field := ⟨LNK_STEER_CFG n, 9, 7⟩
abbrev LNK_STEER_CFG_range (n : Nat) : Field := ⟨LNK_STEER_CFG n, 16, 8⟩
abbrev LNK_ASYM (n : Nat) : Nat := 0x304000110 + n * 0x1000
abbrev LNK_ASYM_asym (n : Nat) : Field := ⟨LNK_ASYM n, 0, 32⟩
abbrev LNK_DL_MARGIN (n : Nat) : Nat := 0x304000114 + n * 0x1000
abbrev LNK_DL_MARGIN_margin (n : Nat) : Field := ⟨LNK_DL_MARGIN n, 0, 16⟩
abbrev LNK_STEER (n : Nat) : Nat := 0x304000118 + n * 0x1000
abbrev LNK_STEER_s (n : Nat) : Field := ⟨LNK_STEER n, 0, 24⟩
abbrev LNK_STEER_ssn (n : Nat) : Field := ⟨LNK_STEER n, 24, 8⟩
abbrev LNK_TERR (n : Nat) : Nat := 0x30400011C + n * 0x1000
abbrev LNK_TERR_e (n : Nat) : Field := ⟨LNK_TERR n, 0, 32⟩
abbrev LNK_DUL (n : Nat) : Nat := 0x304000120 + n * 0x1000
abbrev LNK_DUL_d_ul (n : Nat) : Field := ⟨LNK_DUL n, 0, 32⟩
abbrev LNK_CMD_LO (n : Nat) : Nat := 0x304000124 + n * 0x1000
abbrev LNK_CMD_LO_target (n : Nat) : Field := ⟨LNK_CMD_LO n, 0, 32⟩
abbrev LNK_CMD_HI (n : Nat) : Nat := 0x304000128 + n * 0x1000
abbrev LNK_CMD_HI_cmd (n : Nat) : Field := ⟨LNK_CMD_HI n, 0, 32⟩
abbrev LNK_CMD_STAT (n : Nat) : Nat := 0x30400012C + n * 0x1000
abbrev LNK_CMD_STAT_pend (n : Nat) : Field := ⟨LNK_CMD_STAT n, 0, 5⟩
abbrev LNK_CMD_STAT_ack_cseq (n : Nat) : Field := ⟨LNK_CMD_STAT n, 5, 8⟩
abbrev LNK_CMD_STAT_ack_st (n : Nat) : Field := ⟨LNK_CMD_STAT n, 13, 3⟩
abbrev LNK_TDD_PER (n : Nat) : Nat := 0x304000130 + n * 0x1000
abbrev LNK_TDD_PER_per (n : Nat) : Field := ⟨LNK_TDD_PER n, 0, 32⟩
abbrev LNK_TDD (n : Nat) (k : Nat) : Nat := 0x304000140 + n * 0x1000 + k * 0x4
abbrev LNK_TDD_ofs (n : Nat) (k : Nat) : Field := ⟨LNK_TDD n k, 0, 30⟩
abbrev LNK_TDD_dir (n : Nat) (k : Nat) : Field := ⟨LNK_TDD n k, 30, 2⟩
abbrev LNK_RPAGE (n : Nat) (k : Nat) : Nat := 0x304000160 + n * 0x1000 + k * 0x4
abbrev LNK_RPAGE_pval (n : Nat) (k : Nat) : Field := ⟨LNK_RPAGE n k, 0, 32⟩
abbrev LNK_FILL (n : Nat) : Nat := 0x304000180 + n * 0x1000
abbrev LNK_FILL_cnt (n : Nat) : Field := ⟨LNK_FILL n, 0, 32⟩
abbrev LNK_FILL_HI (n : Nat) : Nat := 0x304000184 + n * 0x1000
abbrev LNK_FILL_HI_cnt (n : Nat) : Field := ⟨LNK_FILL_HI n, 0, 32⟩
abbrev LNK_ERASE (n : Nat) : Nat := 0x304000188 + n * 0x1000
abbrev LNK_ERASE_cnt (n : Nat) : Field := ⟨LNK_ERASE n, 0, 32⟩
abbrev LNK_ERASE_HI (n : Nat) : Nat := 0x30400018C + n * 0x1000
abbrev LNK_ERASE_HI_cnt (n : Nat) : Field := ⟨LNK_ERASE_HI n, 0, 32⟩
abbrev LNK_SYNC_BAD (n : Nat) : Nat := 0x304000190 + n * 0x1000
abbrev LNK_SYNC_BAD_cnt (n : Nat) : Field := ⟨LNK_SYNC_BAD n, 0, 32⟩
abbrev LNK_HDR_BAD (n : Nat) : Nat := 0x304000194 + n * 0x1000
abbrev LNK_HDR_BAD_cnt (n : Nat) : Field := ⟨LNK_HDR_BAD n, 0, 32⟩
abbrev LNK_CC_BAD (n : Nat) : Nat := 0x304000198 + n * 0x1000
abbrev LNK_CC_BAD_cnt (n : Nat) : Field := ⟨LNK_CC_BAD n, 0, 32⟩
abbrev LNK_CMD_LATE (n : Nat) : Nat := 0x30400019C + n * 0x1000
abbrev LNK_CMD_LATE_cnt (n : Nat) : Field := ⟨LNK_CMD_LATE n, 0, 32⟩
abbrev LNK_SUNLK (n : Nat) : Nat := 0x3040001A0 + n * 0x1000
abbrev LNK_SUNLK_cnt (n : Nat) : Field := ⟨LNK_SUNLK n, 0, 32⟩
abbrev LNK_BSHIFT (n : Nat) : Nat := 0x3040001A4 + n * 0x1000
abbrev LNK_BSHIFT_cnt (n : Nat) : Field := ⟨LNK_BSHIFT n, 0, 32⟩
abbrev LNK_CNT_OVF2 (n : Nat) : Nat := 0x3040001A8 + n * 0x1000
abbrev LNK_CNT_OVF2_ovf (n : Nat) : Field := ⟨LNK_CNT_OVF2 n, 0, 6⟩
abbrev LNK_SKEW (n : Nat) : Nat := 0x3040001AC + n * 0x1000
abbrev LNK_SKEW_skew (n : Nat) : Field := ⟨LNK_SKEW n, 0, 11⟩
abbrev LNK_SKEW_bpos_rx (n : Nat) : Field := ⟨LNK_SKEW n, 11, 3⟩

/-! Table 6-7 -/

abbrev LNK_TEST_CTL (n : Nat) : Nat := 0x304000200 + n * 0x1000
abbrev LNK_TEST_CTL_loop (n : Nat) : Field := ⟨LNK_TEST_CTL n, 0, 2⟩
abbrev LNK_TEST_CTL_gen_en (n : Nat) : Field := ⟨LNK_TEST_CTL n, 2, 1⟩
abbrev LNK_TEST_CTL_chk_en (n : Nat) : Field := ⟨LNK_TEST_CTL n, 3, 1⟩
abbrev LNK_TEST_CTL_inj_en (n : Nat) : Field := ⟨LNK_TEST_CTL n, 4, 1⟩
abbrev LNK_TEST_CTL_live (n : Nat) : Field := ⟨LNK_TEST_CTL n, 5, 1⟩
abbrev LNK_TEST_CTL_inj_one (n : Nat) : Field := ⟨LNK_TEST_CTL n, 6, 1⟩
abbrev LNK_TEST_CTL_clr (n : Nat) : Field := ⟨LNK_TEST_CTL n, 7, 1⟩
abbrev LNK_GEN_CFG (n : Nat) : Nat := 0x304000204 + n * 0x1000
abbrev LNK_GEN_CFG_pat (n : Nat) : Field := ⟨LNK_GEN_CFG n, 0, 3⟩
abbrev LNK_GEN_CFG_inv (n : Nat) : Field := ⟨LNK_GEN_CFG n, 3, 1⟩
abbrev LNK_GEN_CFG_ulen (n : Nat) : Field := ⟨LNK_GEN_CFG n, 4, 3⟩
abbrev LNK_INJ_CFG (n : Nat) : Nat := 0x304000208 + n * 0x1000
abbrev LNK_INJ_CFG_type_ (n : Nat) : Field := ⟨LNK_INJ_CFG n, 0, 3⟩
abbrev LNK_INJ_CFG_blen (n : Nat) : Field := ⟨LNK_INJ_CFG n, 3, 7⟩
abbrev LNK_INJ_INT (n : Nat) : Nat := 0x30400020C + n * 0x1000
abbrev LNK_INJ_INT_int_ (n : Nat) : Field := ⟨LNK_INJ_INT n, 0, 32⟩
abbrev LNK_PAT_USR (n : Nat) (k : Nat) : Nat := 0x304000210 + n * 0x1000 + k * 0x4
abbrev LNK_PAT_USR_word (n : Nat) (k : Nat) : Field := ⟨LNK_PAT_USR n k, 0, 32⟩
abbrev LNK_TEST_STAT (n : Nat) : Nat := 0x304000230 + n * 0x1000
abbrev LNK_TEST_STAT_chk_sync (n : Nat) : Field := ⟨LNK_TEST_STAT n, 0, 1⟩
abbrev LNK_TEST_STAT_loop_act (n : Nat) : Field := ⟨LNK_TEST_STAT n, 1, 1⟩
abbrev LNK_TEST_STAT_chk_loss (n : Nat) : Field := ⟨LNK_TEST_STAT n, 2, 1⟩
abbrev LNK_TEST_STAT_test_ref (n : Nat) : Field := ⟨LNK_TEST_STAT n, 3, 1⟩
abbrev LNK_TEST_STAT_ref_why (n : Nat) : Field := ⟨LNK_TEST_STAT n, 4, 2⟩
abbrev LNK_TEST_STAT_mode_bad (n : Nat) : Field := ⟨LNK_TEST_STAT n, 6, 1⟩
abbrev LNK_TEST_STAT_loop_end (n : Nat) : Field := ⟨LNK_TEST_STAT n, 7, 1⟩
abbrev LNK_CHK_BITS (n : Nat) : Nat := 0x304000240 + n * 0x1000
abbrev LNK_CHK_BITS_cnt (n : Nat) : Field := ⟨LNK_CHK_BITS n, 0, 32⟩
abbrev LNK_CHK_BITS_HI (n : Nat) : Nat := 0x304000244 + n * 0x1000
abbrev LNK_CHK_BITS_HI_cnt (n : Nat) : Field := ⟨LNK_CHK_BITS_HI n, 0, 32⟩
abbrev LNK_CHK_ERR (n : Nat) : Nat := 0x304000248 + n * 0x1000
abbrev LNK_CHK_ERR_cnt (n : Nat) : Field := ⟨LNK_CHK_ERR n, 0, 32⟩
abbrev LNK_CHK_ERR_HI (n : Nat) : Nat := 0x30400024C + n * 0x1000
abbrev LNK_CHK_ERR_HI_cnt (n : Nat) : Field := ⟨LNK_CHK_ERR_HI n, 0, 32⟩
abbrev LNK_INJ_CNT (n : Nat) : Nat := 0x304000250 + n * 0x1000
abbrev LNK_INJ_CNT_cnt (n : Nat) : Field := ⟨LNK_INJ_CNT n, 0, 32⟩
abbrev LNK_INJ_CNT_HI (n : Nat) : Nat := 0x304000254 + n * 0x1000
abbrev LNK_INJ_CNT_HI_cnt (n : Nat) : Field := ⟨LNK_INJ_CNT_HI n, 0, 32⟩
abbrev LNK_GEN_DISC (n : Nat) : Nat := 0x304000258 + n * 0x1000
abbrev LNK_GEN_DISC_cnt (n : Nat) : Field := ⟨LNK_GEN_DISC n, 0, 32⟩
abbrev LNK_GEN_DISC_HI (n : Nat) : Nat := 0x30400025C + n * 0x1000
abbrev LNK_GEN_DISC_HI_cnt (n : Nat) : Field := ⟨LNK_GEN_DISC_HI n, 0, 32⟩
abbrev LNK_CHK_LOSS (n : Nat) : Nat := 0x304000260 + n * 0x1000
abbrev LNK_CHK_LOSS_cnt (n : Nat) : Field := ⟨LNK_CHK_LOSS n, 0, 32⟩
abbrev LNK_CNT_OVF3 (n : Nat) : Nat := 0x304000264 + n * 0x1000
abbrev LNK_CNT_OVF3_loss_ovf (n : Nat) : Field := ⟨LNK_CNT_OVF3 n, 0, 1⟩

/-! Table 7-5 -/

abbrev RP_FILL (k : Nat) : Nat := 0x306100000 + k * 0x20
abbrev RP_FILL_fill (k : Nat) : Field := ⟨RP_FILL k, 0, 22⟩
abbrev RP_MARK (k : Nat) : Nat := 0x306100004 + k * 0x20
abbrev RP_MARK_rd (k : Nat) : Field := ⟨RP_MARK k, 0, 1⟩
abbrev RP_UNMARK (k : Nat) : Nat := 0x306100008 + k * 0x20
abbrev RP_UNMARK_rd (k : Nat) : Field := ⟨RP_UNMARK k, 0, 1⟩
abbrev RP_REWIND (k : Nat) : Nat := 0x30610000C + k * 0x20
abbrev RP_REWIND_rd (k : Nat) : Field := ⟨RP_REWIND k, 0, 1⟩
abbrev RP_ADV (k : Nat) : Nat := 0x306100010 + k * 0x20
abbrev RP_ADV_rd (k : Nat) : Field := ⟨RP_ADV k, 0, 1⟩
abbrev RP_ADV_words (k : Nat) : Field := ⟨RP_ADV k, 1, 19⟩
abbrev RP_STAT (k : Nat) : Nat := 0x306100014 + k * 0x20
abbrev RP_STAT_rw0 (k : Nat) : Field := ⟨RP_STAT k, 0, 2⟩
abbrev RP_STAT_rw1 (k : Nat) : Field := ⟨RP_STAT k, 2, 2⟩
abbrev RP_STAT_lost (k : Nat) : Field := ⟨RP_STAT k, 4, 2⟩
abbrev RP_STAT_ovr (k : Nat) : Field := ⟨RP_STAT k, 6, 2⟩
abbrev RP_STAT_rep (k : Nat) : Field := ⟨RP_STAT k, 8, 2⟩

/-! Table 7-6 -/

abbrev STO_CTL : Nat := 0x306000000
abbrev STO_CTL_scrub_en : Field := ⟨STO_CTL, 0, 1⟩
abbrev STO_CTL_regen_en : Field := ⟨STO_CTL, 1, 1⟩
abbrev STO_CTL_pk_clr : Field := ⟨STO_CTL, 2, 1⟩
abbrev STO_CTL_xf_clr : Field := ⟨STO_CTL, 3, 1⟩
abbrev STO_STAT : Nat := 0x306000004
abbrev STO_STAT_free : Field := ⟨STO_STAT, 0, 15⟩
abbrev STO_STAT_quota_bad : Field := ⟨STO_STAT, 15, 1⟩
abbrev STO_STAT_alloc_ref : Field := ⟨STO_STAT, 16, 1⟩
abbrev STO_STAT_mark_lost : Field := ⟨STO_STAT, 17, 1⟩
abbrev STO_STAT_overrun : Field := ⟨STO_STAT, 18, 1⟩
abbrev STO_STAT_perr : Field := ⟨STO_STAT, 19, 1⟩
abbrev STO_STAT_xf_unf : Field := ⟨STO_STAT, 20, 1⟩
abbrev STO_STAT_xf_ovf : Field := ⟨STO_STAT, 21, 1⟩
abbrev STO_STAT_cnt_ovf : Field := ⟨STO_STAT, 22, 1⟩
abbrev STO_SCRUB_CFG : Nat := 0x306000008
abbrev STO_SCRUB_CFG_intv : Field := ⟨STO_SCRUB_CFG, 0, 32⟩
abbrev STO_SCRUB_POS : Nat := 0x30600000C
abbrev STO_SCRUB_POS_row : Field := ⟨STO_SCRUB_POS, 0, 12⟩
abbrev STO_SCRUB_FORCED : Nat := 0x306000010
abbrev STO_SCRUB_FORCED_cnt : Field := ⟨STO_SCRUB_FORCED, 0, 32⟩
abbrev STO_SCRUB_FORCED_HI : Nat := 0x306000014
abbrev STO_SCRUB_FORCED_HI_cnt : Field := ⟨STO_SCRUB_FORCED_HI, 0, 32⟩
abbrev STO_SCRUB_PASSES : Nat := 0x306000018
abbrev STO_SCRUB_PASSES_cnt : Field := ⟨STO_SCRUB_PASSES, 0, 32⟩
abbrev STO_PERR_XFER : Nat := 0x30600001C
abbrev STO_PERR_XFER_cnt : Field := ⟨STO_PERR_XFER, 0, 32⟩
abbrev STO_PERR_STORED : Nat := 0x306000020
abbrev STO_PERR_STORED_cnt : Field := ⟨STO_PERR_STORED, 0, 32⟩
abbrev STO_PERR_LOST : Nat := 0x306000024
abbrev STO_PERR_LOST_cnt : Field := ⟨STO_PERR_LOST, 0, 32⟩
abbrev STO_REGEN : Nat := 0x306000028
abbrev STO_REGEN_cnt : Field := ⟨STO_REGEN, 0, 32⟩
abbrev STO_ERASED : Nat := 0x30600002C
abbrev STO_ERASED_cnt : Field := ⟨STO_ERASED, 0, 32⟩
abbrev STO_ALLOC_REF : Nat := 0x306000030
abbrev STO_ALLOC_REF_cnt : Field := ⟨STO_ALLOC_REF, 0, 32⟩
abbrev STO_XF_UNF : Nat := 0x306000034
abbrev STO_XF_UNF_cnt : Field := ⟨STO_XF_UNF, 0, 32⟩
abbrev STO_XF_OVF : Nat := 0x306000038
abbrev STO_XF_OVF_cnt : Field := ⟨STO_XF_OVF, 0, 32⟩
abbrev STO_CNT_OVF : Nat := 0x30600003C
abbrev STO_CNT_OVF_ovf : Field := ⟨STO_CNT_OVF, 0, 9⟩
abbrev STO_PERR_ADDR : Nat := 0x306000040
abbrev STO_PERR_ADDR_line : Field := ⟨STO_PERR_ADDR, 0, 20⟩
abbrev STO_PERR_ADDR_word : Field := ⟨STO_PERR_ADDR, 20, 3⟩
abbrev STO_PERR_ADDR_hop : Field := ⟨STO_PERR_ADDR, 23, 2⟩
abbrev STO_XF_LAST : Nat := 0x306000044
abbrev STO_XF_LAST_id : Field := ⟨STO_XF_LAST, 0, 16⟩
abbrev STO_XF_LAST_what : Field := ⟨STO_XF_LAST, 16, 1⟩
abbrev STO_RCMD : Nat := 0x306000048
abbrev STO_RCMD_ring : Field := ⟨STO_RCMD, 0, 12⟩
abbrev STO_RCMD_op : Field := ⟨STO_RCMD, 12, 4⟩
abbrev STO_RCMD_STAT : Nat := 0x30600004C
abbrev STO_RCMD_STAT_busy : Field := ⟨STO_RCMD_STAT, 0, 1⟩
abbrev STO_RCMD_STAT_result : Field := ⟨STO_RCMD_STAT, 1, 3⟩
abbrev STO_SYSLIM : Nat := 0x306000050
abbrev STO_SYSLIM_grain : Field := ⟨STO_SYSLIM, 0, 14⟩
abbrev STO_CLS (c : Nat) : Nat := 0x306000100 + c * 0x8
abbrev STO_CLS_quota (c : Nat) : Field := ⟨STO_CLS c, 0, 14⟩
abbrev STO_CLS_tbl (c : Nat) : Field := ⟨STO_CLS c, 15, 1⟩
abbrev STO_CLS_shr (c : Nat) : Field := ⟨STO_CLS c, 16, 14⟩
abbrev STO_CLS_HELD (c : Nat) : Nat := 0x306000104 + c * 0x8
abbrev STO_CLS_HELD_held (c : Nat) : Field := ⟨STO_CLS_HELD c, 0, 15⟩
abbrev STO_CLS_HELD_peak (c : Nat) : Field := ⟨STO_CLS_HELD c, 16, 15⟩

/-! Table 8-5 -/

abbrev MOV_CH_CFG (c : Nat) : Nat := 0x307000000 + c * 0x100
abbrev MOV_CH_CFG_en (c : Nat) : Field := ⟨MOV_CH_CFG c, 0, 1⟩
abbrev MOV_CH_CFG_pri (c : Nat) : Field := ⟨MOV_CH_CFG c, 1, 2⟩
abbrev MOV_CH_CTL (c : Nat) : Nat := 0x307000004 + c * 0x100
abbrev MOV_CH_CTL_stop (c : Nat) : Field := ⟨MOV_CH_CTL c, 0, 1⟩
abbrev MOV_CH_CTL_clr (c : Nat) : Field := ⟨MOV_CH_CTL c, 1, 1⟩
abbrev MOV_CH_STAT (c : Nat) : Nat := 0x307000008 + c * 0x100
abbrev MOV_CH_STAT_state (c : Nat) : Field := ⟨MOV_CH_STAT c, 0, 3⟩
abbrev MOV_CH_STAT_qdepth (c : Nat) : Field := ⟨MOV_CH_STAT c, 3, 5⟩
abbrev MOV_CH_STAT_req (c : Nat) : Field := ⟨MOV_CH_STAT c, 8, 1⟩
abbrev MOV_CH_STAT_late (c : Nat) : Field := ⟨MOV_CH_STAT c, 9, 1⟩
abbrev MOV_CH_STAT_bad (c : Nat) : Field := ⟨MOV_CH_STAT c, 10, 1⟩
abbrev MOV_CH_STAT_erased (c : Nat) : Field := ⟨MOV_CH_STAT c, 11, 1⟩
abbrev MOV_CH_STAT_cnt_ovf (c : Nat) : Field := ⟨MOV_CH_STAT c, 12, 1⟩
abbrev MOV_CH_SEQ (c : Nat) : Nat := 0x30700000C + c * 0x100
abbrev MOV_CH_SEQ_seq (c : Nat) : Field := ⟨MOV_CH_SEQ c, 0, 32⟩
abbrev MOV_CH_LEVEL (c : Nat) : Nat := 0x307000010 + c * 0x100
abbrev MOV_CH_LEVEL_level (c : Nat) : Field := ⟨MOV_CH_LEVEL c, 0, 22⟩
abbrev MOV_BYTES (c : Nat) : Nat := 0x307000018 + c * 0x100
abbrev MOV_BYTES_cnt (c : Nat) : Field := ⟨MOV_BYTES c, 0, 32⟩
abbrev MOV_BYTES_HI (c : Nat) : Nat := 0x30700001C + c * 0x100
abbrev MOV_BYTES_HI_cnt (c : Nat) : Field := ⟨MOV_BYTES_HI c, 0, 32⟩
abbrev MOV_DESC (c : Nat) : Nat := 0x307000020 + c * 0x100
abbrev MOV_DESC_cnt (c : Nat) : Field := ⟨MOV_DESC c, 0, 32⟩
abbrev MOV_DESC_HI (c : Nat) : Nat := 0x307000024 + c * 0x100
abbrev MOV_DESC_HI_cnt (c : Nat) : Field := ⟨MOV_DESC_HI c, 0, 32⟩
abbrev MOV_LATE (c : Nat) : Nat := 0x307000028 + c * 0x100
abbrev MOV_LATE_cnt (c : Nat) : Field := ⟨MOV_LATE c, 0, 32⟩
abbrev MOV_BAD (c : Nat) : Nat := 0x30700002C + c * 0x100
abbrev MOV_BAD_cnt (c : Nat) : Field := ⟨MOV_BAD c, 0, 32⟩
abbrev MOV_ERASED (c : Nat) : Nat := 0x307000030 + c * 0x100
abbrev MOV_ERASED_cnt (c : Nat) : Field := ⟨MOV_ERASED c, 0, 32⟩
abbrev MOV_CNT_OVF (c : Nat) : Nat := 0x307000034 + c * 0x100
abbrev MOV_CNT_OVF_ovf (c : Nat) : Field := ⟨MOV_CNT_OVF c, 0, 3⟩
abbrev MOV_Q (c : Nat) (w : Nat) : Nat := 0x307000040 + c * 0x100 + w * 0x4
abbrev MOV_Q_word (c : Nat) (w : Nat) : Field := ⟨MOV_Q c w, 0, 32⟩

/-! Table 8-6 -/

abbrev MOV_UNIT_LINES (u : Nat) : Nat := 0x307008000 + u * 0x10
abbrev MOV_UNIT_LINES_cnt (u : Nat) : Field := ⟨MOV_UNIT_LINES u, 0, 32⟩
abbrev MOV_UNIT_LINES_HI (u : Nat) : Nat := 0x307008004 + u * 0x10
abbrev MOV_UNIT_LINES_HI_cnt (u : Nat) : Field := ⟨MOV_UNIT_LINES_HI u, 0, 32⟩
abbrev MOV_UNIT_BUSY (u : Nat) : Nat := 0x307008008 + u * 0x10
abbrev MOV_UNIT_BUSY_cnt (u : Nat) : Field := ⟨MOV_UNIT_BUSY u, 0, 32⟩
abbrev MOV_UNIT_BUSY_HI (u : Nat) : Nat := 0x30700800C + u * 0x10
abbrev MOV_UNIT_BUSY_HI_cnt (u : Nat) : Field := ⟨MOV_UNIT_BUSY_HI u, 0, 32⟩

/-! Table 9-1 -/

abbrev FEX_XB_LO (a : Nat) : Nat := 0x308200000 + a * 0x8
abbrev FEX_XB_LO_cl (a : Nat) : Field := ⟨FEX_XB_LO a, 0, 5⟩
abbrev FEX_XB_LO_slot (a : Nat) : Field := ⟨FEX_XB_LO a, 5, 7⟩
abbrev FEX_XB_LO_valid (a : Nat) : Field := ⟨FEX_XB_LO a, 12, 1⟩
abbrev FEX_XB_LO_new_cl (a : Nat) : Field := ⟨FEX_XB_LO a, 13, 5⟩
abbrev FEX_XB_LO_new_slot (a : Nat) : Field := ⟨FEX_XB_LO a, 18, 7⟩
abbrev FEX_XB_LO_dual (a : Nat) : Field := ⟨FEX_XB_LO a, 25, 1⟩
abbrev FEX_XB_HI (a : Nat) : Nat := 0x308200004 + a * 0x8
abbrev FEX_XB_HI_sw_frame (a : Nat) : Field := ⟨FEX_XB_HI a, 0, 32⟩

/-! Table 9-8 -/

abbrev FEX_CTL : Nat := 0x308000000
abbrev FEX_CTL_mask_mute : Field := ⟨FEX_CTL, 0, 1⟩
abbrev FEX_STAT : Nat := 0x308000004
abbrev FEX_STAT_fault : Field := ⟨FEX_STAT, 0, 17⟩
abbrev FEX_CL_CFG (cl : Nat) : Nat := 0x308010000 + cl * 0x10000
abbrev FEX_CL_CFG_qring (cl : Nat) : Field := ⟨FEX_CL_CFG cl, 0, 12⟩
abbrev FEX_CL_CFG_q_en (cl : Nat) : Field := ⟨FEX_CL_CFG cl, 12, 1⟩
abbrev FEX_CL_STAT (cl : Nat) : Nat := 0x308010004 + cl * 0x10000
abbrev FEX_CL_STAT_nslot (cl : Nat) : Field := ⟨FEX_CL_STAT cl, 0, 8⟩
abbrev FEX_CL_STAT_evt (cl : Nat) : Field := ⟨FEX_CL_STAT cl, 8, 9⟩
abbrev FEX_CL_STAT_drop (cl : Nat) : Field := ⟨FEX_CL_STAT cl, 17, 1⟩
abbrev FEX_CL_STAT_dl_late (cl : Nat) : Field := ⟨FEX_CL_STAT cl, 18, 1⟩
abbrev FEX_CL_STAT_mask (cl : Nat) : Field := ⟨FEX_CL_STAT cl, 19, 1⟩
abbrev FEX_CL_STAT_sat (cl : Nat) : Field := ⟨FEX_CL_STAT cl, 20, 1⟩
abbrev FEX_CL_STAT_perr (cl : Nat) : Field := ⟨FEX_CL_STAT cl, 21, 1⟩
abbrev FEX_CL_STAT_cmd_bad (cl : Nat) : Field := ⟨FEX_CL_STAT cl, 22, 1⟩
abbrev FEX_CL_STAT_more (cl : Nat) : Field := ⟨FEX_CL_STAT cl, 23, 1⟩
abbrev FEX_CL_STAT_cfg_bad (cl : Nat) : Field := ⟨FEX_CL_STAT cl, 24, 1⟩
abbrev FEX_CL_STAT_cnt_ovf (cl : Nat) : Field := ⟨FEX_CL_STAT cl, 25, 1⟩
abbrev FEX_CL_RATE (cl : Nat) : Nat := 0x308010008 + cl * 0x10000
abbrev FEX_CL_RATE_rate (cl : Nat) : Field := ⟨FEX_CL_RATE cl, 0, 15⟩
abbrev FEX_CL_RATE_nv2 (cl : Nat) : Field := ⟨FEX_CL_RATE cl, 15, 6⟩
abbrev FEX_CQ_STAT (cl : Nat) : Nat := 0x30801000C + cl * 0x10000
abbrev FEX_CQ_STAT_depth (cl : Nat) : Field := ⟨FEX_CQ_STAT cl, 0, 7⟩
abbrev FEX_CQ_STAT_armed (cl : Nat) : Field := ⟨FEX_CQ_STAT cl, 7, 5⟩
abbrev FEX_UL_SYM (cl : Nat) : Nat := 0x308010010 + cl * 0x10000
abbrev FEX_UL_SYM_cnt (cl : Nat) : Field := ⟨FEX_UL_SYM cl, 0, 32⟩
abbrev FEX_UL_SYM_HI (cl : Nat) : Nat := 0x308010014 + cl * 0x10000
abbrev FEX_UL_SYM_HI_cnt (cl : Nat) : Field := ⟨FEX_UL_SYM_HI cl, 0, 32⟩
abbrev FEX_DL_SYM (cl : Nat) : Nat := 0x308010018 + cl * 0x10000
abbrev FEX_DL_SYM_cnt (cl : Nat) : Field := ⟨FEX_DL_SYM cl, 0, 32⟩
abbrev FEX_DL_SYM_HI (cl : Nat) : Nat := 0x30801001C + cl * 0x10000
abbrev FEX_DL_SYM_HI_cnt (cl : Nat) : Field := ⟨FEX_DL_SYM_HI cl, 0, 32⟩
abbrev FEX_SAT (cl : Nat) : Nat := 0x308010020 + cl * 0x10000
abbrev FEX_SAT_cnt (cl : Nat) : Field := ⟨FEX_SAT cl, 0, 32⟩
abbrev FEX_SAT_HI (cl : Nat) : Nat := 0x308010024 + cl * 0x10000
abbrev FEX_SAT_HI_cnt (cl : Nat) : Field := ⟨FEX_SAT_HI cl, 0, 32⟩
abbrev FEX_PRACH_OCC (cl : Nat) : Nat := 0x308010028 + cl * 0x10000
abbrev FEX_PRACH_OCC_cnt (cl : Nat) : Field := ⟨FEX_PRACH_OCC cl, 0, 32⟩
abbrev FEX_PRACH_OCC_HI (cl : Nat) : Nat := 0x30801002C + cl * 0x10000
abbrev FEX_PRACH_OCC_HI_cnt (cl : Nat) : Field := ⟨FEX_PRACH_OCC_HI cl, 0, 32⟩
abbrev FEX_UL_DROP (cl : Nat) : Nat := 0x308010030 + cl * 0x10000
abbrev FEX_UL_DROP_cnt (cl : Nat) : Field := ⟨FEX_UL_DROP cl, 0, 32⟩
abbrev FEX_DL_LATE (cl : Nat) : Nat := 0x308010034 + cl * 0x10000
abbrev FEX_DL_LATE_cnt (cl : Nat) : Field := ⟨FEX_DL_LATE cl, 0, 32⟩
abbrev FEX_ERA (cl : Nat) : Nat := 0x308010038 + cl * 0x10000
abbrev FEX_ERA_cnt (cl : Nat) : Field := ⟨FEX_ERA cl, 0, 32⟩
abbrev FEX_MASK_VIOL (cl : Nat) : Nat := 0x30801003C + cl * 0x10000
abbrev FEX_MASK_VIOL_cnt (cl : Nat) : Field := ⟨FEX_MASK_VIOL cl, 0, 32⟩
abbrev FEX_CMD_BAD (cl : Nat) : Nat := 0x308010040 + cl * 0x10000
abbrev FEX_CMD_BAD_cnt (cl : Nat) : Field := ⟨FEX_CMD_BAD cl, 0, 32⟩
abbrev FEX_PERR (cl : Nat) : Nat := 0x308010044 + cl * 0x10000
abbrev FEX_PERR_cnt (cl : Nat) : Field := ⟨FEX_PERR cl, 0, 32⟩
abbrev FEX_PRACH_MORE (cl : Nat) : Nat := 0x308010048 + cl * 0x10000
abbrev FEX_PRACH_MORE_cnt (cl : Nat) : Field := ⟨FEX_PRACH_MORE cl, 0, 32⟩
abbrev FEX_CNT_OVF (cl : Nat) : Nat := 0x30801004C + cl * 0x10000
abbrev FEX_CNT_OVF_ovf (cl : Nat) : Field := ⟨FEX_CNT_OVF cl, 0, 7⟩
abbrev FEX_CQ (cl : Nat) (w : Nat) : Nat := 0x308010100 + cl * 0x10000 + w * 0x4
abbrev FEX_CQ_word (cl : Nat) (w : Nat) : Field := ⟨FEX_CQ cl w, 0, 32⟩

/-! Table 10-9 -/

abbrev SCA_SET_BASE : Nat := 0x309000000
abbrev SCA_SET_BASE_grain : Field := ⟨SCA_SET_BASE, 0, 14⟩
abbrev SCA_STAT : Nat := 0x309000004
abbrev SCA_STAT_late : Field := ⟨SCA_STAT, 0, 1⟩
abbrev SCA_STAT_bad : Field := ⟨SCA_STAT, 1, 1⟩
abbrev SCA_STAT_stale : Field := ⟨SCA_STAT, 2, 1⟩
abbrev SCA_STAT_w_era : Field := ⟨SCA_STAT, 3, 1⟩
abbrev SCA_STAT_in_era : Field := ⟨SCA_STAT, 4, 1⟩
abbrev SCA_STAT_perr : Field := ⟨SCA_STAT, 5, 1⟩
abbrev SCA_STAT_sat : Field := ⟨SCA_STAT, 6, 1⟩
abbrev SCA_STAT_short : Field := ⟨SCA_STAT, 7, 1⟩
abbrev SCA_STAT_cnt_ovf : Field := ⟨SCA_STAT, 8, 1⟩
abbrev SCA_TFAULT_LO : Nat := 0x309000008
abbrev SCA_TFAULT_LO_tile : Field := ⟨SCA_TFAULT_LO, 0, 32⟩
abbrev SCA_TFAULT_HI : Nat := 0x30900000C
abbrev SCA_TFAULT_HI_tile : Field := ⟨SCA_TFAULT_HI, 0, 32⟩
abbrev SCA_QPWR : Nat := 0x309000010
abbrev SCA_QPWR_on : Field := ⟨SCA_QPWR, 0, 4⟩
abbrev SCA_CALSEL (i : Nat) : Nat := 0x309000020 + i * 0x4
abbrev SCA_CALSEL_bank (i : Nat) : Field := ⟨SCA_CALSEL i, 0, 32⟩
abbrev SCA_JOBS : Nat := 0x309000800
abbrev SCA_JOBS_cnt : Field := ⟨SCA_JOBS, 0, 32⟩
abbrev SCA_JOBS_HI : Nat := 0x309000804
abbrev SCA_JOBS_HI_cnt : Field := ⟨SCA_JOBS_HI, 0, 32⟩
abbrev SCA_RE : Nat := 0x309000808
abbrev SCA_RE_cnt : Field := ⟨SCA_RE, 0, 32⟩
abbrev SCA_RE_HI : Nat := 0x30900080C
abbrev SCA_RE_HI_cnt : Field := ⟨SCA_RE_HI, 0, 32⟩
abbrev SCA_SAT : Nat := 0x309000810
abbrev SCA_SAT_cnt : Field := ⟨SCA_SAT, 0, 32⟩
abbrev SCA_SAT_HI : Nat := 0x309000814
abbrev SCA_SAT_HI_cnt : Field := ⟨SCA_SAT_HI, 0, 32⟩
abbrev SCA_IN_ERA : Nat := 0x309000818
abbrev SCA_IN_ERA_cnt : Field := ⟨SCA_IN_ERA, 0, 32⟩
abbrev SCA_IN_ERA_HI : Nat := 0x30900081C
abbrev SCA_IN_ERA_HI_cnt : Field := ⟨SCA_IN_ERA_HI, 0, 32⟩
abbrev SCA_LATE : Nat := 0x309000820
abbrev SCA_LATE_cnt : Field := ⟨SCA_LATE, 0, 32⟩
abbrev SCA_BAD : Nat := 0x309000824
abbrev SCA_BAD_cnt : Field := ⟨SCA_BAD, 0, 32⟩
abbrev SCA_STALE : Nat := 0x309000828
abbrev SCA_STALE_cnt : Field := ⟨SCA_STALE, 0, 32⟩
abbrev SCA_WERA : Nat := 0x30900082C
abbrev SCA_WERA_cnt : Field := ⟨SCA_WERA, 0, 32⟩
abbrev SCA_PERR : Nat := 0x309000830
abbrev SCA_PERR_cnt : Field := ⟨SCA_PERR, 0, 32⟩
abbrev SCA_SHORT : Nat := 0x309000834
abbrev SCA_SHORT_cnt : Field := ⟨SCA_SHORT, 0, 32⟩
abbrev SCA_CNT_OVF : Nat := 0x309000838
abbrev SCA_CNT_OVF_ovf : Field := ⟨SCA_CNT_OVF, 0, 6⟩

/-! Table 10-10 -/

abbrev SCA_HCFG (h : Nat) : Nat := 0x309000100 + h * 0x20
abbrev SCA_HCFG_en (h : Nat) : Field := ⟨SCA_HCFG h, 0, 1⟩
abbrev SCA_HCFG_tile0 (h : Nat) : Field := ⟨SCA_HCFG h, 1, 6⟩
abbrev SCA_HCFG_rows (h : Nat) : Field := ⟨SCA_HCFG h, 7, 2⟩
abbrev SCA_HCFG_cols (h : Nat) : Field := ⟨SCA_HCFG h, 9, 2⟩
abbrev SCA_HCTL (h : Nat) : Nat := 0x309000104 + h * 0x20
abbrev SCA_HCTL_stop (h : Nat) : Field := ⟨SCA_HCTL h, 0, 1⟩
abbrev SCA_HCTL_clr (h : Nat) : Field := ⟨SCA_HCTL h, 1, 1⟩
abbrev SCA_HSTAT (h : Nat) : Nat := 0x309000108 + h * 0x20
abbrev SCA_HSTAT_qdepth (h : Nat) : Field := ⟨SCA_HSTAT h, 0, 6⟩
abbrev SCA_HSTAT_busy (h : Nat) : Field := ⟨SCA_HSTAT h, 6, 1⟩
abbrev SCA_HSTAT_cfg_bad (h : Nat) : Field := ⟨SCA_HSTAT h, 7, 1⟩
abbrev SCA_HSTAT_set (h : Nat) : Field := ⟨SCA_HSTAT h, 8, 8⟩
abbrev SCA_HSEQ (h : Nat) : Nat := 0x30900010C + h * 0x20
abbrev SCA_HSEQ_seq (h : Nat) : Field := ⟨SCA_HSEQ h, 0, 32⟩
abbrev SCA_HCYC (h : Nat) : Nat := 0x309000110 + h * 0x20
abbrev SCA_HCYC_cnt (h : Nat) : Field := ⟨SCA_HCYC h, 0, 32⟩
abbrev SCA_HCYC_HI (h : Nat) : Nat := 0x309000114 + h * 0x20
abbrev SCA_HCYC_HI_cnt (h : Nat) : Field := ⟨SCA_HCYC_HI h, 0, 32⟩

/-! Table 10-11 -/

abbrev SCA_JQ (h : Nat) (w : Nat) : Nat := 0x309001000 + h * 0x40 + w * 0x4
abbrev SCA_JQ_word (h : Nat) (w : Nat) : Field := ⟨SCA_JQ h w, 0, 32⟩

/-! Table 11-9 -/

abbrev COD_CTL : Nat := 0x30A000000
abbrev COD_CTL_ldpc_it : Field := ⟨COD_CTL, 0, 5⟩
abbrev COD_CTL_turbo_it : Field := ⟨COD_CTL, 5, 4⟩
abbrev COD_CTL_hclr : Field := ⟨COD_CTL, 9, 1⟩
abbrev COD_STAT : Nat := 0x30A000004
abbrev COD_STAT_late : Field := ⟨COD_STAT, 0, 1⟩
abbrev COD_STAT_bad : Field := ⟨COD_STAT, 1, 1⟩
abbrev COD_STAT_short : Field := ⟨COD_STAT, 2, 1⟩
abbrev COD_STAT_lost : Field := ⟨COD_STAT, 3, 1⟩
abbrev COD_STAT_harq : Field := ⟨COD_STAT, 4, 1⟩
abbrev COD_STAT_perr : Field := ⟨COD_STAT, 5, 1⟩
abbrev COD_STAT_cnt_ovf : Field := ⟨COD_STAT, 6, 1⟩
abbrev COD_HCFG : Nat := 0x30A000008
abbrev COD_HCFG_ring : Field := ⟨COD_HCFG, 0, 12⟩
abbrev COD_HSTAT : Nat := 0x30A00000C
abbrev COD_HSTAT_entries : Field := ⟨COD_HSTAT, 0, 14⟩
abbrev COD_HSTAT_grains : Field := ⟨COD_HSTAT, 14, 15⟩
abbrev COD_BUSY_LO : Nat := 0x30A000010
abbrev COD_BUSY_LO_busy : Field := ⟨COD_BUSY_LO, 0, 32⟩
abbrev COD_BUSY_HI : Nat := 0x30A000014
abbrev COD_BUSY_HI_busy : Field := ⟨COD_BUSY_HI, 0, 18⟩
abbrev COD_UFAULT_LO : Nat := 0x30A000018
abbrev COD_UFAULT_LO_fault : Field := ⟨COD_UFAULT_LO, 0, 32⟩
abbrev COD_UFAULT_HI : Nat := 0x30A00001C
abbrev COD_UFAULT_HI_fault : Field := ⟨COD_UFAULT_HI, 0, 18⟩
abbrev COD_QCFG (q : Nat) : Nat := 0x30A000100 + q * 0x10
abbrev COD_QCFG_mask (q : Nat) : Field := ⟨COD_QCFG q, 0, 32⟩
abbrev COD_QCFG2 (q : Nat) : Nat := 0x30A000104 + q * 0x10
abbrev COD_QCFG2_mask (q : Nat) : Field := ⟨COD_QCFG2 q, 0, 18⟩
abbrev COD_QCFG2_en (q : Nat) : Field := ⟨COD_QCFG2 q, 18, 1⟩
abbrev COD_QCFG2_pri (q : Nat) : Field := ⟨COD_QCFG2 q, 19, 2⟩
abbrev COD_QSTAT (q : Nat) : Nat := 0x30A000108 + q * 0x10
abbrev COD_QSTAT_depth (q : Nat) : Field := ⟨COD_QSTAT q, 0, 7⟩
abbrev COD_QSEQ (q : Nat) : Nat := 0x30A00010C + q * 0x10
abbrev COD_QSEQ_seq (q : Nat) : Field := ⟨COD_QSEQ q, 0, 32⟩
abbrev COD_JOBS : Nat := 0x30A000800
abbrev COD_JOBS_cnt : Field := ⟨COD_JOBS, 0, 32⟩
abbrev COD_JOBS_HI : Nat := 0x30A000804
abbrev COD_JOBS_HI_cnt : Field := ⟨COD_JOBS_HI, 0, 32⟩
abbrev COD_CB : Nat := 0x30A000808
abbrev COD_CB_cnt : Field := ⟨COD_CB, 0, 32⟩
abbrev COD_CB_HI : Nat := 0x30A00080C
abbrev COD_CB_HI_cnt : Field := ⟨COD_CB_HI, 0, 32⟩
abbrev COD_CB_FAIL : Nat := 0x30A000810
abbrev COD_CB_FAIL_cnt : Field := ⟨COD_CB_FAIL, 0, 32⟩
abbrev COD_CB_FAIL_HI : Nat := 0x30A000814
abbrev COD_CB_FAIL_HI_cnt : Field := ⟨COD_CB_FAIL_HI, 0, 32⟩
abbrev COD_ITER : Nat := 0x30A000818
abbrev COD_ITER_cnt : Field := ⟨COD_ITER, 0, 32⟩
abbrev COD_ITER_HI : Nat := 0x30A00081C
abbrev COD_ITER_HI_cnt : Field := ⟨COD_ITER_HI, 0, 32⟩
abbrev COD_BITS_DEC : Nat := 0x30A000820
abbrev COD_BITS_DEC_cnt : Field := ⟨COD_BITS_DEC, 0, 32⟩
abbrev COD_BITS_DEC_HI : Nat := 0x30A000824
abbrev COD_BITS_DEC_HI_cnt : Field := ⟨COD_BITS_DEC_HI, 0, 32⟩
abbrev COD_BITS_ENC : Nat := 0x30A000828
abbrev COD_BITS_ENC_cnt : Field := ⟨COD_BITS_ENC, 0, 32⟩
abbrev COD_BITS_ENC_HI : Nat := 0x30A00082C
abbrev COD_BITS_ENC_HI_cnt : Field := ⟨COD_BITS_ENC_HI, 0, 32⟩
abbrev COD_LATE : Nat := 0x30A000830
abbrev COD_LATE_cnt : Field := ⟨COD_LATE, 0, 32⟩
abbrev COD_BAD : Nat := 0x30A000834
abbrev COD_BAD_cnt : Field := ⟨COD_BAD, 0, 32⟩
abbrev COD_SHORT : Nat := 0x30A000838
abbrev COD_SHORT_cnt : Field := ⟨COD_SHORT, 0, 32⟩
abbrev COD_LOST : Nat := 0x30A00083C
abbrev COD_LOST_cnt : Field := ⟨COD_LOST, 0, 32⟩
abbrev COD_HARQ_MIS : Nat := 0x30A000840
abbrev COD_HARQ_MIS_cnt : Field := ⟨COD_HARQ_MIS, 0, 32⟩
abbrev COD_HARQ_FULL : Nat := 0x30A000844
abbrev COD_HARQ_FULL_cnt : Field := ⟨COD_HARQ_FULL, 0, 32⟩
abbrev COD_HARQ_PERR : Nat := 0x30A000848
abbrev COD_HARQ_PERR_cnt : Field := ⟨COD_HARQ_PERR, 0, 32⟩
abbrev COD_PERR : Nat := 0x30A00084C
abbrev COD_PERR_cnt : Field := ⟨COD_PERR, 0, 32⟩
abbrev COD_CNT_OVF : Nat := 0x30A000850
abbrev COD_CNT_OVF_ovf : Field := ⟨COD_CNT_OVF, 0, 8⟩
abbrev COD_JQ (q : Nat) (w : Nat) : Nat := 0x30A001000 + q * 0x40 + w * 0x4
abbrev COD_JQ_word (q : Nat) (w : Nat) : Field := ⟨COD_JQ q w, 0, 32⟩

/-! Table 12-8 -/

abbrev CSR_ENGID (g : Nat) : Nat := 0x10000000000 + g * 0x1000
abbrev CSR_ENGID_engine (g : Nat) : Field := ⟨CSR_ENGID g, 0, 3⟩
abbrev CSR_ENGID_pod (g : Nat) : Field := ⟨CSR_ENGID g, 3, 5⟩
abbrev CSR_ENGID_laruri (g : Nat) : Field := ⟨CSR_ENGID g, 8, 1⟩
abbrev CSR_STATUS (g : Nat) : Nat := 0x10000000001 + g * 0x1000
abbrev CSR_STATUS_lvl (g : Nat) : Field := ⟨CSR_STATUS g, 0, 2⟩
abbrev CSR_STATUS_spl (g : Nat) : Field := ⟨CSR_STATUS g, 2, 2⟩
abbrev CSR_STATUS_mpl (g : Nat) : Field := ⟨CSR_STATUS g, 4, 2⟩
abbrev CSR_STATUS_sie (g : Nat) : Field := ⟨CSR_STATUS g, 6, 1⟩
abbrev CSR_STATUS_spie (g : Nat) : Field := ⟨CSR_STATUS g, 7, 1⟩
abbrev CSR_STATUS_mie (g : Nat) : Field := ⟨CSR_STATUS g, 8, 1⟩
abbrev CSR_STATUS_mpie (g : Nat) : Field := ⟨CSR_STATUS g, 9, 1⟩
abbrev CSR_STATUS_mtrap (g : Nat) : Field := ⟨CSR_STATUS g, 10, 1⟩
abbrev CSR_CAUSE_S (g : Nat) : Nat := 0x10000000002 + g * 0x1000
abbrev CSR_CAUSE_S_code (g : Nat) : Field := ⟨CSR_CAUSE_S g, 0, 6⟩
abbrev CSR_CAUSE_S_intr (g : Nat) : Field := ⟨CSR_CAUSE_S g, 6, 1⟩
abbrev CSR_CAUSE_M (g : Nat) : Nat := 0x10000000008 + g * 0x1000
abbrev CSR_CAUSE_M_code (g : Nat) : Field := ⟨CSR_CAUSE_M g, 0, 6⟩
abbrev CSR_CAUSE_M_intr (g : Nat) : Field := ⟨CSR_CAUSE_M g, 6, 1⟩
abbrev CSR_EPC_S (g : Nat) : Nat := 0x10000000003 + g * 0x1000
abbrev CSR_EPC_S_pc (g : Nat) : Field := ⟨CSR_EPC_S g, 0, 16⟩
abbrev CSR_EPC_M (g : Nat) : Nat := 0x10000000009 + g * 0x1000
abbrev CSR_EPC_M_pc (g : Nat) : Field := ⟨CSR_EPC_M g, 0, 16⟩
abbrev CSR_TVEC_S (g : Nat) : Nat := 0x10000000004 + g * 0x1000
abbrev CSR_TVEC_S_pc (g : Nat) : Field := ⟨CSR_TVEC_S g, 0, 16⟩
abbrev CSR_TVEC_M (g : Nat) : Nat := 0x1000000000A + g * 0x1000
abbrev CSR_TVEC_M_pc (g : Nat) : Field := ⟨CSR_TVEC_M g, 0, 16⟩
abbrev CSR_SCRATCH_S (g : Nat) : Nat := 0x10000000005 + g * 0x1000
abbrev CSR_SCRATCH_S_val (g : Nat) : Field := ⟨CSR_SCRATCH_S g, 0, 32⟩
abbrev CSR_SCRATCH_M (g : Nat) : Nat := 0x1000000000B + g * 0x1000
abbrev CSR_SCRATCH_M_val (g : Nat) : Field := ⟨CSR_SCRATCH_M g, 0, 32⟩
abbrev CSR_EXC_ADDR (g : Nat) : Nat := 0x10000000010 + g * 0x1000
abbrev CSR_EXC_ADDR_addr (g : Nat) : Field := ⟨CSR_EXC_ADDR g, 0, 32⟩
abbrev CSR_EXC_ADDRH (g : Nat) : Nat := 0x10000000011 + g * 0x1000
abbrev CSR_EXC_ADDRH_addr (g : Nat) : Field := ⟨CSR_EXC_ADDRH g, 0, 8⟩
abbrev CSR_EXC_ELEM (g : Nat) : Nat := 0x10000000012 + g * 0x1000
abbrev CSR_EXC_ELEM_elem (g : Nat) : Field := ⟨CSR_EXC_ELEM g, 0, 12⟩
abbrev CSR_EXC_INSN (g : Nat) : Nat := 0x10000000013 + g * 0x1000
abbrev CSR_EXC_INSN_insn (g : Nat) : Field := ⟨CSR_EXC_INSN g, 0, 32⟩
abbrev CSR_COP_EN (g : Nat) : Nat := 0x10000000018 + g * 0x1000
abbrev CSR_COP_EN_en (g : Nat) : Field := ⟨CSR_COP_EN g, 0, 12⟩
abbrev CSR_IEN (g : Nat) : Nat := 0x10000000019 + g * 0x1000
abbrev CSR_IEN_alarm (g : Nat) : Field := ⟨CSR_IEN g, 0, 1⟩
abbrev CSR_IEN_maint (g : Nat) : Field := ⟨CSR_IEN g, 1, 1⟩
abbrev CSR_IPEND (g : Nat) : Nat := 0x1000000001A + g * 0x1000
abbrev CSR_IPEND_alarm (g : Nat) : Field := ⟨CSR_IPEND g, 0, 1⟩
abbrev CSR_IPEND_maint (g : Nat) : Field := ⟨CSR_IPEND g, 1, 1⟩
abbrev CSR_ALARM_LO (g : Nat) : Nat := 0x1000000001B + g * 0x1000
abbrev CSR_ALARM_LO_target (g : Nat) : Field := ⟨CSR_ALARM_LO g, 0, 32⟩
abbrev CSR_ALARM_HI (g : Nat) : Nat := 0x1000000001C + g * 0x1000
abbrev CSR_ALARM_HI_target (g : Nat) : Field := ⟨CSR_ALARM_HI g, 0, 32⟩
abbrev CSR_LDSTAT (g : Nat) : Nat := 0x1000000001D + g * 0x1000
abbrev CSR_LDSTAT_erased (g : Nat) : Field := ⟨CSR_LDSTAT g, 0, 1⟩
abbrev CSR_SSTAT (g : Nat) : Nat := 0x1000000001E + g * 0x1000
abbrev CSR_SSTAT_dz (g : Nat) : Field := ⟨CSR_SSTAT g, 0, 1⟩
abbrev CSR_SSTAT_dov (g : Nat) : Field := ⟨CSR_SSTAT g, 1, 1⟩
abbrev CSR_AIR_LO (g : Nat) : Nat := 0x10000000020 + g * 0x1000
abbrev CSR_AIR_LO_cnt (g : Nat) : Field := ⟨CSR_AIR_LO g, 0, 32⟩
abbrev CSR_AIR_HI (g : Nat) : Nat := 0x10000000021 + g * 0x1000
abbrev CSR_AIR_HI_cnt (g : Nat) : Field := ⟨CSR_AIR_HI g, 0, 32⟩
abbrev CSR_CYCLE_LO (g : Nat) : Nat := 0x10000000022 + g * 0x1000
abbrev CSR_CYCLE_LO_cnt (g : Nat) : Field := ⟨CSR_CYCLE_LO g, 0, 32⟩
abbrev CSR_CYCLE_HI (g : Nat) : Nat := 0x10000000023 + g * 0x1000
abbrev CSR_CYCLE_HI_cnt (g : Nat) : Field := ⟨CSR_CYCLE_HI g, 0, 32⟩
abbrev CSR_INSTRET_LO (g : Nat) : Nat := 0x10000000024 + g * 0x1000
abbrev CSR_INSTRET_LO_cnt (g : Nat) : Field := ⟨CSR_INSTRET_LO g, 0, 32⟩
abbrev CSR_INSTRET_HI (g : Nat) : Nat := 0x10000000025 + g * 0x1000
abbrev CSR_INSTRET_HI_cnt (g : Nat) : Field := ⟨CSR_INSTRET_HI g, 0, 32⟩
abbrev CSR_QSTALL_LO (g : Nat) : Nat := 0x10000000026 + g * 0x1000
abbrev CSR_QSTALL_LO_cnt (g : Nat) : Field := ⟨CSR_QSTALL_LO g, 0, 32⟩
abbrev CSR_QSTALL_HI (g : Nat) : Nat := 0x10000000027 + g * 0x1000
abbrev CSR_QSTALL_HI_cnt (g : Nat) : Field := ⟨CSR_QSTALL_HI g, 0, 32⟩
abbrev CSR_TK_ID (g : Nat) : Nat := 0x10000000030 + g * 0x1000
abbrev CSR_TK_ID_idx (g : Nat) : Field := ⟨CSR_TK_ID g, 0, 16⟩
abbrev CSR_TK_GEN (g : Nat) : Nat := 0x10000000031 + g * 0x1000
abbrev CSR_TK_GEN_gen (g : Nat) : Field := ⟨CSR_TK_GEN g, 0, 20⟩
abbrev CSR_TK_PC (g : Nat) : Nat := 0x10000000032 + g * 0x1000
abbrev CSR_TK_PC_pc (g : Nat) : Field := ⟨CSR_TK_PC g, 0, 16⟩
abbrev CSR_TK_ARG (g : Nat) : Nat := 0x10000000033 + g * 0x1000
abbrev CSR_TK_ARG_arg (g : Nat) : Field := ⟨CSR_TK_ARG g, 0, 32⟩
abbrev CSR_TK_DEAD_LO (g : Nat) : Nat := 0x10000000034 + g * 0x1000
abbrev CSR_TK_DEAD_LO_dead (g : Nat) : Field := ⟨CSR_TK_DEAD_LO g, 0, 32⟩
abbrev CSR_TK_DEAD_HI (g : Nat) : Nat := 0x10000000035 + g * 0x1000
abbrev CSR_TK_DEAD_HI_dead (g : Nat) : Field := ⟨CSR_TK_DEAD_HI g, 0, 32⟩
abbrev CSR_TK_STAT (g : Nat) : Nat := 0x10000000036 + g * 0x1000
abbrev CSR_TK_STAT_valid (g : Nat) : Field := ⟨CSR_TK_STAT g, 0, 1⟩
abbrev CSR_TK_STAT_cancel (g : Nat) : Field := ⟨CSR_TK_STAT g, 1, 1⟩
abbrev CSR_TK_STAT_slot (g : Nat) : Field := ⟨CSR_TK_STAT g, 2, 1⟩
abbrev CSR_TK_RET (g : Nat) : Nat := 0x10000000037 + g * 0x1000
abbrev CSR_TK_RET_pc (g : Nat) : Field := ⟨CSR_TK_RET g, 0, 16⟩
abbrev CSR_TK_LIM (g : Nat) : Nat := 0x10000000038 + g * 0x1000
abbrev CSR_TK_LIM_cycles (g : Nat) : Field := ⟨CSR_TK_LIM g, 0, 32⟩
abbrev CSR_MPU_BASE (g : Nat) (i : Nat) : Nat := 0x10000000040 + g * 0x1000 + i * 0x2
abbrev CSR_MPU_BASE_base (g : Nat) (i : Nat) : Field := ⟨CSR_MPU_BASE g i, 0, 32⟩
abbrev CSR_MPU_CFG (g : Nat) (i : Nat) : Nat := 0x10000000041 + g * 0x1000 + i * 0x2
abbrev CSR_MPU_CFG_en (g : Nat) (i : Nat) : Field := ⟨CSR_MPU_CFG g i, 0, 1⟩
abbrev CSR_MPU_CFG_size (g : Nat) (i : Nat) : Field := ⟨CSR_MPU_CFG g i, 1, 6⟩
abbrev CSR_MPU_CFG_perm (g : Nat) (i : Nat) : Field := ⟨CSR_MPU_CFG g i, 7, 6⟩
abbrev CSR_MPU_CFG_lock (g : Nat) (i : Nat) : Field := ⟨CSR_MPU_CFG g i, 13, 1⟩

/-! Table 12-9 -/

abbrev POD_ECTL (g : Nat) : Nat := 0x30B000000 + g * 0x40
abbrev POD_ECTL_run (g : Nat) : Field := ⟨POD_ECTL g, 0, 1⟩
abbrev POD_ECTL_halt (g : Nat) : Field := ⟨POD_ECTL g, 1, 1⟩
abbrev POD_ECTL_maint (g : Nat) : Field := ⟨POD_ECTL g, 2, 1⟩
abbrev POD_EBOOT (g : Nat) : Nat := 0x30B000004 + g * 0x40
abbrev POD_EBOOT_pc (g : Nat) : Field := ⟨POD_EBOOT g, 0, 16⟩
abbrev POD_ESTAT (g : Nat) : Nat := 0x30B000008 + g * 0x40
abbrev POD_ESTAT_state (g : Nat) : Field := ⟨POD_ESTAT g, 0, 3⟩
abbrev POD_ESTAT_lvl (g : Nat) : Field := ⟨POD_ESTAT g, 3, 2⟩
abbrev POD_ESTAT_code (g : Nat) : Field := ⟨POD_ESTAT g, 5, 6⟩
abbrev POD_ESTAT_fault (g : Nat) : Field := ⟨POD_ESTAT g, 11, 1⟩
abbrev POD_ESTAT_cnt_ovf (g : Nat) : Field := ⟨POD_ESTAT g, 12, 1⟩
abbrev POD_EPC (g : Nat) : Nat := 0x30B00000C + g * 0x40
abbrev POD_EPC_pc (g : Nat) : Field := ⟨POD_EPC g, 0, 16⟩
abbrev POD_EBUSY (g : Nat) : Nat := 0x30B000010 + g * 0x40
abbrev POD_EBUSY_cnt (g : Nat) : Field := ⟨POD_EBUSY g, 0, 32⟩
abbrev POD_EBUSY_HI (g : Nat) : Nat := 0x30B000014 + g * 0x40
abbrev POD_EBUSY_HI_cnt (g : Nat) : Field := ⟨POD_EBUSY_HI g, 0, 32⟩
abbrev POD_EEXC (g : Nat) : Nat := 0x30B000018 + g * 0x40
abbrev POD_EEXC_cnt (g : Nat) : Field := ⟨POD_EEXC g, 0, 32⟩
abbrev POD_EPERR (g : Nat) : Nat := 0x30B00001C + g * 0x40
abbrev POD_EPERR_cnt (g : Nat) : Field := ⟨POD_EPERR g, 0, 32⟩
abbrev POD_ECNT_OVF (g : Nat) : Nat := 0x30B000020 + g * 0x40
abbrev POD_ECNT_OVF_ovf (g : Nat) : Field := ⟨POD_ECNT_OVF g, 0, 2⟩
abbrev POD_PSTAT (p : Nat) : Nat := 0x30B004000 + p * 0x10
abbrev POD_PSTAT_clk (p : Nat) : Field := ⟨POD_PSTAT p, 0, 2⟩
abbrev POD_PSTAT_pwr (p : Nat) : Field := ⟨POD_PSTAT p, 2, 1⟩

/-! Table 13-7 -/

abbrev CSR_VSTAT (g : Nat) : Nat := 0x10000000080 + g * 0x1000
abbrev CSR_VSTAT_sat (g : Nat) : Field := ⟨CSR_VSTAT g, 0, 1⟩
abbrev CSR_VSTAT_nv (g : Nat) : Field := ⟨CSR_VSTAT g, 1, 1⟩
abbrev CSR_VSTAT_of (g : Nat) : Field := ⟨CSR_VSTAT g, 2, 1⟩
abbrev CSR_VSTAT_ftz (g : Nat) : Field := ⟨CSR_VSTAT g, 3, 1⟩
abbrev CSR_VINFO (g : Nat) : Nat := 0x10000000081 + g * 0x1000
abbrev CSR_VINFO_vbits (g : Nat) : Field := ⟨CSR_VINFO g, 0, 14⟩
abbrev CSR_VBUSY_LO (g : Nat) : Nat := 0x10000000082 + g * 0x1000
abbrev CSR_VBUSY_LO_cnt (g : Nat) : Field := ⟨CSR_VBUSY_LO g, 0, 32⟩
abbrev CSR_VBUSY_HI (g : Nat) : Nat := 0x10000000083 + g * 0x1000
abbrev CSR_VBUSY_HI_cnt (g : Nat) : Field := ⟨CSR_VBUSY_HI g, 0, 32⟩
abbrev CSR_VGMAP (g : Nat) : Nat := 0x10000000084 + g * 0x1000
abbrev CSR_VGMAP_g0 (g : Nat) : Field := ⟨CSR_VGMAP g, 0, 4⟩
abbrev CSR_VGMAP_g1 (g : Nat) : Field := ⟨CSR_VGMAP g, 4, 4⟩
abbrev CSR_VGMAP_g2 (g : Nat) : Field := ⟨CSR_VGMAP g, 8, 4⟩
abbrev CSR_VGMAP_g3 (g : Nat) : Field := ⟨CSR_VGMAP g, 12, 4⟩
abbrev CSR_VGMAP_g4 (g : Nat) : Field := ⟨CSR_VGMAP g, 16, 4⟩
abbrev CSR_VGMAP_g5 (g : Nat) : Field := ⟨CSR_VGMAP g, 20, 4⟩
abbrev CSR_VGMAP_g6 (g : Nat) : Field := ⟨CSR_VGMAP g, 24, 4⟩
abbrev CSR_VGMAP_g7 (g : Nat) : Field := ⟨CSR_VGMAP g, 28, 4⟩

/-! Table 14-10 -/

abbrev CSR_CP_INUSE (g : Nat) : Nat := 0x10000000100 + g * 0x1000
abbrev CSR_CP_INUSE_s0 (g : Nat) : Field := ⟨CSR_CP_INUSE g, 0, 16⟩
abbrev CSR_CP_INUSE_s1 (g : Nat) : Field := ⟨CSR_CP_INUSE g, 16, 16⟩
abbrev CSR_CP_INUSE2 (g : Nat) : Nat := 0x10000000101 + g * 0x1000
abbrev CSR_CP_INUSE2_s2 (g : Nat) : Field := ⟨CSR_CP_INUSE2 g, 0, 16⟩
abbrev CSR_CP_DONE (g : Nat) : Nat := 0x10000000102 + g * 0x1000
abbrev CSR_CP_DONE_s0 (g : Nat) : Field := ⟨CSR_CP_DONE g, 0, 16⟩
abbrev CSR_CP_DONE_s1 (g : Nat) : Field := ⟨CSR_CP_DONE g, 16, 16⟩
abbrev CSR_CP_DONE2 (g : Nat) : Nat := 0x10000000103 + g * 0x1000
abbrev CSR_CP_DONE2_s2 (g : Nat) : Field := ⟨CSR_CP_DONE2 g, 0, 16⟩

/-! Table 14-11 -/

abbrev POD_CPSTAT (g : Nat) : Nat := 0x30B008000 + g * 0x20
abbrev POD_CPSTAT_used0 (g : Nat) : Field := ⟨POD_CPSTAT g, 0, 5⟩
abbrev POD_CPSTAT_used1 (g : Nat) : Field := ⟨POD_CPSTAT g, 5, 5⟩
abbrev POD_CPSTAT_used2 (g : Nat) : Field := ⟨POD_CPSTAT g, 10, 5⟩
abbrev POD_CPSTAT_err (g : Nat) : Field := ⟨POD_CPSTAT g, 15, 1⟩
abbrev POD_CPSTAT_disc (g : Nat) : Field := ⟨POD_CPSTAT g, 16, 1⟩
abbrev POD_CPSTAT_cnt_ovf (g : Nat) : Field := ⟨POD_CPSTAT g, 17, 1⟩
abbrev POD_CPCMD (g : Nat) : Nat := 0x30B008004 + g * 0x20
abbrev POD_CPCMD_cnt (g : Nat) : Field := ⟨POD_CPCMD g, 0, 32⟩
abbrev POD_CPCMD_HI (g : Nat) : Nat := 0x30B008008 + g * 0x20
abbrev POD_CPCMD_HI_cnt (g : Nat) : Field := ⟨POD_CPCMD_HI g, 0, 32⟩
abbrev POD_CPSQ (g : Nat) : Nat := 0x30B00800C + g * 0x20
abbrev POD_CPSQ_cnt (g : Nat) : Field := ⟨POD_CPSQ g, 0, 32⟩
abbrev POD_CPSQ_HI (g : Nat) : Nat := 0x30B008010 + g * 0x20
abbrev POD_CPSQ_HI_cnt (g : Nat) : Field := ⟨POD_CPSQ_HI g, 0, 32⟩
abbrev POD_CPERR (g : Nat) : Nat := 0x30B008014 + g * 0x20
abbrev POD_CPERR_cnt (g : Nat) : Field := ⟨POD_CPERR g, 0, 32⟩
abbrev POD_CPDISC (g : Nat) : Nat := 0x30B008018 + g * 0x20
abbrev POD_CPDISC_cnt (g : Nat) : Field := ⟨POD_CPDISC g, 0, 32⟩
abbrev POD_CPCNT_OVF (g : Nat) : Nat := 0x30B00801C + g * 0x20
abbrev POD_CPCNT_OVF_ovf (g : Nat) : Field := ⟨POD_CPCNT_OVF g, 0, 2⟩
abbrev POD_SXU_BUSY (p : Nat) : Nat := 0x30B00B000 + p * 0x10
abbrev POD_SXU_BUSY_cnt (p : Nat) : Field := ⟨POD_SXU_BUSY p, 0, 32⟩
abbrev POD_SXU_BUSY_HI (p : Nat) : Nat := 0x30B00B004 + p * 0x10
abbrev POD_SXU_BUSY_HI_cnt (p : Nat) : Field := ⟨POD_SXU_BUSY_HI p, 0, 32⟩
abbrev POD_SXU_CMD (p : Nat) : Nat := 0x30B00B008 + p * 0x10
abbrev POD_SXU_CMD_cnt (p : Nat) : Field := ⟨POD_SXU_CMD p, 0, 32⟩
abbrev POD_SXU_CMD_HI (p : Nat) : Nat := 0x30B00B00C + p * 0x10
abbrev POD_SXU_CMD_HI_cnt (p : Nat) : Field := ⟨POD_SXU_CMD_HI p, 0, 32⟩

/-! Table 15-7 -/

abbrev TSK_CTL : Nat := 0x30C000000
abbrev TSK_CTL_en : Field := ⟨TSK_CTL, 0, 1⟩
abbrev TSK_CTL_hist_w : Field := ⟨TSK_CTL, 1, 4⟩
abbrev TSK_CTL_hist_clr : Field := ⟨TSK_CTL, 5, 1⟩
abbrev TSK_CTL_pk_clr : Field := ⟨TSK_CTL, 6, 1⟩
abbrev TSK_STAT : Nat := 0x30C000004
abbrev TSK_STAT_late : Field := ⟨TSK_STAT, 0, 1⟩
abbrev TSK_STAT_ev_drop : Field := ⟨TSK_STAT, 1, 1⟩
abbrev TSK_STAT_cfg_bad : Field := ⟨TSK_STAT, 2, 1⟩
abbrev TSK_STAT_rsv_bad : Field := ⟨TSK_STAT, 3, 1⟩
abbrev TSK_STAT_perr : Field := ⟨TSK_STAT, 4, 1⟩
abbrev TSK_STAT_eng_lost : Field := ⟨TSK_STAT, 5, 1⟩
abbrev TSK_STAT_slip : Field := ⟨TSK_STAT, 6, 1⟩
abbrev TSK_STAT_cnt_ovf : Field := ⟨TSK_STAT, 7, 1⟩
abbrev TSK_DBASE : Nat := 0x30C000008
abbrev TSK_DBASE_grain : Field := ⟨TSK_DBASE, 0, 14⟩
abbrev TSK_LBASE : Nat := 0x30C00000C
abbrev TSK_LBASE_grain : Field := ⟨TSK_LBASE, 0, 14⟩
abbrev TSK_DEPTH : Nat := 0x30C000010
abbrev TSK_DEPTH_ready : Field := ⟨TSK_DEPTH, 0, 15⟩
abbrev TSK_DEPTH_delay : Field := ⟨TSK_DEPTH, 15, 14⟩
abbrev TSK_CLS (c : Nat) : Nat := 0x30C000020 + c * 0x8
abbrev TSK_CLS_rsv (c : Nat) : Field := ⟨TSK_CLS c, 0, 15⟩
abbrev TSK_CLS_HELD (c : Nat) : Nat := 0x30C000024 + c * 0x8
abbrev TSK_CLS_HELD_held (c : Nat) : Field := ⟨TSK_CLS_HELD c, 0, 15⟩
abbrev TSK_CLS_HELD_peak (c : Nat) : Field := ⟨TSK_CLS_HELD c, 16, 15⟩
abbrev TSK_RDY (p : Nat) : Nat := 0x30C000060 + p * 0x4
abbrev TSK_RDY_depth (p : Nat) : Field := ⟨TSK_RDY p, 0, 15⟩
abbrev TSK_RDY_peak (p : Nat) : Field := ⟨TSK_RDY p, 16, 15⟩
abbrev TSK_ACT : Nat := 0x30C000100
abbrev TSK_ACT_cnt : Field := ⟨TSK_ACT, 0, 32⟩
abbrev TSK_ACT_HI : Nat := 0x30C000104
abbrev TSK_ACT_HI_cnt : Field := ⟨TSK_ACT_HI, 0, 32⟩
abbrev TSK_DONE : Nat := 0x30C000108
abbrev TSK_DONE_cnt : Field := ⟨TSK_DONE, 0, 32⟩
abbrev TSK_DONE_HI : Nat := 0x30C00010C
abbrev TSK_DONE_HI_cnt : Field := ⟨TSK_DONE_HI, 0, 32⟩
abbrev TSK_EVN : Nat := 0x30C000110
abbrev TSK_EVN_cnt : Field := ⟨TSK_EVN, 0, 32⟩
abbrev TSK_EVN_HI : Nat := 0x30C000114
abbrev TSK_EVN_HI_cnt : Field := ⟨TSK_EVN_HI, 0, 32⟩
abbrev TSK_CAN : Nat := 0x30C000118
abbrev TSK_CAN_cnt : Field := ⟨TSK_CAN, 0, 32⟩
abbrev TSK_CAN_HI : Nat := 0x30C00011C
abbrev TSK_CAN_HI_cnt : Field := ⟨TSK_CAN_HI, 0, 32⟩
abbrev TSK_LATE : Nat := 0x30C000120
abbrev TSK_LATE_cnt : Field := ⟨TSK_LATE, 0, 32⟩
abbrev TSK_CAN_STALE : Nat := 0x30C000124
abbrev TSK_CAN_STALE_cnt : Field := ⟨TSK_CAN_STALE, 0, 32⟩
abbrev TSK_EV_DROP : Nat := 0x30C000128
abbrev TSK_EV_DROP_cnt : Field := ⟨TSK_EV_DROP, 0, 32⟩
abbrev TSK_BAD : Nat := 0x30C00012C
abbrev TSK_BAD_cnt : Field := ⟨TSK_BAD, 0, 32⟩
abbrev TSK_PERR : Nat := 0x30C000130
abbrev TSK_PERR_cnt : Field := ⟨TSK_PERR, 0, 32⟩
abbrev TSK_ENG_LOST : Nat := 0x30C000134
abbrev TSK_ENG_LOST_cnt : Field := ⟨TSK_ENG_LOST, 0, 32⟩
abbrev TSK_SLIP : Nat := 0x30C000138
abbrev TSK_SLIP_cnt : Field := ⟨TSK_SLIP, 0, 32⟩
abbrev TSK_CNT_OVF : Nat := 0x30C00013C
abbrev TSK_CNT_OVF_ovf : Field := ⟨TSK_CNT_OVF, 0, 7⟩
abbrev TSK_HIST (p : Nat) (i : Nat) : Nat := 0x30C001000 + p * 0x100 + i * 0x8
abbrev TSK_HIST_cnt (p : Nat) (i : Nat) : Field := ⟨TSK_HIST p i, 0, 32⟩
abbrev TSK_HIST_HI (p : Nat) (i : Nat) : Nat := 0x30C001004 + p * 0x100 + i * 0x8
abbrev TSK_HIST_HI_cnt (p : Nat) (i : Nat) : Field := ⟨TSK_HIST_HI p i, 0, 32⟩

/-! Table 15-8 -/

abbrev TSK_ESTAT (g : Nat) : Nat := 0x30C003000 + g * 0x10
abbrev TSK_ESTAT_slot (g : Nat) : Field := ⟨TSK_ESTAT g, 0, 1⟩
abbrev TSK_ESTAT_run (g : Nat) : Field := ⟨TSK_ESTAT g, 1, 1⟩
abbrev TSK_ESTAT_elig (g : Nat) : Field := ⟨TSK_ESTAT g, 2, 1⟩
abbrev TSK_ESTAT_idx (g : Nat) : Field := ⟨TSK_ESTAT g, 3, 16⟩
abbrev TSK_LOAD (g : Nat) : Nat := 0x30C003004 + g * 0x10
abbrev TSK_LOAD_load (g : Nat) : Field := ⟨TSK_LOAD g, 0, 16⟩
abbrev TSK_LOAD_peak (g : Nat) : Field := ⟨TSK_LOAD g, 16, 16⟩
abbrev TSK_DISP (g : Nat) : Nat := 0x30C003008 + g * 0x10
abbrev TSK_DISP_cnt (g : Nat) : Field := ⟨TSK_DISP g, 0, 32⟩
abbrev TSK_DISP_HI (g : Nat) : Nat := 0x30C00300C + g * 0x10
abbrev TSK_DISP_HI_cnt (g : Nat) : Field := ⟨TSK_DISP_HI g, 0, 32⟩

/-! Table 15-9 -/

abbrev EV_LO (g : Nat) : Nat := 0x30C100000 + g * 0x40
abbrev EV_LO_payload (g : Nat) : Field := ⟨EV_LO g, 0, 32⟩
abbrev EV_HI (g : Nat) : Nat := 0x30C100004 + g * 0x40
abbrev EV_HI_desc (g : Nat) : Field := ⟨EV_HI g, 0, 16⟩
abbrev TE_PAY (g : Nat) : Nat := 0x30C100008 + g * 0x40
abbrev TE_PAY_payload (g : Nat) : Field := ⟨TE_PAY g, 0, 32⟩
abbrev TE_DESC (g : Nat) : Nat := 0x30C10000C + g * 0x40
abbrev TE_DESC_desc (g : Nat) : Field := ⟨TE_DESC g, 0, 16⟩
abbrev TE_DESC_periodic (g : Nat) : Field := ⟨TE_DESC g, 16, 1⟩
abbrev TE_T_LO (g : Nat) : Nat := 0x30C100010 + g * 0x40
abbrev TE_T_LO_t (g : Nat) : Field := ⟨TE_T_LO g, 0, 32⟩
abbrev TE_T_HI (g : Nat) : Nat := 0x30C100014 + g * 0x40
abbrev TE_T_HI_t (g : Nat) : Field := ⟨TE_T_HI g, 0, 32⟩
abbrev CAN_LO (g : Nat) : Nat := 0x30C100018 + g * 0x40
abbrev CAN_LO_idx (g : Nat) : Field := ⟨CAN_LO g, 0, 16⟩
abbrev CAN_HI (g : Nat) : Nat := 0x30C10001C + g * 0x40
abbrev CAN_HI_gen (g : Nat) : Field := ⟨CAN_HI g, 0, 20⟩

/-! Table 16-7 -/

abbrev PLC_CTL : Nat := 0x30D000000
abbrev PLC_CTL_auto_en : Field := ⟨PLC_CTL, 0, 1⟩
abbrev PLC_CTL_shed_en : Field := ⟨PLC_CTL, 1, 1⟩
abbrev PLC_STAT : Nat := 0x30D000004
abbrev PLC_STAT_state : Field := ⟨PLC_STAT, 0, 3⟩
abbrev PLC_STAT_kind : Field := ⟨PLC_STAT, 3, 3⟩
abbrev PLC_STAT_refused : Field := ⟨PLC_STAT, 6, 1⟩
abbrev PLC_STAT_shed : Field := ⟨PLC_STAT, 7, 1⟩
abbrev PLC_STAT_retired : Field := ⟨PLC_STAT, 8, 1⟩
abbrev PLC_STAT_ref_perr : Field := ⟨PLC_STAT, 9, 1⟩
abbrev PLC_STAT_cnt_ovf : Field := ⟨PLC_STAT, 10, 1⟩
abbrev PLC_ADMIT : Nat := 0x30D000008
abbrev PLC_ADMIT_reason : Field := ⟨PLC_ADMIT, 0, 8⟩
abbrev PLC_ADMIT_done : Field := ⟨PLC_ADMIT, 8, 1⟩
abbrev PLC_ADMIT_index : Field := ⟨PLC_ADMIT, 9, 12⟩
abbrev PLC_SW_FRAME : Nat := 0x30D00000C
abbrev PLC_SW_FRAME_frame : Field := ⟨PLC_SW_FRAME, 0, 32⟩
abbrev PLC_POLICY : Nat := 0x30D000010
abbrev PLC_POLICY_spare_pods : Field := ⟨PLC_POLICY, 0, 3⟩
abbrev PLC_POLICY_eng_util : Field := ⟨PLC_POLICY, 3, 7⟩
abbrev PLC_SPARE : Nat := 0x30D000014
abbrev PLC_SPARE_pods : Field := ⟨PLC_SPARE, 0, 3⟩
abbrev PLC_SPARE_cluster : Field := ⟨PLC_SPARE, 3, 1⟩
abbrev PLC_SPARE_tile_pos : Field := ⟨PLC_SPARE, 4, 4⟩
abbrev PLC_RET_POD : Nat := 0x30D000018
abbrev PLC_RET_POD_pod : Field := ⟨PLC_RET_POD, 0, 24⟩
abbrev PLC_RET_FEX : Nat := 0x30D00001C
abbrev PLC_RET_FEX_cl : Field := ⟨PLC_RET_FEX, 0, 17⟩
abbrev PLC_RET_TILE_LO : Nat := 0x30D000020
abbrev PLC_RET_TILE_LO_tile : Field := ⟨PLC_RET_TILE_LO, 0, 32⟩
abbrev PLC_RET_TILE_HI : Nat := 0x30D000024
abbrev PLC_RET_TILE_HI_tile : Field := ⟨PLC_RET_TILE_HI, 0, 32⟩
abbrev PLC_RET_COD_LO : Nat := 0x30D000028
abbrev PLC_RET_COD_LO_unit : Field := ⟨PLC_RET_COD_LO, 0, 32⟩
abbrev PLC_RET_COD_HI : Nat := 0x30D00002C
abbrev PLC_RET_COD_HI_unit : Field := ⟨PLC_RET_COD_HI, 0, 18⟩
abbrev PLC_REPL : Nat := 0x30D000040
abbrev PLC_REPL_cnt : Field := ⟨PLC_REPL, 0, 32⟩
abbrev PLC_REPL_HI : Nat := 0x30D000044
abbrev PLC_REPL_HI_cnt : Field := ⟨PLC_REPL_HI, 0, 32⟩
abbrev PLC_SHED_CNT : Nat := 0x30D000048
abbrev PLC_SHED_CNT_cnt : Field := ⟨PLC_SHED_CNT, 0, 32⟩
abbrev PLC_CNT_OVF : Nat := 0x30D00004C
abbrev PLC_CNT_OVF_shed_ovf : Field := ⟨PLC_CNT_OVF, 0, 1⟩
abbrev PLC_CELL (c : Nat) : Nat := 0x30D000400 + c * 0x8
abbrev PLC_CELL_state (c : Nat) : Field := ⟨PLC_CELL c, 0, 3⟩
abbrev PLC_CELL_pod (c : Nat) : Field := ⟨PLC_CELL c, 3, 5⟩
abbrev PLC_CELL_harness (c : Nat) : Field := ⟨PLC_CELL c, 8, 6⟩
abbrev PLC_CELL_OUT (c : Nat) : Nat := 0x30D000404 + c * 0x8
abbrev PLC_CELL_OUT_cnt (c : Nat) : Field := ⟨PLC_CELL_OUT c, 0, 32⟩
abbrev PLC_CELL_OVF (i : Nat) : Nat := 0x30D000C00 + i * 0x4
abbrev PLC_CELL_OVF_ovf (i : Nat) : Field := ⟨PLC_CELL_OVF i, 0, 32⟩

/-! Table 17-13 -/

abbrev SYS_RST_CAUSE : Nat := 0x300000100
abbrev SYS_RST_CAUSE_cause : Field := ⟨SYS_RST_CAUSE, 0, 6⟩
abbrev SYS_STRAP : Nat := 0x300000104
abbrev SYS_STRAP_mgt : Field := ⟨SYS_STRAP, 0, 1⟩
abbrev SYS_STRAP_fclk : Field := ⟨SYS_STRAP, 1, 1⟩
abbrev SYS_STRAP_bank : Field := ⟨SYS_STRAP, 2, 2⟩
abbrev SYS_BOOT_STAT : Nat := 0x300000108
abbrev SYS_BOOT_STAT_phase : Field := ⟨SYS_BOOT_STAT, 0, 4⟩
abbrev SYS_BOOT_STAT_done : Field := ⟨SYS_BOOT_STAT, 4, 1⟩
abbrev SYS_BOOT_STAT_hold : Field := ⟨SYS_BOOT_STAT, 5, 5⟩
abbrev SYS_BOOT_STAT_bank : Field := ⟨SYS_BOOT_STAT, 10, 1⟩
abbrev SYS_BOOT_STAT_trial : Field := ⟨SYS_BOOT_STAT, 11, 1⟩
abbrev SYS_BOOT_STAT_slow : Field := ⟨SYS_BOOT_STAT, 12, 1⟩
abbrev SYS_BOOT_STAT_cnt_ovf : Field := ⟨SYS_BOOT_STAT, 13, 1⟩
abbrev SYS_BOOT_CTL : Nat := 0x30000010C
abbrev SYS_BOOT_CTL_fw_ready : Field := ⟨SYS_BOOT_CTL, 0, 1⟩
abbrev SYS_IMG_SEQ_LO : Nat := 0x300000110
abbrev SYS_IMG_SEQ_LO_seq : Field := ⟨SYS_IMG_SEQ_LO, 0, 32⟩
abbrev SYS_IMG_SEQ_HI : Nat := 0x300000114
abbrev SYS_IMG_SEQ_HI_seq : Field := ⟨SYS_IMG_SEQ_HI, 0, 32⟩
abbrev SYS_BOOT_ATT : Nat := 0x300000118
abbrev SYS_BOOT_ATT_a_failed : Field := ⟨SYS_BOOT_ATT, 0, 1⟩
abbrev SYS_BOOT_ATT_b_failed : Field := ⟨SYS_BOOT_ATT, 1, 1⟩
abbrev SYS_BOOT_ATT_n_auto : Field := ⟨SYS_BOOT_ATT, 2, 3⟩
abbrev SYS_BOOT_MS : Nat := 0x30000011C
abbrev SYS_BOOT_MS_ms : Field := ⟨SYS_BOOT_MS, 0, 32⟩
abbrev SYS_RESTARTS : Nat := 0x300000120
abbrev SYS_RESTARTS_cnt : Field := ⟨SYS_RESTARTS, 0, 32⟩
abbrev SYS_PHASE_MS (k : Nat) : Nat := 0x300000140 + k * 0x4
abbrev SYS_PHASE_MS_ms (k : Nat) : Field := ⟨SYS_PHASE_MS k, 0, 32⟩

/-! Table 17-14 -/

abbrev CAL_STAT : Nat := 0x310800000
abbrev CAL_STAT_copy : Field := ⟨CAL_STAT, 0, 1⟩
abbrev CAL_STAT_ok : Field := ⟨CAL_STAT, 1, 2⟩
abbrev CAL_STAT_user : Field := ⟨CAL_STAT, 3, 1⟩
abbrev CAL_STAT_n_user : Field := ⟨CAL_STAT, 4, 12⟩
abbrev CAL_STAT_clamp : Field := ⟨CAL_STAT, 16, 1⟩
abbrev CAL_STAT_cnt_ovf : Field := ⟨CAL_STAT, 17, 1⟩
abbrev CAL_SEL : Nat := 0x310800004
abbrev CAL_SEL_class : Field := ⟨CAL_SEL, 0, 4⟩
abbrev CAL_SEL_index : Field := ⟨CAL_SEL, 4, 10⟩
abbrev CAL_SEL_op : Field := ⟨CAL_SEL, 14, 1⟩
abbrev CAL_SEL_has_user : Field := ⟨CAL_SEL, 15, 1⟩
abbrev CAL_FAC : Nat := 0x310800008
abbrev CAL_FAC_val : Field := ⟨CAL_FAC, 0, 32⟩
abbrev CAL_USR : Nat := 0x31080000C
abbrev CAL_USR_val : Field := ⟨CAL_USR, 0, 32⟩
abbrev CAL_EFF : Nat := 0x310800010
abbrev CAL_EFF_val : Field := ⟨CAL_EFF, 0, 32⟩
abbrev CAL_CLAMPS : Nat := 0x310800014
abbrev CAL_CLAMPS_cnt : Field := ⟨CAL_CLAMPS, 0, 32⟩
abbrev CAL_OTP (w : Nat) : Nat := 0x310801000 + w * 0x4
abbrev CAL_OTP_word (w : Nat) : Field := ⟨CAL_OTP w, 0, 32⟩

/-! Table 18-9 -/

abbrev MGT_CINCH : Nat := 0x30E000000
abbrev MGT_CINCH_open_ : Field := ⟨MGT_CINCH, 0, 1⟩
abbrev MGT_CINCH_key : Field := ⟨MGT_CINCH, 1, 1⟩
abbrev MGT_CINCH_pres_stuck : Field := ⟨MGT_CINCH, 2, 1⟩
abbrev MGT_CINCH_remain : Field := ⟨MGT_CINCH, 16, 11⟩
abbrev MGT_SEAL : Nat := 0x30E000004
abbrev MGT_SEAL_loop_open : Field := ⟨MGT_SEAL, 0, 1⟩
abbrev MGT_SEAL_opened : Field := ⟨MGT_SEAL, 1, 1⟩
abbrev MGT_STAT : Nat := 0x30E000008
abbrev MGT_STAT_env_stop : Field := ⟨MGT_STAT, 0, 1⟩
abbrev MGT_STAT_env_cause : Field := ⟨MGT_STAT, 1, 5⟩
abbrev MGT_STAT_dbg : Field := ⟨MGT_STAT, 6, 1⟩
abbrev MGT_STAT_staged : Field := ⟨MGT_STAT, 7, 1⟩
abbrev MGT_STAT_trial : Field := ⟨MGT_STAT, 8, 1⟩
abbrev MGT_STAT_roll : Field := ⟨MGT_STAT, 9, 1⟩
abbrev MGT_STAT_pin_full : Field := ⟨MGT_STAT, 10, 1⟩
abbrev MGT_STAT_cnt_ovf : Field := ⟨MGT_STAT, 11, 1⟩
abbrev MGT_ENV_T : Nat := 0x30E00000C
abbrev MGT_ENV_T_sec : Field := ⟨MGT_ENV_T, 0, 6⟩
abbrev MGT_WDOG : Nat := 0x30E000010
abbrev MGT_WDOG_key : Field := ⟨MGT_WDOG, 0, 32⟩
abbrev MGT_MAC_LO : Nat := 0x30E000014
abbrev MGT_MAC_LO_mac : Field := ⟨MGT_MAC_LO, 0, 32⟩
abbrev MGT_MAC_HI : Nat := 0x30E000018
abbrev MGT_MAC_HI_mac : Field := ⟨MGT_MAC_HI, 0, 16⟩
abbrev MGT_LOG_WAIT : Nat := 0x30E00001C
abbrev MGT_LOG_WAIT_n : Field := ⟨MGT_LOG_WAIT, 0, 13⟩
abbrev MGT_LOG_WAIT_pin : Field := ⟨MGT_LOG_WAIT, 13, 7⟩
abbrev MGT_LOG_SEQ : Nat := 0x30E000020
abbrev MGT_LOG_SEQ_cnt : Field := ⟨MGT_LOG_SEQ, 0, 32⟩
abbrev MGT_LOG_SEQ_HI : Nat := 0x30E000024
abbrev MGT_LOG_SEQ_HI_cnt : Field := ⟨MGT_LOG_SEQ_HI, 0, 32⟩
abbrev MGT_RX_MSG : Nat := 0x30E000028
abbrev MGT_RX_MSG_cnt : Field := ⟨MGT_RX_MSG, 0, 32⟩
abbrev MGT_RX_MSG_HI : Nat := 0x30E00002C
abbrev MGT_RX_MSG_HI_cnt : Field := ⟨MGT_RX_MSG_HI, 0, 32⟩
abbrev MGT_SESS : Nat := 0x30E000030
abbrev MGT_SESS_cnt : Field := ⟨MGT_SESS, 0, 32⟩
abbrev MGT_PRESS : Nat := 0x30E000034
abbrev MGT_PRESS_cnt : Field := ⟨MGT_PRESS, 0, 32⟩
abbrev MGT_SEAL_CNT : Nat := 0x30E000038
abbrev MGT_SEAL_CNT_cnt : Field := ⟨MGT_SEAL_CNT, 0, 32⟩
abbrev MGT_REFUSED : Nat := 0x30E00003C
abbrev MGT_REFUSED_cnt : Field := ⟨MGT_REFUSED, 0, 32⟩
abbrev MGT_LOG_DROP : Nat := 0x30E000040
abbrev MGT_LOG_DROP_cnt : Field := ⟨MGT_LOG_DROP, 0, 32⟩
abbrev MGT_NTF_DROP : Nat := 0x30E000044
abbrev MGT_NTF_DROP_cnt : Field := ⟨MGT_NTF_DROP, 0, 32⟩
abbrev MGT_MSG_BAD : Nat := 0x30E000048
abbrev MGT_MSG_BAD_cnt : Field := ⟨MGT_MSG_BAD, 0, 32⟩
abbrev MGT_CNT_OVF : Nat := 0x30E00004C
abbrev MGT_CNT_OVF_ovf : Field := ⟨MGT_CNT_OVF, 0, 7⟩

/-! Table 19-6 -/

abbrev SNS_CTL : Nat := 0x30F000000
abbrev SNS_CTL_en : Field := ⟨SNS_CTL, 0, 1⟩
abbrev SNS_CTL_len : Field := ⟨SNS_CTL, 1, 6⟩
abbrev SNS_CTL_settle : Field := ⟨SNS_CTL, 7, 4⟩
abbrev SNS_CTL_nthr : Field := ⟨SNS_CTL, 11, 2⟩
abbrev SNS_STAT : Nat := 0x30F000004
abbrev SNS_STAT_entry : Field := ⟨SNS_STAT, 0, 6⟩
abbrev SNS_STAT_slip : Field := ⟨SNS_STAT, 6, 1⟩
abbrev SNS_STAT_ovf : Field := ⟨SNS_STAT, 7, 1⟩
abbrev SNS_STAT_limit : Field := ⟨SNS_STAT, 8, 1⟩
abbrev SNS_STAT_cfg_bad : Field := ⟨SNS_STAT, 9, 1⟩
abbrev SNS_STAT_cnt_ovf : Field := ⟨SNS_STAT, 10, 1⟩
abbrev SNS_DAC : Nat := 0x30F000008
abbrev SNS_DAC_dac : Field := ⟨SNS_DAC, 0, 12⟩
abbrev SNS_MAN : Nat := 0x30F00000C
abbrev SNS_MAN_input : Field := ⟨SNS_MAN, 0, 6⟩
abbrev SNS_MAN_rep_m1 : Field := ⟨SNS_MAN, 6, 8⟩
abbrev SNS_MAN_avg : Field := ⟨SNS_MAN, 14, 1⟩
abbrev SNS_MAN_RES : Nat := 0x30F000010
abbrev SNS_MAN_RES_value : Field := ⟨SNS_MAN_RES, 0, 16⟩
abbrev SNS_MAN_RES_done : Field := ⟨SNS_MAN_RES, 16, 1⟩
abbrev SNS_MAN_RES_bad : Field := ⟨SNS_MAN_RES, 17, 1⟩
abbrev SNS_LOOP : Nat := 0x30F000014
abbrev SNS_LOOP_clocks : Field := ⟨SNS_LOOP, 0, 32⟩
abbrev SNS_CONV : Nat := 0x30F000018
abbrev SNS_CONV_cnt : Field := ⟨SNS_CONV, 0, 32⟩
abbrev SNS_CONV_HI : Nat := 0x30F00001C
abbrev SNS_CONV_HI_cnt : Field := ⟨SNS_CONV_HI, 0, 32⟩
abbrev SNS_DROP : Nat := 0x30F000020
abbrev SNS_DROP_cnt : Field := ⟨SNS_DROP, 0, 32⟩
abbrev SNS_SLIP : Nat := 0x30F000024
abbrev SNS_SLIP_cnt : Field := ⟨SNS_SLIP, 0, 32⟩
abbrev SNS_LIMX : Nat := 0x30F000028
abbrev SNS_LIMX_cnt : Field := ⟨SNS_LIMX, 0, 32⟩
abbrev SNS_CNT_OVF : Nat := 0x30F00002C
abbrev SNS_CNT_OVF_ovf : Field := ⟨SNS_CNT_OVF, 0, 3⟩
abbrev SNS_RING_BASE (r : Nat) : Nat := 0x30F000100 + r * 0x20
abbrev SNS_RING_BASE_base (r : Nat) : Field := ⟨SNS_RING_BASE r, 0, 21⟩
abbrev SNS_RING_SIZE (r : Nat) : Nat := 0x30F000104 + r * 0x20
abbrev SNS_RING_SIZE_size (r : Nat) : Field := ⟨SNS_RING_SIZE r, 0, 5⟩
abbrev SNS_RING_WR_LO (r : Nat) : Nat := 0x30F000108 + r * 0x20
abbrev SNS_RING_WR_LO_cnt (r : Nat) : Field := ⟨SNS_RING_WR_LO r, 0, 32⟩
abbrev SNS_RING_WR_HI (r : Nat) : Nat := 0x30F00010C + r * 0x20
abbrev SNS_RING_WR_HI_cnt (r : Nat) : Field := ⟨SNS_RING_WR_HI r, 0, 32⟩
abbrev SNS_RING_RD (r : Nat) : Nat := 0x30F000110 + r * 0x20
abbrev SNS_RING_RD_rd (r : Nat) : Field := ⟨SNS_RING_RD r, 0, 32⟩
abbrev SNS_LIM (i : Nat) : Nat := 0x30F000400 + i * 0x10
abbrev SNS_LIM_lo (i : Nat) : Field := ⟨SNS_LIM i, 0, 16⟩
abbrev SNS_LIM_hi (i : Nat) : Field := ⟨SNS_LIM i, 16, 16⟩
abbrev SNS_ICFG (i : Nat) : Nat := 0x30F000404 + i * 0x10
abbrev SNS_ICFG_act (i : Nat) : Field := ⟨SNS_ICFG i, 0, 2⟩
abbrev SNS_ICFG_cls (i : Nat) : Field := ⟨SNS_ICFG i, 2, 1⟩
abbrev SNS_LAST (i : Nat) : Nat := 0x30F000408 + i * 0x10
abbrev SNS_LAST_value (i : Nat) : Field := ⟨SNS_LAST i, 0, 16⟩
abbrev SNS_LAST_above (i : Nat) : Field := ⟨SNS_LAST i, 16, 1⟩
abbrev SNS_LAST_below (i : Nat) : Field := ⟨SNS_LAST i, 17, 1⟩
abbrev SNS_SEQ (k : Nat) (w : Nat) : Nat := 0x30F001000 + k * 0x8 + w * 0x4
abbrev SNS_SEQ_word (k : Nat) (w : Nat) : Field := ⟨SNS_SEQ k w, 0, 32⟩

/-! Table 19-7 -/

abbrev AGE_CTL : Nat := 0x310000000
abbrev AGE_CTL_meas : Field := ⟨AGE_CTL, 0, 1⟩
abbrev AGE_STAT : Nat := 0x310000004
abbrev AGE_STAT_busy : Field := ⟨AGE_STAT, 0, 1⟩
abbrev AGE_STAT_exhausted : Field := ⟨AGE_STAT, 1, 1⟩
abbrev AGE_STAT_mon_bad : Field := ⟨AGE_STAT, 2, 1⟩
abbrev AGE_STAT_cnt_ovf : Field := ⟨AGE_STAT, 3, 1⟩
abbrev AGE_VOFS : Nat := 0x310000008
abbrev AGE_VOFS_ofs : Field := ⟨AGE_VOFS, 0, 7⟩
abbrev AGE_VOFS_budget : Field := ⟨AGE_VOFS, 16, 7⟩
abbrev AGE_VSET : Nat := 0x31000000C
abbrev AGE_VSET_mv : Field := ⟨AGE_VSET, 0, 10⟩
abbrev AGE_LIFE : Nat := 0x310000010
abbrev AGE_LIFE_days : Field := ⟨AGE_LIFE, 0, 16⟩
abbrev AGE_NEXT : Nat := 0x310000014
abbrev AGE_NEXT_sec : Field := ⟨AGE_NEXT, 0, 17⟩
abbrev AGE_MEAS_CNT : Nat := 0x310000018
abbrev AGE_MEAS_CNT_cnt : Field := ⟨AGE_MEAS_CNT, 0, 32⟩
abbrev AGE_GRP_D (g : Nat) : Nat := 0x310000100 + g * 0x8
abbrev AGE_GRP_D_d (g : Nat) : Field := ⟨AGE_GRP_D g, 0, 21⟩
abbrev AGE_GRP_INFO (g : Nat) : Nat := 0x310000104 + g * 0x8
abbrev AGE_GRP_INFO_worst (g : Nat) : Field := ⟨AGE_GRP_INFO g, 0, 9⟩
abbrev AGE_GRP_INFO_clk (g : Nat) : Field := ⟨AGE_GRP_INFO g, 9, 2⟩
abbrev AGE_GRP_INFO_exh (g : Nat) : Field := ⟨AGE_GRP_INFO g, 11, 1⟩
abbrev AGE_MON (m : Nat) : Nat := 0x310001000 + m * 0x4
abbrev AGE_MON_d (m : Nat) : Field := ⟨AGE_MON m, 0, 21⟩
abbrev AGE_MON_kind (m : Nat) : Field := ⟨AGE_MON m, 21, 1⟩
abbrev AGE_MON_bad (m : Nat) : Field := ⟨AGE_MON m, 22, 1⟩

/-! Table 20-14 -/

abbrev SYS_ID : Nat := 0x300000000
abbrev SYS_ID_rev : Field := ⟨SYS_ID, 0, 16⟩
abbrev SYS_ID_part : Field := ⟨SYS_ID, 16, 1⟩
abbrev SYS_CLK_STAT : Nat := 0x300000004
abbrev SYS_CLK_STAT_sys_lock : Field := ⟨SYS_CLK_STAT, 0, 1⟩
abbrev SYS_CLK_STAT_sysref_ok : Field := ⟨SYS_CLK_STAT, 1, 1⟩
abbrev SYS_CLK_STAT_lol : Field := ⟨SYS_CLK_STAT, 2, 1⟩
abbrev SYS_CLK_STAT_cnt_ovf : Field := ⟨SYS_CLK_STAT, 3, 1⟩
abbrev SYS_CLK_LOL : Nat := 0x300000008
abbrev SYS_CLK_LOL_cnt : Field := ⟨SYS_CLK_LOL, 0, 32⟩

/-! Table 20-15 -/

abbrev PWR_DOM_LO : Nat := 0x301000000
abbrev PWR_DOM_LO_on : Field := ⟨PWR_DOM_LO, 0, 32⟩
abbrev PWR_DOM_HI : Nat := 0x301000004
abbrev PWR_DOM_HI_on : Field := ⟨PWR_DOM_HI, 0, 16⟩
abbrev PWR_REQ_LO : Nat := 0x301000008
abbrev PWR_REQ_LO_req : Field := ⟨PWR_REQ_LO, 0, 32⟩
abbrev PWR_REQ_HI : Nat := 0x30100000C
abbrev PWR_REQ_HI_req : Field := ⟨PWR_REQ_HI, 0, 16⟩
abbrev PWR_LAUTO : Nat := 0x301000010
abbrev PWR_LAUTO_auto : Field := ⟨PWR_LAUTO, 0, 16⟩
abbrev PWR_STAT : Nat := 0x301000014
abbrev PWR_STAT_busy : Field := ⟨PWR_STAT, 0, 1⟩
abbrev PWR_STAT_refused : Field := ⟨PWR_STAT, 1, 1⟩
abbrev PWR_STAT_pmb_err : Field := ⟨PWR_STAT, 2, 1⟩
abbrev PWR_STAT_alert : Field := ⟨PWR_STAT, 3, 1⟩
abbrev PWR_STAT_cnt_ovf : Field := ⟨PWR_STAT, 4, 1⟩
abbrev PWR_SW_CNT : Nat := 0x301000018
abbrev PWR_SW_CNT_cnt : Field := ⟨PWR_SW_CNT, 0, 32⟩
abbrev PWR_SW_CNT_HI : Nat := 0x30100001C
abbrev PWR_SW_CNT_HI_cnt : Field := ⟨PWR_SW_CNT_HI, 0, 32⟩
abbrev PWR_PMB_ERR : Nat := 0x301000020
abbrev PWR_PMB_ERR_cnt : Field := ⟨PWR_PMB_ERR, 0, 32⟩
abbrev PWR_REG (k : Nat) : Nat := 0x301000040 + k * 0x8
abbrev PWR_REG_addr (k : Nat) : Field := ⟨PWR_REG k, 0, 7⟩
abbrev PWR_REG_valid (k : Nat) : Field := ⟨PWR_REG k, 7, 1⟩
abbrev PWR_REG_rail (k : Nat) : Field := ⟨PWR_REG k, 8, 8⟩
abbrev PWR_REG_mv (k : Nat) : Field := ⟨PWR_REG k, 16, 16⟩
abbrev PWR_REG_STAT (k : Nat) : Nat := 0x301000044 + k * 0x8
abbrev PWR_REG_STAT_status (k : Nat) : Field := ⟨PWR_REG_STAT k, 0, 16⟩

end R

/-- Writable registers of the control blocks, part 0. -/
def regRows0 : List RegRow :=
  [ ⟨0x302000000, 1, 0x100000000000, 1, 4, 0x1F, 0x0, 0x0, 0x0⟩
  , ⟨0x302000008, 1, 0x100000000000, 1, 4, 0x0, 0xFFFFFFFF, 0x0, 0x0⟩
  , ⟨0x302000018, 1, 0x100000000000, 1, 4, 0xFFFFFFFF, 0x0, 0x0, 0x0⟩
  , ⟨0x30200001C, 1, 0x100000000000, 1, 4, 0xFFFFFFFF, 0x0, 0x0, 0x0⟩
  , ⟨0x30200003C, 1, 0x100000000000, 1, 4, 0x0, 0x0, 0x1, 0x0⟩
  , ⟨0x302000100, 16, 0x20, 1, 4, 0xFFFF001F, 0x0, 0x0, 0x0⟩
  , ⟨0x302000104, 16, 0x20, 1, 4, 0xFFFFFFFF, 0x0, 0x0, 0x0⟩
  , ⟨0x302000108, 16, 0x20, 1, 4, 0xFFFFFFFF, 0x0, 0x0, 0x0⟩
  , ⟨0x30200010C, 16, 0x20, 1, 4, 0xFFFFFFFF, 0x0, 0x0, 0x0⟩
  , ⟨0x302000118, 16, 0x20, 1, 4, 0x0, 0x0, 0x1F0, 0x0⟩
  , ⟨0x303000000, 1, 0x100000000000, 1, 4, 0xFFFFF, 0x0, 0x0, 0x0⟩
  , ⟨0x303000020, 1, 0x100000000000, 1, 4, 0x20FFFF, 0x0, 0x0, 0x0⟩
  , ⟨0x303000028, 1, 0x100000000000, 1, 4, 0xFFFFFFFF, 0x0, 0x0, 0x0⟩
  , ⟨0x303000030, 1, 0x100000000000, 1, 4, 0x3, 0x0, 0x4, 0x0⟩
  , ⟨0x303000034, 1, 0x100000000000, 1, 4, 0xFFFFFFFF, 0x0, 0x0, 0x0⟩
  , ⟨0x303000048, 1, 0x100000000000, 1, 4, 0xFFFFFFFF, 0x0, 0x0, 0x0⟩
  , ⟨0x30300004C, 1, 0x100000000000, 1, 4, 0xFFFFFFFF, 0x0, 0x0, 0x0⟩
  , ⟨0x303000050, 1, 0x100000000000, 1, 4, 0xFFFFFFFF, 0x0, 0x0, 0x0⟩
  , ⟨0x303000054, 1, 0x100000000000, 1, 4, 0x7, 0x0, 0x10, 0x0⟩
  , ⟨0x30300006C, 2, 0x40, 1, 4, 0xFFFFFFFF, 0x0, 0x0, 0x0⟩
  , ⟨0x303000070, 2, 0x40, 1, 4, 0xFF, 0x0, 0x0, 0x0⟩
  , ⟨0x303000074, 2, 0x40, 1, 4, 0xFFFFFFFF, 0x0, 0x0, 0x0⟩
  , ⟨0x303000078, 2, 0x40, 1, 4, 0xFFFF, 0x0, 0x0, 0x0⟩
  , ⟨0x30300007C, 2, 0x40, 1, 4, 0x3FFFFFFF, 0x0, 0x0, 0x0⟩ ]

/-- Writable registers of the control blocks, part 1. -/
def regRows1 : List RegRow :=
  [ ⟨0x303000100, 8, 0x40, 1, 4, 0x3F, 0x0, 0x0, 0x0⟩
  , ⟨0x303000104, 8, 0x40, 1, 4, 0xFFFFFFFF, 0x0, 0x0, 0x0⟩
  , ⟨0x303000108, 8, 0x40, 1, 4, 0xFFFFFFFF, 0x0, 0x0, 0x0⟩
  , ⟨0x30300010C, 8, 0x40, 1, 4, 0xFFFFFFFF, 0x0, 0x0, 0x0⟩
  , ⟨0x303000114, 8, 0x40, 1, 4, 0xFFFFFFFF, 0x0, 0x0, 0x0⟩
  , ⟨0x30300011C, 8, 0x40, 1, 4, 0x0, 0x0, 0x38, 0x0⟩
  , ⟨0x303000138, 8, 0x40, 1, 4, 0xFFFFFFFF, 0x0, 0x0, 0x0⟩
  , ⟨0x305000000, 4, 0x4, 1, 4, 0x0, 0x7F, 0x0, 0x0⟩
  , ⟨0x305000100, 16, 0x100, 1, 4, 0x0, 0x3FFFFFF, 0x0, 0x0⟩
  , ⟨0x305000104, 16, 0x100, 1, 4, 0x0, 0x0, 0xF00, 0x0⟩
  , ⟨0x305000108, 16, 0x100, 1, 4, 0x0, 0xFFFFFFFF, 0x0, 0x0⟩
  , ⟨0x30500010C, 16, 0x100, 1, 4, 0x0, 0xFFFFFFFF, 0x0, 0x0⟩
  , ⟨0x305002000, 256, 0x8, 1, 4, 0x0, 0xFFFFFFFF, 0x0, 0x0⟩
  , ⟨0x305002004, 256, 0x8, 1, 4, 0x0, 0xFFFF, 0x0, 0x0⟩
  , ⟨0x305003000, 256, 0x4, 1, 4, 0x0, 0xFFFFFFFF, 0x0, 0x0⟩
  , ⟨0x304000000, 1024, 0x1000, 1, 4, 0x7FFFFFF, 0x0, 0x0, 0x0⟩
  , ⟨0x304000004, 1024, 0x1000, 1, 4, 0x4, 0x0, 0x0, 0x0⟩
  , ⟨0x304000008, 1024, 0x1000, 1, 4, 0x0, 0x0, 0x1F800, 0x0⟩
  , ⟨0x30400000C, 1024, 0x1000, 1, 4, 0x3FF, 0x0, 0x0, 0x0⟩
  , ⟨0x30400006C, 1024, 0x1000, 1, 4, 0x0, 0x0, 0x7, 0x0⟩
  , ⟨0x304000100, 1024, 0x1000, 1, 4, 0x3FFFFFF, 0x0, 0x0, 0x0⟩
  , ⟨0x304000104, 1024, 0x1000, 1, 4, 0x1FFFFF, 0x0, 0x0, 0x0⟩
  , ⟨0x304000108, 1024, 0x1000, 1, 4, 0x0, 0x0, 0x7FF00, 0x0⟩
  , ⟨0x30400010C, 1024, 0x1000, 1, 4, 0xFFFFFF, 0x0, 0x0, 0x0⟩ ]

/-- Writable registers of the control blocks, part 2. -/
def regRows2 : List RegRow :=
  [ ⟨0x304000110, 1024, 0x1000, 1, 4, 0xFFFFFFFF, 0x0, 0x0, 0x0⟩
  , ⟨0x304000114, 1024, 0x1000, 1, 4, 0xFFFF, 0x0, 0x0, 0x0⟩
  , ⟨0x304000124, 1024, 0x1000, 1, 4, 0xFFFFFFFF, 0x0, 0x0, 0x0⟩
  , ⟨0x304000128, 1024, 0x1000, 1, 4, 0xFFFFFFFF, 0x0, 0x0, 0x0⟩
  , ⟨0x304000130, 1024, 0x1000, 1, 4, 0xFFFFFFFF, 0x0, 0x0, 0x0⟩
  , ⟨0x304000140, 1024, 0x1000, 8, 4, 0xFFFFFFFF, 0x0, 0x0, 0x0⟩
  , ⟨0x3040001A8, 1024, 0x1000, 1, 4, 0x0, 0x0, 0x3F, 0x0⟩
  , ⟨0x304000200, 1024, 0x1000, 1, 4, 0x3F, 0x0, 0x0, 0x0⟩
  , ⟨0x304000204, 1024, 0x1000, 1, 4, 0x7F, 0x0, 0x0, 0x0⟩
  , ⟨0x304000208, 1024, 0x1000, 1, 4, 0x3FF, 0x0, 0x0, 0x0⟩
  , ⟨0x30400020C, 1024, 0x1000, 1, 4, 0xFFFFFFFF, 0x0, 0x0, 0x0⟩
  , ⟨0x304000210, 1024, 0x1000, 8, 4, 0xFFFFFFFF, 0x0, 0x0, 0x0⟩
  , ⟨0x304000230, 1024, 0x1000, 1, 4, 0x0, 0x0, 0xCC, 0x0⟩
  , ⟨0x304000264, 1024, 0x1000, 1, 4, 0x0, 0x0, 0x1, 0x0⟩
  , ⟨0x306100014, 4096, 0x20, 1, 4, 0x0, 0x0, 0x300, 0x0⟩
  , ⟨0x306000000, 1, 0x100000000000, 1, 4, 0x3, 0x0, 0x0, 0x0⟩
  , ⟨0x306000004, 1, 0x100000000000, 1, 4, 0x0, 0x0, 0x7F8000, 0x0⟩
  , ⟨0x306000008, 1, 0x100000000000, 1, 4, 0xFFFFFFFF, 0x0, 0x0, 0x0⟩
  , ⟨0x30600003C, 1, 0x100000000000, 1, 4, 0x0, 0x0, 0x1FF, 0x0⟩
  , ⟨0x306000050, 1, 0x100000000000, 1, 4, 0x0, 0x3FFF, 0x0, 0x0⟩
  , ⟨0x306000100, 16, 0x8, 1, 4, 0x3FFFBFFF, 0x0, 0x0, 0x0⟩
  , ⟨0x307000000, 128, 0x100, 1, 4, 0x0, 0x7, 0x0, 0x0⟩
  , ⟨0x307000008, 128, 0x100, 1, 4, 0x0, 0x0, 0x1E00, 0x0⟩
  , ⟨0x307000034, 128, 0x100, 1, 4, 0x0, 0x0, 0x7, 0x0⟩ ]

/-- Writable registers of the control blocks, part 3. -/
def regRows3 : List RegRow :=
  [ ⟨0x308000000, 1, 0x100000000000, 1, 4, 0x0, 0x1, 0x0, 0x0⟩
  , ⟨0x308000004, 1, 0x100000000000, 1, 4, 0x0, 0x0, 0x1FFFF, 0x0⟩
  , ⟨0x308010000, 17, 0x10000, 1, 4, 0x0, 0x1FFF, 0x0, 0x0⟩
  , ⟨0x308010004, 17, 0x10000, 1, 4, 0x0, 0x0, 0x3FE0000, 0x0⟩
  , ⟨0x30801004C, 17, 0x10000, 1, 4, 0x0, 0x0, 0x7F, 0x0⟩
  , ⟨0x309000000, 1, 0x100000000000, 1, 4, 0x0, 0x3FFF, 0x0, 0x0⟩
  , ⟨0x309000004, 1, 0x100000000000, 1, 4, 0x0, 0x0, 0x1FF, 0x0⟩
  , ⟨0x309000008, 1, 0x100000000000, 1, 4, 0x0, 0x0, 0xFFFFFFFF, 0x0⟩
  , ⟨0x30900000C, 1, 0x100000000000, 1, 4, 0x0, 0x0, 0xFFFFFFFF, 0x0⟩
  , ⟨0x309000838, 1, 0x100000000000, 1, 4, 0x0, 0x0, 0x3F, 0x0⟩
  , ⟨0x309000100, 32, 0x20, 1, 4, 0x7FF, 0x0, 0x0, 0x0⟩
  , ⟨0x309000108, 32, 0x20, 1, 4, 0x0, 0x0, 0x80, 0x0⟩
  , ⟨0x30A000000, 1, 0x100000000000, 1, 4, 0x1FF, 0x0, 0x0, 0x0⟩
  , ⟨0x30A000004, 1, 0x100000000000, 1, 4, 0x0, 0x0, 0x7F, 0x0⟩
  , ⟨0x30A000008, 1, 0x100000000000, 1, 4, 0xFFF, 0x0, 0x0, 0x0⟩
  , ⟨0x30A000018, 1, 0x100000000000, 1, 4, 0x0, 0x0, 0xFFFFFFFF, 0x0⟩
  , ⟨0x30A00001C, 1, 0x100000000000, 1, 4, 0x0, 0x0, 0x3FFFF, 0x0⟩
  , ⟨0x30A000100, 32, 0x10, 1, 4, 0xFFFFFFFF, 0x0, 0x0, 0x0⟩
  , ⟨0x30A000104, 32, 0x10, 1, 4, 0x1FFFFF, 0x0, 0x0, 0x0⟩
  , ⟨0x30A000850, 1, 0x100000000000, 1, 4, 0x0, 0x0, 0xFF, 0x0⟩
  , ⟨0x30B000000, 192, 0x40, 1, 4, 0x1, 0x0, 0x0, 0x0⟩
  , ⟨0x30B000004, 192, 0x40, 1, 4, 0xFFFF, 0x0, 0x0, 0x0⟩
  , ⟨0x30B000008, 192, 0x40, 1, 4, 0x0, 0x0, 0x1800, 0x0⟩
  , ⟨0x30B000020, 192, 0x40, 1, 4, 0x0, 0x0, 0x3, 0x0⟩ ]

/-- Writable registers of the control blocks, part 4. -/
def regRows4 : List RegRow :=
  [ ⟨0x30B008000, 192, 0x20, 1, 4, 0x0, 0x0, 0x38000, 0x0⟩
  , ⟨0x30B00801C, 192, 0x20, 1, 4, 0x0, 0x0, 0x3, 0x0⟩
  , ⟨0x30C000000, 1, 0x100000000000, 1, 4, 0x1F, 0x0, 0x0, 0x0⟩
  , ⟨0x30C000004, 1, 0x100000000000, 1, 4, 0x0, 0x0, 0xFF, 0x0⟩
  , ⟨0x30C000008, 1, 0x100000000000, 1, 4, 0x0, 0x3FFF, 0x0, 0x0⟩
  , ⟨0x30C00000C, 1, 0x100000000000, 1, 4, 0x0, 0x3FFF, 0x0, 0x0⟩
  , ⟨0x30C000020, 8, 0x8, 1, 4, 0x7FFF, 0x0, 0x0, 0x0⟩
  , ⟨0x30C00013C, 1, 0x100000000000, 1, 4, 0x0, 0x0, 0x7F, 0x0⟩
  , ⟨0x30D000000, 1, 0x100000000000, 1, 4, 0x0, 0x3, 0x0, 0x0⟩
  , ⟨0x30D000004, 1, 0x100000000000, 1, 4, 0x0, 0x0, 0x7C0, 0x0⟩
  , ⟨0x30D000010, 1, 0x100000000000, 1, 4, 0x0, 0x3FF, 0x0, 0x0⟩
  , ⟨0x30D00004C, 1, 0x100000000000, 1, 4, 0x0, 0x0, 0x1, 0x0⟩
  , ⟨0x30D000C00, 8, 0x4, 1, 4, 0x0, 0x0, 0xFFFFFFFF, 0x0⟩
  , ⟨0x300000108, 1, 0x100000000000, 1, 4, 0x0, 0x0, 0x2000, 0x0⟩
  , ⟨0x30000010C, 1, 0x100000000000, 1, 4, 0x0, 0x0, 0x0, 0x1⟩
  , ⟨0x300000118, 1, 0x100000000000, 1, 4, 0x0, 0x0, 0x3, 0x0⟩
  , ⟨0x310800000, 1, 0x100000000000, 1, 4, 0x0, 0x0, 0x30000, 0x0⟩
  , ⟨0x310800004, 1, 0x100000000000, 1, 4, 0x3FFF, 0x0, 0x0, 0x0⟩
  , ⟨0x30E000000, 1, 0x100000000000, 1, 4, 0x0, 0x0, 0x4, 0x0⟩
  , ⟨0x30E000004, 1, 0x100000000000, 1, 4, 0x0, 0x0, 0x2, 0x0⟩
  , ⟨0x30E000008, 1, 0x100000000000, 1, 4, 0x0, 0x0, 0xC00, 0x0⟩
  , ⟨0x30E00004C, 1, 0x100000000000, 1, 4, 0x0, 0x0, 0x7F, 0x0⟩
  , ⟨0x30F000000, 1, 0x100000000000, 1, 4, 0x0, 0x1FFF, 0x0, 0x0⟩
  , ⟨0x30F000004, 1, 0x100000000000, 1, 4, 0x0, 0x0, 0x7C0, 0x0⟩ ]

/-- Writable registers of the control blocks, part 5. -/
def regRows5 : List RegRow :=
  [ ⟨0x30F000008, 1, 0x100000000000, 1, 4, 0xFFF, 0x0, 0x0, 0x0⟩
  , ⟨0x30F00002C, 1, 0x100000000000, 1, 4, 0x0, 0x0, 0x7, 0x0⟩
  , ⟨0x30F000100, 8, 0x20, 1, 4, 0x0, 0x1FFFFF, 0x0, 0x0⟩
  , ⟨0x30F000104, 8, 0x20, 1, 4, 0x0, 0x1F, 0x0, 0x0⟩
  , ⟨0x30F000110, 8, 0x20, 1, 4, 0xFFFFFFFF, 0x0, 0x0, 0x0⟩
  , ⟨0x30F000400, 64, 0x10, 1, 4, 0x0, 0xFFFFFFFF, 0x0, 0x0⟩
  , ⟨0x30F000404, 64, 0x10, 1, 4, 0x0, 0x7, 0x0, 0x0⟩
  , ⟨0x30F001000, 64, 0x8, 1, 4, 0x0, 0xFFFF7FFF, 0x0, 0x0⟩
  , ⟨0x30F001004, 64, 0x8, 1, 4, 0x0, 0x1F, 0x0, 0x0⟩
  , ⟨0x310000004, 1, 0x100000000000, 1, 4, 0x0, 0x0, 0xE, 0x0⟩
  , ⟨0x300000004, 1, 0x100000000000, 1, 4, 0x0, 0x0, 0xC, 0x0⟩
  , ⟨0x301000008, 1, 0x100000000000, 1, 4, 0xFFFFFFFF, 0x0, 0x0, 0x0⟩
  , ⟨0x30100000C, 1, 0x100000000000, 1, 4, 0xFFFF, 0x0, 0x0, 0x0⟩
  , ⟨0x301000010, 1, 0x100000000000, 1, 4, 0x0, 0xFFFF, 0x0, 0x0⟩
  , ⟨0x301000014, 1, 0x100000000000, 1, 4, 0x0, 0x0, 0x1E, 0x0⟩
  , ⟨0x301000040, 8, 0x8, 1, 4, 0x0, 0xFFFFFFFF, 0x0, 0x0⟩ ]

/-- Every register of the control blocks that a write can change by its access code alone (R9). -/
def regRows : List RegRow :=
  regRows0 ++ regRows1 ++ regRows2 ++ regRows3 ++ regRows4 ++ regRows5

/-- The CSRs' writable bits by access code (Tables 12-8, 13-7, 14-10): CSR number, RW bits, W1C bits. -/
def csrRows : List (Nat × Nat × Nat) :=
  [ (0x001, 0x7FC, 0x0)
  , (0x002, 0x7F, 0x0)
  , (0x003, 0xFFFF, 0x0)
  , (0x004, 0xFFFF, 0x0)
  , (0x005, 0xFFFFFFFF, 0x0)
  , (0x008, 0x7F, 0x0)
  , (0x009, 0xFFFF, 0x0)
  , (0x00A, 0xFFFF, 0x0)
  , (0x00B, 0xFFFFFFFF, 0x0)
  , (0x010, 0xFFFFFFFF, 0x0)
  , (0x011, 0xFF, 0x0)
  , (0x012, 0xFFF, 0x0)
  , (0x013, 0xFFFFFFFF, 0x0)
  , (0x018, 0xFFF, 0x0)
  , (0x019, 0x3, 0x0)
  , (0x01A, 0x0, 0x3)
  , (0x01B, 0xFFFFFFFF, 0x0)
  , (0x01C, 0xFFFFFFFF, 0x0)
  , (0x01D, 0x0, 0x1)
  , (0x01E, 0x0, 0x3)
  , (0x037, 0xFFFF, 0x0)
  , (0x038, 0xFFFFFFFF, 0x0)
  , (0x040, 0xFFFFFFFF, 0x0)
  , (0x041, 0x3FFF, 0x0)
  , (0x042, 0xFFFFFFFF, 0x0)
  , (0x043, 0x3FFF, 0x0)
  , (0x044, 0xFFFFFFFF, 0x0)
  , (0x045, 0x3FFF, 0x0)
  , (0x046, 0xFFFFFFFF, 0x0)
  , (0x047, 0x3FFF, 0x0)
  , (0x048, 0xFFFFFFFF, 0x0)
  , (0x049, 0x3FFF, 0x0)
  , (0x04A, 0xFFFFFFFF, 0x0)
  , (0x04B, 0x3FFF, 0x0)
  , (0x04C, 0xFFFFFFFF, 0x0)
  , (0x04D, 0x3FFF, 0x0)
  , (0x04E, 0xFFFFFFFF, 0x0)
  , (0x04F, 0x3FFF, 0x0)
  , (0x080, 0x0, 0xF)
  , (0x084, 0xFFFFFFF0, 0x0) ]

/-- The registers whose reset value the register tables give as other than zero (R12); every other one resets to 0.
F and I fields read as zero until they are loaded. -/
def regReset (a : Nat) : BitVec 32 :=
  if 0x303000070 ≤ a && a < 0x3030000F0 && (a - 0x303000070) % 0x40 == 0 then 0x14  -- TDOM_CLK_INC_INT
  else if 0x304000208 ≤ a && a < 0x304400208 && (a - 0x304000208) % 0x1000 == 0 then 0x10  -- LNK_INJ_CFG
  else if a == 0x306000000 then 0x3  -- STO_CTL
  else if a == 0x306000004 then 0x3FB0  -- STO_STAT
  else if a == 0x306000008 then 0xA000000  -- STO_SCRUB_CFG
  else if 0x308200000 ≤ a && a < 0x308204000 && (a - 0x308200000) % 0x8 == 0 then 0x1F  -- FEX_XB_LO
  else if a == 0x100000C0001 then 0x16  -- CSR_STATUS of Laruri's pair: spl and mpl never hold T (R304)
  else if 0x10000000001 ≤ a && a < 0x100000C1001 && (a - 0x10000000001) % 0x1000 == 0 then 0x2  -- CSR_STATUS
  else if 0x10000000081 ≤ a && a < 0x100000C1081 && (a - 0x10000000081) % 0x1000 == 0 then 0x400  -- CSR_VINFO
  else if 0x10000000084 ≤ a && a < 0x100000C1084 && (a - 0x10000000084) % 0x1000 == 0 then 0x76543210  -- CSR_VGMAP
  else if 0x30D000400 ≤ a && a < 0x30D000C00 && (a - 0x30D000400) % 0x8 == 0 then 0x3FF8  -- PLC_CELL
  else if a == 0x30F000000 then 0x233  -- SNS_CTL
  else if a == 0x310000010 then 0xFFFF  -- AGE_LIFE
  else 0

end Sys2Proof.Machine
end

