-- ==== Sys2Proof/Machine/State.lean ====
section
/-!
DEFINITION. The machine's state as plain data: the registers, the memories, the hidden state of every block, the queue of
waiting commands, and the reasons a command can stop.
-/

namespace Sys2Proof.Machine

/-- A raised event or a log entry (Table 18-6): the code, the src field, the packed data field (R471), the air count and the
MTC time of the moment it was raised, whether MTC was valid then, and whether its code is one that the spec does not give (MGT_WDOG_EXP). -/
structure LogEvent where
  code : Nat
  src : Nat := 0xFFFF
  data : Nat := 0
  air : Nat := 0
  sec : Nat := 0
  ns : Nat := 0
  valid : Bool := false
  noCode : Bool := false
deriving DecidableEq, Repr

/-- A log entry as it is kept: the event, its place in the order of logging, and whether it is pinned (R422). -/
structure LogRec where
  ev : LogEvent
  seq : Nat
  pinned : Bool := false
deriving DecidableEq, Repr

/-! ### Air time and network time (Air Time; Network Time and Ethernet) -/

/-- The hidden state of one trigger slot (R41): the pending target, the captures queued oldest first, the level driven
(true is the active level), and the air count at which a pulse ends. -/
structure TrgSlot where
  target : Nat := 0
  caps : List Nat := []
  active : Bool := false
  pulseEnd : Option Nat := none
deriving DecidableEq, Repr

/-- The hidden state of one time domain (R52–R58): the anchor pair (FRC value, T in 2^-16 ns), the integrator and the last
frequency in 2^-46 ppb, the runs of updates within lock_thr and beyond unlock_thr, when the last measurement came and since when
the domain has been qualified, both in elapsed time-base cycles. -/
structure Domain where
  fa : Nat := 0
  ta : Int := 0
  integ : Int := 0
  fPrev : Int := 0
  lockRun : Nat := 0
  unlockRun : Nat := 0
  lastMeas : Nat := 0
  qualSince : Option Nat := none
deriving DecidableEq, Repr

/-- FBC or MTC (R66): seconds, nanoseconds, the fractional accumulator in 2^-32 ns, the committed increment, and what takes
effect at the next SYSREF cycle. -/
structure SyncClock where
  sec : Nat := 0
  ns : Nat := 0
  frac : Nat := 0
  incInt : Nat := 20
  incFrac : Nat := 0
  pendInc : Option (Nat × Nat) := none
  pendLoad : Option (Nat × Nat) := none
deriving DecidableEq, Repr

/-- TD_3's holdover model (R61): the rate it runs at and the slope records, in 2^-56, the newest record last; the air view and
the FRC at the last record; since when it carries air time. -/
structure Holdover where
  rate : Int := 0
  mean : Int := 0
  drift : Int := 0
  records : List Int := []
  last : Option (Int × Nat) := none
  since : Nat := 0
deriving DecidableEq, Repr

/-- The time base, air time and network time. -/
structure TimeSt where
  /-- Elapsed time since power-on, in cycles of 983.04 MHz; the model's own measure for timers. -/
  clk : Nat := 0
  /-- The free-running counter (R50). -/
  frc : Nat := 0
  /-- The time-base PLL is locked and the FRC runs. -/
  frcRun : Bool := true
  /-- The air count (R27). -/
  cnt : Nat := 0
  /-- Phase of SYSREF against the time base, in 1/61,440 of a SYSREF cycle. -/
  sysPhase : Nat := 0
  /-- Air time is FREE and its catch-up runs (R35), and the half-rate phase of that catch-up. -/
  catchUp : Bool := false
  half : Bool := false
  /-- The count holds its value until the main path is back (R474). -/
  hold : Bool := false
  /-- Air time is FREE because a fallback failed or a locked main path failed (R37, R474). -/
  freeFail : Bool := false
  /-- The accepted start: its frame boundary and the requested target (R36). -/
  start : Option (Nat × Nat) := none
  /-- When FALLBACK was entered, in elapsed cycles, and the domain followed then. -/
  fallbackAt : Nat := 0
  fallbackDom : Nat := 0
  trg : Tbl TrgSlot := []
  dom : Tbl Domain := []
  /-- 0 FBC, 1 MTC. -/
  clock : Tbl SyncClock := []
  /-- The residual and the slew frequency of R60, in the exact units of `residUnit` and `slewUnit`. -/
  resid : Int := 0
  slew : Int := 0
  hold3 : Holdover := {}
  /-- The holdover limit was reached with off_air = 1 (R62). -/
  offAir : Bool := false
  holdLim : Bool := false
  /-- The PLL's reference: 0 SYSREF, 1 TREF_10M, 2 SyncE; none in holdover. -/
  pllRef : Option Nat := some 0
  /-- Since when the primary has been within limits while the PLL runs on ref2. -/
  primaryOk : Option Nat := none
  /-- Elapsed cycles and FRC of the last accepted PPS edge not yet paired, and of the last accepted edge. -/
  ppsEdge : Option (Nat × Nat) := none
  ppsLast : Option Nat := none
  /-- When a TOD_IN message was last paired (R58). -/
  todAt : Option Nat := none
  /-- The snapshot of the time query bus, words 0x0–0xF (R45); empty before the first. -/
  tqb : List Nat := []
  /-- What TQB_D drives; none is high impedance (R47). -/
  tqbD : Option Nat := none
  /-- The last two time-base cycles, newest first: the air count, the air view and AIR_STAT of each (R45). -/
  past : List (Nat × Int × Nat) := []
  /-- The primary reference in effect: the last code of TDOM_PLL.ref that is not the reserved one (Table 3-6). -/
  pllPrim : Nat := 0
deriving DecidableEq, Repr

/-- One backhaul port: until when each class is paused (in elapsed cycles), the classes it has sent XOFF for, the air count at which
its wire is free, and the last frame it sent with whether its FCS was inverted. -/
structure EthPort where
  paused : Tbl Nat := []
  xoff : Nat := 0
  busyUntil : Nat := 0
  sent : Option (List Nat × Bool) := none
deriving DecidableEq, Repr

/-- One transmit queue: the descriptors posted and not yet taken, oldest first, as runs of a number and the air count of the write that
posted them (R38, R75). -/
structure TxQueue where
  posts : List (Nat × Nat) := []
deriving DecidableEq, Repr

/-- Backhaul Ethernet beside its registers and its classifier: ports, transmit queues, frames received per queue since its last
completion, the classifier entries already logged as ETH_CLS_BAD, and Laruri's timing queue (time in 2^-16 ns, port, frame). -/
structure EthSt where
  port : Tbl EthPort := []
  txq : Tbl TxQueue := []
  rxCount : Tbl Nat := []
  clsLogged : List Nat := []
  timing : List (Int × Nat × List Nat) := []
deriving DecidableEq, Repr

/-! ### Antenna lanes and links -/

/-- The test functions in effect on a lane (R158, R164): the loopback, the generator, the checker, the injector. -/
structure TestEff where
  loop : Nat := 0
  gen : Bool := false
  chk : Bool := false
  inj : Bool := false
deriving DecidableEq, Repr

/-- The pattern checker of a lane (R156): bits received and not yet compared; the register of past bits and how many it holds; the error-free
run before sync; the last 256 comparisons once in sync; whether a change of sync is due. -/
structure Checker where
  input : List Bool := []
  reg : Nat := 0
  have_ : Nat := 0
  run : Nat := 0
  window : List Bool := []
  due : Bool := false
deriving DecidableEq, Repr

/-- When each of a lane's adaptive coefficient sets last changed, in elapsed cycles (R92–R94): feed-forward equaliser, echo canceller, and the
NEXT cancellers of lanes n−1 and n+1. The coefficients themselves show nowhere; a set that is held keeps its moment. -/
structure Adapt where
  eq : Nat := 0
  echo : Nat := 0
  nextLo : Nat := 0
  nextHi : Nat := 0
deriving DecidableEq, Repr

/-- One lane, or one split pair under its even lane, beside its registers. Acquisition and training (R110–R117): since when the stay in
QUIET, ACQ or WAIT is timed, whether the lane waits for a searcher, whether a candidate has been accepted, whether a warm retrain was asked for,
whether the present training is warm, when the radio's P1 was over, when the wake burst began, when the present phase began, when the last P2
block ended, whether a P3 block and the far end's count-0 block have come, the run of bad sync words, the bits of PRBS31 sent in training blocks
so far. A LNK_LINE_CFG write held while the lane group is off (R456). Coefficients: when each set last changed, where the four far sections of
the echo canceller stand, whether a TDD window holds them, and until which air count (R93, R94, R96). Framing: frame counts, scrambler
registers, codewords decoded and not yet taken with their flag, when the last of them left the decoder in 1/16 Tc, the run of good markers, the
last good marker's fields and arrival, sample groups received since the last mark and the boundary of that mark, the bits of a group in part,
each with the flag of its codeword, the boundary and the group that the transmitter stands at with the bits of a group sent in part, what was
sent last (a frame, a training block or a wake burst) with the codewords of a frame left quiet after codeword 0, the groups taken for the last frame (boundary, group), the last levels before it and
what the transmit path makes of it, the last 256 departures. Tests: what is in effect, the generator's register and place, the checker, injections. Quality: when the last
interval ended and whether the margin was low. -/
structure LaneSt where
  since : Nat := 0
  waits : Bool := false
  acquired : Bool := false
  warmReq : Bool := false
  warm : Bool := false
  p1End : Option Nat := none
  burstAt : Option Nat := none
  phaseAt : Nat := 0
  p2End : Nat := 0
  gotP3 : Bool := false
  far0 : Bool := false
  badRun : Nat := 0
  prbs : Nat := 0
  held : Option Nat := none
  adapt : Adapt := {}
  far : List Nat := []
  frozen : Bool := false
  frzEnd : Nat := 0
  fcnt : Nat := 0
  txScr : Nat := 0
  rxScr : Nat := 0
  cws : List (List Bool × Bool) := []
  leftAt : Nat := 0
  goodRun : Nat := 0
  marker : Option (Nat × Nat × Nat × Nat) := none
  arrival : Nat := 0
  groups : Nat := 0
  markAt : Option Nat := none
  part : List (Bool × Bool) := []
  txB : Nat := 0
  txJ : Nat := 0
  carry : List Bool := []
  sent : List Bool := []
  gap : Nat := 0
  took : List (Nat × Nat) := []
  before : List Int := []
  line : List Int := []
  departs : List (Nat × Nat) := []
  eff : TestEff := {}
  genReg : Nat := 1
  genPos : Nat := 0
  chk : Checker := {}
  clrPend : Bool := false
  injOne : Nat := 0
  injCount : Nat := 0
  injUnits : List (Nat × Nat) := []
  qAt : Nat := 0
  low : Bool := false
deriving DecidableEq, Repr

/-- A radio command in a link's queue (R136). -/
structure RadioCmd where
  cseq : Nat
  word : Nat
  target : Nat
  sent : Bool := false
deriving DecidableEq, Repr

/-- A sample group received on a link: a cint16 list, streams ascending, its erased flag, and the stream positions whose block-floating
exponent was invalid. -/
structure RxGroup where
  iq : List Nat := []
  erased : Bool := true
  bad : List Nat := []
deriving DecidableEq, Repr

/-- One link beside the registers of its first lane: the steering integrator in its exact units, a new error not yet used in 1/32 Tc, the
air count of the last valid error, runs for LOCK and for unlock, the half subframe up to which boundaries are skipped; what TIMING has met; alarm bits; the last
acknowledgement; d_ul in 1/32 Tc; the command queue, the next cseq, the command repeated last, the command slot of this frame; the TDD state, when it last changed and what it was before,
the TDD commands sent whose targets are to come, their air times for the coefficient freeze, the air count up to which automatic commands
are queued; the DOZE and DEEP slots
(target, 0 up, 1 DOZE, 2 DEEP); the boundary whose marked group carries realign; the target of a DEEP exit; the groups received, keyed by
half subframe × 2^20 + j; obs_en in effect; the far-end loopback asked for (target, on) and the cseq of the last LOOP command. -/
structure LinkSt where
  integ : Int := 0
  newE : Option Int := none
  lastE : Nat := 0
  lockRun : Nat := 0
  unlockRun : Nat := 0
  skip : Nat := 0
  rtOk : Bool := false
  pages : List Nat := []
  alarm : Nat := 0
  lastAck : Option (Nat × Nat) := none
  dul : Int := 0
  queue : List RadioCmd := []
  cseq : Nat := 0
  lastSent : Option (Nat × Nat) := none
  slot : Nat × Nat := (0, 0)
  tdd : Nat := 0
  tddWas : Nat × Nat := (0, 0)
  tddDue : List (Nat × Nat) := []
  tddAir : List Nat := []
  tddLast : Option Nat := none
  power : List (Nat × Nat) := []
  realign : Option Nat := none
  wake : Option Nat := none
  groups : Tbl RxGroup := []
  obs : Bool := false
  feLoop : Option (Nat × Bool) := none
  loopSeq : Option Nat := none
deriving DecidableEq, Repr

/-- Antenna lanes and links, and the lane references found out of limits (die × 4 + reference, R85). -/
structure LnkSt where
  lane : Tbl LaneSt := []
  link : Tbl LinkSt := []
  refBad : List Nat := []
deriving DecidableEq, Repr

/-! ### Sample store and crossing FIFOs -/

/-- The scrub state of one bank (R186): the next row, whether a request waits, whether the bank has done its rows of this pass, and
when its last slot came. -/
structure ScrubBank where
  row : Nat := 0
  req : Bool := false
  done : Bool := false
  last : Nat := 0
deriving DecidableEq, Repr

/-- One crossing FIFO (R189–R193): the entries not yet read, oldest first, each a value with its erase flag; the last value
read, with its erase flag and whether it came back as a bus error; the two pointers and each as the other side last saw it; the
sticky bits. -/
structure Crossing where
  entries : List (Nat × Bool) := []
  last : Nat := 0
  lastErase : Bool := false
  lastErr : Bool := false
  wptr : Nat := 0
  rptr : Nat := 0
  wSeen : Nat := 0
  rSeen : Nat := 0
  unf : Bool := false
  ovf : Bool := false
deriving DecidableEq, Repr

/-- A regeneration request sent to a ring's producer (R183): the producer block, the ring, the word count, and the poisoned line. -/
structure RegenReq where
  prod : Nat
  ring : Nat
  words : Nat
  line : Nat
deriving DecidableEq, Repr

/-- The sample store beside its memory: poison per line, the free grains of the two parts in the order they are handed out
(grains never lent yet, counted from the part's first grain, then those returned), the scrub state per bank with the banks done and the
errors found in this pass, the grains of the table region that each class holds, the words that a stalled writer of a HOLD ring has still to write, each with its erase flag (R176), with the flag
of the line it stands in and whether it writes whole lines only, the flag of the line in part of each ring that is written in whole lines (R219), marks overtaken since and the moment of each reader's last lost mark (ring × 2 + reader), the crossing FIFOs by
identity, the regeneration requests sent to producers, and what the last store read delivered: its words and its status (0 OK, 1 ERASED, 2 PERR). -/
structure StoreSt where
  poison : Tbl Bool := []
  freshW : Nat := 0
  freshT : Nat := 0
  retW : List Nat := []
  retT : List Nat := []
  heldT : Tbl Nat := []
  scrub : Tbl ScrubBank := []
  scrubErr : Nat := 0
  scrubDone : Nat := 0
  stalled : Tbl (List (Nat × Bool)) := []
  stallAcc : Tbl (Option Bool × Bool) := []
  lineFlag : Tbl Bool := []
  overtaken : Tbl Bool := []
  lostAt : Tbl (Option Nat) := []
  xf : Tbl Crossing := []
  regen : List RegenReq := []
  readLine : List Nat := []
  readStatus : Nat := 0
deriving DecidableEq, Repr

/-! ### Stream movers -/

/-- A descriptor that a mover channel runs (R197–R206): its sixteen words, the words issued or stalled, whether its half event is posted, whether it waits
for its start, whether its start has come and its first burst has not, its pacing request, whether it met erased data or slipped, the air count of its first
access, and compare's count of differing words and first difference. -/
structure MovRun where
  d : List Nat
  done : Nat := 0
  halfDone : Bool := false
  waitTime : Bool := false
  due : Bool := false
  req : Bool := false
  era : Bool := false
  slipped : Bool := false
  tStart : Nat := 0
  mism : Nat := 0
  first : Nat := 0xFFFFFF
deriving DecidableEq, Repr

/-- One mover channel: the descriptors queued, those of stalled writers, the one that runs, the link to be fetched with the ring for its
record, the linked descriptor fetched, whether the link of the running one was lost to parity, and, while a stop waits for a burst that stands stalled, the descriptors it
flushes. -/
structure MovCh where
  queue : List (List Nat) := []
  held : List (List Nat) := []
  cur : Option MovRun := none
  link : Option (Nat × Nat) := none
  fetched : Option (List Nat) := none
  lost : Bool := false
  stop : Option (List (List Nat)) := none
deriving DecidableEq, Repr

/-- The stream movers beside their registers: the channels, and per unit the channel that started the last burst. -/
structure MovSt where
  ch : Tbl MovCh := []
  last : Tbl Nat := []
deriving DecidableEq, Repr

/-! ### Front end -/

/-- A run of downlink samples at the stream rate: the index of the first, counted from air count 0, and their I and Q. -/
structure OutSeg where
  at_ : Nat
  iq : List (Int × Int)
deriving DecidableEq, Repr

/-- One carrier view of a stream slot. Uplink: the start of the last symbol written, and this slot's erased symbols, saturated FFT outputs and input samples at full scale. Downlink: the start of the last symbol read,
its ramped suffix (R224), and its samples, the newest run first. -/
structure FexView where
  ulLast : Option Nat := none
  nEra : Nat := 0
  fftSat : Nat := 0
  inSat : Nat := 0
  dlLast : Option Nat := none
  tail : Option OutSeg := none
  out : List OutSeg := []
deriving DecidableEq, Repr

/-- One stream slot of a cluster: its views, the samples injected in place of the filter output; whether its stream is muted, whether its configuration memory has failed; the active
predistortion bank and the LOAD_DPD command waiting for its swap, with the boundary. -/
structure FexSlot where
  v1 : FexView := {}
  v2 : FexView := {}
  inj : List OutSeg := []
  mute : Bool := false
  broken : Bool := false
  bank : Bool := false
  load : Option (List Nat × Nat) := none
deriving DecidableEq, Repr

/-- A symbol's completion event held by its cluster: scheduler queue, payload, the ring and the write count at which the symbol ends, and the air count up to
which it waits for the symbol after it that shares its last line (R220). -/
structure FexEvent where
  sq : Nat
  pay : Nat
  ring : Nat
  end_ : Nat
  until_ : Nat
deriving DecidableEq, Repr

/-- One cluster: the completion events it holds, the commands queued, those of stalled writers, and those armed, oldest first. -/
structure FexCl where
  events : List FexEvent := []
  queue : List (List Nat) := []
  held : List (List Nat) := []
  armed : List (List Nat) := []
deriving DecidableEq, Repr

/-- One PRACH configuration's occasion in hand: its start and FDM position, the profile summed so far per root, the antennas in it, how many
profiles have been received; and profiles forwarded and not yet taken up. -/
structure PrachCfg where
  own : Option (Nat × Nat) := none
  prof : List (List Nat) := []
  ants : Nat := 0
  got : Nat := 0
  inbox : List (List (List Nat) × Nat) := []
deriving DecidableEq, Repr

/-- The front-end clusters beside their registers and tables: the samples lost at a crossing (R17, R193) by stream, air count and whether toward the lane, newest
first, the words of late downlink symbols still to be discarded by ring (R223), the slots (cluster × 128 + slot), the clusters, and the PRACH configurations
(cluster × 16 + j). -/
structure FexSt where
  lost : List (Nat × Nat × Bool) := []
  debt : Tbl Nat := []
  slot : Tbl FexSlot := []
  cl : Tbl FexCl := []
  prach : Tbl PrachCfg := []
deriving DecidableEq, Repr

/-! ### Spatial combiner -/

/-- What a job reads at its start of its set and its weight set's header (R242, R246): antennas, layers, subcarriers, numerology, erased inputs tolerated,
whether calibration applies, its input rings with their readers, its output rings, its subband code. -/
structure ScaSet where
  na : Nat := 1
  nl : Nat := 1
  nsc : Nat := 12
  mu : Nat := 0
  eraMax : Nat := 0
  cal : Bool := false
  ins : List (Nat × Nat) := []
  outs : List Nat := []
  sbg : Nat := 0
deriving DecidableEq, Repr

/-- A job that a harness runs (R249–R253): its sixteen words, what it read at its start, the statuses met, the symbols done, whether the rest is consumed unread with
erased outputs, whether it waits for its record, saturated components, erased output lines, the air count of its first access, when it last
took a symbol, when it started in elapsed cycles, the calibration bank it started with, and what its tiles' caches took of the weight set in its first symbol: its words, and
the subbands with an erased line (R247). -/
structure ScaRun where
  d : List Nat
  set : ScaSet := {}
  sts : List Nat := []
  sym : Nat := 0
  skip : Bool := false
  ended : Bool := false
  nSat : Nat := 0
  nEra : Nat := 0
  t0 : Nat := 0
  since : Nat := 0
  startClk : Nat := 0
  bank : Nat := 0
  cache : List Nat := []
  eraSb : List Nat := []
deriving DecidableEq, Repr

/-- One harness: its queue, the jobs of stalled writers, the job that runs, the air count at which the job now at the head came there, and while a stop waits for the running job,
the jobs it flushes. -/
structure Harness where
  queue : List (List Nat) := []
  held : List (List Nat) := []
  cur : Option ScaRun := none
  headAt : Nat := 0
  flush : Option (List (List Nat)) := none
deriving DecidableEq, Repr

/-- The spatial combiner beside its registers. -/
structure ScaSt where
  harness : Tbl Harness := []
deriving DecidableEq, Repr

/-! ### Channel coding -/

/-- One code block's outcome: passed, iterations, its bits, its combined LLRs by circular-buffer position, and whether a hard record gave
its bits. -/
structure CbRes where
  cb : Nat
  pass : Bool := false
  iters : Nat := 0
  bits : List Bool := []
  llr : List Int := []
  held : Bool := false
deriving DecidableEq, Repr

/-- A coding job in its queue: its number in order of acceptance, its words, the air count of its first dispatch, the pieces still to be
dispatched and those to be restarted, how many are on units, the outcomes, whether it awaits its record, its statuses and record fields, and the
ring position where a DEMAP began, and whether a MAP has handed over its words. -/
structure CodJob where
  id : Nat
  d : List Nat
  t0 : Option Nat := none
  todo : List Nat := []
  redo : List Nat := []
  out : Nat := 0
  res : List CbRes := []
  ended : Bool := false
  late : Bool := false
  sts : List Nat := []
  hmis : Bool := false
  hpart : Bool := false
  era : Bool := false
  nEra : Nat := 0
  ok : Bool := false
  pos : Nat := 0
  wrote : Bool := false
deriving DecidableEq, Repr

/-- A unit's work: queue, job, piece, whether it is a restart, and the outcome once it has one. -/
structure CodWork where
  q : Nat
  id : Nat
  cb : Nat
  again : Bool := false
  res : Option CbRes := none
deriving DecidableEq, Repr

/-- A coding unit: its work, the queue it last served, when it last failed. -/
structure CodUnit where
  work : Option CodWork := none
  last : Nat := 31
  failed : Option Nat := none
deriving DecidableEq, Repr

/-- A HARQ directory entry (R275): TBS, base graph, code blocks, N_cb, and its records in order (code block, byte offset in the chain, hard),
with the chain of grains and its bytes in use. -/
structure HarqEntry where
  tbs : Nat
  bg : Nat
  c : Nat
  ncb : Nat
  recs : List (Nat × Nat × Bool) := []
  grains : List Nat := []
  len : Nat := 0
deriving DecidableEq, Repr

/-- One coding queue: its jobs in order, those of stalled writers. -/
structure CodQueue where
  jobs : List CodJob := []
  held : List (List Nat) := []
deriving DecidableEq, Repr

/-- The coding cluster beside its registers: the queues, the units, the HARQ directory, the jobs accepted so far, whether a clear of every HARQ entry waits for the
jobs in flight, and grains that a failed directory entry still holds. -/
structure CodSt where
  queue : Tbl CodQueue := []
  unit : Tbl CodUnit := []
  harq : Tbl (Option HarqEntry) := []
  accepted : Nat := 0
  clearing : Bool := false
  stranded : List Nat := []
deriving DecidableEq, Repr

/-! ### Signal engines and Laruri's cores -/

/-- What a core waits for inside an instruction (R290, R292, R299, R300, R324, R326): a store held at a full port (address, bytes, value,
and whether an instruction made it), the prefetch slot, an eligible interrupt, a coprocessor's result, a slot to drain, every
command before TEND, a tag, or every command before a halt. -/
inductive EngWait where
  | none
  | store (addr size value : Nat) (insn : Bool)
  | tnext (rd : Nat)
  | wfe
  | cpr (rd slot tag : Nat)
  | cpsync (slot : Nat)
  | tend (status : Nat)
  | cpi (rd slot op : Nat) (keep : Bool) (desc : List Nat) (arg : Nat)
  | halt
deriving DecidableEq, Repr

/-- A coprocessor command (R326–R332): slot, tag, op, keep, the eight words of its descriptor, its scalar argument, the register that
takes the tag, whether its CPI retired, whether its unit has begun it, whether it was squashed, the writes held in the commit
buffer (data-memory offset, byte), its result word once computed, and whether it has ended. -/
structure CopCmd where
  slot : Nat
  tag : Nat
  op : Nat
  keep : Bool
  d : List Nat
  arg : Nat
  rd : Nat
  confirmed : Bool := false
  started : Bool := false
  squashed : Bool := false
  writes : List (Nat × Nat) := []
  result : Option Nat := none
  done : Bool := false
deriving DecidableEq, Repr

/-- A core beside its CSRs and POD registers (R284, R307): pc, the scalar, vector and predicate registers that are not zero, what it
waits for, whether a halt is asked for, its coprocessor commands in acceptance order, the armed alarm, up to when its cycles are
counted with the remainder, the cycles at T since TRUN, and the cycles at T in this frame. -/
structure Eng where
  pc : Nat := 0
  s : Tbl (BitVec 64) := []
  v : Tbl (BitVec 1024) := []
  p : Tbl (BitVec 128) := []
  wait : EngWait := .none
  haltReq : Bool := false
  cops : List CopCmd := []
  alarm : Option Nat := none
  at_ : Nat := 0
  part : Nat := 0
  task : Nat := 0
  frame : Nat := 0
deriving DecidableEq, Repr

/-- The cores, the engine that each pod's shared sort unit last served, the command it runs (engine), and the pods' copy of
STO_SYSLIM.grain (R178, R286). -/
structure EngSt where
  core : Tbl Eng := []
  sxuLast : Tbl Nat := []
  sxuRun : Tbl (Option Nat) := []
  lim : Nat := 0
deriving DecidableEq, Repr

/-! ### Hardware task scheduler -/

/-- An event on its way to the scheduler (R340): descriptor, payload, and, for a task's completion, its engine. -/
structure TskEvent where
  desc : Nat
  payload : Nat
  engine : Nat := 0xFFFF
deriving DecidableEq, Repr

/-- An activation in a ready list or a slot (R341): descriptor, generation, class, priority, the order and the air count in which it became
ready, and its deadline (none is later than every deadline). -/
structure Activation where
  desc : Nat
  gen : Nat
  cls : Nat
  pri : Nat
  seq : Nat
  ready : Nat
  dead : Option Nat
deriving DecidableEq, Repr

/-- An entry of the delay list (R345): release tick, descriptor, payload, periodic, and whether its release has already waited. -/
structure DelayEntry where
  tick : Nat
  desc : Nat
  payload : Nat
  periodic : Bool
  slip : Bool := false
deriving DecidableEq, Repr

/-- The scheduler beside its registers and its descriptors in the store: the class inputs (the first 32 of each list are in
the input, the rest are held by their sources), the events counted and not yet consumed per descriptor (payload and class, oldest
first), the delay list in release order, the ready lists (one list, in the order of dispatch), descriptors whose activation waits for
room in its class, the slots by engine, the activations loaded in engines, the engine last filled, and how many activations have
become ready. -/
structure TskSt where
  inputs : Tbl (List TskEvent) := []
  counted : Tbl (List (Nat × Nat)) := []
  delay : List DelayEntry := []
  ready : List Activation := []
  starved : List Nat := []
  slots : Tbl (Option Activation) := []
  loaded : Tbl (Option Activation) := []
  lastFill : Nat := 191
  seq : Nat := 0
deriving DecidableEq, Repr

/-! ### Placement -/

/-- A cell record of the plan (Table 17-7). -/
structure CellRec where
  cell : Nat
  rat : Nat := 0
  mu : Nat := 0
  ecp : Bool := false
  nsc : Nat := 0
  nl : Nat := 1
  asBase : Nat := 0
  nAs : Nat := 1
  minAnt : Nat := 1
  set : Nat := 0xFF
  shed : Nat := 0
  sdesc : Nat := 0xFFFF
  ulDead : Nat := 0
  dlDead : Nat := 0
  engCyc : Nat := 0
  ulKb : Nat := 0
  dlKb : Nat := 0
  maxIt : Nat := 1
  cq : Nat := 0
  port : Nat := 0
  f0 : Nat := 0
  prach : Nat := 0
deriving DecidableEq, Repr

/-- A set record of the plan (Table 17-8). -/
structure SetRec where
  set : Nat
  nl : Nat := 1
  eraMax : Nat := 0
  calEn : Bool := false
deriving DecidableEq, Repr

/-- A unit that the planner moves work from or to: kind 0 pod, 1 cluster, 2 tile, 3 coding unit, 4 ring or set (Table 16-8). -/
structure PlcUnit where
  kind : Nat
  index : Nat
deriving DecidableEq, Repr

/-- The re-placement in progress (R369–R372): its kind, the units relieved, what takes each one's work (none where nothing does), when
the last trigger came, whether it is prepared, the frame of its switch and whether that has come. The index of a harness that relieves a tile
is harness + 32 × first tile. -/
structure Replacement where
  kind : Nat
  old : List PlcUnit
  new : List (Option Nat)
  at_ : Nat
  prepared : Bool := false
  frame : Nat := 0
  switched : Bool := false
deriving DecidableEq, Repr

/-- The reference copy (R359): the registers and the store bytes of the steering tables, the running firmware sections and those of an
image that rolls, by instance. -/
structure RefCopy where
  regs : Tbl (BitVec 32) := []
  mem : List Host.Cell := []
  fw : List (Nat × List Nat) := []
  newFw : List (Nat × List Nat) := []
deriving DecidableEq, Repr

/-- The planner beside its registers: the plan's cells, sets and links (first lanes), cells shed, cells with a link once in RUN, the
triggers waiting, the re-placement in progress, units relieved by a fault and not yet tested, the frame from which a roll goes on after a fault re-placement (R23), the cells that were out in this
frame for a device cause (R377), each unit's faults with the
moment of each, the symbols of this frame that the device erased or zeroed (symbol start, stream), the reference copy, the firmware
instance of each pod, and the pods that run the new firmware of a roll. -/
structure PlcSt where
  cells : List CellRec := []
  sets : List SetRec := []
  links : List Nat := []
  shed : List Nat := []
  seen : List Nat := []
  triggers : List (Nat × PlcUnit) := []
  current : Option Replacement := none
  testing : List PlcUnit := []
  rollFrom : Nat := 0
  outs : List Nat := []
  faults : List (PlcUnit × Nat) := []
  erased : List (Nat × Nat) := []
  ref : RefCopy := {}
  podFw : Tbl Nat := []
  newPods : List Nat := []
deriving DecidableEq, Repr

/-! ### Start-up -/

/-- Start-up beside its registers: the cause bit that the next release of reset records, when the phase began and when reset was last
released, whether LANES has written the link plan, the further periods of lock_to logged in TIME, when RUN was entered, the first of the restarts
that n_auto counts (R404), whether a mismatch in ROM has stopped the device, and whether a restart loop holds the next start. -/
structure BootSt where
  cause : Nat := 0
  phaseAt : Nat := 0
  releasedAt : Nat := 0
  lanesSet : Bool := false
  waits : Nat := 0
  runAt : Option Nat := none
  autoFirst : Nat := 0
  dead : Bool := false
  loop : Bool := false
deriving DecidableEq, Repr

/-! ### Laruri management -/

/-- A source of management messages (R414). -/
inductive MgtSource where
  | mac (a : Nat)
  | console
deriving DecidableEq, Repr

/-- A response kept for a source: command, tag, when it was sent, its bytes. -/
structure Kept where
  cmd : Nat
  tag : Nat
  at_ : Nat
  msg : List Nat
deriving DecidableEq, Repr

/-- A request being served: its source, the source's slot as the log names it, command, tag, body. -/
structure MgtReq where
  src : MgtSource
  slot : Nat
  cmd : Nat
  tag : Nat
  body : List Nat
deriving DecidableEq, Repr

/-- A subscription (R418): its source, code mask and period, when it was last asked for, when the period last ran, and the second in which
notifications are counted with how many were sent in it. -/
structure Subscription where
  src : MgtSource
  mask : Nat
  period : Nat
  at_ : Nat
  last : Nat
  sec : Nat := 0
  sent : Nat := 0
deriving DecidableEq, Repr

/-- Staging in progress (R424): its source, bank, seq and length, the bytes received, the last accepted offset, when its source
last staged, whether it was begun under the ROM (R430), and whether it is still open. -/
structure Staging where
  src : MgtSource
  bank : Nat
  seq : Nat
  length : Nat
  got : Nat := 0
  last : Option Nat := none
  at_ : Nat := 0
  rom : Bool := false
  active : Bool := true
deriving DecidableEq, Repr

/-- A roll or its trial (R426, R427): the pods that a roll back still has to move, the pods that took cells with the new firmware in order,
whether it goes back, the switch frame of the last move, when the last switch came, and the seq of its image. -/
structure Roll where
  todo : List Nat
  moved : List Nat := []
  back : Bool := false
  last : Option Nat := none
  ended : Option Nat := none
  seq : Nat := 0
deriving DecidableEq, Repr

/-- The log (R419–R422): the ordinary entries waiting on chip and the pinned ones, both oldest first; entries lost since the last
MGT_LOG_DROP entry; whether the one pinned entry of this release has come; the next slot of the flash ring and of the pinned area; sectors of the ring left
out; when the oldest waiting entry came and since when a pinned one waits. -/
structure LogSt where
  waiting : List LogRec := []
  pinned : List LogRec := []
  lost : Nat := 0
  first : Bool := false
  head : Nat := 0
  pinHead : Nat := 0
  bad : List Nat := []
  since : Nat := 0
deriving DecidableEq, Repr

/-- Laruri beside its registers: KEY_N low, when the cinch closes, when this session opened; sources with the responses kept for each, last heard
first; the T requests and the S and P requests being served; the messages that the last command sent; subscriptions; staging; the next free record of the
journal; a roll; when a restart asked for falls due; the watchdog (when last fed, and since when both cores are halted); the log; ENVIRONMENT STOP:
when it began, since when every quantity is within its limits, whether the flash is without its supply; and the MTC seconds and nanoseconds
of the last frame that the management port took in (R80). -/
structure MgtSt where
  key : Bool := false
  cinchEnd : Nat := 0
  openedAt : Nat := 0
  sources : List (MgtSource × Nat × List Kept) := []
  tq : List MgtReq := []
  sq : List MgtReq := []
  tx : List (MgtSource × List Nat) := []
  subs : List Subscription := []
  staging : Option Staging := none
  journal : Nat := 0
  roll : Option Roll := none
  restartAt : Option Nat := none
  fedAt : Nat := 0
  lockstep : Option Nat := none
  log : LogSt := {}
  envAt : Nat := 0
  envOk : Option Nat := none
  noFlash : Bool := false
  stamp : Option (Nat × Nat) := none
deriving DecidableEq, Repr

/-! ### Sense converter and ageing -/

/-- Results still to come of an entry (R436): its input, conversions, whether they are averaged, its ring if it writes
one, its entry, the converter clock and the tick of its first conversion start, and the results given so far. -/
structure SnsRun where
  input : Nat
  reps : Nat
  avg : Bool
  ring : Option Nat
  entry : Nat
  start : Nat
  tick : Nat
  given : Nat := 0
deriving DecidableEq, Repr

/-- The sense converter beside its registers: whether the sequencer runs and whether on the fixed table, the next entry, the input of the last
conversion, whether a manual conversion made it, the converter clock of the last conversion start and of the loop's start, the tick at the last start, the len, settle and nthr in
effect, conversions whose results are to come, runs of results above and below per input, a manual request pending with the converter clock of its write, the entries logged as bad, and whether factory
calibration has been loaded or has failed. -/
structure SnsSt where
  run : Bool := true
  fixed : Bool := true
  k : Nat := 0
  input : Option Nat := none
  byMan : Bool := false
  last : Nat := 0
  loopAt : Nat := 0
  tickAt : Nat := 0
  len : Nat := 25
  settle : Nat := 4
  nthr : Nat := 0
  runs : List SnsRun := []
  up : Tbl Nat := []
  dn : Tbl Nat := []
  man : Option (Nat × Nat) := none
  logged : List Nat := []
  cal : Bool := false
  calBad : Bool := false
deriving DecidableEq, Repr

/-- The ageing monitors beside their registers: since when a measurement runs, the power plan's start, when the setpoint last stepped, when the last one ended in MTC seconds,
the group values of the measurements of this run (seconds, D by group), pods' clock codes that wait for their switch, and
the user values of calibration by class × 1,024 + index (R401). -/
structure AgeSt where
  busy : Option Nat := none
  start : Nat := 0
  stepAt : Nat := 0
  lastSec : Option Nat := none
  hist : List (Nat × List (Option Int)) := []
  clk : Tbl Nat := []
  user : Tbl Int := []
deriving DecidableEq, Repr

/-! ### Power -/

/-- Power switching beside its registers: the switches that wait or run (domain, on, cause), in order of request; which of those that take turns runs
now; the PMBus transactions of the last command that used the bus (address, command, data); and when the last bad window of SYSREF ended. -/
structure PwrSt where
  todo : List (Nat × Bool × Nat) := []
  cur : Option Nat := none
  bus : List (Nat × Nat × Nat) := []
  sysBad : Option Nat := none
deriving DecidableEq, Repr



/-- Everything the block holds but the queue of waiting commands. -/
structure Dev where
  /-- Every register of Table 21-2's blocks and every engine CSR that differs from its reset value, keyed as `R` gives. -/
  regs : Tbl (BitVec 32) := []
  /-- Latched high halves and middle words of wide values (R14, R54), keyed by the register they answer for. -/
  latch : Tbl (BitVec 32) := []
  /-- Laruri memory, the sample store and the engine memories, keyed by Laruri's 40-bit address (Table 21-1). -/
  mem : List Host.Cell := []
  /-- The configuration flash, keyed by byte offset; an unlisted byte reads 0xFF, the erased value. -/
  flash : List Host.Cell := []
  /-- The word the last register read answered. -/
  rdata : Nat := 0
  /-- Laruri's last control access ended in a bus error (R17). -/
  busErr : Bool := false
  /-- Events raised and not yet taken into the log, oldest first. -/
  raised : List LogEvent := []
  /-- The model's own counter of free values taken: plain data that the free constants of Config are applied to. -/
  freeCtr : Nat := 0
  /-- Time base, air time, time domains, FBC and MTC. -/
  time : TimeSt := {}
  /-- Backhaul Ethernet. -/
  eth : EthSt := {}
  /-- Antenna lanes and links. -/
  lnk : LnkSt := {}
  /-- Sample store, grain pool and crossing FIFOs. -/
  sto : StoreSt := {}
  /-- Stream movers. -/
  mov : MovSt := {}
  /-- Front end. -/
  fex : FexSt := {}
  /-- Spatial combiner. -/
  sca : ScaSt := {}
  /-- Channel coding. -/
  cod : CodSt := {}
  /-- Signal engines and Laruri's cores. -/
  eng : EngSt := {}
  /-- Task scheduler. -/
  tsk : TskSt := {}
  /-- Placement. -/
  plc : PlcSt := {}
  /-- Start-up. -/
  boot : BootSt := {}
  /-- Laruri management. -/
  mgt : MgtSt := {}
  /-- Sense converter. -/
  sns : SnsSt := {}
  /-- Ageing monitors. -/
  age : AgeSt := {}
  /-- Power. -/
  pwr : PwrSt := {}
deriving DecidableEq, Repr

/-- The machine: the commands waiting, first in first out, and the block. -/
structure State where
  pending : List Instr := []
  dev : Dev := {}
deriving DecidableEq, Repr

/-- What stops the machine with a fault. No command of this block faults: every error the spec describes is a status, a flag
or an event in State. The type has one constructor, which no meaning raises. -/
inductive Fault where
  /-- Never raised; safe. -/
  | none
deriving DecidableEq, Repr

/-- Why a command has no meaning yet. -/
inductive Refusal where
  /-- Raised by exec for a command not modelled yet; safe, the machine does not go on. -/
  | notModelled (mnemonic : String)
deriving DecidableEq, Repr

/-- The machine right after power-on reset: every register at its reset value, F and I fields zero until loaded (R12), every
counter and queue empty. -/
def State.reset : State := { pending := [], dev := {} }

end Sys2Proof.Machine
end

