-- ==== Sys2Proof/Machine/Tables.lean ====
section
/-!
DEFINITION. Sparse tables in one canonical form, and the byte-order and sign helpers the whole model uses.
-/

namespace Sys2Proof.Machine

/-- The value at key `k`, or the table's default `d`. -/
def tget {α : Type} (d : α) (t : Tbl α) (k : Nat) : α :=
  match t with
  | [] => d
  | (j, v) :: r => if k = j then v else tget d r k

/-- The table without key `k`. -/
def tdel {α : Type} (t : Tbl α) (k : Nat) : Tbl α :=
  match t with
  | [] => []
  | (j, v) :: r => if k = j then tdel r k else (j, v) :: tdel r k

/-- The table with key `k` at `v`, in order, whatever `v` is. -/
def tins {α : Type} (t : Tbl α) (k : Nat) (v : α) : Tbl α :=
  match t with
  | [] => [(k, v)]
  | (j, w) :: r =>
    if k < j then (k, v) :: (j, w) :: r
    else if k = j then (k, v) :: r
    else (j, w) :: tins r k v

/-- A write that keeps the canonical form: a value equal to the default removes the entry. -/
def tput {α : Type} [DecidableEq α] (d : α) (t : Tbl α) (k : Nat) (v : α) : Tbl α :=
  if v = d then tdel t k else tins t k v

/-- Keys strictly above `lo`, strictly rising, and no entry equal to its key's default. -/
def twfFrom {α : Type} [DecidableEq α] (d : Nat → α) (lo : Nat) (t : Tbl α) : Bool :=
  match t with
  | [] => true
  | (j, v) :: r => decide (lo ≤ j) && decide (v ≠ d j) && twfFrom d (j + 1) r

/-- The canonical form of a sparse table whose unlisted key `k` reads as `d k`. -/
def twf {α : Type} [DecidableEq α] (d : Nat → α) (t : Tbl α) : Bool := twfFrom d 0 t

/-- The same entries with a change of the value at `k`. -/
def tmod {α : Type} [DecidableEq α] (d : α) (t : Tbl α) (k : Nat) (f : α → α) : Tbl α :=
  tput d t k (f (tget d t k))

/-- A list with its `i`-th element replaced. -/
def lset {α : Type} (l : List α) (i : Nat) (v : α) : List α := l.set i v

/-- The `i`-th element, or a default. -/
def lget {α : Type} (d : α) (l : List α) (i : Nat) : α := (l[i]?).getD d

/-- `v` as a two's-complement number of `w` bits. -/
def toSigned (w v : Nat) : Int :=
  if v % 2 ^ w < 2 ^ (w - 1) then (v % 2 ^ w : Nat) else (v % 2 ^ w : Nat) - (2 ^ w : Nat)

/-- The low `w` bits of an integer, as two's complement. -/
def toBits (w : Nat) (v : Int) : Nat := (v % (2 ^ w : Nat)).toNat

/-- Saturation of an integer to the signed range of `w` bits. -/
def satSigned (w : Nat) (v : Int) : Int := max (-(2 ^ (w - 1) : Nat)) (min v ((2 ^ (w - 1) : Nat) - 1))

/-- Clamp into `lo` to `hi`. -/
def clampInt (v lo hi : Int) : Int := max lo (min v hi)

/-- Division toward minus infinity, rounded to the nearest whole, halves away from zero. -/
def divRound (n : Int) (d : Nat) : Int :=
  if n ≥ 0 then (2 * n + d) / (2 * d : Nat) else -((2 * (-n) + d) / (2 * d : Nat))

/-- Bits `lo` to `lo + w - 1` of a number. -/
def bits (v lo w : Nat) : Nat := v / 2 ^ lo % 2 ^ w

/-- Bit `i` of a number. -/
def bit (v i : Nat) : Bool := v / 2 ^ i % 2 == 1

/-- `v` with bits `lo` to `lo + w - 1` replaced by `x`. -/
def setBits (v lo w x : Nat) : Nat := v - bits v lo w * 2 ^ lo + x % 2 ^ w * 2 ^ lo

/-- A truth value as a bit. -/
def b2n (b : Bool) : Nat := if b then 1 else 0

/-- Little-endian value of a byte list (R7). -/
def leNat : List Nat → Nat
  | [] => 0
  | b :: r => b % 256 + 256 * leNat r

/-- The `n` low bytes of `v`, least significant first (R7). -/
def leBytes (n v : Nat) : List Nat :=
  match n with
  | 0 => []
  | n + 1 => v % 256 :: leBytes n (v / 256)

/-- The `n` low bytes of `v`, most significant first. -/
def beBytes (n v : Nat) : List Nat := (leBytes n v).reverse

/-- Big-endian value of a byte list. -/
def beNat (l : List Nat) : Nat := leNat l.reverse

/-- How many of the low `n` bits of `v` are ones. -/
def popBits (n v : Nat) : Nat :=
  match n with
  | 0 => 0
  | n + 1 => v % 2 + popBits n (v / 2)

/-- The list `a`, `a + 1`, … of `n` numbers. -/
def nums (a n : Nat) : List Nat := (List.range n).map (a + ·)

end Sys2Proof.Machine
end

