-- ==== Sys2Proof/Machine/Ops.lean ====
section
/-!
DEFINITION. The named operations over registers, counters, memory and events that every command's meaning is built from.
-/

namespace Sys2Proof.Machine

/-! ### Registers -/

/-- A register's value. -/
def Dev.rd (s : Dev) (a : Nat) : Nat := (tget (regReset a) s.regs a).toNat

/-- The device with a register at a value. -/
def Dev.wr (a v : Nat) (s : Dev) : Dev :=
  { s with regs := tput (regReset a) s.regs a (BitVec.ofNat 32 v) }

/-- A field's value. -/
def Dev.get (s : Dev) (f : Field) : Nat := bits (s.rd f.addr) f.lo f.width

/-- A one-bit field as a truth value. -/
def Dev.flag (s : Dev) (f : Field) : Bool := s.get f == 1

/-- A field as a two's-complement number. -/
def Dev.getS (s : Dev) (f : Field) : Int := toSigned f.width (s.get f)

/-- The device with a field at a value. -/
def Dev.set (f : Field) (v : Nat) (s : Dev) : Dev := s.wr f.addr (setBits (s.rd f.addr) f.lo f.width v)

/-- The device with a field at a signed value. -/
def Dev.setS (f : Field) (v : Int) (s : Dev) : Dev := s.set f (toBits f.width v)

/-- The device with a one-bit field at a truth value. -/
def Dev.setB (f : Field) (b : Bool) (s : Dev) : Dev := s.set f (b2n b)

/-- The high register of a pair: the next word of a block, the next number among a core's CSRs (R14, Table 12-8). -/
def hiOf (lo : Nat) : Nat := if lo < 2 ^ 40 then lo + 4 else lo + 1

/-- A 64-bit value held in a low register and the high one after it (R14). -/
def Dev.rd64 (s : Dev) (lo : Nat) : Nat := s.rd lo + s.rd (hiOf lo) * 2 ^ 32

/-- The device with a 64-bit value in a low register and the high one after it. -/
def Dev.wr64 (lo v : Nat) (s : Dev) : Dev := (s.wr lo (v % 2 ^ 32)).wr (hiOf lo) (v / 2 ^ 32)

/-- A free value taken: the next value of the model's own counter. -/
def Dev.takeFree (s : Dev) : Dev := { s with freeCtr := s.freeCtr + 1 }

/-! ### Events and the log (R471) -/

/-- Items packed from bit 0 upward, each at its width. -/
def packItems : List (Nat × Int) → Nat
  | [] => 0
  | (w, v) :: r => toBits w v + 2 ^ w * packItems r

/-- The air time clock FBC (0) or MTC (1). -/
def Dev.clock (s : Dev) (x : Nat) : SyncClock := tget {} s.time.clock x

/-- An event raised now, with its src field and its data items. -/
def Dev.raiseSrc (code src : Nat) (items : List (Nat × Int)) (s : Dev) : Dev :=
  let e : LogEvent := { code := code, src := src, data := packItems items, air := s.time.cnt, sec := (s.clock 1).sec, ns := (s.clock 1).ns,
                        valid := s.flag (R.TDOM_CLK_CTL_valid 1) }
  { s with raised := s.raised ++ [e] }

/-- An event whose first item is no lane, link, engine, cluster, harness, pod, port, queue, channel or unit. -/
def Dev.raise (code : Nat) (items : List (Nat × Int)) (s : Dev) : Dev := s.raiseSrc code 0xFFFF items

/-- An event whose first item, of width `w` and value `v`, goes into the src field too. -/
def Dev.raiseOf (code w v : Nat) (items : List (Nat × Int)) (s : Dev) : Dev :=
  s.raiseSrc code (v % 2 ^ w) ((w, (v : Int)) :: items)

/-- A sticky bit set, with the event raised on its 0-to-1 transition only. -/
def Dev.stick (f : Field) (ev : Dev → Dev) (s : Dev) : Dev :=
  if s.flag f then s else ev (s.setB f true)

/-! ### Counters (R13) -/

/-- A W64 counter advanced: it wraps modulo 2^64. -/
def Dev.inc64 (lo n : Nat) (s : Dev) : Dev := s.wr64 lo ((s.rd64 lo + n) % 2 ^ 64)

/-- An S32 counter advanced: it stops at 0xFFFF_FFFF, where it sets its sticky bit and raises its overflow event, carrying the
register's offset in its block. -/
def Dev.incSat (a : Nat) (ovf : Field) (ev : Nat) (pre : List (Nat × Int)) (n : Nat) (s : Dev) : Dev :=
  if s.rd a = 0xFFFFFFFF ∨ n = 0 then s
  else
    let v := min (s.rd a + n) 0xFFFFFFFF
    let s1 := s.wr a v
    if v = 0xFFFFFFFF then
      let s2 := s1.setB ovf true
      s2.raiseSrc ev (match pre with | (_, i) :: _ => i.toNat | [] => 0xFFFF) (pre ++ [(24, ((a % 2 ^ 24 : Nat) : Int))])
    else s1

/-! ### Reads (R14, R54) -/

/-- The word a register read answers: the latched word where one was latched for the register, else its value. -/
def Dev.readLatched (s : Dev) (a : Nat) : Nat :=
  match s.latch.find? (fun e => e.1 == a) with
  | some (_, v) => v.toNat
  | none => s.rd a

/-- The device with a word latched for a register. -/
def Dev.latchAt (a v : Nat) (s : Dev) : Dev := { s with latch := tins s.latch a (BitVec.ofNat 32 v) }

/-- The device after a read that answered `v`. -/
def Dev.answer (v : Nat) (s : Dev) : Dev := { s with rdata := v % 2 ^ 32 }

/-! ### Memory (Table 21-1) -/

/-- What a byte of memory that nothing has written reads as (DESIGN CHOICE, log 3). -/
def memDefault : BitVec 8 := 0

/-- The canonical form of memory: addresses strictly rising, no entry that an unlisted address would read as. -/
def Memory.wf (m : List Host.Cell) : Bool := twf (fun _ => memDefault) m

/-- The byte at an address. -/
def Dev.byte (s : Dev) (a : Nat) : Nat := (tget memDefault s.mem a).toNat

/-- The device with one byte written. -/
def Dev.setByte (a v : Nat) (s : Dev) : Dev := { s with mem := tput memDefault s.mem a (BitVec.ofNat 8 v) }

/-- `n` bytes from an address. -/
def Dev.bytes (s : Dev) (a n : Nat) : List Nat := (nums a n).map s.byte

/-- The device with a list of bytes written from an address upward. -/
def Dev.setBytes (a : Nat) (l : List Nat) (s : Dev) : Dev :=
  match l with
  | [] => s
  | b :: r => (s.setByte a b).setBytes (a + 1) r

/-- A little-endian value of `n` bytes (R7). -/
def Dev.le (s : Dev) (a n : Nat) : Nat := leNat (s.bytes a n)

/-- The device with a little-endian value of `n` bytes written. -/
def Dev.setLe (a n v : Nat) (s : Dev) : Dev := s.setBytes a (leBytes n v)

/-- An erased byte of flash. -/
def flashDefault : BitVec 8 := 0xFF

/-- The flash byte at an offset. -/
def Dev.fbyte (s : Dev) (a : Nat) : Nat := (tget flashDefault s.flash a).toNat

/-- The device with one flash byte at a value. -/
def Dev.setFbyte (a v : Nat) (s : Dev) : Dev := { s with flash := tput flashDefault s.flash a (BitVec.ofNat 8 v) }

/-- `n` flash bytes from an offset. -/
def Dev.fbytes (s : Dev) (a n : Nat) : List Nat := (nums a n).map s.fbyte

/-- The device with a list of bytes written to flash from an offset upward. -/
def Dev.setFbytes (a : Nat) (l : List Nat) (s : Dev) : Dev :=
  match l with
  | [] => s
  | b :: r => (s.setFbyte a b).setFbytes (a + 1) r

/-! ### Running a command -/

/-- The sparse table rebuilt in its canonical form; a table that has it already is left as it is. -/
def tcanon {α : Type} [DecidableEq α] (d : Nat → α) (t : Tbl α) : Tbl α :=
  if twf d t then t else t.foldr (fun e r => tput (d e.1) r e.1 e.2) []

/-- The registers and memories in their canonical forms. -/
def Dev.canon (s : Dev) : Dev :=
  { s with
    regs := tcanon regReset s.regs
    mem := tcanon (fun _ => memDefault) s.mem
    flash := tcanon (fun _ => flashDefault) s.flash }

/-- A command that changes the block and leaves the queue of waiting commands as it is. -/
def act (f : Dev → Dev) (s : State) : Host.Outcome State Fault Refusal :=
  .next { s with dev := (f s.dev).canon }

/-! ### Events posted to the scheduler (R340, R343) -/

/-- The events of one class on their way to the scheduler. -/
def Dev.input (s : Dev) (cls : Nat) : List TskEvent := tget [] s.tsk.inputs cls

/-- An event posted for a descriptor by a source of class `cls`; 0xFFFF posts nothing. -/
def Dev.post (cls desc payload : Nat) (s : Dev) : Dev :=
  if desc = 0xFFFF then s
  else
    let q := s.input cls ++ [{ desc := desc, payload := payload % 2 ^ 32 }]
    { s with tsk := { s.tsk with inputs := tput [] s.tsk.inputs cls q } }

/-- An event whose payload the spec does not give: the payload is free. -/
def Dev.postOpen (cls desc : Nat) (s : Dev) : Dev := (s.takeFree).post cls desc (Config.freeNat s.freeCtr 0)

end Sys2Proof.Machine
end

