-- ==== Sys2Proof/Machine/Calibration.lean ====
section
/-!
DEFINITION. Calibration values: factory, user and effective (R400, R401).
-/

namespace Sys2Proof.Machine

/-- A byte of the factory calibration copy in use (Table 17-10). -/
def Dev.otpByte (s : Dev) (o : Nat) : Nat := bits (s.rd (R.CAL_OTP (o / 4))) (o % 4 * 8) 8

/-- A little-endian value of the copy in use. -/
def Dev.otp (s : Dev) (o n : Nat) : Nat := leNat ((nums o n).map s.otpByte)

/-- Items of a calibration class (Table 17-11). -/
def calItems (c : Nat) : Nat := match c with | 1 => 24 | 2 => 48 | 3 => 48 | 4 => 1024 | 5 => 8 | 6 => 16 | _ => 0

/-- The class scales its items; the others add an offset. -/
def calScale (c : Nat) : Bool := c == 2 || c == 4

/-- Bounds of the user values of a class. -/
def calBounds (c : Nat) : Int × Int :=
  match c with
  | 1 => (-32, 32) | 2 => (64225, 66847) | 3 => (-16, 16) | 4 => (62259, 68813) | 5 => (-128, 128) | _ => (-1024, 1024)

/-- The factory value of an item. -/
def Dev.calFactory (s : Dev) (c i : Nat) : Int :=
  if calItems c ≤ i then 0
  else
    match c with
    | 1 => toSigned 16 (s.otp (0x070 + 2 * i) 2)
    | 2 => s.otp (0x0A0 + 4 * i) 2
    | 3 => toSigned 16 (s.otp (0x0A2 + 4 * i) 2)
    | 4 => s.otp (0x1E0 + 2 * i) 1
    | 5 => toSigned 32 (s.otp (0x1A0 + 4 * i) 4)
    | _ => toSigned 32 (s.otp (0x160 + 4 * i) 4)

/-- The user value that a record gives an item. -/
def Dev.calRecord (s : Dev) (c i : Nat) : Option Int := (s.age.user.find? (·.1 == c * 1024 + i)).map (·.2)

/-- The user value of an item: 0, or 65,536 for a scale, when no record applies. -/
def Dev.calUser (s : Dev) (c i : Nat) : Int := (s.calRecord c i).getD (if calScale c then 65536 else 0)

/-- The effective value of an item. -/
def Dev.calEff (s : Dev) (c i : Nat) : Int :=
  if calScale c then divRound (s.calFactory c i * s.calUser c i) 65536 else s.calFactory c i + s.calUser c i

end Sys2Proof.Machine
end

