-- ==== Sys2Proof/Machine/TimeOps.lean ====
section
/-!
DEFINITION. The time base, the time domains, FBC and MTC, and air time as shared operations (R27–R35, R50–R62, R66).
-/

namespace Sys2Proof.Machine

/-! ### Units -/

/-- Tc in a frame (R28). -/
abbrev frameTc : Nat := 19660800
/-- Tc in a half subframe (R29). -/
abbrev halfSubTc : Nat := 983040
/-- Tc in a tick (R31). -/
abbrev tickTc : Nat := 4096
/-- Time-base cycles in a second (R27). -/
abbrev hz : Nat := 983040000

/-- Exact units of the residual in one 2^-16 ns: one unit is the distance run in a cycle at one unit of slew (R60). -/
abbrev residUnit : Int := 1474560000000
/-- The limit of the slew frequency, 10 ppb, in units of 10/983,040,000 ppb; the frequency changes by at most one unit a cycle. -/
abbrev slewMax : Int := 983040000

/-- Elapsed milliseconds since a moment of the elapsed-cycle count. -/
def Dev.msSince (s : Dev) (t : Nat) : Nat := (s.time.clk - t) * 1000 / hz

/-- At least `n` milliseconds have elapsed since a moment. -/
def Dev.elapsed (s : Dev) (t n : Nat) : Bool := t * 1000 + n * hz ≤ s.time.clk * 1000

/-! ### Coordinates (R28–R30) -/

/-- Symbols per slot, slot length, useful part, CP of a half subframe's first symbol and CP of the others (Table 2-1). -/
def numerology (mu : Nat) (ecp : Bool) : Nat × Nat × Nat × Nat × Nat :=
  if mu = 0 then (14, 1966080, 131072, 10240, 9216)
  else if mu = 1 then (14, 983040, 65536, 5632, 4608)
  else if mu = 2 then if ecp then (12, 491520, 32768, 8192, 8192) else (14, 491520, 32768, 3328, 2304)
  else (14, 245760, 16384, 2176, 1152)

/-- The symbol in which `t` Tc of a half subframe lie, counted from the half subframe's start, and the offset within it. -/
def symbolIn (useful cp0 cp t : Nat) : Nat × Nat :=
  if t < useful + cp0 then (0, t)
  else ((t - useful - cp0) / (useful + cp) + 1, (t - useful - cp0) % (useful + cp))

/-- SFN, HFN, slot, symbol and offset of an air count (R28, R29). -/
def coords (mu : Nat) (ecp : Bool) (a : Nat) : Nat × Nat × Nat × Nat × Nat :=
  let f := a / frameTc
  let t := a % frameTc
  let (nsym, slot, useful, cp0, cp) := numerology mu ecp
  let (k, ofs) := symbolIn useful cp0 cp (t % halfSubTc)
  let perHalf := halfSubTc / slot * nsym + (if slot > halfSubTc then nsym / 2 else 0)
  let abs := t / halfSubTc * perHalf + k
  (f % 1024, f / 1024 % 1024, abs / nsym, abs % nsym, ofs)

/-! ### Domains (R52–R55) -/

def Dev.domain (s : Dev) (n : Nat) : Domain := tget {} s.time.dom n

def Dev.setDomain (n : Nat) (d : Domain) (s : Dev) : Dev :=
  { s with time := { s.time with dom := tput {} s.time.dom n d } }

/-- A domain's rate in 2^-56. -/
def Dev.domRate (s : Dev) (n : Nat) : Int :=
  if n = 3 then s.time.hold3.rate else s.getS (R.TDOM_RATE_r n) * 2 ^ 16

/-- A domain's own time in 2^-16 ns (R52). -/
def Dev.domOwn (s : Dev) (n : Nat) : Int :=
  let d := s.domain n
  (d.ta + ((s.time.frc : Int) - d.fa) * 3125 * (2 ^ 56 + s.domRate n) / (3072 * 2 ^ 56)) % 2 ^ 96

/-- A user domain follows its parent (R55). -/
def Dev.follows (s : Dev) (n : Nat) : Bool := 4 ≤ n && s.flag (R.TDOM_DCTL_follow n)

/-- What a user view adds to the domain it shows: its follow offset, and which domain that is (R55). -/
def Dev.shown (s : Dev) (n : Nat) : Nat × Int :=
  if s.follows n then (s.get (R.TDOM_DCTL_parent n), s.getS (R.TDOM_UOFS_ofs n) * 2 ^ 8) else (n, 0)

/-- A domain's time in 2^-16 ns (R52, R55). -/
def Dev.domT (s : Dev) (n : Nat) : Int := (s.domOwn (s.shown n).1 + (s.shown n).2) % 2 ^ 96

/-- The domain with its anchor moved to now at time `t` (R53). -/
def Dev.anchor (n : Nat) (t : Int) (s : Dev) : Dev :=
  s.setDomain n { s.domain n with fa := s.time.frc, ta := t % 2 ^ 96 }

/-- A change of a domain's rate, with the time continuous across it (R53). -/
def Dev.setRate (n : Nat) (r : Int) (s : Dev) : Dev :=
  let t := s.domOwn n
  (s.setS (R.TDOM_RATE_r n) r).anchor n t

/-! ### Air view and air count (R32, R60) -/

/-- The domain that air time follows. -/
def Dev.src (s : Dev) : Nat := s.get R.AIR_STAT_src_dom

/-- Air time's state: 0 FREE, 1 LOCKED, 2 RUN, 3 FALLBACK. -/
def Dev.airState (s : Dev) : Nat := s.get R.AIR_STAT_state

/-- Air time follows a domain now. -/
def Dev.airFollows (s : Dev) : Bool := s.airState == 1 || s.airState == 2

/-- The residual in 2^-16 ns. -/
def Dev.resid16 (s : Dev) : Int := s.time.resid / residUnit

/-- The clock FBC's or MTC's time in 2^-16 ns, with the time since its last SYSREF edge. -/
def Dev.clockT (s : Dev) (x : Nat) : Int :=
  let c := s.clock x
  ((c.sec * 1000000000 + c.ns) * 2 ^ 16 + c.frac / 2 ^ 16 + s.time.sysPhase * 20 * 2 ^ 16 / 61440 : Nat)

/-- The air view: the followed domain's time plus the residual (R60); in FALLBACK, FBC's (R37). -/
def Dev.airView (s : Dev) : Int :=
  if s.flag R.AIR_STAT_fbc then s.clockT 0 else s.domT s.src + s.resid16

/-- The air count of a time in 2^-16 ns (R32). -/
def Dev.countOf (s : Dev) (t : Int) : Int :=
  let ns := t / 2 ^ 16
  (ns / 1000000000 - 315964819) * 1966080000 + ns % 1000000000 * 6144 / 3125 + s.getS R.AIR_OFS_ofs

/-- An air count as the device holds it: even, within 64 bits. A time before the GPS epoch, for which R32 gives a negative count, counts as
zero (DESIGN CHOICE, log 204). -/
def evenCount (v : Int) : Nat := (v / 2 * 2).toNat % 2 ^ 64

/-- The time in 2^-16 ns at which the air count reads `c`. -/
def Dev.timeOf (s : Dev) (c : Nat) : Int :=
  let a := (c : Int) - s.getS R.AIR_OFS_ofs
  ((a / 1966080000 + 315964819) * 1000000000 + a % 1966080000 * 3125 / 6144) * 2 ^ 16

/-- TDOM_RESID, TDOM_SLEW and slewing brought up to the residual and the slew frequency. -/
def Dev.showResid (s : Dev) : Dev :=
  s.setS R.TDOM_RESID_resid (satSigned 32 (s.time.resid / (residUnit * 256)))
    |>.setS R.TDOM_SLEW_slew (s.time.slew / 384000)
    |>.setB R.TDOM_SW_STAT_slewing (s.time.resid ≠ 0)

/-- The device with a new residual, in 2^-16 ns. -/
def Dev.setResid (r : Int) (s : Dev) : Dev :=
  ({ s with time := { s.time with resid := r * residUnit } }).showResid

/-- The device with no residual and no slew: air time follows no domain, or one that it agrees with (R35, R60). -/
def Dev.noResid (s : Dev) : Dev := ({ s with time := { s.time with resid := 0, slew := 0 } }).showResid

/-- How far the residual runs while the slew frequency `v` falls to zero at one unit a cycle. -/
def slewStop (v : Int) : Int := v.natAbs * (v.natAbs - 1) / 2

/-- One cycle of the slew (R60): the frequency moves by at most one unit, within its limit, so that the residual comes to zero with
the frequency at zero. -/
def slewNext (x v : Int) : Int × Int :=
  let dir : Int := if x > 0 then -1 else if x < 0 then 1 else -v.sign
  let up := v + dir
  let ok (w : Int) : Bool :=
    w.natAbs ≤ slewMax.natAbs && (x + w) * x.sign ≥ slewStop w * (if w * x.sign < 0 then 1 else 0)
  let w := if ok up then up else if ok v then v else v - v.sign
  (x + w, w)

/-! ### Qualification and selection (R58–R62) -/

/-- The state a domain shows: its own, or its parent's when it follows (R55). -/
def Dev.domState (s : Dev) (n : Nat) : Nat :=
  s.get (R.TDOM_STAT_state (if s.follows n then s.get (R.TDOM_DCTL_parent n) else n))

/-- A domain is qualified while it is LOCKED and its src_ok is 1; TD_3 never is (R58, R61). -/
def Dev.qualified (s : Dev) (n : Nat) : Bool :=
  n != 3 && s.domState n == 2 && s.flag (R.TDOM_DCTL_src_ok n)

/-- TDOM_STAT.qualified and since when each domain has been qualified, brought up to date. -/
def Dev.requalify (s : Dev) : Dev :=
  (List.range 8).foldl (fun s n =>
    let q := s.qualified n
    let d := s.domain n
    let d' := { d with qualSince := if q then some (d.qualSince.getD s.time.clk) else none }
    (s.setDomain n d').setB (R.TDOM_STAT_qualified n) q) s

/-- The priorities of TDOM_SEL; codes above 2 are empty (R59). -/
def Dev.priorities (s : Dev) : List Nat :=
  [s.get R.TDOM_SEL_pri0, s.get R.TDOM_SEL_pri1, s.get R.TDOM_SEL_pri2].filter (· < 3)

/-- The domain that the selection of R59 gives now. A higher-priority domain that returns while the followed one is qualified must
have stayed qualified for wtr x 10 s; wtr 0 never returns. A followed domain that no priority names is left at once (DESIGN CHOICE,
log 205). -/
def Dev.choose (s : Dev) : Nat :=
  if s.flag R.TDOM_SEL_forced then s.get R.TDOM_SEL_fdom
  else
    let cur := s.src
    let first := s.priorities.find? s.qualified
    match first with
    | none => 3
    | some f =>
      if cur = 3 ∨ !s.qualified cur ∨ !(s.priorities.contains cur) then f
      else
        let wtr := s.get R.TDOM_SEL_wtr
        let ready := fun n => s.qualified n && wtr != 0 &&
          (match (s.domain n).qualSince with | some t => s.elapsed t (wtr * 10000) | none => false)
        let better := (s.priorities.takeWhile (· != cur)).find? ready
        better.getD cur

/-- Air time moved to another domain without a step (R60). -/
def Dev.switchTo (n : Nat) (s : Dev) : Dev :=
  let old := s.src
  if n = old then s.setB R.AIR_STAT_qualified (s.qualified old)
  else
    let follow := s.airFollows
    let view := s.airView
    let vrate := s.domRate old + s.time.slew * 10 * 2 ^ 56 / (983040000 * 1000000000)
    let s1 := ((s.set R.TDOM_SW_STAT_from_ old).set R.TDOM_SW_STAT_to n).set R.AIR_STAT_src_dom n
    let s2 := s1.setB R.AIR_STAT_qualified (s1.qualified n)
    if n = 3 then
      let s3 := s2.anchor 3 (if follow then view else s2.domOwn 3)
      let s4 := { s3 with time := { s3.time with
                    holdLim := false
                    hold3 := { s3.time.hold3 with
                      rate := if follow then vrate else s3.time.hold3.mean, since := s.time.clk, last := none } } }
      (s4.noResid.raise Ev.TDOM_SWITCH [(3, old), (3, 3), (32, 0)]).raise Ev.TDOM_HOLDOVER []
    else
      let s3 := if follow then s2.setResid (view - s2.domT n) else s2.noResid
      s3.raise Ev.TDOM_SWITCH [(3, old), (3, n), (32, s3.getS R.TDOM_RESID_resid)]

/-- Qualification brought up to date, and the selection taken at once (R59). While FALLBACK runs the selection stands. -/
def Dev.reselect (s : Dev) : Dev :=
  let s1 := s.requalify
  if s1.airState = 3 then s1 else s1.switchTo s1.choose

/-! ### The passage of time -/

/-- One SYSREF edge of FBC or MTC (R66, R67): what was committed takes effect, then the increment is added. A load clears the fraction, and
the increment is added to the loaded value in the same cycle (DESIGN CHOICE, log 206). -/
def SyncClock.edge (c : SyncClock) : SyncClock :=
  let (ii, fr) := c.pendInc.getD (c.incInt, c.incFrac)
  let (sec, ns, frac) := match c.pendLoad with
    | some (a, b) => (a, b, 0)
    | none => (c.sec, c.ns, c.frac)
  let f := frac + fr
  let n := ns + ii + f / 2 ^ 32
  if 1000000000 ≤ n then ⟨(sec + 1) % 2 ^ 48, n - 1000000000, f % 2 ^ 32, ii, fr, none, none⟩
  else ⟨sec, n, f % 2 ^ 32, ii, fr, none, none⟩

/-- A clock's registers brought up to its state at a SYSREF edge. -/
def Dev.clockEdge (x : Nat) (s : Dev) : Dev :=
  let c := s.clock x
  let s1 := { s with time := { s.time with clock := tput {} s.time.clock x c.edge } }
  if c.pendLoad.isSome then s1.setB (R.TDOM_CLK_CTL_valid x) true else s1

/-- TD_3's rate moves toward its holdover rate at no more than 10 ppb/s (R60, R61). One cycle allows 10 ppb / 983,040,000, which in
2^-56 is 0.73: the rate moves by 733 units in every thousand cycles at most. -/
def Dev.hold3Step (s : Dev) : Dev :=
  let h := s.time.hold3
  let target := h.mean + h.drift * ((s.time.clk - h.since : Nat) : Int) / (hz : Int)
  if s.src = 3 ∧ s.airFollows ∧ h.rate ≠ target ∧ s.time.clk % 2048 = 0 then
    let t := s.domOwn 3
    let r := h.rate + clampInt (target - h.rate) (-1501) 1501
    ({ s with time := { s.time with hold3 := { h with rate := r } } }).anchor 3 t
  else s

/-- The air count after one time-base cycle (R27, R35, R37, R474). -/
def Dev.nextCount (s : Dev) : Nat :=
  let t := s.time
  let free := (t.cnt + 2) % 2 ^ 64
  if s.airState = 0 then
    if s.flag R.AIR_STAT_fbc then max t.cnt (evenCount (s.countOf (s.clockT 0)))
    else if t.hold then t.cnt
    else if t.catchUp then if t.half then free else t.cnt
    else free
  else max t.cnt (evenCount (s.countOf s.airView))

/-- One cycle of the time base: elapsed time, the FRC, SYSREF with FBC and MTC, the slew, TD_3's rate, and the air count. -/
def Dev.tickBase (s : Dev) : Dev :=
  let p := s.time.sysPhase + 3125
  let t1 : TimeSt := { s.time with
    clk := s.time.clk + 1
    frc := if s.time.frcRun then (s.time.frc + 65536) % 2 ^ 96 else s.time.frc
    sysPhase := p % 61440
    half := !s.time.half
    past := (s.time.cnt, s.airView, s.rd R.AIR_STAT) :: s.time.past.take 1 }
  let s1 : Dev := { s with time := t1 }
  let s2 : Dev := if 61440 ≤ p then (s1.clockEdge 0).clockEdge 1 else s1
  let s3 : Dev :=
    if s2.airFollows ∧ (s2.time.resid ≠ 0 ∨ s2.time.slew ≠ 0) then
      let (x, v) := slewNext s2.time.resid s2.time.slew
      ({ s2 with time := { s2.time with resid := x, slew := v } }).showResid
    else s2
  let s4 := s3.hold3Step
  { s4 with time := { s4.time with cnt := s4.nextCount } }

end Sys2Proof.Machine
end

