-- ==== Sys2Proof/Machine/Cells.lean ====
section
/-!
DEFINITION. Cell states (R367, R368) and the planner's triggers (R369), as operations that the blocks which cause them call.
-/

namespace Sys2Proof.Machine

/-- A link's state, shown on its first lane (Table 5-14). -/
def Dev.linkState (s : Dev) (l : Nat) : Nat := s.get (R.LNK_LINK_STAT_state l)

/-- The streams that a link shares with a cell. -/
def Dev.overlap (s : Dev) (l : Nat) (c : CellRec) : Nat :=
  let b := s.get (R.LNK_LINK_CFG2_str_base l)
  let n := s.get (R.LNK_LINK_CFG_nstr l)
  min (b + n) (c.asBase + c.nAs) - max b c.asBase

/-- The links that carry a cell's streams. -/
def Dev.cellLinks (s : Dev) (c : CellRec) : List Nat := s.plc.links.filter (fun l => 0 < s.overlap l c)

/-- The cell's antennas whose link is in RUN. -/
def Dev.antennasInRun (s : Dev) (c : CellRec) : Nat :=
  ((s.cellLinks c).filter (fun l => s.linkState l == 3)).foldl (fun n l => n + s.overlap l c) 0

/-- The state that Table 16-3's conditions give a cell. FALLBACK counts as RUN, because the lanes carry what is planned there. -/
def Dev.cellCond (s : Dev) (c : CellRec) : Nat :=
  let links := s.cellLinks c
  let up := links.filter (fun l => s.linkState l == 3)
  if s.plc.shed.contains c.cell then 4
  else if s.airState = 0 ∧ s.time.freeFail then 3
  else if s.airState < 2 then 0
  else if s.time.offAir then 3
  else if up.isEmpty ∧ !s.plc.seen.contains c.cell then 0
  else if up.length = links.length then 1
  else if c.minAnt ≤ s.antennasInRun c then 2
  else 3

/-- The cell is out for a device cause: shed, or off air because air time is in FREE after its time in FALLBACK (R377). -/
def Dev.cellDown (s : Dev) (c : CellRec) : Bool :=
  let st := s.get (R.PLC_CELL_state c.cell)
  (st == 3 && s.airState == 0 && s.time.freeFail) || st == 4

/-- A cell counts this frame as an outage frame. -/
def Dev.cellLost (c : CellRec) (s : Dev) : Dev := { s with plc := { s.plc with outs := c.cell :: s.plc.outs } }

/-- One cell brought to the state that its conditions give, with its event and log entry on a change (R368). -/
def Dev.refreshCell (c : CellRec) (s : Dev) : Dev :=
  let up := (s.cellLinks c).any (fun l => s.linkState l == 3)
  let s0 :=
    if up && !s.plc.seen.contains c.cell then { s with plc := { s.plc with seen := c.cell :: s.plc.seen } } else s
  let n := s0.cellCond c
  if n = s0.get (R.PLC_CELL_state c.cell) then s0
  else
    let s1 := ((s0.set (R.PLC_CELL_state c.cell) n).post 5 c.sdesc (n + c.cell * 8)).raise Ev.PLC_CELL_STATE [(8, c.cell), (4, n)]
    if s1.cellDown c then s1.cellLost c else s1

/-- Every admitted cell brought to the state that its conditions give (R367). -/
def Dev.refreshCells (s : Dev) : Dev := s.plc.cells.foldl (fun s c => s.refreshCell c) s

/-- A trigger of a re-placement of this kind for a unit (Table 16-4). -/
def Dev.trigger (kind ukind index : Nat) (s : Dev) : Dev :=
  { s with plc := { s.plc with triggers := s.plc.triggers ++ [(kind, ⟨ukind, index⟩)] } }

/-- A fault in a pod that runs the new firmware of a roll on trial: the roll goes back, in reverse order (R427). -/
def Dev.rollFault (p : Nat) (s : Dev) : Dev :=
  match s.mgt.roll with
  | some r =>
    if r.ended.isSome && !r.back && s.plc.newPods.contains p then
      let s1 : Dev := { s with mgt := { s.mgt with roll := some { r with todo := r.moved.reverse, moved := [], back := true, last := none, ended := none } } }
      (((s1.setB R.MGT_STAT_roll true).setB R.MGT_STAT_trial false).setB R.SYS_BOOT_STAT_trial false).raiseOf Ev.MGT_ROLL_BACK 5 p []
    else s
  | none => s

end Sys2Proof.Machine
end

