-- ==== Sys2Proof/Machine/Phases.lean ====
section
/-!
DEFINITION. The phases of the start sequence (Table 17-2) and Laruri's counters, as operations that other blocks call.
-/

namespace Sys2Proof.Machine

def Dev.phase (s : Dev) : Nat := s.get R.SYS_BOOT_STAT_phase

/-- A phase begins. -/
def Dev.toPhase (k : Nat) (s : Dev) : Dev :=
  { s.set R.SYS_BOOT_STAT_phase k with boot := { s.boot with phaseAt := s.time.clk } }

/-- The present phase ends: its duration is kept and logged, and the next begins (R382). -/
def Dev.endPhase (next : Nat) (s : Dev) : Dev :=
  let k := s.phase
  let ms := s.msSince s.boot.phaseAt
  let s1 := if k ≤ 10 then s.wr (R.SYS_PHASE_MS k) ms else s
  (s1.raise Ev.SYS_BOOT_PHASE [(4, k), (32, ms)]).toPhase next

/-- An S32 counter of the MGT block advanced (Table 18-9). -/
def Dev.mgtCount (a : Nat) (s : Dev) : Dev :=
  let sat := s.rd a = 0xFFFFFFFE
  let s1 := s.incSat a ⟨R.MGT_CNT_OVF, (a - R.MGT_SESS) / 4, 1⟩ Ev.MGT_CNT_SAT [] 1
  if sat then s1.setB R.MGT_STAT_cnt_ovf true else s1

/-! ### Messages (R412–R414) -/

/-- The header of a message from the device (Table 18-2), before its body. -/
def mgtHeader (kind cmd tag len status target : Nat) : List Nat :=
  [1, kind] ++ leBytes 2 cmd ++ leBytes 4 tag ++ leBytes 2 len ++ [status, 0] ++ leBytes 4 target

/-- A response kept for its source: the last 16 stay. -/
def keepLast (l : List Kept) (x : Kept) : List Kept := (l ++ [x]).drop (l.length + 1 - 16)

/-- The response to a request, sent and kept. Its target is not given: free. -/
def Dev.respond (r : MgtReq) (status : Nat) (body : List Nat) (s : Dev) : Dev :=
  let m := mgtHeader 1 r.cmd r.tag body.length status (Config.freeNat s.freeCtr 0 % 2 ^ 32) ++ body
  let keep := fun (e : MgtSource × Nat × List Kept) =>
    if e.1 = r.src then (e.1, e.2.1, keepLast e.2.2 { cmd := r.cmd, tag := r.tag, at_ := s.time.clk, msg := m }) else e
  let t := s.takeFree
  { t with mgt := { t.mgt with sources := t.mgt.sources.map keep, tx := t.mgt.tx ++ [(r.src, m)] } }

/-- Class P of Table 18-4. -/
def isPresence (cmd : Nat) : Bool := decide (0x20 ≤ cmd) && decide (cmd ≤ 0x26)

/-- A command refused for want of presence (R410). -/
def Dev.refuse (r : MgtReq) (s : Dev) : Dev :=
  ((s.mgtCount R.MGT_REFUSED).raise Ev.MGT_REFUSED [(16, (r.cmd : Int)), (4, (r.slot : Int))]).respond r 1 []

/-- P commands still waiting end when the cinch closes. -/
def Dev.refuseWaiting (s : Dev) : Dev :=
  let out := s.mgt.sq.filter fun r => isPresence r.cmd
  let s1 : Dev := { s with mgt := { s.mgt with sq := s.mgt.sq.filter fun r => !isPresence r.cmd } }
  out.foldl (fun s r => s.refuse r) s1

/-! ### The cinch (R408, R409) -/

/-- Laruri firmware runs: LOAD is over and no fault of its cores stands. -/
def Dev.firmware (s : Dev) : Bool := s.flag R.SYS_BOOT_CTL_fw_ready && s.mgt.lockstep.isNone

/-- The cinch is open (R408). -/
def Dev.cinch (s : Dev) : Bool := s.flag R.MGT_CINCH_open_ && (s.mgt.key || decide (s.time.clk < s.mgt.cinchEnd))

/-- Seconds left of the cinch. -/
def Dev.cinchLeft (s : Dev) : Nat := if s.mgt.key then 1800 else min 1800 ((s.mgt.cinchEnd - s.time.clk + hz - 1) / hz)

/-- MGT_CINCH.remain brought up to now. -/
def Dev.cinchShow (s : Dev) : Dev :=
  (s.setB R.MGT_CINCH_key s.mgt.key).set R.MGT_CINCH_remain (if s.flag R.MGT_CINCH_open_ then s.cinchLeft else 0)

/-- Debug locks again (R416). -/
def Dev.dbgLock (s : Dev) : Dev := if s.flag R.MGT_STAT_dbg then (s.setB R.MGT_STAT_dbg false).raise Ev.MGT_DBG [(1, 0)] else s

/-- The cinch opens with a cause: 0 press, 1 key. A press in a session extends it (R408, R409). -/
def Dev.cinchOpen (cause : Nat) (s : Dev) : Dev :=
  let s0 : Dev := { s with mgt := { s.mgt with cinchEnd := s.time.clk + 1800 * hz } }
  if s.flag R.MGT_CINCH_open_ then s0.cinchShow
  else
    let s1 : Dev := { s0.setB R.MGT_CINCH_open_ true with mgt := { s0.mgt with openedAt := s.time.clk } }
    ((s1.mgtCount R.MGT_SESS).raise Ev.MGT_CINCH_OPEN [(4, cause)]).cinchShow

/-- The cinch closes with a cause: 2 expiry, 3 command, 4 reset. -/
def Dev.cinchClose (cause : Nat) (s : Dev) : Dev :=
  if !s.flag R.MGT_CINCH_open_ then s
  else
    let s1 : Dev := { s.setB R.MGT_CINCH_open_ false with mgt := { s.mgt with cinchEnd := 0 } }
    (((s1.raise Ev.MGT_CINCH_CLOSE [(4, cause), (32, s.msSince s.mgt.openedAt / 1000)]).dbgLock).cinchShow).refuseWaiting

end Sys2Proof.Machine
end

