-- ==== Sys2Proof/Machine/AirTime.lean ====
section
/-!
DEFINITION. Air time (R32–R49, R474): time lock and catch-up, start, fallback, trigger and capture pins, the time query bus and the register
reads of the count.
-/

namespace Sys2Proof.Machine

/-! ### Time lock and start -/

/-- Every armed trigger slot disarmed, with its disarmed bit (R35). -/
def Dev.disarmAll (s : Dev) : Dev :=
  (List.range 16).foldl (fun s n =>
    if s.flag (R.AIR_TRG_STAT_armed n) then
      (s.setB (R.AIR_TRG_STAT_armed n) false).setB (R.AIR_TRG_STAT_disarmed n) true
    else s) s

/-- V of R35: the air count that R32 gives for the domain selected now. -/
def Dev.lockTarget (s : Dev) : Nat := evenCount (s.countOf (s.domT s.src))

/-- The start sequence has come as far as phase `k` and has not ended in safe hold (R22, Table 17-2). -/
def Dev.reached (s : Dev) (k : Nat) : Bool := decide (k ≤ s.phase) && decide (s.phase ≤ 11)

/-- Air time enters LOCKED at count `c`. The sense converter counts ticks from there. -/
def Dev.enterLocked (c : Nat) (s : Dev) : Dev :=
  let s1 := ((s.noResid).set R.AIR_STAT_state 1).setB R.AIR_STAT_qualified (s.qualified s.src)
  let s2 := { s1 with time := { s1.time with cnt := c, catchUp := false, freeFail := false }, sns := { s1.sns with tickAt := c / tickTc } }
  let s3 := s2.disarmAll.refreshCells
  if s3.phase = 6 then s3.endPhase 7 else s3

/-- Time lock (R35), from the phase TIME on (R22). While the FRC is stopped no domain's time moves, and time lock waits for the main path
(DESIGN CHOICE, log 207). -/
def timeLock (s : Dev) : Dev :=
  if s.airState ≠ 0 ∨ s.time.catchUp ∨ s.time.hold ∨ !s.time.frcRun ∨ !s.reached 6 then s
  else
    let s1 := s.reselect
    let v := s1.lockTarget
    if s1.time.cnt ≤ v then s1.enterLocked v
    else { s1 with time := { s1.time with catchUp := true } }

def execTimeLock := act timeLock

/-- The catch-up ends when the count is no longer ahead of V (R35). -/
def catchUpComplete (s : Dev) : Dev :=
  if s.airState = 0 ∧ s.time.catchUp ∧ s.time.cnt ≤ s.lockTarget then s.enterLocked s.lockTarget else s

def execCatchUpComplete := act catchUpComplete

/-- The start target written to AIR_START (R36). -/
def Dev.startTarget (s : Dev) : Nat := s.rd R.AIR_START_LO + s.rd R.AIR_START_HI * 2 ^ 32

/-- The frame boundary at or after an air count (R36). -/
def frameAtOrAfter (a : Nat) : Nat := (a + frameTc - 1) / frameTc * frameTc

/-- A start armed, or refused with AIR_START_LATE (R36). With a start pending the write changes nothing (DESIGN CHOICE, log 31). Before the
phase START air time does not start (R22): the arm does not hold (DESIGN CHOICE, log 208). -/
def airStartArm (s : Dev) : Dev :=
  let t := s.startTarget
  let b := frameAtOrAfter t
  if s.time.start.isSome then s
  else if s.airState = 1 ∧ !s.reached 10 then s.setB R.AIR_CTL_arm false
  else if s.airState = 1 ∧ s.time.cnt + frameTc ≤ b then
    let s1 := s.setB R.AIR_CTL_arm true
    { s1 with time := { s1.time with start := some (b, t) } }
  else
    let s1 := (s.setB R.AIR_CTL_arm false).raise Ev.AIR_START_LATE [(48, t)]
    { s1 with time := { s1.time with start := none } }

def execAirStartArm := act airStartArm

/-- A pending start withdrawn (R36). -/
def airStartWithdraw (s : Dev) : Dev :=
  let s1 := s.setB R.AIR_CTL_arm false
  { s1 with time := { s1.time with start := none } }

def execAirStartWithdraw := act airStartWithdraw

/-- The start boundary (R36). -/
def airRun (s : Dev) : Dev :=
  match s.time.start with
  | some (b, _) =>
    if s.airState = 1 ∧ b ≤ s.time.cnt then
      let s1 := ((s.set R.AIR_STAT_state 2).setB R.AIR_CTL_arm false).raise Ev.AIR_RUN [(48, b)]
      let s2 := ({ s1 with time := { s1.time with start := none } }).refreshCells
      if s2.phase = 10 then
        let s3 := s2.endPhase 11
        { s3 with boot := { s3.boot with runAt := some s3.time.clk } }
      else if s2.phase = 11 then s2.trigger 4 4 0xFFF
      else s2
    else s
  | none => s

def execAirRun := act airRun

/-! ### Fallback (R37, R51, R474) -/

/-- The main path stops: the FRC no longer runs, and after an unlock the PLL is not locked. -/
def Dev.mainPathLost (pll : Bool) (s : Dev) : Dev :=
  let s1 := { s with time := { s.time with frcRun := false } }
  if pll then s1.setB R.TDOM_PLL_lock false else s1

/-- FALLBACK entered from RUN (R37). An FBC that was never loaded serves no air time (R68): the count then holds (DESIGN CHOICE, log 209). -/
def airFallbackEnter (pll : Bool) (s : Dev) : Dev :=
  if s.airState ≠ 2 then s
  else
    let s1 := (s.mainPathLost pll).set R.AIR_STAT_state 3 |>.setB R.AIR_STAT_fbc (s.flag (R.TDOM_CLK_CTL_valid 0))
    let s2 := { s1 with time := { s1.time with fallbackAt := s1.time.clk, fallbackDom := s1.src } }
    (s2.incSat R.AIR_FBC_CNT R.AIR_CNT_OVF_fbc_ovf Ev.AIR_CNT_SAT [] 1).raise Ev.AIR_FALLBACK_ENTER [(4, b2n pll)]

def execAirFallbackEnter (pll : Bool) := act (airFallbackEnter pll)

/-- FREE entered after 60 s of FALLBACK (R37). -/
def airUnqualified (s : Dev) : Dev :=
  if s.airState = 3 ∧ s.elapsed s.time.fallbackAt 60000 then
    let s1 := ((s.noResid).set R.AIR_STAT_state 0).setB R.AIR_STAT_qualified false
    let s2 := if s1.time.frcRun then s1.setB R.AIR_STAT_fbc false else s1
    let s3 : Dev := { s2 with time := { s2.time with freeFail := true, start := none, hold := !s2.time.frcRun && !s2.flag R.AIR_STAT_fbc } }
    ((s3.raise Ev.AIR_UNQUALIFIED []).reselect).refreshCells
  else s

def execAirUnqualified := act airUnqualified

/-- A main-path failure while air time is LOCKED or FREE (R474). In LOCKED with an FBC that was never loaded the count holds (R68;
DESIGN CHOICE, log 209). -/
def mainPathFailUnlocked (pll : Bool) (s : Dev) : Dev :=
  if s.airState = 1 then
    let s1 := (((s.mainPathLost pll).noResid).set R.AIR_STAT_state 0).setB R.AIR_STAT_qualified false
    let fbcOk := s1.flag (R.TDOM_CLK_CTL_valid 0)
    let s2 := (s1.setB R.AIR_STAT_fbc fbcOk).raise Ev.AIR_UNQUALIFIED []
    let s3 := match s2.time.start with
      | some (_, t) => (s2.setB R.AIR_CTL_arm false).raise Ev.AIR_START_LATE [(48, t)]
      | none => s2
    (({ s3 with time := { s3.time with start := none, freeFail := true, hold := !fbcOk } }).reselect).refreshCells
  else if s.airState = 0 then
    if s.flag R.AIR_STAT_fbc then s
    else
      let s1 := s.mainPathLost pll
      { s1 with time := { s1.time with hold := true, catchUp := false } }
  else s

def execMainPathFailUnlocked (pll : Bool) := act (mainPathFailUnlocked pll)

/-- The main path is restored: the count returns to it without a step, the difference going into the residual (R37, R60). -/
def Dev.fallbackExit (s : Dev) : Dev :=
  let d := (if s.flag R.AIR_STAT_fbc then s.clockT 0 else s.timeOf s.time.cnt) - s.domT s.src
  let s1 := (s.set R.AIR_STAT_state 2).setB R.AIR_STAT_fbc false
  let s2 := if s1.src = 3 then s1 else s1.setResid d
  ((s2.raise Ev.AIR_FALLBACK_EXIT [(32, s.msSince s.time.fallbackAt)]).reselect).refreshCells

/-! ### Trigger and capture pins (R39–R43) -/

def Dev.trg (s : Dev) (n : Nat) : TrgSlot := tget {} s.time.trg n

def Dev.setTrg (n : Nat) (t : TrgSlot) (s : Dev) : Dev :=
  { s with time := { s.time with trg := tput {} s.time.trg n t } }


/-- The slot may act in the present state of air time (R34, R41). -/
def Dev.trgAllowed (s : Dev) (n : Nat) : Bool := 2 ≤ s.airState || s.flag (R.AIR_TRG_CTL_free n)

/-- The slot's next target after one has come: the previous target plus the period, or none (R41). -/
def Dev.trgNext (n : Nat) (s : Dev) : Dev :=
  let p := s.rd (R.AIR_TRG_PER n)
  if p = 0 then s.setB (R.AIR_TRG_STAT_armed n) false
  else s.setTrg n { s.trg n with target := (s.trg n).target + p }

/-- Pulse width in Tc. -/
def Dev.trgWidth (s : Dev) (n : Nat) : Nat :=
  s.get (R.AIR_TRG_CTL_width n) * (if s.flag (R.AIR_TRG_CTL_width_unit n) then tickTc else 1)

/-- The slot is an enabled output. -/
def Dev.trgOut (s : Dev) (n : Nat) : Bool := s.flag (R.AIR_TRG_CTL_en n) && !s.flag (R.AIR_TRG_CTL_dir n)

/-- The pulse that the slot is set up for cannot be driven: width 0, or not below a period other than 0 (R42). -/
def Dev.trgBad (s : Dev) (n : Nat) : Bool :=
  s.trgWidth n == 0 || (s.rd (R.AIR_TRG_PER n) != 0 && decide (s.rd (R.AIR_TRG_PER n) ≤ s.trgWidth n))

/-- An enabled output slot that cannot drive its pulse shows cfg_err (R42). -/
def Dev.trgCheck (n : Nat) (s : Dev) : Dev := if s.trgOut n && s.trgBad n then s.setB (R.AIR_TRG_STAT_cfg_err n) true else s

/-- The target of an enabled output slot has come. A target that passes while the slot is not enabled stays, and acts once the slot is
enabled (DESIGN CHOICE, log 210). -/
def Dev.trgDue (s : Dev) (n : Nat) : Bool :=
  s.trgOut n && s.flag (R.AIR_TRG_STAT_armed n) && decide ((s.trg n).target ≤ s.time.cnt)

/-- A slot whose target has come fires (R41, R42). -/
def Dev.fireDue (n : Nat) (s : Dev) : Dev :=
  let t := s.trg n
  if !s.trgDue n then s
  else
    let s1 := s.trgCheck n
    if !s.trgAllowed n then
      ((s1.setB (R.AIR_TRG_STAT_late n) true).raise Ev.AIR_TRG_LATE [(5, n), (48, t.target)]).trgNext n
    else if s.trgBad n then s1.trgNext n
    else (s.setTrg n { t with active := true, pulseEnd := some (t.target + s.trgWidth n) }).trgNext n

/-- An output target comes: the slots below this one that share the target fire before it, in ascending order (R40). -/
def trgOutputFire (n : Fin 16) (s : Dev) : Dev :=
  if s.trgDue n then
    ((List.range n).foldl (fun t m => if s.trgDue m && (s.trg m).target == (s.trg n).target then t.fireDue m else t) s).fireDue n
  else s

def execTrgOutputFire (n : Fin 16) := act (trgOutputFire n)

/-- A target written to a slot: it is armed, or late with less than 256 Tc of lead (R39, Table 2-3). A slot that is due fires first, on what it
held (R40). A late target takes the place of one that was pending: the slot is then disarmed (DESIGN CHOICE, log 211). -/
def trgArm (n : Fin 16) (lo : Word) (s : Dev) : Dev :=
  let s1 := ((s.fireDue n).wr (R.AIR_TRG_T_LO n) lo.toNat).trgCheck n
  let t := lo.toNat + s1.rd (R.AIR_TRG_T_HI n) * 2 ^ 32
  if t < s1.time.cnt + 256 then
    ((s1.setB (R.AIR_TRG_STAT_armed n) false).setB (R.AIR_TRG_STAT_late n) true).raise Ev.AIR_TRG_LATE [(5, (n : Nat)), (48, t)]
  else (s1.setTrg n { s1.trg n with target := t }).setB (R.AIR_TRG_STAT_armed n) true

def execTrgArm (n : Fin 16) (lo : Word) := act (trgArm n lo)

/-- The pulse width has run (R41). -/
def trgPulseEnd (n : Fin 16) (s : Dev) : Dev :=
  match (s.trg n).pulseEnd with
  | some e => if e ≤ s.time.cnt then s.setTrg n { s.trg n with active := false, pulseEnd := none } else s
  | none => s

def execTrgPulseEnd (n : Fin 16) := act (trgPulseEnd n)

/-- An active edge at a capture pin (R41, R43). -/
def trgCapture (n : Fin 16) (odd : Bool) (s : Dev) : Dev :=
  if s.flag (R.AIR_TRG_CTL_en n) && s.flag (R.AIR_TRG_CTL_dir n) && s.trgAllowed n then
    let t := s.trg n
    if t.caps.length < 4 then
      (s.setTrg n { t with caps := t.caps ++ [s.time.cnt + b2n odd] }).set (R.AIR_TRG_STAT_cap_cnt n) (t.caps.length + 1)
    else
      (s.incSat (R.AIR_TRG_DROP n) (R.AIR_TRG_STAT_drop_ovf n) Ev.AIR_CNT_SAT [] 1).stick (R.AIR_TRG_STAT_cap_ovf n)
        (·.raise Ev.AIR_TRG_DROP [(5, (n : Nat))])
  else s

def execTrgCapture (n : Fin 16) (odd : Bool) := act (trgCapture n odd)

/-- A read of the oldest capture (R43). -/
def trgCapPop (n : Fin 16) (s : Dev) : Dev :=
  match (s.trg n).caps with
  | c :: r =>
    (((s.setTrg n { s.trg n with caps := r }).set (R.AIR_TRG_STAT_cap_cnt n) r.length).wr (R.AIR_TRG_CAP_HI n)
      (c / 2 ^ 32)).answer c
  | [] => (s.wr (R.AIR_TRG_CAP_HI n) 0xFFFFFFFF).answer 0xFFFFFFFF

def execTrgCapPop (n : Fin 16) := act (trgCapPop n)

/-! ### Time query bus (R44–R47) and register reads (R48) -/

/-- The coordinates that AIR_CTL's numerology gives for a count; crd_ecp acts only at 60 kHz. -/
def Dev.crd (s : Dev) (a : Nat) : Nat × Nat × Nat × Nat × Nat :=
  coords (s.get R.AIR_CTL_crd_mu) (s.flag R.AIR_CTL_crd_ecp) a

/-- The sixteen words of Table 2-4 for the instant of air count `a`, air view `v` and AIR_STAT `st`. -/
def Dev.tqbWords (s : Dev) (a : Nat) (v : Int) (st : Nat) : List Nat :=
  let (sfn, hfn, slot, sym, ofs) := s.crd a
  let ns := (v / 2 ^ 16).toNat
  let sec := ns / 1000000000
  let n := ns % 1000000000
  [bits a 0 16, bits a 16 16, bits a 32 16, bits a 48 16, sfn, hfn, slot + sym * 2 ^ 7, ofs / 4 % 2 ^ 16,
   bits sec 0 16, bits sec 16 16, bits sec 32 16, bits n 0 16, bits n 16 14, bits st 0 7, 0, 0]

/-- The air count of the snapshot held. -/
def Dev.tqbCount (s : Dev) : Nat :=
  lget 0 s.time.tqb 0 + lget 0 s.time.tqb 1 * 2 ^ 16 + lget 0 s.time.tqb 2 * 2 ^ 32 + lget 0 s.time.tqb 3 * 2 ^ 48

/-- The instants that a snapshot may show (R45): the present one and the last two cycles, as far as their counts lie no more than 4 Tc behind
and not before the last snapshot's. -/
def Dev.tqbInstants (s : Dev) : List (Nat × Int × Nat) :=
  (s.time.cnt, s.airView, s.rd R.AIR_STAT) ::
    s.time.past.filter fun e => decide (s.tqbCount ≤ e.1) && decide (s.time.cnt ≤ e.1 + 4) && decide (e.1 ≤ s.time.cnt)

/-- A bus cycle with select 0x0 (R45): it latches every word at one instant. Which of the admitted instants is free. -/
def tqbSnapshot (viol : Bool) (s : Dev) : Dev :=
  if !s.flag R.AIR_CTL_tqb_en then { s with time := { s.time with tqbD := none } }
  else
    let l := s.tqbInstants
    let (a, v, st) := lget (s.time.cnt, s.airView, s.rd R.AIR_STAT) l (min (Config.tqbLag s.freeCtr) (l.length - 1))
    let w := if viol then (Config.freeWord s.freeCtr).toNat else bits a 0 16
    let s1 := s.takeFree
    ({ s1 with time := { s1.time with tqb := s.tqbWords a v st, tqbD := some w } }).inc64 R.AIR_TQB_CNT_LO 1

def execTqbSnapshot (viol : Bool) := act (tqbSnapshot viol)

/-- A bus cycle with any other select: the word of the last snapshot, zero before the first (R45); in a violated cycle a word that is undefined (R47). -/
def tqbWordRead (sel : BitVec 4) (viol : Bool) (s : Dev) : Dev :=
  if !s.flag R.AIR_CTL_tqb_en then { s with time := { s.time with tqbD := none } }
  else if viol then
    let s1 := s.takeFree
    { s1 with time := { s1.time with tqbD := some (Config.freeWord s.freeCtr).toNat } }
  else { s with time := { s.time with tqbD := some (lget 0 s.time.tqb sel.toNat) } }

def execTqbWordRead (sel : BitVec 4) (viol : Bool) := act (tqbWordRead sel viol)

/-- A read of AIR_CNT_LO latches the count's high half and the coordinates of the same instant (R48). -/
def airCntRead (s : Dev) : Dev :=
  let a := s.time.cnt
  let (sfn, hfn, slot, sym, ofs) := s.crd a
  let s1 := (s.wr R.AIR_CNT_LO (a % 2 ^ 32)).wr R.AIR_CNT_HI (a / 2 ^ 32)
  let s2 := (s1.wr R.AIR_CRD (sfn + hfn * 2 ^ 10 + slot * 2 ^ 20 + sym * 2 ^ 27)).wr R.AIR_CRD_OFS ofs
  s2.answer a

def execAirCntRead := act airCntRead

end Sys2Proof.Machine
end

