-- ==== Sys2Proof/Machine/NetTime.lean ====
section
/-!
DEFINITION. Network time (R50–R68, R475): the free-running counter, the servo, the selection of a domain, holdover, references, GNSS, and the FBC and
MTC clocks.
-/

namespace Sys2Proof.Machine

/-- A domain carries air time now: the role of R56. -/
def Dev.airSource (s : Dev) (n : Nat) : Bool := s.airState != 0 && s.src == n

/-- A domain's state set. -/
def Dev.setDomState (n st : Nat) (s : Dev) : Dev := s.set (R.TDOM_STAT_state n) st

/-! ### FRC -/

/-- The FRC restarts from zero once the PLL is locked again (R51). Every enabled domain, TD_3 among them, takes FBC's time and enters ACQUIRE. A
domain that is not enabled keeps the time it shows, and so does a disabled TD_3 where FBC does not serve air time (DESIGN CHOICE, log 212). -/
def frcRestart (s : Dev) : Dev :=
  if s.time.frcRun then s
  else
    let fbc := s.clockT 0
    let s1 := s.setB R.TDOM_PLL_lock true
    let s2 : Dev := { s1 with time := { s1.time with
      frc := 0, frcRun := true, hold := false, hold3 := { s1.time.hold3 with last := none } } }
    let old := s.domOwn
    let s3 : Dev := (List.range 8).foldl (fun s n =>
      if s.flag (R.TDOM_DCTL_en n) then
        let d := s.domain n
        ((s.anchor n fbc).setDomain n { d with fa := 0, ta := fbc % 2 ^ 96, lockRun := 0, unlockRun := 0 }).setDomState n 1
      else s.anchor n (if n = 3 ∧ s.flag R.AIR_STAT_fbc then fbc else old n)) s2
    let s4 := s3.reselect
    if s4.airState = 3 ∧ s4.time.fallbackDom = 3 then s4.fallbackExit
    else if s4.airState = 0 then s4.setB R.AIR_STAT_fbc false
    else s4

def execFrcRestart := act frcRestart

/-- A read of a domain's time (R54). -/
def tdomRead (n : Fin 8) (s : Dev) : Dev :=
  let t := (s.domT n).toNat
  (((s.wr (R.TDOM_RD_LO n) (bits t 0 32)).wr (R.TDOM_RD_MID n) (bits t 32 32)).wr (R.TDOM_RD_HI n) (bits t 64 32)).answer t

def execTdomRead (n : Fin 8) := act (tdomRead n)

/-! ### The servo (R56–R58, R475) -/

/-- The signed log2 of the nominal update interval. -/
def Dev.logIntv (s : Dev) (n : Nat) : Int := s.getS (R.TDOM_SRV_log_intv n)

/-- 2 to an integer power not below zero. -/
def pow2 (e : Int) : Int := (2 ^ e.toNat : Nat)

/-- A frequency in 2^-46 ppb as a rate in 2^-40, rounded up or down as the device rounds it. -/
def rateOf (f : Int) : Int :=
  let d : Nat := 64000000000
  if f % d = 0 then f / d else f / d + (if Config.rateUp f d then 1 else 0)

/-- The rate update of R56 for a measured offset `e` in 2^-8 ns. -/
def Dev.servoRate (n : Nat) (e : Int) (s : Dev) : Dev :=
  let d := s.domain n
  let li := s.logIntv n
  let fmax : Int := s.get (R.TDOM_SRV_fmax n) * 2 ^ 46
  let term := fun (k : Nat) => e * pow2 (38 - li - k)
  let integ := clampInt (d.integ + term (s.get (R.TDOM_SRV_ki n))) (-fmax) fmax
  let raw := -term (s.get (R.TDOM_SRV_kp n)) - integ
  let f1 := clampInt raw (-fmax) fmax
  let step := 10 * pow2 (46 + li)
  let f := if s.airSource n then clampInt f1 (d.fPrev - step) (d.fPrev + step) else f1
  let s1 := if f1 ≠ raw then s.stick (R.TDOM_STAT_clamp n) (·.raise Ev.TDOM_CLAMP [(3, n)]) else s
  let s2 := s1.setRate n (satSigned 32 (rateOf f))
  s2.setDomain n { s2.domain n with integ := integ, fPrev := f }

/-- The phase step of R56 or R57: T moves by `d` in 2^-8 ns, and the step is logged. -/
def Dev.phaseStep (n : Nat) (d : Int) (s : Dev) : Dev :=
  (s.anchor n (s.domOwn n + d * 256)).raise Ev.TDOM_STEP [(3, n), (32, satSigned 32 d)]

/-- The lock criteria after an update (Table 3-2). -/
def Dev.lockUpdate (n : Nat) (e : Int) (s : Dev) : Dev :=
  let d := s.domain n
  let mag := e.natAbs
  let many := fun (f : Field) => if s.get f = 0 then 16 else s.get f
  if s.get (R.TDOM_STAT_state n) = 1 then
    let run := if mag < s.get (R.TDOM_LCK_lock_thr n) * 256 then d.lockRun + 1 else 0
    if many (R.TDOM_LCK_lock_cnt n) ≤ run then
      ((s.setDomain n { d with lockRun := 0, unlockRun := 0 }).setDomState n 2).raise Ev.TDOM_LOCK [(3, n)]
    else s.setDomain n { d with lockRun := run, unlockRun := 0 }
  else
    let run := if s.get (R.TDOM_LCK_unlock_thr n) * 1024 < mag then d.unlockRun + 1 else 0
    if many (R.TDOM_LCK_unlock_cnt n) ≤ run then
      let s1 := (s.setDomain n { d with lockRun := 0, unlockRun := 0 }).setDomState n 1
      (s1.incSat (R.TDOM_UNLK n) (R.TDOM_STAT_unlk_ovf n) Ev.TDOM_CNT_SAT [] 1).raise Ev.TDOM_UNLOCK [(3, n), (32, e)]
    else s.setDomain n { d with unlockRun := run }

/-- The main path is restored when the domain that air time followed is LOCKED again (R51). -/
def Dev.restoreCheck (s : Dev) : Dev :=
  if s.airState = 3 ∧ s.time.frcRun ∧ s.domState s.time.fallbackDom = 2 then s.fallbackExit else s

/-- One update of a domain's servo (R56). -/
def Dev.servo (n : Nat) (e : Int) (s : Dev) : Dev :=
  if n = 3 ∨ s.follows n ∨ !s.flag (R.TDOM_DCTL_en n) ∨ !s.flag (R.TDOM_DCTL_servo_en n) then s
  else
    let s0 := (if s.get (R.TDOM_STAT_state n) = 3 ∨ s.get (R.TDOM_STAT_state n) = 0 then s.setDomState n 1 else s).setS (R.TDOM_LAST_e n) e
    let s1 := s0.setDomain n { s0.domain n with lastMeas := s0.time.clk }
    let steps := s1.get (R.TDOM_STAT_state n) = 1 && s1.flag (R.TDOM_SRV_step_ok n) &&
      s1.rd (R.TDOM_STEP n) * 256 ≤ e.natAbs && !s1.airSource n
    let s2 := if steps then
        let t := s1.phaseStep n (-e)
        t.setDomain n { t.domain n with integ := 0 }
      else s1.servoRate n e
    ((s2.lockUpdate n e).reselect).restoreCheck

def execServoUpdate (n : Fin 8) (e : Word) := act (Dev.servo n e.toInt)

/-- A domain with no measurement for meas_to intervals (Table 3-2). TD_3, which takes no measurement, and a user view that follows a parent have
no state of their own to leave (DESIGN CHOICE, log 213). -/
def tdomTimeout (n : Fin 8) (s : Dev) : Dev :=
  let st := s.get (R.TDOM_STAT_state n)
  let limit := if s.get (R.TDOM_LCK_meas_to n) = 0 then 256 else s.get (R.TDOM_LCK_meas_to n)
  let due := (limit * hz : Nat) * pow2 (s.logIntv n + 8) ≤ (s.time.clk - (s.domain n).lastMeas : Nat) * 256
  if n.val ≠ 3 ∧ !s.follows n ∧ (st = 1 ∨ st = 2) ∧ due then
    (((s.setDomState n 3).incSat (R.TDOM_TOUT n) (R.TDOM_STAT_tout_ovf n) Ev.TDOM_CNT_SAT [] 1).raise Ev.TDOM_TIMEOUT
      [(3, (n : Nat))]).reselect
  else s

def execTdomTimeout (n : Fin 8) := act (tdomTimeout n)

/-- A write of a domain's rate (R57): ignored while its servo is enabled. -/
def rateWrite (n : Fin 8) (r : Word) (s : Dev) : Dev :=
  if s.flag (R.TDOM_DCTL_servo_en n) then s
  else
    let s1 := s.setRate n r.toInt
    if n.val = 3 then { s1 with time := { s1.time with hold3 := { s1.time.hold3 with rate := r.toInt * 2 ^ 16 } } } else s1

def execRateWrite (n : Fin 8) (r : Word) := act (rateWrite n r)

/-- A phase step written by firmware (R57). -/
def phaseAdjust (n : Fin 8) (adj : Word) (s : Dev) : Dev :=
  if s.get (R.TDOM_STAT_state n) = 1 ∧ s.flag (R.TDOM_SRV_step_ok n) ∧ !s.airSource n then s.phaseStep n adj.toInt else s

def execPhaseAdjust (n : Fin 8) (adj : Word) := act (phaseAdjust n adj)

/-- The time in TDOM_LOAD (R475). -/
def Dev.loadTime (s : Dev) : Int :=
  ((s.rd R.TDOM_LOAD_LO + s.rd R.TDOM_LOAD_MID * 2 ^ 32 + s.rd R.TDOM_LOAD_HI * 2 ^ 64 : Nat) : Int)

/-- A domain's time set outright, or the load refused (R475). -/
def tdomLoad (v : Word) (s : Dev) : Dev :=
  let n := bits v.toNat 0 3
  let s0 := s.set R.TDOM_LOAD_CTL_dom n
  let st := s0.get (R.TDOM_STAT_state n)
  if st ≤ 1 ∧ !s0.airSource n ∧ n ≠ 3 ∧ !s0.follows n then
    let d := (s0.loadTime - s0.domOwn n) / 256
    (s0.anchor n s0.loadTime).raise Ev.TDOM_STEP [(3, n), (32, satSigned 32 d)]
  else s0.setB R.TDOM_LOAD_CTL_load_ref true

def execTdomLoad (v : Word) := act (tdomLoad v)

/-! ### Selection and holdover (R59–R62) -/

/-- A change of a domain's source quality moves air time at once where R59 says so. -/
def tdomSwitch (n : Fin 8) (ok : Bool) (s : Dev) : Dev := (s.setB (R.TDOM_DCTL_src_ok n) ok).reselect

def execTdomSwitch (n : Fin 8) (ok : Bool) := act (tdomSwitch n ok)

/-- Wait-to-restore has run (R59). -/
def execWtrExpire := act Dev.reselect

/-- Each tick TD_3 takes the air view while another domain carries air time (R61). -/
def td3Reanchor (s : Dev) : Dev := if s.airFollows && s.src != 3 then s.anchor 3 s.airView else s

def execTd3Reanchor := act td3Reanchor

/-- The least-squares line through records one second apart, the newest at time zero: its value there and its slope. -/
def fitLine (ys : List Int) : Int × Int :=
  let n : Int := ys.length
  let pts := ys.zipIdx.map fun (y, i) => (y, (i : Int) - (n - 1))
  let sx := pts.foldl (fun a p => a + p.2) 0
  let sy := pts.foldl (fun a p => a + p.1) 0
  let sxx := pts.foldl (fun a p => a + p.2 * p.2) 0
  let sxy := pts.foldl (fun a p => a + p.1 * p.2) 0
  let den := n * sxx - sx * sx
  if n ≤ 0 then (0, 0)
  else if den = 0 then (sy / n, 0)
  else ((sy * sxx - sx * sxy) / den, (n * sxy - sx * sy) / den)

/-- Once a second TD_3 records the rate of the air view against the FRC and refits (R61). Before a second of the FRC has run since the last
record nothing is recorded. -/
def td3RateRecord (s : Dev) : Dev :=
  if s.airFollows && s.src != 3 then
    let h := s.time.hold3
    let now := (s.airView, s.time.frc)
    let h1 : Holdover := match h.last with
      | none => { h with last := some now }
      | some (t, f) =>
        let df : Int := (now.2 : Int) - f
        if df < hz * 65536 then h
        else
          let r := (now.1 - t) * 3072 * 2 ^ 56 / (df * 3125) - 2 ^ 56
          let keep := max 16 (s.get R.TDOM_HOLD_avg)
          let rs := h.records ++ [r]
          let rs := rs.drop (rs.length - keep)
          let (m, b) := fitLine rs
          { h with records := rs, mean := m, drift := b, last := some now }
    { s with time := { s.time with hold3 := h1 } }
  else s

def execTd3RateRecord := act td3RateRecord

/-- Air time has followed TD_3 for lim x 10 s (R62). -/
def tdomHoldLimit (s : Dev) : Dev :=
  let lim := s.get R.TDOM_HOLD_lim
  if s.airFollows ∧ s.src = 3 ∧ lim ≠ 0 ∧ !s.time.holdLim ∧ s.elapsed s.time.hold3.since (lim * 10000) then
    let s1 := s.raise Ev.TDOM_HOLD_LIMIT [(32, s.msSince s.time.hold3.since / 1000)]
    ({ s1 with time := { s1.time with holdLim := true, offAir := s1.flag R.TDOM_HOLD_off_air } }).refreshCells
  else s

def execTdomHoldLimit := act tdomHoldLimit

/-- Cells return once a qualified domain is selected and the residual is below its lock_thr (R62). -/
def holdoverCellsReturn (s : Dev) : Dev :=
  if s.time.offAir ∧ s.qualified s.src ∧ s.resid16.natAbs < s.get (R.TDOM_LCK_lock_thr s.src) * 2 ^ 16 then
    ({ s with time := { s.time with offAir := false, holdLim := false } }).refreshCells
  else s

def execHoldoverCellsReturn := act holdoverCellsReturn

/-- The residual has been slewed out (R60). -/
def residualSlewDone (s : Dev) : Dev :=
  if s.time.resid = 0 ∧ s.time.slew = 0 then (s.setB R.TDOM_SW_STAT_slewing false).reselect else s

def execResidualSlewDone := act residualSlewDone

/-! ### References (R63) -/

/-- A reference is within limits. -/
def Dev.refOk (s : Dev) (r : Nat) : Bool := r < 3 && bit (s.get R.TDOM_PLL_ref_ok) r

def Dev.setRefOk (r : Nat) (b : Bool) (s : Dev) : Dev :=
  s.set R.TDOM_PLL_ref_ok (setBits (s.get R.TDOM_PLL_ref_ok) r 1 (b2n b))

/-- The PLL's reference set; none is holdover. -/
def Dev.setPllRef (r : Option Nat) (s : Dev) : Dev :=
  ({ s with time := { s.time with pllRef := r } }).setB R.TDOM_PLL_hold r.isNone

/-- The primary reference: the reserved code keeps the one before it (Table 3-6). -/
def Dev.primary (s : Dev) : Nat := if s.get R.TDOM_PLL_ref = 3 then s.time.pllPrim else s.get R.TDOM_PLL_ref

/-- A reference is lost: the PLL moves to the other one, or into holdover. -/
def tdomRefLoss (r : Fin 3) (s : Dev) : Dev :=
  let s1 := s.setRefOk r false
  let prim := s.primary
  let sec := s.get R.TDOM_PLL_ref2
  let s2 := if r.val = prim then { s1 with time := { s1.time with primaryOk := none } } else s1
  if s.time.pllRef = some r.val then
    let s3 := s2.raise Ev.TDOM_REF_LOSS [(2, (r : Nat))]
    let other := if r.val = prim then sec else prim
    if s3.refOk other then s3.setPllRef (some other)
    else (s3.setPllRef none).raise Ev.TDOM_PLL_HOLD []
  else s2

def execTdomRefLoss (r : Fin 3) := act (tdomRefLoss r)

/-- With revert = 1 the PLL returns to a primary within limits for 10 s. -/
def pllRevert (s : Dev) : Dev :=
  match s.time.primaryOk with
  | some t =>
    if s.flag R.TDOM_PLL_revert ∧ s.time.pllRef.isSome ∧ s.refOk s.primary ∧ s.elapsed t 10000 then s.setPllRef (some s.primary)
    else s
  | none => s

def execPllRevert := act pllRevert

/-- A reference is back; a PLL in holdover takes the primary if it is within limits, otherwise ref2. -/
def pllHoldExit (r : Fin 3) (s : Dev) : Dev :=
  let s1 := s.setRefOk r true
  let prim := s.primary
  let s2 := if r.val = prim ∧ !s.refOk prim then { s1 with time := { s1.time with primaryOk := some s1.time.clk } } else s1
  if s2.time.pllRef.isNone then
    if s2.refOk prim then s2.setPllRef (some prim)
    else if s2.refOk (s.get R.TDOM_PLL_ref2) then s2.setPllRef (some (s.get R.TDOM_PLL_ref2))
    else s2
  else s2

def execPllHoldExit (r : Fin 3) := act (pllHoldExit r)

/-- What SYNCE_OUT0 or SYNCE_OUT1 drives: the port whose recovered clock it is and the frequency in Hz; none is held low (R64). -/
def Dev.synceOut (s : Dev) (k : Fin 2) : Option (Nat × Nat) :=
  let en := if k = 0 then s.flag R.TDOM_PLL_out0_en else s.flag R.TDOM_PLL_out1_en
  let port := if k = 0 then s.get R.TDOM_PLL_synce_port else s.get R.TDOM_PLL_out1_port
  match en, s.get R.TDOM_PLL_out_div with
  | true, 0 => some (port, 156250000)
  | true, 1 => some (port, 25000000)
  | _, _ => none

/-! ### GNSS (R65) -/

/-- An active PPS_IN edge: captured, or ignored and counted within 900 ms of the last accepted one. -/
def ppsCapture (i : Fin 16) (s : Dev) : Dev :=
  if !s.flag R.TDOM_GNSS_en then s
  else
    let f := s.time.frc + i.val * 4096
    let extra := match s.time.ppsLast with
      | some t => !s.elapsed t 900
      | none => false
    if extra then
      (s.incSat R.TDOM_PPS_EXTRA R.TDOM_GNSS_extra_ovf Ev.TDOM_CNT_SAT [] 1).stick R.TDOM_GNSS_extra_ovf
        (·.raise Ev.TDOM_PPS_EXTRA [(48, (bits f 16 48 : Nat))])
    else
      let s1 := ((s.wr R.TDOM_PPS_LO (bits f 0 32)).wr R.TDOM_PPS_MID (bits f 32 32)).wr R.TDOM_PPS_HI (bits f 64 32)
      { s1 with time := { s1.time with ppsEdge := some (s.time.clk, f), ppsLast := some s.time.clk } }

def execPpsCapture (i : Fin 16) := act (ppsCapture i)

/-- A domain's time at an FRC value: its parent's with the offset where it follows (R52, R55). -/
def Dev.domAt (s : Dev) (n f : Nat) : Int :=
  let k := (s.shown n).1
  let d := s.domain k
  d.ta + ((f : Int) - d.fa) * 3125 * (2 ^ 56 + s.domRate k) / (3072 * 2 ^ 56) + (s.shown n).2

/-- Three seconds without a paired message take TD_2's src_ok (R58). -/
def Dev.todExpire (s : Dev) : Dev :=
  match s.time.todAt with
  | some t =>
    if s.elapsed t 3000 then (({ s with time := { s.time with todAt := none } } : Dev).setB (R.TDOM_DCTL_src_ok 2) false).reselect else s
  | none => s

/-- A TOD_IN message completes: paired with an edge at most 500 ms old, it gives TD_2 a measurement where its offset lies within the span of
TDOM_MEAS (R65, R475), and src_ok (R58). -/
def todMessage (sec : BitVec 48) (ok : Bool) (s : Dev) : Dev :=
  match s.time.ppsEdge with
  | some (t, f) =>
    if s.elapsed t 500 ∧ s.time.clk ≠ t + hz / 2 then s
    else
      let s1 := { s with time := { s.time with ppsEdge := none, todAt := some s.time.clk } }
      let s2 := s1.setB (R.TDOM_DCTL_src_ok 2) ok
      let e : Int := (s2.domAt 2 f - ((sec.toNat * 1000000000 * 2 ^ 16 : Nat) : Int)) / 256 - s2.getS R.TDOM_GNSS_DLY_dly
      if satSigned 32 e = e then s2.servo 2 e else s2.reselect
  | none => s

def execTodMessage (sec : BitVec 48) (ok : Bool) := act (todMessage sec ok)

/-! ### FBC and MTC (R66–R68) -/

/-- The privilege level as an event carries it. -/
def Level.code : Level → Nat
  | .t => 0
  | .s => 1
  | .m => 2

/-- A write refused for privilege (R67). -/
def Dev.privWrite (a : Nat) (lvl : Level) (s : Dev) : Dev := s.raise Ev.TDOM_PRIV_WRITE [(40, a), (4, (Level.code lvl : Nat))]

/-- A write of INC_INT (R67): both halves of the increment are committed at the next SYSREF cycle. -/
def clockIncWrite (mtc : Bool) (v : Word) (lvl : Level) (s : Dev) : Dev :=
  let x := b2n mtc
  if lvl ≠ .m then s.privWrite (R.TDOM_CLK_INC_INT x) lvl
  else
    let i := bits v.toNat 0 8
    let f := s.rd (R.TDOM_CLK_INC_FRAC x)
    if 19 * 2 ^ 32 ≤ i * 2 ^ 32 + f ∧ i * 2 ^ 32 + f ≤ 21 * 2 ^ 32 then
      let s1 := s.wr (R.TDOM_CLK_INC_INT x) i
      { s1 with time := { s1.time with clock := tput {} s1.time.clock x { s1.clock x with pendInc := some (i, f) } } }
    else s.raise Ev.TDOM_INC_RANGE [(1, x), (40, (i * 2 ^ 32 + f : Nat))]

def execClockIncWrite (mtc : Bool) (v : Word) (lvl : Level) := act (clockIncWrite mtc v lvl)

/-- A write of CTL.load (R67). -/
def clockLoad (mtc : Bool) (lvl : Level) (s : Dev) : Dev :=
  let x := b2n mtc
  if lvl ≠ .m then s.privWrite (R.TDOM_CLK_CTL x) lvl
  else if !mtc && s.flag R.AIR_STAT_fbc then s
  else
    let v := (s.rd (R.TDOM_CLK_SET_LO x) + s.get (R.TDOM_CLK_SET_HI_sec x) * 2 ^ 32, s.get (R.TDOM_CLK_SET_NS_ns x))
    { s with time := { s.time with clock := tput {} s.time.clock x { s.clock x with pendLoad := some v } } }

def execClockLoad (mtc : Bool) (lvl : Level) := act (clockLoad mtc lvl)

/-- Air view minus each clock, every tick (R68). -/
def fbcDiffMeasure (s : Dev) : Dev :=
  let d := fun x => satSigned 32 ((s.airView - s.clockT x) / 256)
  (s.setS (R.TDOM_CLK_DIFF_diff 0) (d 0)).setS (R.TDOM_CLK_DIFF_diff 1) (d 1)

def execFbcDiffMeasure := act fbcDiffMeasure

/-! ### Register writes with an effect of their own in this block -/

/-- TDOM_DCTL written: enabling a domain puts it in ACQUIRE, clearing en in OFF (Table 3-2); follow of TD_0–TD_3 reads as 0 (R55). -/
def Dev.hookDctl (n : Nat) (old : Nat) (s : Dev) : Dev :=
  let s0 := if n < 4 then s.setB (R.TDOM_DCTL_follow n) false else s
  let was := bit old 0
  let is := s0.flag (R.TDOM_DCTL_en n)
  let s1 :=
    if is && !was then
      (s0.setDomain n { s0.domain n with lastMeas := s0.time.clk, lockRun := 0, unlockRun := 0 }).setDomState n 1
    else if was && !is then s0.setDomState n 0
    else s0
  s1.reselect

end Sys2Proof.Machine
end

