-- ==== Sys2Proof/Machine/Rings.lean ====
section
/-!
DEFINITION. The sample store's shared operations: lines and poison (R167, R168), the grain allocator (R170–R173), ring table
entries (Table 7-4), and the writing and reading of rings (R175–R177).
-/

namespace Sys2Proof.Machine

/-- The store's place in Laruri's address space (R167). -/
abbrev storeBase : Nat := 0x0100000000

/-- The bank of a store offset (R167). -/
def storeBank (off : Nat) : Nat := Nat.xor (bits off 6 8) (bits off 14 8)

/-- The row of a store offset (R167). -/
def storeRow (off : Nat) : Nat := bits off 14 12

/-- The store offset of line `row` of a bank (R167). -/
def storeLine (bank row : Nat) : Nat := row * 2 ^ 14 + Nat.xor bank (bits row 0 8) * 64

/-- A 64-bit word of the store, at a word-aligned offset. -/
def Dev.sword (s : Dev) (off : Nat) : Nat := s.le (storeBase + off) 8

/-- The device with a 64-bit word of the store written. -/
def Dev.setSword (off v : Nat) (s : Dev) : Dev := s.setLe (storeBase + off) 8 v

/-- The line of this offset is poisoned (R168). -/
def Dev.poisoned (s : Dev) (off : Nat) : Bool := tget false s.sto.poison (off / 64)

/-- The device with a line's poison set or cleared. -/
def Dev.setPoison (off : Nat) (b : Bool) (s : Dev) : Dev :=
  { s with sto := { s.sto with poison := tput false s.sto.poison (off / 64) b } }

/-- A read of one word: zeros and ERASED from a poisoned line (R168). -/
def Dev.readWord (s : Dev) (off : Nat) : Nat × Bool :=
  if s.poisoned off then (0, true) else (s.sword off, false)

/-- Bytes of the store as a reader of a linear buffer sees them: zeros from poisoned lines. -/
def Dev.storeBytes (s : Dev) (off n : Nat) : List Nat :=
  (nums off n).map fun a => if s.poisoned a then 0 else s.byte (storeBase + a)

/-- Some line under this run of bytes is poisoned. -/
def Dev.erasedIn (s : Dev) (off n : Nat) : Bool :=
  (nums (off / 64) ((off + n + 63) / 64 - off / 64)).any fun l => tget false s.sto.poison l

/-- The 64-bit words of a byte list, little-endian, zero-filled to a whole word: the store has no access narrower than a word (R169). -/
def wordsOf (l : List Nat) : List Nat :=
  (List.range ((l.length + 7) / 8)).map fun i => leNat ((l.drop (8 * i)).take 8)

/-- The bytes of a list of 64-bit words. -/
def bytesOf (ws : List Nat) : List Nat := ws.flatMap (leBytes 8)

/-- Words written one after another from a word-aligned offset, each with its erase flag. Of the lines that they touch, one written whole takes
its poison from the flags of its words; one written in part keeps its poison as it was (R168). -/
def Dev.putWords (off : Nat) (ws : List (Nat × Bool)) (s : Dev) : Dev :=
  let n := ws.length * 8
  let s1 := s.setBytes (storeBase + off) (bytesOf (ws.map (·.1)))
  (nums (off / 64) ((off + n + 63) / 64 - off / 64)).foldl (fun s l =>
    if off ≤ l * 64 ∧ l * 64 + 64 ≤ off + n then
      s.setPoison (l * 64) (((ws.drop ((l * 64 - off) / 8)).take 8).any (·.2))
    else s) s1

/-- A linear buffer written by a hardware producer, in whole words. -/
def Dev.writeLines (off : Nat) (l : List Nat) (erase : Bool) (s : Dev) : Dev := s.putWords off ((wordsOf l).map fun w => (w, erase))

/-! ### Store counters and errors -/

/-- An S32 counter of the store advanced, with its bit of STO_CNT_OVF and STO_STAT.cnt_ovf (Table 7-6). -/
def Dev.stoCount (a : Nat) (s : Dev) : Dev :=
  let sat := s.rd a = 0xFFFFFFFE
  let s1 := s.incSat a ⟨R.STO_CNT_OVF, (a - R.STO_SCRUB_PASSES) / 4, 1⟩ Ev.STO_CNT_SAT [] 1
  if sat then s1.setB R.STO_STAT_cnt_ovf true else s1

/-! ### Ring table entries (Table 7-4) -/

/-- The address of 32-bit word `i` of ring `k`'s entry. -/
def ringWordAddr (k i : Nat) : Nat := storeBase + k * 64 + i * 4

/-- A 32-bit word of a ring table entry. -/
def Dev.rw (s : Dev) (k i : Nat) : Nat := s.le (ringWordAddr k i) 4

/-- The device with a 32-bit word of a ring table entry written. -/
def Dev.setRw (k i v : Nat) (s : Dev) : Dev := s.setLe (ringWordAddr k i) 4 v

/-- A field of a ring table entry. -/
def Dev.rf (s : Dev) (k i lo w : Nat) : Nat := bits (s.rw k i) lo w

/-- The device with a field of a ring table entry written. -/
def Dev.setRf (k i lo w v : Nat) (s : Dev) : Dev := s.setRw k i (setBits (s.rw k i) lo w v)

/-- A 64-bit count of a ring table entry, from word `i`. -/
def Dev.rq (s : Dev) (k i : Nat) : Nat := s.le (ringWordAddr k i) 8

/-- The device with a 64-bit count of a ring table entry written. -/
def Dev.setRq (k i v : Nat) (s : Dev) : Dev := s.setLe (ringWordAddr k i) 8 v

def Dev.ringValid (s : Dev) (k : Nat) : Bool := s.rf k 0 0 1 == 1
/-- HOLD mode; RT otherwise. -/
def Dev.ringHold (s : Dev) (k : Nat) : Bool := s.rf k 0 1 1 == 1
def Dev.ringClass (s : Dev) (k : Nat) : Nat := s.rf k 0 2 4
def Dev.ringKind (s : Dev) (k : Nat) : Nat := s.rf k 0 6 2
def Dev.ringRegen (s : Dev) (k : Nat) : Bool := s.rf k 0 8 1 == 1
/-- How many readers, 1 or 2. -/
def Dev.ringReaders (s : Dev) (k : Nat) : Nat := s.rf k 0 9 1 + 1
def Dev.ringBase (s : Dev) (k : Nat) : Nat := s.rf k 0 10 9
def Dev.ringExt (s : Dev) (k : Nat) : Nat := s.rf k 0 19 9
def Dev.ringSys (s : Dev) (k : Nat) : Bool := s.rf k 0 28 1 == 1
def Dev.ringSrc (s : Dev) (k : Nat) : Nat := s.rf k 1 0 12
def Dev.ringW (s : Dev) (k : Nat) : Nat := s.rq k 2
def Dev.ringR (s : Dev) (k j : Nat) : Nat := s.rq k (4 + 2 * j)
def Dev.ringMark (s : Dev) (k j : Nat) : Nat := s.rq k (8 + 2 * j)
def Dev.ringMv (s : Dev) (k j : Nat) : Bool := s.rf k 12 j 1 == 1
def Dev.ringLost (s : Dev) (k j : Nat) : Bool := s.rf k 12 (2 + j) 1 == 1
def Dev.ringOvr (s : Dev) (k j : Nat) : Bool := s.rf k 12 (4 + j) 1 == 1
def Dev.ringHeld (s : Dev) (k : Nat) : Nat := s.rf k 12 6 10
def Dev.ringHead (s : Dev) (k : Nat) : Nat := s.rf k 12 16 14
def Dev.ringTail (s : Dev) (k : Nat) : Nat := s.rf k 15 0 14
def Dev.ringSq (s : Dev) (k : Nat) : Nat := s.rf k 15 16 16
/-- Capacity in words: 512 for each grain held (R175). -/
def Dev.ringCap (s : Dev) (k : Nat) : Nat := 512 * s.ringHeld k

/-- The oldest needed word: the least of every read count and every valid mark (R175). -/
def Dev.ringOldest (s : Dev) (k : Nat) : Nat :=
  (List.range (s.ringReaders k)).foldl
    (fun o j => min (min o (s.ringR k j)) (if s.ringMv k j then s.ringMark k j else o)) (s.ringR k 0)

/-! ### Pacing of stream movers (R202) -/

def Dev.movCh (s : Dev) (c : Nat) : MovCh := tget {} s.mov.ch c
def Dev.setMovCh (c : Nat) (x : MovCh) (s : Dev) : Dev := { s with mov := { s.mov with ch := tput {} s.mov.ch c x } }

/-- A 32-bit word of a mover descriptor. -/
def dw (d : List Nat) (i : Nat) : Nat := lget 0 d i

/-- The pacing level L of a descriptor. -/
def Dev.paceLevel (s : Dev) (d : List Nat) : Nat :=
  let k := bits (dw d 3) 0 12
  if bit (dw d 0) 11 then s.ringW k - s.ringOldest k else s.ringW k - s.ringR k (bits (dw d 3) 12 1)

/-- The request that the level gives, from the request before. -/
def paceNext (d : List Nat) (level : Nat) (req : Bool) : Bool :=
  let hi := bits (dw d 4) 0 22
  let lo := bits (dw d 5) 0 22
  if bit (dw d 0) 11 then (if level ≤ lo then true else if hi ≤ level then false else req)
  else (if hi ≤ level then true else if level ≤ lo then false else req)

/-- A channel's pacing request and level evaluated. -/
def Dev.pace (c : Nat) (s : Dev) : Dev :=
  let x := s.movCh c
  match x.cur with
  | some r =>
    if bits (dw r.d 3) 0 12 = 0xFFF then (s.setMovCh c { x with cur := some { r with req := true } }).setB (R.MOV_CH_STAT_req c) true
    else
      let l := s.paceLevel r.d
      let q := paceNext r.d l r.req
      ((s.setMovCh c { x with cur := some { r with req := q } }).setB (R.MOV_CH_STAT_req c) q).set (R.MOV_CH_LEVEL_level c) l
  | none => s

/-- Every channel that a ring paces, evaluated. -/
def Dev.paceRing (k : Nat) (s : Dev) : Dev :=
  (s.mov.ch.filter fun e => match e.2.cur with | some r => bits (dw r.d 3) 0 12 == k | none => false).foldl
    (fun s e => s.pace e.1) s

/-! ### Mover channels' status -/

def movMode (d : List Nat) : Nat := bits (dw d 0) 0 2
def movFlag (d : List Nat) (i : Nat) : Bool := bit (dw d 0) i
/-- The length in 64-bit words. -/
def movLen (d : List Nat) : Nat := bits (dw d 1) 0 24 / 8
def movDstRing (d : List Nat) : Nat := dw d 8 % 4096

/-- The words that ring `k`'s writer has still to write. -/
def Dev.ringStalled (s : Dev) (k : Nat) : List (Nat × Bool) := tget [] s.sto.stalled k

/-- The descriptor writes ring `k` as its writer. -/
def movWrites (d : List Nat) (k : Nat) : Bool := movFlag d 10 && movMode d != 2 && movDstRing d == k

/-- The words of a run's last burst that stand stalled on a HOLD ring (R204). -/
def Dev.movStalled (s : Dev) (r : MovRun) : Nat :=
  if movFlag r.d 10 && movMode r.d != 2 then (s.ringStalled (movDstRing r.d)).length else 0

/-- The words of a run that are done: read, and written out. -/
def Dev.movDone (s : Dev) (r : MovRun) : Nat := r.done - s.movStalled r

/-- The state shown for a channel (Table 8-5). -/
def Dev.movState (s : Dev) (x : MovCh) : Nat :=
  match x.cur with
  | some r =>
    if r.waitTime then 2
    else if s.movStalled r = 0 ∧ (r.done = 0 ∨ r.done < movLen r.d) then 3
    else if s.movStalled r = 0 ∧ movFlag r.d 2 then 5 else 4
  | none => if x.link.isSome ∨ x.fetched.isSome then 1 else 0

/-- MOV_CH_STAT of a channel brought up to it. -/
def Dev.movShow (c : Nat) (s : Dev) : Dev :=
  (s.set (R.MOV_CH_STAT_state c) (s.movState (s.movCh c))).set (R.MOV_CH_STAT_qdepth c) (s.movCh c).queue.length

/-- The channels whose descriptors write ring `k`. -/
def Dev.movWriters (s : Dev) (k : Nat) : List Nat :=
  (s.mov.ch.filter fun e => match e.2.cur with | some r => movWrites r.d k | none => false).map (·.1)

/-- RP_FILL and RP_STAT of a ring brought up to its entry (Table 7-5). -/
def Dev.ringPort (k : Nat) (s : Dev) : Dev :=
  (s.set (R.RP_FILL_fill k) (s.ringW k - s.ringOldest k)
    |>.set (R.RP_STAT_lost k) (s.rf k 12 2 2)
    |>.set (R.RP_STAT_ovr k) (s.rf k 12 4 2)).paceRing k

/-! ### The successor table (R170) -/

/-- The entry of a grain in the successor table. -/
def succAddr (g : Nat) : Nat := storeBase + 64 * 4096 + g * 4

def Dev.succ (s : Dev) (g : Nat) : Nat := bits (s.le (succAddr g) 4) 0 14
def Dev.grainOwner (s : Dev) (g : Nat) : Nat := bits (s.le (succAddr g) 4) 14 12
def Dev.setSucc (g next ring : Nat) (s : Dev) : Dev := s.setLe (succAddr g) 4 (next % 2 ^ 14 + ring % 4096 * 2 ^ 14)

/-- The grain `n` places after `g` in its chain. -/
def Dev.walk (s : Dev) (g n : Nat) : Nat :=
  match n with
  | 0 => g
  | n + 1 => s.walk (s.succ g) n

/-- The block (512 words) that the head grain holds. -/
def Dev.headBlock (s : Dev) (k : Nat) : Nat := (s.ringW k - 1) / 512

/-- The grain that holds the block of word position `p` of ring `k`, counted forward round the circle from the head grain. -/
def Dev.ringGrain (s : Dev) (k p : Nat) : Nat :=
  s.walk (s.ringHead k) ((p / 512 + s.ringHeld k - s.headBlock k % s.ringHeld k) % s.ringHeld k)

/-- The store offset of word position `p` of ring `k`. -/
def Dev.ringOff (s : Dev) (k p : Nat) : Nat := s.ringGrain k p * 4096 + p % 512 * 8

/-! ### The grain allocator (R171–R173, R178) -/

/-- The first grain of the table region, or 16,384 with none (R178). -/
def Dev.tableStart (s : Dev) : Nat :=
  if s.get R.STO_SYSLIM_grain = 0 then 16384 else s.get R.STO_SYSLIM_grain

/-- The class draws from the table region (R178). -/
def Dev.clsTbl (s : Dev) (c : Nat) : Bool := s.flag (R.STO_CLS_tbl c)
def Dev.clsQuota (s : Dev) (c : Nat) : Nat := s.get (R.STO_CLS_quota c)
def Dev.clsShare (s : Dev) (c : Nat) : Nat := s.get (R.STO_CLS_shr c)
def Dev.clsHeld (s : Dev) (c : Nat) : Nat := s.get (R.STO_CLS_HELD_held c)

/-- The pool grains of one part. -/
def Dev.partSize (s : Dev) (tbl : Bool) : Nat := if tbl then 16384 - s.tableStart else s.tableStart - 80

/-- The free grains of one part: F. -/
def Dev.partFree (s : Dev) (tbl : Bool) : Nat :=
  if tbl then s.partSize true - s.sto.freshT + s.sto.retT.length
  else s.partSize false - s.sto.freshW + s.sto.retW.length

/-- The grains that a class holds in the part it now draws from. They are all its grains, but where STO_CLS[c].tbl was written while it held
some (R178; DEDUCED, log 228). -/
def Dev.clsIn (s : Dev) (c : Nat) : Nat :=
  let t := tget 0 s.sto.heldT c
  if s.clsTbl c then t else s.clsHeld c - t

/-- The guaranteed grains of one part not yet drawn: U. -/
def Dev.partOwed (s : Dev) (tbl : Bool) : Nat :=
  (List.range 16).foldl (fun u c => if s.clsTbl c == tbl then u + (s.clsQuota c - s.clsIn c) else u) 0

/-- The sum of the quotas of one part's classes. -/
def Dev.partQuota (s : Dev) (tbl : Bool) : Nat :=
  (List.range 16).foldl (fun u c => if s.clsTbl c == tbl then u + s.clsQuota c else u) 0

/-- STO_CLS_HELD and STO_STAT.free after a class's held grains change. -/
def Dev.setHeld (c n : Nat) (s : Dev) : Dev :=
  let s1 := s.set (R.STO_CLS_HELD_held c) n
  let s2 := if s1.get (R.STO_CLS_HELD_peak c) < n then s1.set (R.STO_CLS_HELD_peak c) n else s1
  s2.set R.STO_STAT_free (s2.partFree false + s2.partFree true)

/-- How many grains of the table region a class holds (R178). -/
def Dev.setHeldT (c n : Nat) (s : Dev) : Dev := { s with sto := { s.sto with heldT := tput 0 s.sto.heldT c n } }

/-- One free grain taken from a part for class `c`, in the order in which grains were returned (R173). -/
def Dev.takeGrain (c : Nat) (s : Dev) : Nat × Dev :=
  if s.clsTbl c then
    let s0 := s.setHeldT c (tget 0 s.sto.heldT c + 1)
    if s.sto.freshT < s.partSize true then
      (s.tableStart + s.sto.freshT,
        ({ s0 with sto := { s0.sto with freshT := s.sto.freshT + 1 } }).setHeld c (s.clsHeld c + 1))
    else (s.sto.retT.headD 0, ({ s0 with sto := { s0.sto with retT := s.sto.retT.tail } }).setHeld c (s.clsHeld c + 1))
  else
    if s.sto.freshW < s.partSize false then
      (80 + s.sto.freshW,
        ({ s with sto := { s.sto with freshW := s.sto.freshW + 1 } }).setHeld c (s.clsHeld c + 1))
    else (s.sto.retW.headD 0, ({ s with sto := { s.sto with retW := s.sto.retW.tail } }).setHeld c (s.clsHeld c + 1))

/-- A grain returned to the part it lies in (R178); it is free from the next command on, and leaves H_c with it (R173). -/
def Dev.giveGrain (c g : Nat) (s : Dev) : Dev :=
  let s1 :=
    if s.tableStart ≤ g then
      ({ s with sto := { s.sto with retT := s.sto.retT ++ [g] } }).setHeldT c (tget 0 s.sto.heldT c - 1)
    else { s with sto := { s.sto with retW := s.sto.retW ++ [g] } }
  (s1.setSucc g 0 0).setHeld c (s1.clsHeld c - 1)

/-- A grain request of ring `k` (R172): the grain, or a counted and logged refusal. -/
def Dev.grainRequest (k : Nat) (s : Dev) : Option Nat × Dev :=
  let c := s.ringClass k
  let t := s.clsTbl c
  let room := s.ringHeld k < s.ringBase k + s.ringExt k
  let owed := s.clsIn c < s.clsQuota c && 0 < s.partFree t
  let shared := s.clsQuota c ≤ s.clsIn c && s.clsIn c < s.clsQuota c + s.clsShare c &&
    s.partOwed t < s.partFree t
  if room && (owed || shared) then
    let r := s.takeGrain c
    (some r.1, r.2)
  else
    (none, (s.stoCount R.STO_ALLOC_REF).stick R.STO_STAT_alloc_ref
      (·.raise Ev.STO_ALLOC_REFUSED [(12, k), (4, c)]))

/-! ### Reading and writing rings (R175–R177) -/

/-- The counter of overruns (word 13) or lost marks (word 14) of a ring advanced as S32. -/
def Dev.ringCount (k i : Nat) (s : Dev) : Dev :=
  let v := s.rw k i
  if v = 0xFFFFFFFF then s
  else
    let s1 := s.setRw k i (v + 1)
    if v + 1 = 0xFFFFFFFF then s1.raise Ev.STO_CNT_SAT [(12, k), (24, i)] else s1

/-- A mark overtaken by an RT writer (R180). The moment is kept: a MARK of the same cycle leaves lost_j set (R181). -/
def Dev.loseMark (k j : Nat) (s : Dev) : Dev :=
  let s0 := { s with sto := { s.sto with overtaken := tput false s.sto.overtaken (k * 2 + j) true,
                                         lostAt := tput none s.sto.lostAt (k * 2 + j) (some s.time.clk) } }
  let s1 := (s0.setRf k 12 j 1 0).ringCount k 14
  let s2 := s1.setB R.STO_STAT_mark_lost true
  if s.ringLost k j then s2
  else (s2.setRf k 12 (2 + j) 1 1).raise Ev.STO_MARK_LOST [(12, k), (1, j)]

/-- A read count overtaken by an RT writer (R176): it moves to `p`. -/
def Dev.overrun (k j p : Nat) (s : Dev) : Dev :=
  let s1 := ((s.setRq k (4 + 2 * j) p).ringCount k 13).setB R.STO_STAT_overrun true
  if s.ringOvr k j then s1
  else (s1.setRf k 12 (4 + j) 1 1).raise Ev.STO_OVERRUN [(12, k), (1, j)]

/-- The extension grain linked in after the grain being written. Where the writer stands inside a grain, the words of that grain
that are still needed stand on at their positions, carried in the new grain with the poison of their lines (log 21). -/
def Dev.linkGrain (k g : Nat) (s : Dev) : Dev :=
  let h := s.ringHead k
  let w := s.ringW k % 512
  let old := s.bytes (storeBase + h * 4096 + w * 8) (4096 - w * 8)
  let s1 := if w = 0 then s else
    (nums (w / 8) (64 - w / 8)).foldl (fun s' i => s'.setPoison (g * 4096 + i * 64) (s.poisoned (h * 4096 + i * 64)))
      (s.setBytes (storeBase + g * 4096 + w * 8) old)
  ((s1.setSucc g (s1.succ h) k).setSucc h g k).setRf k 12 6 10 (s.ringHeld k + 1)

/-- The grain beyond the first base_g whose last word O has passed leaves the chain and returns to the pool (R177): the oldest grain
of the circle. `n` bounds how many return. -/
def Dev.grainReturns (k n : Nat) (s : Dev) : Dev :=
  match n with
  | 0 => s
  | n + 1 =>
    let held := s.ringHeld k
    let h := s.ringHead k
    let blk := s.headBlock k + 1 - held
    if s.ringBase k < held ∧ (s.headBlock k + 1 < held ∨ (blk + 1) * 512 ≤ s.ringOldest k) ∧ 1 < held then
      let g := s.succ h
      let s1 := s.setSucc h (s.succ g) k
      let s2 := (s1.setRf k 12 6 10 (held - 1)).giveGrain (s.ringClass k) g
      (s2.setRf k 15 0 14 (s2.succ h)).grainReturns k n
    else s

/-- The read count of a hardware or firmware reader moved forward, stopping at wcnt, with the grains that this frees (R175, R177). -/
def Dev.ringAdvance (k j n : Nat) (s : Dev) : Dev :=
  ((s.setRq k (4 + 2 * j) (min (s.ringR k j + n) (s.ringW k))).grainReturns k 512).ringPort k

/-- One word written where room is known: the head moves on at a grain boundary. -/
def Dev.ringPutRaw (k v : Nat) (s : Dev) : Dev :=
  let w := s.ringW k
  let s1 :=
    if w % 512 = 0 ∧ 0 < w then
      let h := s.succ (s.ringHead k)
      s.setRf k 12 16 14 h
    else s
  let off := s1.ringHead k * 4096 + w % 512 * 8
  let s4 := (s1.setSword off v).setRq k 2 (w + 1)
  if w % 512 = 0 then s4.setRf k 15 0 14 (s4.ringGrain k ((s4.headBlock k + 1 - s4.ringHeld k) * 512)) else s4

/-- One word written by a ring's writer (R176): the device after it, and whether the writer must stall. Where an overtaken mark or reader lets O
pass extension grains, these return after the write (R177). -/
def Dev.ringPut (k v : Nat) (s : Dev) : Bool × Dev :=
  if !s.ringValid k then (false, s)
  else if s.ringW k - s.ringOldest k < s.ringCap k then (false, s.ringPutRaw k v)
  else
    match s.grainRequest k with
    | (some g, s1) => (false, (s1.linkGrain k g).ringPutRaw k v)
    | (none, s1) =>
      if s1.ringHold k then (true, s1)
      else
        let o := s1.ringOldest k
        let w := s1.ringW k
        let c := s1.ringCap k
        let s2 := (List.range (s1.ringReaders k)).foldl (fun s j =>
          let s' := if s.ringMv k j && s.ringMark k j == o then s.loseMark k j else s
          if s'.ringR k j == o then s'.overrun k j (w + 1 - c) else s') s1
        (false, (s2.ringPutRaw k v).grainReturns k 512)

/-- The erase flag of the line that a writer stands in, where one write has given all its words so far: none where it did not begin the line. -/
def lineFlag (w : Nat) (e : Bool) (acc : Option Bool) : Option Bool := if w % 8 = 0 then some e else acc.map (· || e)

/-- The line that a ring's writer stands in, written with zeros after its last word and with an erase flag (R219), where its other words are not needed any
longer. -/
def Dev.fillLine (k : Nat) (e : Bool) (s : Dev) : Dev :=
  let w := s.ringW k
  if !s.ringValid k || w % 8 == 0 || decide (s.ringCap k < w / 8 * 8 + 8 - s.ringOldest k) then s
  else
    let o := s.ringHead k * 4096 + w % 512 * 8
    (s.setBytes (storeBase + o) (List.replicate (64 - w % 8 * 8) 0)).setPoison o e

/-- The flag of the line in part of a ring that is written in whole lines. -/
def Dev.setLineFlag (k : Nat) (e : Bool) (s : Dev) : Dev :=
  { s with sto := { s.sto with lineFlag := tput false s.sto.lineFlag k (e && s.ringW k % 8 != 0) } }

/-- Words written one after another, each with its erase flag; a HOLD ring that stalls keeps the words still to write (R176). A line that the write
gives whole takes its poison from its words' flags; one written in part keeps its poison as it was (R168). `acc` is the flag of the line that
the write stands in, and `fill` says that its writer writes whole lines only, so that the last one is filled with zeros. -/
def Dev.ringPuts (k : Nat) (fill : Bool) (acc : Option Bool) (ws : List (Nat × Bool)) (s : Dev) : Dev :=
  match ws with
  | [] => if fill then (s.fillLine k (acc.getD false)).setLineFlag k (acc.getD false) else s
  | v :: r =>
    let w := s.ringW k
    match s.ringPut k v.1 with
    | (false, s1) =>
      let a := lineFlag w v.2 acc
      match a with
      | some e =>
        if s.ringValid k && w % 8 == 7 then (s1.setPoison (s1.ringHead k * 4096 + w % 512 * 8) e).ringPuts k fill none r else s1.ringPuts k fill a r
      | none => s1.ringPuts k fill none r
    | (true, s1) => { s1 with sto := { s1.sto with stalled := tput [] s1.sto.stalled k (v :: r),
                                                   stallAcc := tput (none, false) s1.sto.stallAcc k (acc, fill) } }

/-- Words that a ring's reader will pass unread as they arrive: those of a late downlink symbol or a LATE DEMAP (R223, R264). -/
def Dev.addDebt (k j n : Nat) (s : Dev) : Dev :=
  { s with fex := { s.fex with debt := tput 0 s.fex.debt (k * 2 + j) (tget 0 s.fex.debt (k * 2 + j) + n) } }

/-- The words that a reader still owes, passed as far as they have arrived. -/
def Dev.payReader (k j : Nat) (s : Dev) : Dev :=
  let d := tget 0 s.fex.debt (k * 2 + j)
  let n := min d (s.ringW k - s.ringR k j)
  if n = 0 ∨ !s.ringValid k then s
  else ({ s with fex := { s.fex with debt := tput 0 s.fex.debt (k * 2 + j) (d - n) } }).ringAdvance k j n

/-- Both readers' debts paid. -/
def Dev.payDebt (k : Nat) (s : Dev) : Dev := (s.payReader k 0).payReader k 1

/-- Words with their erase flags written to a ring behind any that its writer has still to write. A writer of whole lines (`fill`) writes the line that it stands in
anew, with the flag that this line has so far (R219). -/
def Dev.ringWriteL (k : Nat) (fill : Bool) (ws : List (Nat × Bool)) (s : Dev) : Dev :=
  if (s.ringStalled k).isEmpty then ((s.ringPuts k fill (if fill then some (tget false s.sto.lineFlag k) else none) ws).ringPort k).payDebt k
  else { s with sto := { s.sto with stalled := tput [] s.sto.stalled k (s.ringStalled k ++ ws) } }

/-- Words with their erase flags written to a ring. -/
def Dev.ringWriteE (k : Nat) (ws : List (Nat × Bool)) (s : Dev) : Dev := s.ringWriteL k false ws

/-- Words with their erase flags written to a ring in whole lines (R219). -/
def Dev.ringWriteWhole (k : Nat) (ws : List (Nat × Bool)) (s : Dev) : Dev := s.ringWriteL k true ws

/-- The write count that a ring comes to once its writer's words are all written. -/
def Dev.ringEnd (s : Dev) (k : Nat) : Nat := s.ringW k + (s.ringStalled k).length

/-- The flag of the line in which a whole-line writer will go on. -/
def Dev.openFlag (s : Dev) (k : Nat) : Bool :=
  let q := s.ringStalled k
  let n := s.ringEnd k % 8
  (q.drop (q.length - n)).any (·.2) || (decide (q.length < n) && (if q.isEmpty then tget false s.sto.lineFlag k else (tget (none, false) s.sto.stallAcc k).1.getD false))

/-- Words written to a ring, all with one erase flag. -/
def Dev.ringWrite (k : Nat) (ws : List Nat) (erase : Bool) (s : Dev) : Dev := s.ringWriteE k (ws.map fun w => (w, erase))

/-! ### Marks (R179–R181) -/

/-- The ring is valid and has this reader. -/
def Dev.hasReader (s : Dev) (k j : Nat) : Bool := s.ringValid k && decide (j < s.ringReaders k)

/-- A reader's mark is not, or no longer, one that was overtaken. -/
def Dev.notOvertaken (k j : Nat) (s : Dev) : Dev :=
  { s with sto := { s.sto with overtaken := tput false s.sto.overtaken (k * 2 + j) false } }

/-- MARK at the reader's count. lost_j clears, but not in the cycle of the loss (R179–R181). -/
def Dev.markRing (k j : Nat) (s : Dev) : Dev :=
  if s.hasReader k j then
    let s1 := (s.setRq k (8 + 2 * j) (s.ringR k j)).setRf k 12 j 1 1
    let s2 := if tget none s.sto.lostAt (k * 2 + j) = some s.time.clk then s1 else s1.setRf k 12 (2 + j) 1 0
    ((s2.notOvertaken k j).grainReturns k 512).ringPort k
  else s

/-- UNMARK (R179). -/
def Dev.unmarkRing (k j : Nat) (s : Dev) : Dev :=
  if s.hasReader k j then (((s.setRf k 12 j 1 0).notOvertaken k j).grainReturns k 512).ringPort k else s

/-- REWIND's status: 0 OK, 1 LOST, 2 NONE (R179). -/
def Dev.rewindStatus (s : Dev) (k j : Nat) : Nat :=
  if s.ringMv k j then 0 else if tget false s.sto.overtaken (k * 2 + j) then 1 else 2

/-- REWIND (R179). -/
def Dev.rewindRing (k j : Nat) (s : Dev) : Dev :=
  if s.hasReader k j then
    let r := s.rewindStatus k j
    let s1 := s.set (if j = 0 then R.RP_STAT_rw0 k else R.RP_STAT_rw1 k) r
    let s2 := if r = 0 then s1.setRq k (4 + 2 * j) (s.ringMark k j) else s1
    (s2.grainReturns k 512).ringPort k
  else s

/-! ### Ring data -/

/-- `n` words of a ring from position `p`, each with its erased flag. A ring that is not valid reads as erased (R174). -/
def Dev.ringRead (s : Dev) (k p n : Nat) : List (Nat × Bool) :=
  (nums p n).map fun i => if s.ringValid k then s.readWord (s.ringOff k i) else (0, true)

/-- A completion record written to a ring; ring 0xFFF is none. -/
def Dev.record (k : Nat) (words : List Nat) (s : Dev) : Dev :=
  if k = 0xFFF then s else s.ringWrite k words false

end Sys2Proof.Machine
end

