-- ==== Sys2Proof/Machine/Ethernet.lean ====
section
/-!
DEFINITION. Backhaul Ethernet (R70–R79): ports, classification and receive, transmit queues, launches and timestamps.
-/

namespace Sys2Proof.Machine

def Dev.port (s : Dev) (p : Nat) : EthPort := tget {} s.eth.port p
def Dev.setPort (p : Nat) (x : EthPort) (s : Dev) : Dev :=
  { s with eth := { s.eth with port := tput {} s.eth.port p x } }
def Dev.txq (s : Dev) (i : Nat) : TxQueue := tget {} s.eth.txq i
def Dev.setTxq (i : Nat) (x : TxQueue) (s : Dev) : Dev :=
  { s with eth := { s.eth with txq := tput {} s.eth.txq i x } }

/-- The lanes of a port under its quad's mode; 0 when the mode does not use the port (Table 3-4). -/
def Dev.portLanes (s : Dev) (p : Nat) : Nat :=
  let q := p / 4
  if !s.flag (R.ETH_QUAD_CTL_en q) ∨ s.get (R.ETH_QUAD_CTL_medium q) = 3 then 0
  else match s.get (R.ETH_QUAD_CTL_mode q) with
    | 0 => 1
    | 1 => if p % 2 = 0 then 2 else 0
    | 2 => if p % 4 = 0 then 4 else 0
    | _ => 0

/-- The quad's mode has this port (Table 3-4). -/
def Dev.portUsed (s : Dev) (p : Nat) : Bool :=
  match s.get (R.ETH_QUAD_CTL_mode (p / 4)) with
  | 0 => true
  | 1 => p % 2 == 0
  | 2 => p % 4 == 0
  | _ => false

/-- A register of a port that its quad's mode does not use: it reads as zero and ignores writes (R70). -/
def Dev.portDead (s : Dev) (a : Nat) : Bool :=
  decide (R.ETH_PORT_CFG 0 ≤ a) && decide (a < R.ETH_PORT_CFG 16) && !s.portUsed ((a - R.ETH_PORT_CFG 0) / 0x100)

/-- The bits of each word of a classifier entry that are no reserved ones (Table 3-10). -/
def clsMasks : List Nat := [0x7FFFF, 0xFFFFFFF, 0xFFFFFF, 0xFFFF, 0xFFFFFFFF, 0xFFFFFFFF]

/-- max_len clamped into its range (R72). -/
def Dev.maxLen (s : Dev) (p : Nat) : Nat := min (max (s.get (R.ETH_PORT_CFG_max_len p)) 64) 9216

/-- A port's S32 counter advanced. -/
def Dev.portCount (p : Nat) (a : Nat) (s : Dev) : Dev :=
  s.incSat a (R.ETH_PORT_STAT_cnt_ovf p) Ev.ETH_CNT_SAT [(4, p)] 1


/-- A port comes up (R71). Only KR and CR ports negotiate and train. -/
def ethLinkUp (p : Fin 16) (s : Dev) : Dev :=
  let q := p.val / 4
  if s.portLanes p = 0 ∨ s.flag (R.ETH_PORT_STAT_link p) then s
  else
    let copper := s.get (R.ETH_QUAD_CTL_medium q) < 2
    let s1 := ((s.setB (R.ETH_PORT_STAT_an_done p) (copper && s.flag (R.ETH_QUAD_CTL_an_en q))).setB
      (R.ETH_PORT_STAT_lt_done p) (copper && s.flag (R.ETH_QUAD_CTL_lt_en q))).setB (R.ETH_PORT_STAT_align p) true
    let s2 := (s1.setB (R.ETH_PORT_STAT_fec_lock p) true).setB (R.ETH_PORT_STAT_lf p) false
    ((s2.setB (R.ETH_PORT_STAT_rf p) false).setB (R.ETH_PORT_STAT_link p) true).raiseOf Ev.ETH_LINK_UP 4 p []

def execEthLinkUp (p : Fin 16) := act (ethLinkUp p)

/-- A port loses its link. -/
def ethLinkDown (p : Fin 16) (cause : BitVec 4) (s : Dev) : Dev :=
  if !s.flag (R.ETH_PORT_STAT_link p) then s
  else
    let s1 := [R.ETH_PORT_STAT_link p, R.ETH_PORT_STAT_an_done p, R.ETH_PORT_STAT_lt_done p, R.ETH_PORT_STAT_align p,
      R.ETH_PORT_STAT_fec_lock p].foldl (fun s f => s.setB f false) s
    (s1.setB (R.ETH_PORT_STAT_lf p) true).raiseOf Ev.ETH_LINK_DOWN 4 p [(4, (cause.toNat : Nat))]

def execEthLinkDown (p : Fin 16) (cause : BitVec 4) := act (ethLinkDown p cause)

/-- A write of a quad's control (R70): a reserved mode or medium keeps it down, and links of ports that are gone end. The cause that
ETH_LINK_DOWN carries is not given for this: free. -/
def Dev.hookQuad (q : Nat) (s : Dev) : Dev :=
  let s1 := if s.get (R.ETH_QUAD_CTL_mode q) = 3 ∨ s.get (R.ETH_QUAD_CTL_medium q) = 3 then s.raise Ev.ETH_QUAD_BAD [(4, q)] else s
  (nums (4 * q) 4).foldl (fun t p =>
    if t.portLanes p = 0 ∧ t.flag (R.ETH_PORT_STAT_link p) then
      ethLinkDown (Fin.ofNat 16 p) (BitVec.ofNat 4 (Config.freeNat t.freeCtr 0)) t.takeFree
    else t) s1

/-! ### Parsing a frame (R72, R73) -/

/-- What the classifier sees of a frame: whether it carries a tag, its outer VLAN, the ethertype behind the tags, and where
layer 3 starts. -/
structure L2View where
  tagged : Bool
  vlan : Nat
  etype : Nat
  l3 : Nat
deriving DecidableEq, Repr

/-- A 16-bit big-endian number of a frame. -/
def be16 (f : List Nat) (i : Nat) : Nat := lget 0 f i * 256 + lget 0 f (i + 1)

/-- A 32-bit big-endian number of a frame. -/
def be32 (f : List Nat) (i : Nat) : Nat := be16 f i * 65536 + be16 f (i + 2)

/-- The type of a VLAN tag, IEEE 802.1Q or 802.1ad, stands at byte `i`. -/
def isTag (f : List Nat) (i : Nat) : Bool := be16 f i == 0x8100 || be16 f i == 0x88A8

/-- The frame has more VLAN tags than the MAC accepts (R72). -/
def overTagged (f : List Nat) : Bool := isTag f 12 && isTag f 16 && isTag f 20

/-- The frame behind at most two VLAN tags. -/
def l2View (f : List Nat) : L2View :=
  let tag := isTag f
  if tag 12 then
    if tag 16 then ⟨true, be16 f 14 % 4096, be16 f 20, 22⟩ else ⟨true, be16 f 14 % 4096, be16 f 16, 18⟩
  else ⟨false, 0, be16 f 12, 14⟩

/-- The ones'-complement sum of 16-bit words. -/
def onesSum : List Nat → Nat
  | a :: b :: r => let t := a * 256 + b + onesSum r; t % 65536 + t / 65536
  | [a] => a * 256
  | [] => 0

/-- What the classifier sees of layers 3 and 4: the protocol, whether a layer-4 header may be matched, where it starts and where it
ends, and the pseudo-header of its checksum. -/
structure L3View where
  proto : Option Nat
  l4 : Option Nat
  stop : Nat
  pseudo : List Nat
  l3ok : Bool
deriving DecidableEq, Repr

/-- Layers 3 and 4: unfragmented IPv4, and IPv6 without extension headers, give a layer-4 header (R73). -/
def l3View (f : List Nat) (v : L2View) : L3View :=
  let o := v.l3
  if v.etype = 0x0800 then
    let h := lget 0 f o % 16 * 4
    let total := be16 f (o + 2)
    let frag := be16 f (o + 6) % 0x4000 ≠ 0
    let p := lget 0 f (o + 9)
    let n := total - h
    ⟨some p, if frag then none else some (o + h), o + total,
      (f.drop (o + 12)).take 8 ++ [0, p, n / 256, n % 256], onesSum ((f.drop o).take h) = 0xFFFF⟩
  else if v.etype = 0x86DD then
    let p := lget 0 f (o + 6)
    let n := be16 f (o + 4)
    let ext := [0, 43, 44, 50, 51, 60].contains p
    ⟨some p, if ext then none else some (o + 40), o + 40 + n,
      (f.drop (o + 8)).take 32 ++ [0, 0, n / 256, n % 256, 0, 0, 0, p], true⟩
  else ⟨none, none, f.length, [], true⟩

/-- The UDP or TCP checksum is good, or is not checked. -/
def l4ok (f : List Nat) (w : L3View) : Bool :=
  match w.proto, w.l4 with
  | some p, some o =>
    if p = 17 ∨ p = 6 then
      if p = 17 ∧ be16 f (o + 6) = 0 then true
      else onesSum (w.pseudo ++ (f.drop o).take (w.stop - o)) = 0xFFFF
    else true
  | _, _ => true

/-- Word `w` of classifier entry `k` (Table 3-10). -/
def Dev.clsWord (s : Dev) (k w : Nat) : Nat := s.rd (0x0305100000 + k * 0x20 + w * 4)

/-- Entry `k` decides this frame's fate (R73). A destination port is matched in UDP and TCP alone (DESIGN CHOICE, log 214). -/
def Dev.clsMatch (s : Dev) (k p : Nat) (f : List Nat) (v : L2View) (w : L3View) : Bool :=
  let w0 := s.clsWord k 0
  let udp := match w.proto, w.l4 with | some 17, some o => some o | _, _ => none
  let port := match w.proto, w.l4 with
    | some q, some o => if q = 17 ∨ q = 6 then some (be16 f (o + 2)) else none
    | _, _ => none
  let teid := match udp with | some o => if be16 f (o + 2) = 2152 then some (be32 f (o + 12)) else none | none => none
  bit w0 0 && bit (s.clsWord k 1) p &&
    (!bit w0 1 || (v.tagged && v.vlan == bits (s.clsWord k 1) 16 12)) &&
    (!bit w0 2 || v.etype == bits (s.clsWord k 2) 0 16) &&
    (!bit w0 3 || w.proto == some (bits (s.clsWord k 2) 16 8)) &&
    (!bit w0 4 || port == some (bits (s.clsWord k 3) 0 16)) &&
    (!bit w0 5 || (match teid with | some t => s.clsWord k 4 ≤ t && t ≤ s.clsWord k 5 | none => false))

/-! ### Receive (R74, R79) -/

/-- The grains that ring `k` could still be lent: guaranteed ones, then shared ones (R172). -/
def Dev.lendable (s : Dev) (k : Nat) : Nat :=
  let c := s.ringClass k
  let t := s.clsTbl c
  let g := s.clsQuota c - s.clsIn c
  let sh := min (s.clsShare c - (s.clsIn c - s.clsQuota c)) (s.partFree t - s.partOwed t)
  min (s.ringBase k + s.ringExt k - s.ringHeld k) (g + sh)

/-- The words that a writer of ring `k` can write without overtaking a reader. -/
def Dev.roomWords (s : Dev) (k : Nat) : Nat :=
  s.ringCap k - (s.ringW k - s.ringOldest k) + 512 * s.lendable k

/-- XOFF or XON for the queue's class by the grains that stay free (R74). -/
def Dev.pfcUpdate (p i : Nat) (s : Dev) : Dev :=
  let tc := s.get (R.ETH_RXQ_CFG_tc i)
  if s.flag (R.ETH_PORT_CFG_pfc_en p) && bit (s.get (R.ETH_PORT_CFG_pfc_pri p)) tc then
    let free := s.roomWords (s.get (R.ETH_RXQ_CFG_ring i)) / 512
    let x := s.get (R.ETH_RXQ_CFG_xoff i)
    let pt := s.port p
    if free < x then s.setPort p { pt with xoff := setBits pt.xoff tc 1 1 }
    else if 2 * x < free then s.setPort p { pt with xoff := setBits pt.xoff tc 1 0 }
    else s
  else s

/-- The completion of receive queue `i` (R74). -/
def Dev.rxComplete (i : Nat) (s : Dev) : Dev :=
  ({ s with eth := { s.eth with rxCount := tput 0 s.eth.rxCount i 0 } }).postOpen 1 (s.get (R.ETH_RXQ_EVT_sq i))

/-- A receive queue whose ring has been read: its PFC classes see the space, and a drained ring posts the queue's completion (R74). -/
def Dev.rxDrain (i : Nat) (s : Dev) : Dev :=
  let k := s.get (R.ETH_RXQ_CFG_ring i)
  let s1 := (List.range 16).foldl (fun s p => s.pfcUpdate p i) s
  if tget 0 s.eth.rxCount i ≠ 0 ∧ s.ringOldest k = s.ringW k then s1.rxComplete i else s1

/-- The receive queues of ring `k` after its oldest needed word moved on, whoever read it. -/
def Dev.rxFollow (k : Nat) (s : Dev) : Dev :=
  ((List.range 256).filter fun i => s.flag (R.ETH_RXQ_CFG_en i) && s.get (R.ETH_RXQ_CFG_ring i) == k).foldl (fun s i => s.rxDrain i) s

/-- A reader of a ring, hardware or firmware, consumes words (R74, R175, R177). -/
def Dev.readerAdvance (k j n : Nat) (s : Dev) : Dev := (s.ringAdvance k j n).rxFollow k

/-- The receive header of Table 3-11. -/
def rxHeader (t : Int) (len port entry : Nat) (l3 l4 vlan : Bool) : Nat :=
  let ns := (t / 2 ^ 16).toNat
  ns % 1000000000 + (t % 2 ^ 16).toNat / 2 ^ 14 * 2 ^ 30 + ns / 1000000000 % 2 ^ 48 * 2 ^ 32 + len % 2 ^ 14 * 2 ^ 80 +
    port % 16 * 2 ^ 94 + entry % 1024 * 2 ^ 98 + b2n l3 * 2 ^ 108 + b2n l4 * 2 ^ 109 + b2n vlan * 2 ^ 110

/-- A frame written to a receive queue's ring behind its header, padded to 64 bytes, or dropped and counted when the ring is full. -/
def Dev.rxWrite (p i : Nat) (f : List Nat) (hdr : Nat) (s : Dev) : Dev :=
  let k := s.get (R.ETH_RXQ_CFG_ring i)
  let rec0 := leBytes 16 hdr ++ f
  let pad := (64 - rec0.length % 64) % 64
  let ws := wordsOf (rec0 ++ List.replicate pad 0)
  if !s.flag (R.ETH_RXQ_CFG_en i) ∨ s.roomWords k < ws.length then
    (s.portCount p (R.ETH_RXQ_DROP p)).raiseOf Ev.ETH_RXQ_DROP 8 i []
  else
    let n := tget 0 s.eth.rxCount i + 1
    let s1 := ({ s with eth := { s.eth with rxCount := tput 0 s.eth.rxCount i n } }).ringWrite k ws false
    let s2 := s1.pfcUpdate p i
    if max 1 (s.get (R.ETH_RXQ_CFG_coal i)) ≤ n then s2.rxComplete i else s2

/-- A frame with a good FCS and a good length, classified (R73, R74). -/
def Dev.rxClassify (p : Nat) (f : List Nat) (i : Nat) (s : Dev) : Dev :=
  let v := l2View f
  let w := l3View f v
  match (List.range 1024).find? (fun k => s.clsMatch k p f v w) with
  | none => s.portCount p (R.ETH_CLS_MISS p)
  | some k =>
    let w0 := s.clsWord k 0
    let t := s.domAt (bits w0 16 3) (s.time.frc + i * 4096) - s.getS (R.ETH_TS_DLY_RX_dly p) * 256
    match bits w0 6 2 with
    | 0 => s.rxWrite p (bits w0 8 8) f (rxHeader t f.length p k w.l3ok (l4ok f w) v.tagged)
    | 1 =>
      if v.etype = 0x88F7 ∨ (v.etype = 0x8809 ∧ lget 0 f v.l3 = 0x0A) then
        { s with eth := { s.eth with timing := s.eth.timing ++ [(t, p, f)] } }
      else s
    | 2 => s
    | _ =>
      if s.eth.clsLogged.contains k then s
      else ({ s with eth := { s.eth with clsLogged := k :: s.eth.clsLogged } }).raise Ev.ETH_CLS_BAD [(10, k)]

/-- The FEC codewords that a frame came in: `corr` of them were corrected, `unc` could not be (Table 3-9). -/
def Dev.portFec (p : Nat) (corr unc : Nat) (s : Dev) : Dev :=
  let s1 := s.inc64 (R.ETH_FEC_CORR p) corr
  if unc = 0 then s1
  else ((s1.incSat (R.ETH_FEC_UNC p) (R.ETH_PORT_STAT_cnt_ovf p) Ev.ETH_CNT_SAT [(4, p)] unc).stick (R.ETH_PORT_STAT_fec_unc p)
    (·.raiseOf Ev.ETH_FEC_UNCORR 4 p []))

/-- A frame received at a port (R72–R74, R79). A frame with more than two VLAN tags is not accepted; the spec names no counter for it (DESIGN
CHOICE, log 215). -/
def ethFrameReceive (p : Fin 16) (frame : List Byte) (fcs : EthFec) (lost : Bool) (i : Fin 16) (s : Dev) : Dev :=
  let f := frame.map (·.toNat)
  if !s.flag (R.ETH_PORT_STAT_link p) then s
  else
    let s := s.portFec p fcs.corr.toNat fcs.unc.toNat
    if lost then (s.portCount p (R.ETH_RX_FCS p)).raiseOf Ev.ETH_PARITY 4 p [(1, 0)]
    else if !fcs.good ∨ fcs.unc ≠ 0 ∨ f.length < 64 ∨ s.maxLen p < f.length then s.portCount p (R.ETH_RX_FCS p)
    else if overTagged f then s
    else ((s.inc64 (R.ETH_RX_FRM p) 1).inc64 (R.ETH_RX_OCT p) f.length).rxClassify p f i

def execEthFrameReceive (p : Fin 16) (frame : List Byte) (fcs : EthFec) (lost : Bool) (i : Fin 16) := act (ethFrameReceive p frame fcs lost i)

/-- A received PAUSE frame pauses every class; a priority-based one, the classes it names under pfc_pri (R72). A quanta of 0 ends the pause. -/
def ethPauseReceive (p : Fin 16) (pfc : Option (BitVec 8)) (quanta : BitVec 16) (s : Dev) : Dev :=
  if !s.flag (R.ETH_PORT_STAT_link p) then s
  else
    let mask := match pfc with
      | none => 0xFF
      | some m => if s.flag (R.ETH_PORT_CFG_pfc_en p) then Nat.land m.toNat (s.get (R.ETH_PORT_CFG_pfc_pri p)) else 0
    let pt := s.port p
    let until_ := s.time.clk + quanta.toNat * 512 * 98304 / (10000000 * max 1 (s.portLanes p))
    let paused := (List.range 8).foldl (fun t c => if bit mask c then tput 0 t c until_ else t) pt.paused
    let s1 := s.setPort p { pt with paused := paused }
    if pfc.isNone then s1.portCount p (R.ETH_PAUSE_RX p) else s1

def execEthPauseReceive (p : Fin 16) (pfc : Option (BitVec 8)) (quanta : BitVec 16) := act (ethPauseReceive p pfc quanta)

/-! ### Transmit (R75–R79) -/

/-- How many descriptors a queue has to send. -/
def TxQueue.posted (q : TxQueue) : Nat := q.posts.foldl (fun n e => n + e.1) 0

/-- The air count of the write that posted, and so armed, the head descriptor (R38). -/
def TxQueue.headAt (q : TxQueue) : Nat := match q.posts with | e :: _ => e.2 | [] => 0

/-- The queue without its head descriptor. -/
def TxQueue.pop (q : TxQueue) : TxQueue :=
  match q.posts with
  | (n, t) :: r => if n ≤ 1 then ⟨r⟩ else ⟨(n - 1, t) :: r⟩
  | [] => q

/-- Descriptors posted to a queue (R75). -/
def txqDoorbell (i : Fin 256) (n : BitVec 16) (s : Dev) : Dev :=
  if n = 0 then s else s.setTxq i ⟨(s.txq i).posts ++ [(n.toNat, s.time.cnt)]⟩

def execTxqDoorbell (i : Fin 256) (n : BitVec 16) := act (txqDoorbell i n)

/-- A transmit descriptor (Table 3-12). -/
structure TxDesc where
  addr : Nat
  len : Nat
  l3 : Bool
  l4 : Bool
  ts : Bool
  oneStep : Bool
  tsOff : Nat
  launch : Nat
  seq : Nat
  reserved : Bool
deriving DecidableEq, Repr

/-- The descriptor at the head of queue `i`. -/
def Dev.txHead (s : Dev) (i : Nat) : TxDesc :=
  let k := s.get (R.ETH_TXQ_CFG_dring i)
  let ws := (s.ringRead k (s.ringR k 0) 4).map (·.1)
  let d := ws.foldr (fun w a => w + 2 ^ 64 * a) 0
  ⟨bits d 0 26, bits d 32 14, bit d 46, bit d 47, bit d 48, bit d 49, bits d 56 8, bits d 64 64, bits d 128 32,
    bits d 26 6 ≠ 0 || bits d 50 6 ≠ 0 || bits d 160 96 ≠ 0⟩

/-- The descriptor is malformed (R77). -/
def Dev.txBad (s : Dev) (p : Nat) (d : TxDesc) : Bool :=
  d.addr % 64 ≠ 0 || d.len < 60 || s.maxLen p - 4 < d.len || d.reserved

/-- The queue moves to its next descriptor. -/
def Dev.txPop (i : Nat) (s : Dev) : Dev :=
  let k := s.get (R.ETH_TXQ_CFG_dring i)
  (s.ringAdvance k 0 4).setTxq i (s.txq i).pop

/-- The completion record of a descriptor that asks for one (Table 3-13), with the egress time in 2^-16 ns. -/
def Dev.txRecord (i : Nat) (d : TxDesc) (status : Nat) (t : Int) (s : Dev) : Dev :=
  if d.ts then
    let ns := (t / 2 ^ 16).toNat
    s.record (s.get (R.ETH_TXQ_CFG_cring i))
      [d.seq + ns % 1000000000 * 2 ^ 32 + (t % 2 ^ 16).toNat / 2 ^ 14 * 2 ^ 62,
       ns / 1000000000 % 2 ^ 48 + status * 2 ^ 48 + i * 2 ^ 52]
  else s

/-- A byte list with the bytes from `i` replaced. -/
def patch (l : List Nat) (i : Nat) (b : List Nat) : List Nat := l.take i ++ b ++ l.drop (i + b.length)

/-- The ones'-complement checksum field of a header whose field was zero. -/
def checksum (l : List Nat) : List Nat := beBytes 2 (0xFFFF - onesSum l)

/-- The frame with the checksums that the descriptor asks for (Table 3-12). -/
def txChecksums (d : TxDesc) (f : List Nat) : List Nat :=
  let v := l2View f
  let f1 :=
    if d.l3 && v.etype == 0x0800 then
      let g := patch f (v.l3 + 10) [0, 0]
      patch g (v.l3 + 10) (checksum ((g.drop v.l3).take (lget 0 g v.l3 % 16 * 4)))
    else f
  let w := l3View f1 v
  match d.l4, w.proto, w.l4 with
  | true, some 17, some o =>
    let g := patch f1 (o + 6) [0, 0]
    let c := checksum (w.pseudo ++ (g.drop o).take (w.stop - o))
    patch g (o + 6) (if c = [0, 0] then [255, 255] else c)
  | true, some 6, some o =>
    let g := patch f1 (o + 16) [0, 0]
    patch g (o + 16) (checksum (w.pseudo ++ (g.drop o).take (w.stop - o)))
  | _, _, _ => f1

/-- A one-step frame with the egress time written into originTimestamp and its sub-nanosecond part added to correctionField (R78). -/
def txOneStep (d : TxDesc) (t : Int) (f : List Nat) : List Nat :=
  let ns := (t / 2 ^ 16).toNat
  let c := d.tsOff - 26
  let corr := beNat ((f.drop c).take 8) + (t % 2 ^ 16).toNat
  patch (patch f d.tsOff (beBytes 6 (ns / 1000000000) ++ beBytes 4 (ns % 1000000000))) c (beBytes 8 (corr % 2 ^ 64))

/-- The Tc that a frame of `len` bytes without FCS occupies on the wire, preamble and gap included. -/
def Dev.wireTc (s : Dev) (p len : Nat) : Nat :=
  ((len + 24) * 8 * 196608 + 10000000 * max 1 (s.portLanes p) - 1) / (10000000 * max 1 (s.portLanes p))

/-- The head frame of queue `i` sent from its port, starting at air count `at_`. -/
def Dev.txSend (i at_ status : Nat) (lost : Bool) (s : Dev) : Dev :=
  let p := s.get (R.ETH_TXQ_CFG_port i)
  let d := s.txHead i
  let t := s.domT (s.get (R.ETH_PORT_CFG_ts_dom p)) + ((at_ : Int) - s.time.cnt) * 3125 * 2 ^ 16 / 6144 +
    s.getS (R.ETH_TS_DLY_TX_dly p) * 256
  let f0 := txChecksums d (s.storeBytes d.addr d.len)
  let f := if d.oneStep then txOneStep d t f0 else f0
  let s1 := s.setPort p { s.port p with busyUntil := at_ + s.wireTc p d.len, sent := some (f, lost) }
  let s2 := (s1.inc64 (R.ETH_TX_FRM p) 1).inc64 (R.ETH_TX_OCT p) (d.len + 4)
  let s3 := if lost then s2.raiseOf Ev.ETH_PARITY 4 p [(1, 1)] else s2
  (s3.txRecord i d status t).txPop i

/-- A malformed head descriptor is not sent (R77). -/
def Dev.txMalformed (i : Nat) (s : Dev) : Dev :=
  let p := s.get (R.ETH_TXQ_CFG_port i)
  let d := s.txHead i
  (((s.portCount p (R.ETH_TX_BAD p)).raiseOf Ev.ETH_TX_BAD 8 i [(32, d.seq)]).txRecord i d 3 0).txPop i

/-- The queues of a port that have a descriptor. -/
def Dev.portQueues (s : Dev) (p : Nat) : List Nat :=
  (s.eth.txq.map (·.1)).filter fun i =>
    0 < (s.txq i).posted && s.flag (R.ETH_TXQ_CFG_en i) && s.get (R.ETH_TXQ_CFG_port i) == p

/-- The class of a queue is paused. -/
def Dev.classPaused (s : Dev) (p tc : Nat) : Bool := s.time.clk < tget 0 (s.port p).paused tc

/-- The queue that wins a port: strict priority by tc, 7 highest; the lowest queue among equals. -/
def winner (s : Dev) (l : List Nat) : Option Nat :=
  l.foldl (fun b i => match b with
    | none => some i
    | some j => if s.get (R.ETH_TXQ_CFG_tc j) < s.get (R.ETH_TXQ_CFG_tc i) then some i else b) none

/-- The head of queue `i` may start now: untimed, its class not paused, and off the wire before every pending launch of the port. -/
def Dev.txReady (s : Dev) (p i : Nat) : Bool :=
  let d := s.txHead i
  let launches := ((s.portQueues p).map fun i => (s.txHead i).launch).filter (· ≠ 0)
  d.launch == 0 && !s.classPaused p (s.get (R.ETH_TXQ_CFG_tc i)) &&
    launches.all fun l => decide (s.time.cnt + s.wireTc p d.len ≤ l) || decide (l < s.time.cnt)

/-- A free port sends the head frame of the queue that wins it (R75–R77); an untimed frame does not start where it would still be on the
wire at a pending launch. -/
def ethFrameSend (p : Fin 16) (lost : Bool) (s : Dev) : Dev :=
  if !s.flag (R.ETH_PORT_STAT_link p) ∨ s.time.cnt < (s.port p).busyUntil then s
  else
    let qs := s.portQueues p
    match qs.find? (fun i => s.txBad p (s.txHead i)) with
    | some i => s.txMalformed i
    | none =>
      match winner s (qs.filter (s.txReady p)) with
      | some i => s.txSend i s.time.cnt 0 lost
      | none => s

def execEthFrameSend (p : Fin 16) (lost : Bool) := act (ethFrameSend p lost)

/-- The timed frame at the head of a queue (R76): late, launched at its target, or slipped to the first free bit time. -/
def ethFrameLaunch (q : Fin 256) (lost : Bool) (s : Dev) : Dev :=
  let i := q.val
  let p := s.get (R.ETH_TXQ_CFG_port i)
  let t := s.txq i
  if t.posted = 0 ∨ !s.flag (R.ETH_TXQ_CFG_en i) ∨ !s.flag (R.ETH_PORT_STAT_link p) then s
  else
    let d := s.txHead i
    if s.txBad p d then s.txMalformed i
    else if d.launch = 0 then s
    else if d.launch < t.headAt + tickTc then
      let s1 := (s.portCount p (R.ETH_TX_LATE p)).stick (R.ETH_PORT_STAT_tx_late p)
        (·.raiseOf Ev.ETH_TX_LATE 4 p [(8, i)])
      (s1.txRecord i d 1 0).txPop i
    else if s.airState < 2 ∨ s.time.cnt < d.launch ∨ s.classPaused p (s.get (R.ETH_TXQ_CFG_tc i)) then s
    else if (s.port p).busyUntil ≤ d.launch then s.txSend i d.launch 0 lost
    else
      let s1 := (s.portCount p (R.ETH_TX_SLIP p)).stick (R.ETH_PORT_STAT_tx_slip p)
        (·.raiseOf Ev.ETH_TX_SLIP 4 p [(8, i)])
      s1.txSend i (s.port p).busyUntil 2 lost

def execEthFrameLaunch (q : Fin 256) (lost : Bool) := act (ethFrameLaunch q lost)

end Sys2Proof.Machine
end

