-- ==== Sys2Proof/Machine/Cores.lean ====
section
/-!
DEFINITION. The cores as shared operations: registers, state, level, cycle counts and their POD registers (R284, R285, R305).
Core 192 is Laruri's lockstep pair, which has no POD registers; its run state is held beside its CSRs.
-/

namespace Sys2Proof.Machine

def Dev.core (s : Dev) (g : Nat) : Eng := tget {} s.eng.core g

def Dev.setCore (g : Nat) (x : Eng) (s : Dev) : Dev := { s with eng := { s.eng with core := tput {} s.eng.core g x } }

/-- A scalar register: s0 reads as zero (R284). -/
def Dev.x (s : Dev) (g r : Nat) : BitVec 64 := if r = 0 then 0 else tget 0 (s.core g).s r

/-- The device with a scalar register written; a write to s0 is discarded (R284). -/
def Dev.setX (g r : Nat) (v : BitVec 64) (s : Dev) : Dev :=
  if r = 0 then s else s.setCore g { s.core g with s := tput 0 (s.core g).s r v }

def Dev.pc (s : Dev) (g : Nat) : Nat := (s.core g).pc

def Dev.setPc (g a : Nat) (s : Dev) : Dev := s.setCore g { s.core g with pc := a }

/-- The status word of a core: POD_ESTAT for an engine, and the same layout beside the CSRs for Laruri's pair. -/
def estat (g : Nat) : Nat := if g < 192 then R.POD_ESTAT g else 0x100000C0F00

/-- A core's state (Table 12-9): 0 RESET, 1 RUN, 2 WAIT, 3 HALTED, 4 DFAULT, 5 PERR, 6 QSTALL. -/
def Dev.coreState (s : Dev) (g : Nat) : Nat := s.get ⟨estat g, 0, 3⟩

def Dev.setCoreState (g v : Nat) (s : Dev) : Dev := s.set ⟨estat g, 0, 3⟩ v

/-- The level: 0 T, 1 S, 2 M (R285). -/
def Dev.lvl (s : Dev) (g : Nat) : Nat := s.get (R.CSR_STATUS_lvl g)

/-- The device with a core at a level, shown in POD_ESTAT too. -/
def Dev.setLvl (g l : Nat) (s : Dev) : Dev := (s.set (R.CSR_STATUS_lvl g) l).set ⟨estat g, 3, 2⟩ l

/-- Core cycles in 6,144 time-base cycles: an engine at 1.6, 1.5 or 1.4 GHz as POD_PSTAT.clk gives, Laruri's pair at 800 MHz. -/
def Dev.coreClock (s : Dev) (g : Nat) : Nat :=
  if 192 ≤ g then 5000
  else match s.get (R.POD_PSTAT_clk (g / 8)) with | 1 => 9375 | 2 => 8750 | _ => 10000

/-- A core's cycle counts brought up to now: CYCLE, QSTALL, POD_EBUSY, and the cycles at T of the task and of the frame. -/
def Dev.coreSync (g : Nat) (s : Dev) : Dev :=
  let e := s.core g
  let n := e.part + (s.time.clk - e.at_) * s.coreClock g
  let c := n / 6144
  let st := s.coreState g
  let atT := s.lvl g == 0 && (st == 1 || st == 2 || st == 6)
  let s1 := s.setCore g { e with at_ := s.time.clk, part := n % 6144, task := if atT then e.task + c else e.task,
                                 frame := if atT then e.frame + c else e.frame }
  let s2 := if st = 0 then s1 else s1.inc64 (R.CSR_CYCLE_LO g) c
  let s3 := if st = 6 then s2.inc64 (R.CSR_QSTALL_LO g) c else s2
  if atT && decide (g < 192) then s3.inc64 (R.POD_EBUSY g) c else s3

/-- An S32 counter of the POD block advanced (Table 12-9, Table 14-11). -/
def Dev.podCount (a : Nat) (ovf : Field) (flag : Field) (g : Nat) (s : Dev) : Dev :=
  let sat := s.rd a = 0xFFFFFFFE
  let s1 := s.incSat a ovf Ev.POD_CNT_SAT [(8, (g : Int))] 1
  if sat then s1.setB flag true else s1

/-- A memory re-read (R302): `k` is 0 for instruction memory and 1 for data memory. -/
def Dev.podReplays (g k n : Nat) (s : Dev) : Dev :=
  match n with
  | 0 => s
  | n + 1 =>
    ((s.podCount (R.POD_EPERR g) ⟨R.POD_ECNT_OVF g, 1, 1⟩ (R.POD_ESTAT_cnt_ovf g) g).raiseOf Ev.POD_PERR_REPLAY 8 g
      [(1, (k : Int))]).podReplays g k n

/-- An engine's own memory in Laruri's map (R287); Laruri's pair sees that map itself. -/
def ownBase (g : Nat) : Nat := if g < 192 then 0x0200000000 + g / 8 * 0x100000 + g % 8 * 0x20000 else 0

end Sys2Proof.Machine
end

