-- ==== Sys2Proof/Machine/LinkBits.lean ====
section
/-!
DEFINITION. The bits of an antenna lane: fields most significant bit first, CRCs, the two self-synchronising scramblers (R86), the link
LDPC codes (R99–R101), test patterns (Table 6-3) and sample formats (R127, R128).
-/

namespace Sys2Proof.Machine

/-- The low `n` bits of a number, the lowest first: transmit order of a received or sent word. -/
def lsbBits (n v : Nat) : List Bool := (List.range n).map v.testBit

/-- The number whose bit `i` is the `i`-th of a list. -/
def lsbNat : List Bool → Nat
  | [] => 0
  | b :: r => b2n b + 2 * lsbNat r

/-- A field of `n` bits, the most significant bit first (R119). -/
def msbBits (n v : Nat) : List Bool := (lsbBits n v).reverse

/-- The value of a field sent most significant bit first. -/
def msbNat (l : List Bool) : Nat := l.foldl (fun n b => 2 * n + b2n b) 0

/-- A field of a bit list: `n` bits from place `i`. -/
def fieldAt (l : List Bool) (i n : Nat) : Nat := msbNat ((l.drop i).take n)

/-- How many places of two equally long bit lists differ. -/
def bitDiff (a b : List Bool) : Nat := ((a.zip b).filter fun p => p.1 != p.2).length

/-- A CRC of width `w` over bits in transmit order, with no final inversion. -/
def crcBits (w poly init : Nat) (l : List Bool) : Nat :=
  l.foldl (fun c b =>
    let t := c * 2 % 2 ^ w
    if c.testBit (w - 1) != b then Nat.xor t poly else t) init

/-- CRC-4, CRC-8 and CRC-16 of Tables 5-2, 4-10 and 5-4. -/
def crc4 (l : List Bool) : Nat := crcBits 4 0x3 0 l
def crc8 (l : List Bool) : Nat := crcBits 8 0x07 0 l
def crc16 (l : List Bool) : Nat := crcBits 16 0x1021 0xFFFF l

/-- The sync words (R114). -/
def syncD : List Bool := msbBits 64 0x6A3F91C42DB8E507
def syncU : List Bool := msbBits 64 0x3C5AE81794F20B6D

/-! ### Scramblers (R86) -/

/-- The first tap of a direction: 39 from the device, 19 from the radio. -/
def scrTap (fromDevice : Bool) : Nat := if fromDevice then 39 else 19

/-- Bits scrambled, with the register of the last 58 sent bits, the newest lowest. -/
def scramble (tap reg : Nat) (l : List Bool) : List Bool × Nat :=
  match l with
  | [] => ([], reg)
  | d :: r =>
    let b := d != (reg.testBit (tap - 1) != reg.testBit 57)
    let q := scramble tap ((reg * 2 + b2n b) % 2 ^ 58) r
    (b :: q.1, q.2)

/-- Bits descrambled, with the register of the last 58 received bits. -/
def descramble (tap reg : Nat) (l : List Bool) : List Bool × Nat :=
  match l with
  | [] => ([], reg)
  | b :: r =>
    let q := descramble tap ((reg * 2 + b2n b) % 2 ^ 58) r
    ((b != (reg.testBit (tap - 1) != reg.testBit 57)) :: q.1, q.2)

/-! ### Link LDPC (R99–R101) -/

/-- Information columns of a strength: NONE, LIGHT, STRONG (Table 4-7). -/
def ldpcKb (fec : Nat) : Nat := if fec = 1 then 30 else if fec = 2 then 26 else 32
/-- Parity columns. -/
def ldpcMb (fec : Nat) : Nat := 32 - ldpcKb fec
/-- Iteration limit of the code. -/
def ldpcLimit (fec : Nat) : Nat := if fec = 1 then 12 else if fec = 2 then 20 else 0

/-- Information column `c` connects to row `i` (R100). -/
def ldpcConn (fec i c : Nat) : Bool := fec == 1 || i == c % 6 || i == (c + 1) % 6 || i == (c + 3) % 6

/-- The shift A(i, c). -/
def ldpcShift (fec i c : Nat) : Nat := if fec = 1 then (if i = 0 then 0 else 2 * c + 1) else (i + 1) * (2 * c + 1) % 64

/-- A 64-bit column rotated so that its place `t` holds place `t + a` modulo 64. -/
def rotr64 (x a : Nat) : Nat := x / 2 ^ (a % 64) + x % 2 ^ (a % 64) * 2 ^ (64 - a % 64)

/-- The exclusive-or of the information columns connected to row `i` of a codeword, each rotated by its shift. -/
def ldpcRow (fec x i : Nat) : Nat :=
  (List.range (ldpcKb fec)).foldl (fun v c =>
    if ldpcConn fec i c then Nat.xor v (rotr64 (bits x (64 * c) 64) (ldpcShift fec i c)) else v) 0

/-- A codeword of 2,048 bits, bit `b` in place `b`, with the parity columns of its information bits (R101). -/
def ldpcEncode (fec u : Nat) : Nat :=
  let kb := ldpcKb fec
  let u := u % 2 ^ (64 * kb)
  ((List.range (ldpcMb fec)).foldl (fun (a : Nat × Nat) i =>
    let p := Nat.xor (ldpcRow fec u i) a.2
    (a.1 + p * 2 ^ (64 * (kb + i)), p)) (u, 0)).1

/-- A codeword's syndrome is zero. -/
def ldpcGood (fec x : Nat) : Bool := ldpcEncode fec x == x % 2 ^ 2048

/-! ### Link frame layout (R119, R120) -/

/-- Payload blocks of codeword `c`. -/
def payloadBlocks (fec c : Nat) : Nat := (64 * ldpcKb fec - 16 - (if c = 0 then 256 else 0)) / 16

/-- The first payload bit's place in codeword `c`'s information bits. -/
def payloadAt (c : Nat) : Nat := if c = 0 then 272 else 16

/-- The first payload bit's place in the frame. -/
def payloadFrameBit (c : Nat) : Nat := 128 + 2048 * c + payloadAt c

/-- A codeword header (Table 5-2). -/
def cwHeader (idx : Nat) (mk : Bool) (fill : Nat) : List Bool :=
  let h := msbBits 4 idx ++ [mk] ++ msbBits 7 fill
  h ++ msbBits 4 (crc4 h)

/-- A received header is bad (R120). -/
def headerBad (fec idx : Nat) (h : List Bool) : Bool :=
  let fill := fieldAt h 5 7
  let n := payloadBlocks fec idx
  crc4 (h.take 12) != fieldAt h 12 4 || fieldAt h 0 4 != idx || decide (n < fill) || (h.getD 4 false && fill == n)

/-! ### Patterns (Table 6-3) -/

/-- The two taps of a PRBS; none for the user pattern and the reserved codes. -/
def prbsTaps (pat : Nat) : Option (Nat × Nat) :=
  match pat with
  | 0 => some (7, 6)
  | 1 => some (9, 5)
  | 2 => some (15, 14)
  | 3 => some (23, 18)
  | 4 => some (31, 28)
  | _ => none

/-- The next bit of a PRBS from its register of past bits, the newest lowest. -/
def prbsNext (t : Nat × Nat) (reg : Nat) : Bool := reg.testBit (t.1 - 1) != reg.testBit (t.2 - 1)

/-- A register of `n` past bits with one more. -/
def regPush (n reg : Nat) (b : Bool) : Nat := (reg * 2 + b2n b) % 2 ^ n

/-! ### Sample formats (Table 5-5, R127–R129) -/

/-- Bits of I or Q in a fixed format; 9 in block-floating. -/
def fmtWidth (fmt : Nat) : Nat := match fmt with | 0 => 16 | 1 => 15 | 2 => 12 | 3 => 9 | 4 => 8 | _ => 9

/-- Samples of each stream in a sample group. -/
def fmtBlock (fmt : Nat) : Nat := if fmt = 5 then 16 else 1

/-- Bits that each stream takes in a sample group. -/
def fmtBits (fmt : Nat) : Nat := if fmt = 5 then 292 else 2 * fmtWidth fmt

/-- I and Q of a cint16 sample. -/
def iqI (x : Nat) : Int := toSigned 16 (x % 65536)
def iqQ (x : Nat) : Int := toSigned 16 (x / 65536)
/-- A cint16 sample. -/
def mkIq (i q : Int) : Nat := toBits 16 i + toBits 16 q * 65536

/-- A cint16 half reduced by `sh` bits, nearest with ties away from zero, saturated to `w` bits (R128). -/
def reduceTo (w sh : Nat) (v : Int) : Int := satSigned w (divRound v (2 ^ sh))

/-- The smallest exponent for which every rounded mantissa of a block fits 9 bits (R128). -/
def bfpExp (l : List Nat) : Nat :=
  ((List.range 8).find? fun e => l.all fun x =>
    [iqI x, iqQ x].all fun v => decide (-256 ≤ divRound v (2 ^ e)) && decide (divRound v (2 ^ e) ≤ 255)).getD 7

/-- The bits of one stream's part of a sample group. -/
def packSamples (fmt : Nat) (l : List Nat) : List Bool :=
  if fmt = 5 then
    let e := bfpExp l
    msbBits 4 e ++ l.flatMap fun x => msbBits 9 (toBits 9 (reduceTo 9 e (iqI x))) ++ msbBits 9 (toBits 9 (reduceTo 9 e (iqQ x)))
  else
    let w := fmtWidth fmt
    l.flatMap fun x =>
      msbBits w (toBits w (reduceTo w (16 - w) (iqI x))) ++ msbBits w (toBits w (reduceTo w (16 - w) (iqQ x)))

/-- One stream's part of a sample group expanded to cint16, and whether its exponent code is invalid (Table 5-5). -/
def unpackSamples (fmt : Nat) (l : List Bool) : List Nat × Bool :=
  let w := fmtWidth fmt
  let half := fun (l : List Bool) (i : Nat) => toSigned w (fieldAt l i w)
  if fmt = 5 then
    let e := fieldAt l 0 4
    if 8 ≤ e then (List.replicate 16 0, true)
    else ((List.range 16).map fun k =>
      mkIq (half l (4 + 18 * k) * (2 ^ e : Nat)) (half l (13 + 18 * k) * (2 ^ e : Nat)), false)
  else ([mkIq (half l 0 * (2 ^ (16 - w) : Nat)) (half l w * (2 ^ (16 - w) : Nat))], false)

end Sys2Proof.Machine
end

