-- ==== Sys2Proof/Machine/LinkPhy.lean ====
section
/-!
DEFINITION. The physical layer of an antenna lane as arithmetic: PAM4 levels (R83), the transmit path (R90), sync-word matches (R115), training
blocks and wake bursts (R108, R150), the min-sum decoder (R102), and the margin to capacity (R105).
-/

namespace Sys2Proof.Machine

/-! ### Levels and the transmit path (R83, R90) -/

/-- The PAM4 level of a bit pair, the earlier bit first, in thirds of the peak amplitude (Table 4-2). -/
def pam4 (a b : Bool) : Int :=
  match a, b with
  | false, false => -3
  | false, true => -1
  | true, true => 1
  | true, false => 3

/-- The bit pair that a level stands for. -/
def pam4Bits (v : Int) : Bool × Bool := (decide (0 < v), decide (v.natAbs = 1))

/-- The levels of bits in transmit order. -/
def pam4s : List Bool → List Int
  | a :: b :: r => pam4 a b :: pam4s r
  | _ => []

/-- The bits of a list of levels. -/
def pam4sBits (l : List Int) : List Bool := l.flatMap fun v => [(pam4Bits v).1, (pam4Bits v).2]

/-- A reversed pair polarity: every level changes its sign (R83). -/
def reversePair (l : List Bool) : List Bool := pam4sBits ((pam4s l).map fun v => -v)

/-- A finite impulse response filter over a list of samples, `past` its last inputs, the newest first. -/
def fir (taps past : List Int) : List Int → List Int
  | [] => []
  | x :: r =>
    let w := (x :: past).take taps.length
    (taps.zip w).foldl (fun a p => a + p.1 * p.2) 0 :: fir taps w r

/-- What the transmit path makes of levels (R90): the fixed 24-tap shaping filter at 2 samples per UI, whose taps the spec does not give, then
the 3-tap equaliser at 1 UI spacing, in 1/64. -/
def txPath (pre1 post1 : Nat) (l : List Int) : List Int :=
  let shaped := fir ((List.range 24).map Config.shapeTap) [] (l.flatMap fun v => [v, 0])
  fir [-(pre1 : Int), 0, 64 - pre1 - post1, 0, -(post1 : Int)] [] shaped

/-- Symbols that the transmit path remembers. -/
def txMemory : Nat := 14

/-! ### Sync words (R114, R115) -/

/-- Two received words match a sync word within `tol` errors each, in one polarity: whether the polarity is reversed. -/
def syncMatch (tol : Nat) (want : List Bool) (w : SyncPair) : Option Bool :=
  let a := lsbBits 64 w.first.toNat
  let b := lsbBits 64 w.second.toNat
  let near := fun l => decide (bitDiff l want ≤ tol)
  if near a && near b then some false
  else if near (reversePair a) && near (reversePair b) then some true
  else none

/-! ### What a lane sends before its frames (R108, R150, Table 5-15) -/

/-- A wake burst: 64 times D, unscrambled. -/
def wakeBurst : List Bool := (List.replicate 64 syncD).flatten

/-- The next `k` bits of PRBS31 from a register of 31 past bits. -/
def prbs31 (reg k : Nat) : List Bool :=
  match k with
  | 0 => []
  | k + 1 =>
    let b := prbsNext (31, 28) reg
    b :: prbs31 (regPush 31 reg b) k

/-- The register of PRBS31 `k` bits on. -/
def prbsSkip (k reg : Nat) : Nat :=
  match k with
  | 0 => reg
  | k + 1 => prbsSkip k (regPush 31 reg (prbsNext (31, 28) reg))

/-- Payload bits of a training block. -/
def blockPrbs : Nat := 1952

/-- A training block of the device on a lane (Table 4-10) after `pos` bits of its PRBS31. -/
def trainBlock (n count rate fec : Nat) (warm : Bool) (phase pos : Nat) : List Bool :=
  let h := msbBits 16 count ++ msbBits 3 rate ++ msbBits 2 fec ++ [warm] ++ msbBits 2 phase
  syncD ++ h ++ msbBits 8 (crc8 h) ++ prbs31 (prbsSkip pos (Config.prbsStart n % (2 ^ 31 - 1) + 1)) blockPrbs

/-! ### Min-sum decoding (R92, R102) -/

/-- The bit places of check `t` of row `i` (R100). -/
def ldpcCheck (fec i t : Nat) : List Nat :=
  let kb := ldpcKb fec
  (((List.range kb).filter fun c => ldpcConn fec i c).map fun c => 64 * c + (t + ldpcShift fec i c) % 64) ++
    (if i = 0 then [64 * kb + t] else [64 * (kb + i - 1) + t, 64 * (kb + i) + t])

/-- The checks of a code in the order the decoder takes them: rows 0 to mb − 1, each with its 64 checks. -/
def ldpcChecks (fec : Nat) : List (List Nat) :=
  (List.range (ldpcMb fec)).flatMap fun i => (List.range 64).map fun t => ldpcCheck fec i t

/-- A magnitude times 0.75; how the quotient is rounded is open for each kind of decoder. -/
def scale34 (kind m : Nat) : Nat := (3 * m + Config.minSumRound kind % 4) / 4

/-- The least magnitude of a list with its place, and the least of the others, none above `top`. -/
def twoLeast (top : Nat) (l : List Nat) : Nat × Nat × Nat :=
  (l.foldl (fun (q : (Nat × Nat × Nat) × Nat) m =>
    let (a, b, i) := q.1
    ((if m < a then (m, a, q.2) else (a, min b m, i)), q.2 + 1)) ((top, top, 0), 0)).1

/-- One check processed: the messages to it from the posteriors less its old messages, its new messages, and the posteriors after them. Messages have magnitudes up to `top`. -/
def checkNode (top kind : Nat) (post : Array Int) (ps : List Nat) (old : List Int) : Array Int × List Int :=
  let v := (ps.zip old).map fun p => clampInt (post.getD p.1 0 - p.2) (-top) top
  let odd := v.foldl (fun a x => a != decide (x < 0)) false
  let m := twoLeast top (v.map Int.natAbs)
  let new := v.mapIdx fun j x =>
    let g : Int := scale34 kind (if j = m.2.2 then m.2.1 else m.1)
    if odd != decide (x < 0) then -g else g
  ((ps.zip (v.zip new)).foldl (fun a p => a.setIfInBounds p.1 (p.2.1 + p.2.2)) post, new)

/-- A full iteration over the checks, with the message lists of each. -/
def minSumIter (top kind : Nat) (post : Array Int) : List (List Nat × List Int) → Array Int × List (List Int)
  | [] => (post, [])
  | (ps, old) :: r =>
    let q := checkNode top kind post ps old
    let z := minSumIter top kind q.1 r
    (z.1, q.2 :: z.2)

/-- The decisions of a posterior. -/
def decisions (post : Array Int) : List Bool := post.toList.map fun v => decide (v < 0)

/-- Iterations of layered normalised min-sum until the decisions are good or the limit is reached: the final decisions and the iterations run. -/
def minSumRun (top kind : Nat) (checks : List (List Nat)) (good : List Bool → Bool) (k it : Nat) (post : Array Int) (old : List (List Int)) :
    List Bool × Nat :=
  match k with
  | 0 => (decisions post, it)
  | k + 1 =>
    let q := minSumIter top kind post (checks.zip old)
    let d := decisions q.1
    if good d then (d, it + 1) else minSumRun top kind checks good k (it + 1) q.1 q.2

/-- A codeword decoded by layered normalised min-sum from its hard decisions and their magnitudes (R102). -/
def minSum (fec limit : Nat) (hard : List Bool) (mag : List Nat) : List Bool × Nat :=
  let checks := ldpcChecks fec
  let llr := (hard.zip mag).map fun p => if p.1 then -(p.2 : Int) else (p.2 : Int)
  minSumRun 63 0 checks (fun d => ldpcGood fec (lsbNat d)) limit 0 llr.toArray (checks.map fun ps => ps.map fun _ => 0)

/-- 4-bit magnitudes of LLRs, that of bit `b` in places 4b to 4b + 3. -/
def llrMags (v : Nat) : List Nat := (List.range 2048).map fun b => bits v (4 * b) 4

/-- Latency of the decoder in cycles of 1.2 GHz (Table 4-8). -/
def decodeCycles (fec : Nat) : Nat := if fec = 1 then 216 else if fec = 2 then 600 else 24

/-- Cycles of 1.2 GHz in 1/16 Tc, rounded up. -/
def fabricTc16 (k : Nat) : Nat := (k * 16 * 196608 + 119999) / 120000

/-! ### Margin to capacity (R105) -/

/-- 10^(1/10000) in units of 10^-60. -/
def root10 : Nat := 1000230285020824752683594255671941331867821612462653452696347

/-- A power of 10^(1/10000) in units of 10^-60, by repeated squaring. -/
def pow10 (fuel e : Nat) (b : Nat) : Nat :=
  match fuel with
  | 0 => 10 ^ 60
  | k + 1 =>
    let q := pow10 k (e / 2) (b * b / 10 ^ 60)
    if e % 2 = 1 then q * b / 10 ^ 60 else q

/-- The lane's capacity at s = 10^(−c/10,000) is at least its coded data rate: the product over the bins of 1 + s × SNR_k is at least
2^(k/8), where SNR_k comes in 1/1024. -/
def capAtLeast (kb : Nat) (bins : List Nat) (c : Int) : Bool :=
  let p := pow10 24 c.natAbs root10
  let (num, den) := if 0 ≤ c then (10 ^ 60, p) else (p, 10 ^ 60)
  decide (2 ^ (8 * kb) * (den * 1024) ^ bins.length ≤ bins.foldl (fun a v => a * (den * 1024 + num * v)) 1)

/-- cap_margin in 0.001 dB, rounded down: the greatest c with s_cap at most 10^(−c/10,000). -/
def capMargin (kb : Nat) (bins : List Nat) : Int :=
  ((List.range 18).reverse.map fun i => (2 ^ i : Nat)).foldl
    (fun (lo : Int) (d : Nat) => if capAtLeast kb bins (lo + d) then lo + d else lo) (-131072)

end Sys2Proof.Machine
end

