-- ==== Sys2Proof/Machine/LinkOps.lean ====
section
/-!
DEFINITION. Antenna lanes and links as shared operations: lane and link states, searchers (R115), configuration checks (R126, R130,
R154), the command queue (R136), and the ends of test functions (R163).
-/

namespace Sys2Proof.Machine

/-! ### Access -/

def Dev.lane (s : Dev) (n : Nat) : LaneSt := tget {} s.lnk.lane n
def Dev.setLane (n : Nat) (x : LaneSt) (s : Dev) : Dev := { s with lnk := { s.lnk with lane := tput {} s.lnk.lane n x } }
def Dev.modLane (n : Nat) (f : LaneSt → LaneSt) (s : Dev) : Dev := s.setLane n (f (s.lane n))
def Dev.link (s : Dev) (f : Nat) : LinkSt := tget {} s.lnk.link f
def Dev.setLink (f : Nat) (x : LinkSt) (s : Dev) : Dev := { s with lnk := { s.lnk with link := tput {} s.lnk.link f x } }
def Dev.modLink (f : Nat) (g : LinkSt → LinkSt) (s : Dev) : Dev := s.setLink f (g (s.link f))

/-- A lane's state (Table 4-14). -/
def Dev.laneState (s : Dev) (n : Nat) : Nat := s.get (R.LNK_LINE_STAT_state n)

/-- A power domain is on. -/
def Dev.domOn (s : Dev) (d : Nat) : Bool :=
  if d < 32 then bit (s.rd R.PWR_DOM_LO) d else bit (s.rd R.PWR_DOM_HI) (d - 32)

/-- The power domain of a lane's group (R85). -/
def laneDom (n : Nat) : Nat := 24 + 4 * (n / 256) + n % 256 / 64

/-- LNK_REF_STAT of a die: each reference is monitored while its group's domain is on, and within limits unless it was found otherwise (R85). -/
def Dev.refStat (s : Dev) (d : Nat) : Nat :=
  let mon := fun g => s.domOn (laneDom (256 * d + 64 * g))
  ((List.range 4).map fun g => b2n (mon g && !s.lnk.refBad.contains (4 * d + g)) * 2 ^ g + b2n (mon g) * 2 ^ (4 + g)).foldl (· + ·) 0

/-- The domain is a lane group, which switches independently of every other. -/
def isGroup (d : Nat) : Bool := decide (24 ≤ d) && decide (d < 40)

/-- The lane group switches automatically (R456). -/
def Dev.autoGroup (s : Dev) (d : Nat) : Bool := isGroup d && bit (s.rd R.PWR_LAUTO) (d - 24)

/-- A switch of the domain could run now: a pod goes off once its engines are in RESET, an SCA quarter once its harnesses are idle (Table 20-4). -/
def Dev.domQuiet (s : Dev) (d : Nat) (on : Bool) : Bool :=
  if on then true
  else if d < 24 then (nums (8 * d) 8).all fun g => s.coreState g == 0
  else if 40 ≤ d ∧ d < 44 then
    (List.range 32).all fun h => s.get (R.SCA_HCFG_tile0 h) / 16 != d - 40 || !s.flag (R.SCA_HCFG_en h) || !s.flag (R.SCA_HSTAT_busy h)
  else true

/-- Of the domains that take turns, the one whose switch runs: the one that began, else the lowest that could run (R454). -/
def Dev.domTurn (s : Dev) : Option Nat :=
  let mine := s.pwr.todo.filter fun e => !isGroup e.1
  if s.pwr.cur.any fun c => mine.any (·.1 == c) then s.pwr.cur
  else ((mine.filter fun e => s.domQuiet e.1 e.2.1).map (·.1)).min?

/-- The switches that wait or run, and whose turn it is. -/
def Dev.setTodo (l : List (Nat × Bool × Nat)) (s : Dev) : Dev :=
  let s1 : Dev := { s with pwr := { s.pwr with todo := l } }
  ({ s1 with pwr := { s1.pwr with cur := s1.domTurn } } : Dev).setB R.PWR_STAT_busy (!l.isEmpty)

/-- A switch asked for; one that the domain stands at already, with nothing waiting, is over. -/
def Dev.askDom (d : Nat) (on : Bool) (cause : Nat) (s : Dev) : Dev :=
  let rest := s.pwr.todo.filter (·.1 != d)
  s.setTodo (if s.domOn d = on then rest else rest ++ [(d, on, cause)])

/-- An automatic lane group switches on for a lane that wakes or is enabled (R456). -/
def Dev.groupWake (n : Nat) (s : Dev) : Dev :=
  let d := laneDom n
  if s.autoGroup d && !s.domOn d then s.askDom d true 1 else s

/-- The lane is the even lane of a split pair (R98). -/
def Dev.isSplit (s : Dev) (n : Nat) : Bool := n % 2 == 0 && s.flag (R.LNK_LINE_CFG_split n)

/-- The lane is the odd lane of a split pair, reported through its even lane. -/
def Dev.isPairOdd (s : Dev) (n : Nat) : Bool := n % 2 == 1 && s.flag (R.LNK_LINE_CFG_split (n - 1))

/-! ### Rates and time -/

/-- A rate code's symbol rate in 0.65 GBd (Table 4-1). -/
def rateMul (code : Nat) : Nat :=
  match code with | 1 => 1 | 2 => 2 | 3 => 4 | 4 => 6 | 5 => 8 | _ => 10

/-- The rate code a lane runs at: its planned one, or under AUTO the one found (R116). -/
def Dev.laneRate (s : Dev) (n : Nat) : Nat :=
  let r := s.get (R.LNK_LINE_CFG_rate_code n)
  if r = 0 then s.get (R.LNK_LINE_STAT_found_rate n) else r

/-- `k` unit intervals of a lane have elapsed since a moment. -/
def Dev.elapsedUi (s : Dev) (n t k : Nat) : Bool :=
  let m := 65000 * rateMul (s.laneRate n)
  decide (t * m + k * 98304 ≤ s.time.clk * m)

/-- The elapsed-cycle count `k` unit intervals of a lane after a moment, rounded up. -/
def Dev.afterUi (s : Dev) (n t k : Nat) : Nat :=
  let m := 65000 * rateMul (s.laneRate n)
  t + (k * 98304 + m - 1) / m

/-- At least `lo` and at most `hi` unit intervals of a lane have elapsed since a moment. -/
def Dev.uiWindow (s : Dev) (n t lo hi : Nat) : Bool :=
  let m := 65000 * rateMul (s.laneRate n)
  s.elapsedUi n t lo && decide (s.time.clk * m ≤ t * m + hi * 98304)

/-- Whole unit intervals of a lane since a moment. -/
def Dev.uiSince (s : Dev) (n t : Nat) : Nat := (s.time.clk - t) * (65000 * rateMul (s.laneRate n)) / 98304

/-- `k` unit intervals of a lane in Tc, rounded up. -/
def Dev.uiTc (s : Dev) (n k : Nat) : Nat :=
  let m := 65000 * rateMul (s.laneRate n)
  (k * 196608 + m - 1) / m

/-- `k` link frames of a lane in Tc (R119). -/
def Dev.framesTc (s : Dev) (n k : Nat) : Nat := s.uiTc n (16448 * k)

/-! ### Links and their lanes (R126, R146) -/

/-- Lanes of a link. -/
def Dev.linkSize (s : Dev) (f : Nat) : Nat := 2 ^ s.get (R.LNK_LINK_CFG_bsize f)

/-- The lanes of the link whose first lane is `f`, in order; the even lanes of split pairs (Table 6-2). -/
def Dev.linkLanes (s : Dev) (f : Nat) : List Nat :=
  (List.range (s.linkSize f)).map fun i => if s.isSplit f then f + 2 * i else f + i

/-- The first lane of the link that a lane belongs to; the lane itself when no enabled link holds it. -/
def Dev.linkOf (s : Dev) (n : Nat) : Nat :=
  (([16, 8, 4, 2, 1].map fun w => n - n % w).find? fun f =>
    s.flag (R.LNK_LINK_CFG_en f) && (s.linkLanes f).contains n).getD n

/-- Every lane of a link changed alike. -/
def Dev.modLanes (f : Nat) (g : LaneSt → LaneSt) (s : Dev) : Dev := (s.linkLanes f).foldl (fun s n => s.modLane n g) s

/-- A lane's place in its link. -/
def Dev.bondPos (s : Dev) (n : Nat) : Nat :=
  let f := s.linkOf n
  if s.isSplit f then (n - f) / 2 else n - f

/-- Every lane of a link is UP. -/
def Dev.allUp (s : Dev) (f : Nat) : Bool := (s.linkLanes f).all fun n => s.laneState n == 8

/-- An S32 counter of a lane at `a`, whose sticky bit is `b` of register `o`. -/
def Dev.laneCount (n a o b : Nat) (s : Dev) : Dev := s.incSat a ⟨o, b, 1⟩ Ev.LNK_CNT_SAT [(10, n)] 1

/-- An S32 counter of Table 5-16. -/
def Dev.linkCount (n a : Nat) (s : Dev) : Dev := s.laneCount n a (R.LNK_CNT_OVF2 n) ((a - R.LNK_SYNC_BAD n) / 4)

/-! ### Configuration checks -/

/-- The field that keeps a link in OFF (R126, R127, R146, R154, Table 6-2); none when the configuration stands. -/
def Dev.linkCfgBad (s : Dev) (f : Nat) : Option Nat :=
  let m := s.linkSize f
  let w := if s.isSplit f then 2 * m else m
  let nstr := s.get (R.LNK_LINK_CFG_nstr f)
  let mst := s.get (R.LNK_LINK_CFG2_master f)
  let differ := fun (fld : Nat → Field) => (s.linkLanes f).any fun n => s.get (fld n) != s.get (fld f)
  if f % w ≠ 0 then some 4
  else if nstr < 1 ∨ 128 < nstr then some 8
  else if 6 ≤ s.get (R.LNK_LINK_CFG_fmt f) then some 6
  else if s.get (R.LNK_LINK_CFG_srate f) = 7 then some 7
  else if 2048 < s.get (R.LNK_LINK_CFG2_str_base f) + nstr then some 9
  else if mst ≠ f ∧ (mst / 256 ≠ f / 256 ∨ !s.flag (R.LNK_LINK_CFG_en mst) ∨ s.linkOf mst ≠ mst) then some 10
  else if differ R.LNK_LINE_CFG_reach then some 2
  else if differ R.LNK_LINE_CFG_split then some 3
  else if differ R.LNK_LINE_CFG_rate_code then some 0
  else if differ R.LNK_LINE_CFG_fec then some 1
  else if s.get (R.LNK_LINE_CFG_rate_code f) = 0 ∧ differ R.LNK_LINE_STAT_found_rate then some 13
  else none

/-- A link's sample rate in samples per second (Table 5-6). -/
def Dev.linkFs (s : Dev) (f : Nat) : Nat := 491520000 / 2 ^ s.get (R.LNK_LINK_CFG_srate f)

/-- The link fits its lanes' net payload (R130, R121). -/
def Dev.linkFits (s : Dev) (f : Nat) : Bool :=
  let fmt := s.get (R.LNK_LINK_CFG_fmt f)
  let fec := s.get (R.LNK_LINE_CFG_fec f)
  let blocks := payloadBlocks fec 0 + 15 * payloadBlocks fec 1
  decide (s.linkFs f * s.get (R.LNK_LINK_CFG_nstr f) * fmtBits fmt * 16448 * 1000 ≤
    995 * s.linkSize f * blocks * 16 * (650000000 * rateMul (s.laneRate f)) * fmtBlock fmt)

/-- cfg_bad set, and logged with the field when it rises (R152). -/
def Dev.linkCfgFault (f field : Nat) (s : Dev) : Dev :=
  s.stick (R.LNK_LINK_STAT_cfg_bad f) (·.raiseOf Ev.LNK_LINK_CFG_BAD 10 f [(4, field)])

/-! ### Link states (R143, R145) -/

/-- A link brought to a state, with what its cells see of it. -/
def Dev.setLinkState (f st : Nat) (s : Dev) : Dev := (s.set (R.LNK_LINK_STAT_state f) st).refreshCells

/-- Steering brought to a state; leaving LOCK sets unlock (Table 5-16). -/
def Dev.setSteer (f st : Nat) (s : Dev) : Dev :=
  let was := s.get (R.LNK_LINK_STAT_steer f)
  let s1 := s.set (R.LNK_LINK_STAT_steer f) st
  if was = 2 ∧ st ≠ 2 then s1.setB (R.LNK_LINK_STAT_unlock f) true else s1

/-- Steering into HOLD with s and the integrator kept; logged. -/
def Dev.steerHold (f : Nat) (s : Dev) : Dev :=
  if s.get (R.LNK_LINK_STAT_steer f) = 0 ∨ s.get (R.LNK_LINK_STAT_steer f) = 3 then s
  else
    let s1 := (s.setSteer f 3).modLink f fun k => { k with newE := none, lockRun := 0, unlockRun := 0, skip := 0 }
    s1.raiseOf Ev.LNK_STEER_HOLD 10 f []

/-- The checks of ALIGN and TIMING start afresh. -/
def Dev.alignReset (f : Nat) (s : Dev) : Dev :=
  (s.modLanes f fun x => { x with goodRun := 0, marker := none }).modLink f fun k => { k with rtOk := false, realign := none, newE := none }

/-- A lane of a link is lost: the link goes to ALIGN (R145). A link in OFF stays there; one in DEEP has its lanes quiet by intent. -/
def Dev.linkDown (f lane : Nat) (s : Dev) : Dev :=
  let st := s.linkState f
  if st = 0 ∨ st = 5 then s
  else
    let s1 := if st = 3 ∨ st = 4 then s.steerHold f else s
    (s1.alignReset f).setLinkState f 1 |>.raiseOf Ev.LNK_LINK_DOWN 10 f [(10, lane)]

/-- A link taken to OFF: steering stops and its integrator clears (R143). -/
def Dev.linkOff (f : Nat) (s : Dev) : Dev :=
  let s1 := ((s.alignReset f).setSteer f 0).modLink f fun k =>
    { k with integ := 0, lockRun := 0, unlockRun := 0, skip := 0, groups := [], wake := none }
  (s1.modLanes f fun x => { x with markAt := none, part := [] }).setLinkState f 0

/-- A link whose lanes are all UP leaves OFF, or the DEEP it is waking from, for ALIGN, if its configuration stands; one in ALIGN whose lanes
have come to differ goes to OFF (R126, R145, R154). -/
def Dev.alignEnter (f : Nat) (s : Dev) : Dev :=
  let st := s.linkState f
  if s.flag (R.LNK_LINK_CFG_en f) && s.allUp f && (st == 0 || st == 1 || (st == 5 && (s.link f).wake.isSome)) then
    match s.linkCfgBad f with
    | some c => (if st = 0 then s else s.linkOff f).linkCfgFault f c
    | none => if st = 1 then s else (s.alignReset f).setLinkState f 1
  else s

/-! ### The line (R83, R90, R108, R150) -/

/-- The levels of bits that a lane sends; after codeword 0 the transmitter is quiet for `gap` codewords (R148). -/
def lineLevels (l : List Bool) (gap : Nat) : List Int :=
  if gap = 0 then pam4s l else pam4s (l.take 2176) ++ List.replicate (1024 * gap) 0 ++ pam4s (l.drop 2176)

/-- What a lane's transmit path makes of levels that follow others; tx_pre1 13–15 act as 12, tx_post1 25–31 as 24 (R90, Table 4-13). -/
def Dev.lineSamples (s : Dev) (n : Nat) (before l : List Int) : List Int :=
  (txPath (min (s.get (R.LNK_LINE_CFG_tx_pre1 n)) 12) (min (s.get (R.LNK_LINE_CFG_tx_post1 n)) 24) (before ++ l)).drop (2 * before.length)

/-- A lane sends bits, and its transmit path makes samples of them. -/
def Dev.onLine (n : Nat) (l : List Bool) (gap : Nat) (s : Dev) : Dev :=
  let x := s.lane n
  let was := lineLevels x.sent x.gap
  let before := was.drop (was.length - txMemory)
  s.setLane n { x with sent := l, gap := gap, before := before, line := s.lineSamples n before (lineLevels l gap) }

/-- Blocks that the device sends in the present phase: P2, P3 or split training (Table 4-11, R111, Table 6-5). -/
def Dev.ownBlocks (s : Dev) (n : Nat) : Nat :=
  let w := (s.lane n).warm
  if (s.lane n).eff.loop = 1 then 32
  else if s.laneState n = 6 then (if w then 32 else 1024) else if w then 64 else 4096

/-- Block `k` of those that the device sends in the present phase; the count stays 0 after the last (Table 4-10, R110 step 6). -/
def Dev.ownBlock (s : Dev) (n k : Nat) : List Bool :=
  let st := s.laneState n
  trainBlock n (s.ownBlocks n - 1 - k) (s.laneRate n) (s.get (R.LNK_LINE_CFG_fec n)) (s.lane n).warm (if st = 5 then 2 else if st = 6 then 3 else 0)
    ((s.lane n).prbs + blockPrbs * k)

/-- Whole blocks sent in the present phase so far; P2 ends with its last one. -/
def Dev.blocksSent (s : Dev) (n : Nat) : Nat :=
  let k := s.uiSince n (s.lane n).phaseAt / 1024
  match s.laneState n with
  | 5 => min k (s.ownBlocks n)
  | 6 => k
  | 7 => k
  | _ => 0

/-- The device starts sending the blocks of a phase. -/
def Dev.blocksStart (n : Nat) (s : Dev) : Dev := s.onLine n (s.ownBlock n 0) 0

/-! ### Lane states and searchers (R115, R116) -/

/-- The lane gives up its searcher, or its place among the waiting. -/
def Dev.leaveAcq (n : Nat) (s : Dev) : Dev :=
  let d := n / 256
  let s1 :=
    if (s.lane n).waits then
      (s.set (R.LNK_SRCH_waiting d) (s.get (R.LNK_SRCH_waiting d) - 1)).modLane n fun x => { x with waits := false }
    else s
  if s1.flag (R.LNK_LINE_STAT_searcher n) then
    (s1.setB (R.LNK_LINE_STAT_searcher n) false).set (R.LNK_SRCH_busy d) (s1.get (R.LNK_SRCH_busy d) - 1)
  else s1

/-- The lane takes a searcher where one is free. -/
def Dev.takeSearcher (n : Nat) (s : Dev) : Dev :=
  let d := n / 256
  if s.get (R.LNK_SRCH_busy d) < 64 then
    (s.setB (R.LNK_LINE_STAT_searcher n) true).set (R.LNK_SRCH_busy d) (s.get (R.LNK_SRCH_busy d) + 1)
  else s

/-- A lane brought to a state: the odd lane of a split pair mirrors it; lock stands from P1 to UP, in SPLIT once a signal is acquired; the stay
in QUIET, ACQ and WAIT is timed from the entry into any of them (R98, R116). The blocks of the phase that ends are sent. -/
def Dev.setLaneState (n st : Nat) (s : Dev) : Dev :=
  let old := s.laneState n
  let acq := fun k => 1 ≤ k && k ≤ 3
  let lock := decide (4 ≤ st) && (st != 7 || (s.lane n).acquired)
  let s1 := (s.set (R.LNK_LINE_STAT_state n) st).setB (R.LNK_LINE_STAT_lock n) lock
  let s2 := if s.isSplit n then s1.set (R.LNK_LINE_STAT_state (n + 1)) st else s1
  let prbs := ((s.lane n).prbs + blockPrbs * s.blocksSent n) % (2 ^ 31 - 1)
  s2.modLane n fun x => { x with badRun := 0, prbs := prbs, since := if acq st && !acq old then s.time.clk else x.since }

/-- A lane enters QUIET: what it had acquired is gone, and it sends nothing. -/
def Dev.toQuiet (n : Nat) (s : Dev) : Dev :=
  ((s.leaveAcq n).setLaneState n 1).modLane n fun x =>
    { x with acquired := false, p1End := none, burstAt := none, gotP3 := false, far0 := false, cws := [], sent := [], gap := 0, line := [] }

/-- A lane that was UP takes its link with it. -/
def Dev.laneLost (n : Nat) (s : Dev) : Dev := if s.laneState n = 8 then s.linkDown (s.linkOf n) n else s

/-- A training counts when it starts (R113). -/
def Dev.trainingStarts (n : Nat) (warm : Bool) (s : Dev) : Dev :=
  (s.laneCount n (R.LNK_RETRAIN n) (R.LNK_CNT_OVF n) 2).modLane n fun x =>
    { x with warm := warm, p1End := none, gotP3 := false, far0 := false, phaseAt := s.time.clk }

/-- Length of a wake burst in UI (Table 5-15). -/
def burstUi : Nat := 2048

/-- A lane starts training from QUIET with a wake burst (R150): a split pair sends phase-0 blocks after it (R111), a full-duplex lane waits
for the radio. -/
def Dev.trainFromQuiet (n : Nat) (warm : Bool) (s : Dev) : Dev :=
  let s1 := (s.toQuiet n).modLane n fun x => { x with warmReq := warm, burstAt := some s.time.clk }
  if s.isSplit n then
    let s2 := ((s1.setLaneState n 7).trainingStarts n warm).modLane n fun x => { x with phaseAt := s.afterUi n s.time.clk burstUi }
    s2.onLine n (wakeBurst ++ s2.ownBlock n 0) 0
  else s1.onLine n wakeBurst 0

/-- Link frames start once both ends' count-0 blocks have passed (R110 step 6, R145). -/
def Dev.laneUp (n : Nat) (s : Dev) : Dev :=
  let x := s.lane n
  let st := s.laneState n
  if (st = 6 ∨ st = 7) ∧ x.far0 ∧ s.elapsedUi n x.phaseAt (s.ownBlocks n * 1024) then
    let f := s.linkOf n
    let fc := ((s.linkLanes f).find? fun k => k != n && s.laneState k == 8).map fun k => (s.lane k).fcnt
    let s1 := (s.setLaneState n 8).setB (R.LNK_LINE_STAT_warm_ok n) true
    let s2 := s1.modLane n fun x =>
      { x with fcnt := fc.getD 0, warmReq := false, cws := [], goodRun := 0, marker := none, carry := [], qAt := if st = 7 then s.time.clk else x.qAt }
    let s3 := s2.raiseOf Ev.LNK_LINE_UP 10 n [(3, s.laneRate n), (2, s.get (R.LNK_LINE_CFG_fec n)), (1, b2n x.warm)]
    s3.alignEnter f
  else s

/-! ### Coefficients (R92–R96) -/

/-- The lane's transmitter is heard on the board: it trains or sends frames, outside a near-end analog loopback, DOZE and DEEP. -/
def Dev.transmits (s : Dev) (n : Nat) : Bool :=
  let st := s.laneState n
  let f := s.linkState (s.linkOf n)
  decide (5 ≤ st) && !s.isPairOdd n && (s.lane n).eff.loop != 1 && f != 4 && f != 5

/-- The lane's adaptive coefficients hold their values: by adapt_frz, in a TDD window, in a near-end digital loopback. -/
def Dev.coefHeld (s : Dev) (n : Nat) : Bool :=
  s.flag (R.LNK_LINE_CTL_adapt_frz n) || ((s.lane n).frozen && s.flag (R.LNK_LINE_CFG_tdd_frz_en n)) || (s.lane n).eff.loop == 2

/-- A lane's coefficients adapt: the equaliser and the echo canceller as asked, the NEXT cancellers whose aggressor in the lane group
transmits. In split duplex and in a near-end analog loopback the cancellers are off. -/
def Dev.adapt (n : Nat) (eq echo : Bool) (s : Dev) : Dev :=
  if s.coefHeld n then s
  else
    let own := !s.isSplit n && (s.lane n).eff.loop != 1
    let now := fun (b : Bool) (t : Nat) => if b then s.time.clk else t
    s.modLane n fun x => { x with adapt := {
      eq := now eq x.adapt.eq
      echo := now (echo && own) x.adapt.echo
      nextLo := now (own && n % 64 != 0 && s.transmits (n - 1)) x.adapt.nextLo
      nextHi := now (own && n % 64 != 63 && s.transmits (n + 1)) x.adapt.nextHi } }

/-! ### TDD states (R131, R217) -/

/-- A link's TDD state at an air count, from its last change and the commands sent. -/
def Dev.tddAt (s : Dev) (f t : Nat) : Nat :=
  let k := s.link f
  match (k.tddDue.filter fun d => decide (d.1 ≤ t)).getLast? with
  | some d => d.2
  | none => if k.tddWas.1 ≤ t then k.tdd else k.tddWas.2

/-! ### Commands to the radio (R136) -/

/-- LNK_CMD_STAT.pend of a link. -/
def Dev.cmdShow (f : Nat) (s : Dev) : Dev := s.set (R.LNK_CMD_STAT_pend f) (s.link f).queue.length

/-- A command dropped as late. -/
def Dev.cmdDrop (f word target : Nat) (s : Dev) : Dev :=
  ((s.linkCount f (R.LNK_CMD_LATE f)).setB (R.LNK_LINK_STAT_cmd_late f) true).raiseOf Ev.LNK_CMD_LATE 10 f
    [(4, bits word 60 4), (48, target)]

/-- A command queued, or dropped for a full queue or less than 2 frames of lead. -/
def Dev.queueCmd (f word target : Nat) (s : Dev) : Dev :=
  let k := s.link f
  if 16 ≤ k.queue.length ∨ target < s.time.cnt + s.framesTc f 2 then s.cmdDrop f word target
  else
    (s.setLink f { k with queue := k.queue ++ [⟨k.cseq, word, target, false⟩], cseq := (k.cseq + 1) % 256 }).cmdShow f

/-- The first half-subframe boundary at least `k` link frames ahead. -/
def Dev.boundaryAhead (s : Dev) (f k : Nat) : Nat :=
  (s.time.cnt + s.framesTc f k + halfSubTc - 1) / halfSubTc * halfSubTc

/-! ### Test functions (R158–R164) -/

/-- A payload-replacing function is in effect. -/
def TestEff.on (e : TestEff) : Bool := e.loop != 0 || e.gen || e.chk

/-- The functions that act on a lane: payload-replacing ones of a lane whose link is in RUN only while live = 1 (R161). -/
def Dev.testActs (s : Dev) (n : Nat) : TestEff :=
  let e := (s.lane n).eff
  if s.linkState (s.linkOf n) = 3 ∧ !s.flag (R.LNK_TEST_CTL_live n) then { inj := e.inj } else e

/-- A lane's test functions set in effect, with loop_act. -/
def Dev.setEff (n : Nat) (e : TestEff) (s : Dev) : Dev :=
  (s.modLane n fun x => { x with eff := e, chk := if e.chk == x.eff.chk then x.chk else {} }).setB (R.LNK_TEST_STAT_loop_act n) (e.loop != 0)

/-- A lane's test ends with a cause (R164). -/
def Dev.testEnd (n cause : Nat) (s : Dev) : Dev :=
  (s.setB (R.LNK_TEST_STAT_loop_end n) true).raiseOf Ev.LNK_TEST_END 10 n [(4, cause)]

/-- Every test on a link ended by DEEP entry (R163). -/
def Dev.testsDeep (f : Nat) (s : Dev) : Dev :=
  (s.linkLanes f).foldl (fun s n =>
    let was := (s.lane n).eff
    let s1 := [R.LNK_TEST_CTL_loop n, R.LNK_TEST_CTL_gen_en n, R.LNK_TEST_CTL_chk_en n, R.LNK_TEST_CTL_inj_en n].foldl
      (fun s fl => s.set fl 0) s
    let s2 := (s1.setEff n {}).setB (R.LNK_TEST_STAT_chk_sync n) false
    if was.on || was.inj then s2.testEnd n 1 else s2) (s.modLink f fun k => { k with feLoop := none, loopSeq := none })

end Sys2Proof.Machine
end

