-- ==== Sys2Proof/Machine/LinkLine.lean ====
section
/-!
DEFINITION. Antenna lanes, line signalling (R82–R118): configuration and retraining, acquisition, the training phases, loss of lock,
decoding, quality, and the coefficient freeze.
-/

namespace Sys2Proof.Machine

/-! ### Configuration and requests (R82, R98, R99, R113, R456) -/

/-- A lane switched off: its coefficients and warm_ok stay. -/
def Dev.laneOff (n : Nat) (s : Dev) : Dev :=
  if s.laneState n = 0 then s
  else ((s.laneLost n).toQuiet n).setLaneState n 0

/-- An enabled lane starts from its configuration; a reserved rate or FEC code keeps it in OFF. -/
def Dev.laneStart (n : Nat) (s : Dev) : Dev :=
  let bad := fun field => ((s.laneOff n).setB (R.LNK_LINE_STAT_cfg_bad n) true).raiseOf Ev.LNK_CFG_BAD 10 n [(4, field)]
  if s.get (R.LNK_LINE_CFG_rate_code n) = 7 then bad 0
  else if s.get (R.LNK_LINE_CFG_fec n) = 3 then bad 1
  else s.trainFromQuiet n false

/-- The value that LNK_LINE_CFG takes: an odd lane has no split field. -/
def lineCfgValue (n v : Nat) : Nat := if n % 2 = 1 then v % 2 ^ 27 - bits v 5 1 * 32 else v % 2 ^ 27

/-- The coefficient windows of TDD commands hold only while tdd_frz_en = 1 (R96). -/
def Dev.frzCfg (n : Nat) (s : Dev) : Dev :=
  if s.flag (R.LNK_LINE_CFG_tdd_frz_en n) then s else s.modLane n fun x => { x with frozen := false }

/-- Two lanes become a split pair: what the odd one did ends, its counters and coefficients stay, and LNK_ECHO of the even one reads zero
(R94, R98). Its configuration waits until the pair ends; then the odd lane starts from it. -/
def Dev.pairJoin (n : Nat) (s : Dev) : Dev := ((s.laneOff (n + 1)).wr (R.LNK_ECHO n) 0)

def Dev.pairPart (n : Nat) (s : Dev) : Dev :=
  let s1 := s.setLaneState (n + 1) 0
  if s.flag (R.LNK_LINE_CFG_en (n + 1)) then s1.laneStart (n + 1) else s1

/-- The configuration register of a lane takes a value; lanes join or part by the split field of the even one. -/
def Dev.lineCfgSet (n w : Nat) (s : Dev) : Dev :=
  let was := s.isSplit n
  let joins := n % 2 == 0 && bit w 5 && !was
  let s1 := ((if joins then s.pairJoin n else s).wr (R.LNK_LINE_CFG n) w).frzCfg n
  if was && !bit w 5 then s1.pairPart n else s1

/-- A write of LNK_LINE_CFG takes effect. -/
def Dev.lineCfg (n v : Nat) (s : Dev) : Dev :=
  let w := lineCfgValue n v
  let old := s.rd (R.LNK_LINE_CFG n)
  let st := s.laneState n
  if s.isPairOdd n then s.wr (R.LNK_LINE_CFG n) w
  else if !bit w 0 then (s.laneOff n).lineCfgSet n w
  else if st = 0 then (s.lineCfgSet n w).laneStart n
  else if bits old 1 7 ≠ bits w 1 7 then
    ((((s.laneLost n).toQuiet n).lineCfgSet n w).setB (R.LNK_LINE_STAT_warm_ok n) false).laneStart n
  else s.lineCfgSet n w

/-- A write of LNK_LINE_CFG; while the lane's group is off it is held (R456). -/
def lineCfgWrite (n : Fin 1024) (v : Word) (s : Dev) : Dev :=
  if s.domOn (laneDom n) then s.lineCfg n v.toNat
  else
    let s1 := s.modLane n fun x => { x with held := some v.toNat }
    if bit v.toNat 0 then s1.groupWake n else s1

def execLineCfgWrite (n : Fin 1024) (v : Word) := act (lineCfgWrite n v)

/-- A cold request. The odd lane of a split pair has no line of its own (R98). -/
def coldTrainingRequest (n : Fin 1024) (s : Dev) : Dev :=
  if s.laneState n = 0 ∨ s.isPairOdd n then s else (s.laneLost n).trainFromQuiet n false

def execColdTrainingRequest (n : Fin 1024) := act (coldTrainingRequest n)

/-- A warm request; without valid coefficients it acts as a cold one. -/
def warmRetrainRequest (n : Fin 1024) (s : Dev) : Dev :=
  if s.laneState n = 0 ∨ s.isPairOdd n then s else (s.laneLost n).trainFromQuiet n (s.flag (R.LNK_LINE_STAT_warm_ok n))

def execWarmRetrainRequest (n : Fin 1024) := act (warmRetrainRequest n)

/-! ### Acquisition (R89, R114–R116) -/

/-- A lane without a searcher whose planned rate is AUTO joins the waiting. -/
def Dev.srchWait (n : Nat) (s : Dev) : Dev :=
  let d := n / 256
  if !(s.lane n).waits && !s.flag (R.LNK_LINE_STAT_searcher n) && s.get (R.LNK_LINE_CFG_rate_code n) == 0 && !(s.lane n).warmReq then
    let w := s.get (R.LNK_SRCH_waiting d)
    let s1 := (s.set (R.LNK_SRCH_waiting d) (w + 1)).modLane n fun x => { x with waits := true }
    if w = 0 then s1.raise Ev.LNK_SRCH_WAIT [(2, d)] else s1
  else s

/-- A quiet lane detects a far-end signal: it enters ACQ and takes a searcher where one is free; a warm retrain needs none. A split pair that
trains takes one on the receiver of its odd lane, in the even lane's turn (Table 6-2). A lane of a link in DEEP stays quiet until it is woken,
and in a near-end analog loopback the search for the radio is off (R114). -/
def signalDetect (n : Fin 1024) (s : Dev) : Dev :=
  let f := s.linkOf n
  let asleep := s.linkState f == 5 && (s.link f).wake.isNone
  if s.isPairOdd n ∨ (s.lane n).eff.loop = 1 then s
  else if s.laneState n = 1 ∧ s.domOn (laneDom n) ∧ !asleep then
    let s1 := s.setLaneState n 2
    (if (s.lane n).warmReq then s1 else s1.takeSearcher n).srchWait n
  else if s.laneState n = 7 ∧ !(s.lane n).acquired ∧ !s.flag (R.LNK_LINE_STAT_searcher n) ∧ !(s.lane n).warmReq then
    (s.takeSearcher n).srchWait n
  else s

def execSignalDetect (n : Fin 1024) := act (signalDetect n)

/-- A freed searcher goes to the lowest waiting lane of its die. -/
def searcherGrant (die : Fin 4) (s : Dev) : Dev :=
  match (nums (256 * die) 256).find? fun n => (s.lane n).waits with
  | some n => if s.get (R.LNK_SRCH_busy die) < 64 then (s.leaveAcq n).takeSearcher n else s
  | none => s

def execSearcherGrant (die : Fin 4) := act (searcherGrant die)

/-- sync_tol, whose values 13–15 act as 12 (R115). -/
def Dev.syncTol (s : Dev) (n : Nat) : Nat := min (s.get (R.LNK_LINE_CFG_sync_tol n)) 12

/-- The sync word that a lane looks for: D, its own, in a near-end loopback, else the radio's U (R114). -/
def Dev.syncWant (s : Dev) (n : Nat) : List Bool :=
  let l := (s.lane n).eff.loop
  if l = 1 ∨ l = 2 then syncD else syncU

/-- A candidate accepted, with its rate and polarity. -/
def Dev.candidate (n rate : Nat) (rev : Bool) (s : Dev) : Dev :=
  let s1 := (s.set (R.LNK_LINE_STAT_found_rate n) rate).setB (R.LNK_LINE_STAT_pol_inv n) rev
  let s2 := if rev then s1.raiseOf Ev.LNK_POL_INV 10 n [] else s1
  let s3 := if s.laneState n = 7 then s2.setB (R.LNK_LINE_STAT_lock n) true else s2
  s3.modLane n fun x => { x with acquired := true }

/-- The lane may take a candidate. -/
def Dev.acquiring (s : Dev) (n : Nat) : Bool :=
  let st := s.laneState n
  !s.isPairOdd n && (st == 2 || st == 3 || (st == 7 && !(s.lane n).acquired))

/-- A searcher's result, from the words where U should stand: a planned rate that differs keeps the lane in WAIT. -/
def searcherResult (n : Fin 1024) (rate : Fin 7) (words : SyncPair) (s : Dev) : Dev :=
  let planned := s.get (R.LNK_LINE_CFG_rate_code n)
  match syncMatch (s.syncTol n) syncU words with
  | none => s
  | some rev =>
    if s.acquiring n ∧ s.flag (R.LNK_LINE_STAT_searcher n) ∧ (rate : Nat) ≠ 0 ∧ (s.lane n).eff.loop ≠ 1 then
      if planned ≠ 0 ∧ planned ≠ rate then
        let s1 := ((s.set (R.LNK_LINE_STAT_found_rate n) rate).setB (R.LNK_LINE_STAT_mismatch n) true).raiseOf
          Ev.LNK_RATE_MISMATCH 10 n [(3, planned), (3, (rate : Nat))]
        (if s.laneState n = 7 then s1 else s1.setLaneState n 3).modLane n fun x => { x with acquired := false }
      else s.candidate n rate rev
    else s

def execSearcherResult (n : Fin 1024) (rate : Fin 7) (words : SyncPair) := act (searcherResult n rate words)

/-- The rate at which a lane without a searcher acquires: in a warm retrain, in a near-end loopback and in a WAIT that follows a lost phase the
one found before, else the planned one; 0 where there is none. -/
def Dev.syncRate (s : Dev) (n : Nat) : Nat :=
  let x := s.lane n
  if x.warmReq then s.get (R.LNK_LINE_STAT_found_rate n)
  else if x.eff.loop = 1 ∨ s.laneState n = 3 then s.laneRate n
  else s.get (R.LNK_LINE_CFG_rate_code n)

/-- A candidate accepted by sync word. In a near-end analog loopback the lane goes straight to its own P3 blocks (Table 6-5). -/
def syncAcquired (n : Fin 1024) (words : SyncPair) (s : Dev) : Dev :=
  match syncMatch (s.syncTol n) (s.syncWant n) words with
  | none => s
  | some rev =>
    if s.acquiring n ∧ !s.flag (R.LNK_LINE_STAT_searcher n) ∧ s.syncRate n ≠ 0 then
      let s1 := s.candidate n (s.syncRate n) rev
      if (s.lane n).eff.loop = 1 then
        ((s1.setLaneState n 6).modLane n fun x => { x with warm := false, gotP3 := true, far0 := false, phaseAt := s.time.clk, qAt := s.time.clk }).blocksStart n
      else s1
    else s

def execSyncAcquired (n : Fin 1024) (words : SyncPair) := act (syncAcquired n words)

/-- 100 ms in QUIET, ACQ and WAIT (R116). -/
def lnkAcqTimeout (n : Fin 1024) (s : Dev) : Dev :=
  let st := s.laneState n
  if 1 ≤ st ∧ st ≤ 3 ∧ !s.isPairOdd n ∧ s.elapsed (s.lane n).since 100 then
    (s.modLane n fun x => { x with since := s.time.clk }).stick (R.LNK_LINE_STAT_acq_to n) (·.raiseOf Ev.LNK_ACQ_TIMEOUT 10 n [])
  else s

def execLnkAcqTimeout (n : Fin 1024) := act (lnkAcqTimeout n)

/-! ### Training (R108–R112) -/

/-- The received hard decisions with the first bit of every symbol inverted for a reversed pair (R83, R115). -/
def Dev.unInvert (s : Dev) (n : Nat) (l : List Bool) : List Bool :=
  if s.flag (R.LNK_LINE_STAT_pol_inv n) then reversePair l else l

/-- A P1 block says when the radio's P1 ends: after the blocks that its count names (R108). -/
def Dev.p1Counts (n count : Nat) (s : Dev) : Dev :=
  s.modLane n fun x => { x with p1End := some (s.afterUi n s.time.clk (count * 1024)) }

/-- A P1 block is taken up, or the lane waits for the radio's next P1 (R110 step 2). -/
def Dev.takeUp (n count : Nat) (warm : Bool) (s : Dev) : Dev :=
  let s1 := s.laneLost n
  if (if warm then 16 else 512) ≤ count ∧ (!warm ∨ s.flag (R.LNK_LINE_STAT_warm_ok n)) then
    (((s1.leaveAcq n).setLaneState n 4).trainingStarts n warm).p1Counts n count
  else (s1.setLaneState n 3).modLane n fun x => { x with acquired := false }

/-- A training block with a good CRC, by the lane's state. -/
def Dev.trainingBlock (n count phase : Nat) (warm : Bool) (s : Dev) : Dev :=
  let st := s.laneState n
  let x := s.lane n
  if (st = 2 ∨ st = 3) ∧ x.acquired then
    if phase = 1 then s.takeUp n count warm
    else if phase = 0 ∧ s.isSplit n then (((s.leaveAcq n).setLaneState n 7).trainingStarts n warm).blocksStart n
    else s
  else if st = 4 ∧ phase = 1 then s.p1Counts n count
  else if (st = 5 ∨ st = 6 ∨ st = 8) ∧ phase = 1 then s.takeUp n count warm
  else if (st = 6 ∧ phase = 3) ∨ (st = 7 ∧ phase = 0) then
    ((s.leaveAcq n).modLane n fun y => { y with gotP3 := true, far0 := y.far0 || count == 0 }).laneUp n
  else s

/-- The lane holds line lock and reads training blocks on its grid alone. -/
def Dev.onGrid (s : Dev) (n : Nat) : Bool :=
  let st := s.laneState n
  decide (4 ≤ st) && (st != 7 || (s.lane n).acquired)

/-- A training block received. A lane that holds lock ignores U at any other position; in P1, P3 and SPLIT the sync word of an expected block is
counted for loss of lock; a block in sync adapts the coefficients; a bad CRC leaves the block unused (R94, R108, R117). -/
def trainingBlockReceive (n : Fin 1024) (hdr : BitVec 96) (grid : Bool) (s : Dev) : Dev :=
  let l := s.unInvert n (lsbBits 96 hdr.toNat)
  let st := s.laneState n
  let bad := decide (s.syncTol n < bitDiff (l.take 64) (s.syncWant n))
  if s.isPairOdd n ∨ (s.onGrid n ∧ !grid) ∨ (st = 7 ∧ !(s.lane n).acquired) then s
  else
    let s1 :=
      if st = 4 ∨ st = 6 ∨ st = 7 then s.modLane n fun x => { x with badRun := if bad then min (x.badRun + 1) 3 else 0 } else s
    if bad then s1
    else
      let s2 := if st = 4 ∨ st = 6 ∨ st = 7 then s1.adapt n true (st == 6) else s1
      if crc8 ((l.drop 64).take 24) ≠ fieldAt l 88 8 then s2
      else s2.trainingBlock n (fieldAt l 64 16) (fieldAt l 86 2) (l.getD 85 false)

def execTrainingBlockReceive (n : Fin 1024) (hdr : BitVec 96) (grid : Bool) := act (trainingBlockReceive n hdr grid)

/-- The device's P2 starts 1,024–2,048 UI after the radio's last P1 block as received (R110 step 4). -/
def p2Start (n : Fin 1024) (s : Dev) : Dev :=
  match (s.lane n).p1End with
  | some t =>
    if s.laneState n = 4 ∧ !s.isPairOdd n ∧ s.uiWindow n t 1024 2048 then
      ((s.setLaneState n 5).modLane n fun x => { x with phaseAt := s.time.clk }).blocksStart n
    else s
  | none => s

def execP2Start (n : Fin 1024) := act (p2Start n)

/-- The places of the four far sections in UI after launch, the strongest reflection first. -/
def farPlaces (p : EchoFar) : List Nat := [256 + p.p0, 256 + p.p1, 256 + p.p2, 256 + p.p3]

/-- P3 starts 1,024–2,048 UI after the last P2 block, at whose end LNK_ECHO is written and checked; only a cold P2 places the far sections (R93,
R94, R110 step 5). -/
def p3Start (n : Fin 1024) (erle rl : BitVec 8) (far : EchoFar) (s : Dev) : Dev :=
  let x := s.lane n
  let ui := s.ownBlocks n * 1024
  if s.laneState n = 5 ∧ !s.isPairOdd n ∧ s.uiWindow n x.phaseAt (ui + 1024) (ui + 2048) then
    let s1 := ((s.adapt n false true).set (R.LNK_ECHO_erle n) erle.toNat).set (R.LNK_ECHO_rl n) rl.toNat
    let s2 := if x.warm then s1 else (s1.set (R.LNK_ECHO_far_pos n) (256 + far.p0)).modLane n fun y => { y with far := farPlaces far }
    let least := if s.flag (R.LNK_LINE_CFG_reach n) then 52 else 55
    let s3 := if erle.toNat < least then s2.raiseOf Ev.LNK_ECHO_LOW 10 n [(8, erle.toNat)] else s2
    ((s3.setLaneState n 6).modLane n fun y =>
      { y with p2End := s.afterUi n x.phaseAt ui, phaseAt := s.time.clk, gotP3 := false, far0 := false, qAt := s.time.clk }).blocksStart n
  else s

def execP3Start (n : Fin 1024) (erle rl : BitVec 8) (far : EchoFar) := act (p3Start n erle rl far)

/-- The limits of R110 step 7: no P3 block, or no count-0 block, within 8,192 block times. A lane whose own and far count-0 blocks have both
passed starts its link frames. -/
def trainingTimeout (n : Fin 1024) (s : Dev) : Dev :=
  let x := s.lane n
  let limit := 8192 * 1024
  if s.isPairOdd n then s
  else if s.laneState n = 6 ∧ ((!x.gotP3 ∧ s.elapsedUi n x.p2End limit) ∨
      (!x.far0 ∧ s.elapsedUi n x.phaseAt (s.ownBlocks n * 1024 + limit))) then s.toQuiet n
  else s.laneUp n

def execTrainingTimeout (n : Fin 1024) := act (trainingTimeout n)

/-- Loss of line lock after three bad sync words in a row (R117, R123). -/
def lnkLol (n : Fin 1024) (s : Dev) : Dev :=
  let st := s.laneState n
  if 4 ≤ st ∧ !s.isPairOdd n ∧ 3 ≤ (s.lane n).badRun then
    let s1 := ((s.laneCount n (R.LNK_LOL n) (R.LNK_CNT_OVF n) 1).setB (R.LNK_LINE_STAT_lol n) true).raiseOf
      Ev.LNK_LOL 10 n [(4, st)]
    ((s1.laneLost n).toQuiet n).modLane n fun x => { x with warmReq := false }
  else s

def execLnkLol (n : Fin 1024) := act (lnkLol n)

/-! ### Decoding and quality (R102–R106) -/

/-- The effective iteration limit (R102). -/
def Dev.iterLimit (s : Dev) (n : Nat) : Nat :=
  let l := ldpcLimit (s.get (R.LNK_LINE_CFG_fec n))
  let m := s.get (R.LNK_LINE_CFG_max_iter n)
  if m = 0 ∨ l < m then l else m

/-- The soft slicer's word for the decoder: the received LLRs with the polarity corrected, or in a near-end digital loopback the ideal levels of the
next codeword that the lane's own mapper put out (R92, R115, Table 6-5); none where it put out no more. -/
def Dev.slicer (s : Dev) (n : Nat) (hard mag : Nat) : Option (List Bool × List Nat) :=
  let x := s.lane n
  if x.eff.loop = 2 then
    let own := (x.sent.drop (128 + 2048 * x.cws.length)).take 2048
    if own.length = 2048 then some (own, List.replicate 2048 15) else none
  else some (s.unInvert n (lsbBits 2048 hard), llrMags mag)

/-- The decoder's output for a word: the final decisions, whether they stand, and the iterations run. Under NONE the hard decisions pass (R104). -/
def Dev.decode (s : Dev) (n : Nat) (w : List Bool × List Nat) : List Bool × Bool × Nat :=
  let fec := s.get (R.LNK_LINE_CFG_fec n)
  if fec = 0 then (w.1, true, 0)
  else
    let q := minSum fec (s.iterLimit n) w.1 w.2
    (q.1, ldpcGood fec (lsbNat q.1), q.2)

/-- A codeword decoded: counted, flagged when its syndrome is not zero, and kept for its frame from the moment it leaves (R102–R104). -/
def codewordDecode (n : Fin 1024) (hard : BitVec 2048) (mag : BitVec 8192) (at_ : BitVec 68) (s : Dev) : Dev :=
  if s.laneState n ≠ 8 ∨ s.isPairOdd n then s
  else
    match s.slicer n hard.toNat mag.toNat with
    | none => s
    | some w =>
      let fec := s.get (R.LNK_LINE_CFG_fec n)
      let (d, good, iters) := s.decode n w
      let diff := bitDiff w.1 d
      let s1 := s.inc64 (R.LNK_CW_CNT n) 1
      let s2 := if good && diff != 0 then s1.inc64 (R.LNK_CW_CORR n) 1 else s1
      let s3 := s2.inc64 (R.LNK_BIT_CORR n) diff
      let s4 := if fec ≠ 0 ∧ (!good ∨ s.iterLimit n ≤ iters) then s3.inc64 (R.LNK_ITER_MAX n) 1 else s3
      let s5 :=
        if good then s4
        else (s4.laneCount n (R.LNK_CW_UNC n) (R.LNK_CNT_OVF n) 0).stick (R.LNK_LINE_STAT_cw_unc n)
          (·.raiseOf Ev.LNK_CW_UNCORR 10 n [])
      s5.modLane n fun x =>
        { x with cws := x.cws ++ [(d.take (64 * ldpcKb fec), !good)], leftAt := at_.toNat + fabricTc16 (decodeCycles fec) }

def execCodewordDecode (n : Fin 1024) (hard : BitVec 2048) (mag : BitVec 8192) (at_ : BitVec 68) := act (codewordDecode n hard mag at_)

/-- SNR_req in 0.001 dB (Table 4-9). -/
def snrReq (fec : Nat) : Int := if fec = 1 then 13700 else if fec = 2 then 10900 else 24900

/-- A figure in 0.1 dB, nearest with ties away from zero, from 0.001 dB (R105). -/
def dB10 (v : Int) : Int := divRound v 100

/-- The quality figures of an interval of 2^24 symbols (R105, R106). cap_margin lies from its whole 0.001 dB up to the next, so that its rounding
and the gap's are those of the exact value. -/
def qualityInterval (n : Fin 1024) (snr : BitVec 24) (bins : Vector (BitVec 32) 64) (ctle : BitVec 4) (enh : BitVec 8) (s : Dev) : Dev :=
  let x := s.lane n
  let st := s.laneState n
  let fec := s.get (R.LNK_LINE_CFG_fec n)
  if (st = 6 ∨ st = 8) ∧ !s.isPairOdd n ∧ s.elapsedUi n x.qAt (2 ^ 24) then
    let op := snr.toInt - snrReq fec
    let cap := capMargin (ldpcKb fec) (bins.toList.map (·.toNat))
    let fit := fun (v : Int) => satSigned 10 (dB10 v)
    let fitUp := fun (v : Int) => satSigned 10 ((v + 50) / 100)
    let s1 := ((s.set (R.LNK_QUAL0_snr n) (clampInt (dB10 snr.toInt) 0 1023).toNat).setS (R.LNK_QUAL0_op_margin n) (fit op)).setS
      (R.LNK_QUAL0_cap_margin n) (fitUp cap)
    let s2 := ((s1.setB (R.LNK_QUAL0_valid n) true).setS (R.LNK_QUAL1_gap n) (fitUp (cap - op))).set
      (R.LNK_QUAL1_ctle n) ctle.toNat |>.set (R.LNK_QUAL1_ffe_enh n) enh.toNat
    let low := decide (dB10 op < s.getS (R.LNK_QTHR_thr n))
    let s3 := s2.modLane n fun y => { y with qAt := s.time.clk, low := low }
    if low then
      let s4 := s3.setB (R.LNK_LINE_STAT_margin_low n) true
      if x.low then s4 else s4.raiseOf Ev.LNK_MARGIN_LOW 10 n [(10, fit op)]
    else s3
  else s

def execQualityInterval (n : Fin 1024) (snr : BitVec 24) (bins : Vector (BitVec 32) 64) (ctle : BitVec 4) (enh : BitVec 8) :=
  act (qualityInterval n snr bins ctle enh)

/-! ### Coefficient freeze round TDD commands (R96) -/

/-- The window of a TDD command opens, from 1 tick before its air time; windows that overlap merge. -/
def coefficientFreezeStart (n : Fin 1024) (s : Dev) : Dev :=
  let due := (s.link (s.linkOf n)).tddAir.filter fun t => decide (t ≤ s.time.cnt + tickTc) && decide (s.time.cnt < t + 4 * tickTc)
  if s.flag (R.LNK_LINE_CFG_tdd_frz_en n) && !due.isEmpty then
    s.modLane n fun x => { x with frozen := true, frzEnd := due.foldl (fun e t => max e (t + 4 * tickTc)) x.frzEnd }
  else s

def execCoefficientFreezeStart (n : Fin 1024) := act (coefficientFreezeStart n)

/-- The window ends, 4 ticks after the last command's air time. -/
def coefficientFreezeEnd (n : Fin 1024) (s : Dev) : Dev :=
  if (s.lane n).frozen ∧ (s.lane n).frzEnd ≤ s.time.cnt then s.modLane n fun x => { x with frozen := false } else s

def execCoefficientFreezeEnd (n : Fin 1024) := act (coefficientFreezeEnd n)

end Sys2Proof.Machine
end

