-- ==== Sys2Proof/Machine/Log.lean ====
section
/-!
DEFINITION. The log (R419–R422): entries on chip, the flash ring and the pinned area, and notifications to subscribers (R418).
-/

namespace Sys2Proof.Machine

/-! ### Entries (Table 18-6) -/

/-- The 32 bytes of an entry. -/
def LogRec.bytes (r : LogRec) : List Nat :=
  let e := r.ev
  let b := leBytes 8 e.air ++ leBytes 6 e.sec ++ leBytes 4 (e.ns % 2 ^ 30 + b2n r.pinned * 2 ^ 30 + b2n e.valid * 2 ^ 31) ++
    leBytes 2 e.code ++ leBytes 2 e.src ++ leBytes 8 e.data
  b ++ leBytes 2 (crc16 (b.flatMap (msbBits 8)))

/-- Bytes read back are an entry whose CRC holds. -/
def entryGood (b : List Nat) : Bool := b.length == 32 && leNat (b.drop 30) == crc16 ((b.take 30).flatMap (msbBits 8))

/-- An event that R422 pins whenever it comes. -/
def alwaysPinned (e : LogEvent) : Bool := e.code == Ev.MGT_CINCH_OPEN || e.code == Ev.MGT_CINCH_CLOSE || e.code == Ev.MGT_LOG_CLEAR

/-- An event that starts a re-placement of kind FAULT or RECOVER, a restart, an ENVIRONMENT STOP or a safe hold (R422). -/
def startsStop (e : LogEvent) : Bool :=
  e.noCode || (e.code == Ev.PLC_REPLACE_START && (e.data % 16 == 1 || e.data % 16 == 4)) || (e.code == Ev.PLC_REF_PERR && bit e.data 24) ||
    [Ev.MGT_LMEM_PERR, Ev.SYS_TRIAL_FAIL, Ev.SYS_PLL_UNLOCK, Ev.MGT_ENV_CLEAR, Ev.MGT_ENV_STOP, Ev.SYS_HOLD].contains e.code

/-! ### On chip (R420) -/

def Dev.setLog (l : LogSt) (s : Dev) : Dev :=
  (({ s with mgt := { s.mgt with log := l } }).set R.MGT_LOG_WAIT_n l.waiting.length).set R.MGT_LOG_WAIT_pin l.pinned.length

/-- The first entry that is not pinned, left out. -/
def dropOldest : List LogRec → Option (List LogRec)
  | [] => none
  | r :: l => if r.pinned then (dropOldest l).map (r :: ·) else some l

/-- An entry joins the ordinary queue, or is lost. -/
def Dev.logWait (r : LogRec) (s : Dev) : Dev :=
  let l := s.mgt.log
  let lose := fun (x : LogSt) (s : Dev) => (s.mgtCount R.MGT_LOG_DROP).setLog { x with lost := x.lost + 1 }
  if l.waiting.length < 4096 then s.setLog { l with waiting := l.waiting ++ [r], since := if l.waiting.isEmpty then s.time.clk else l.since }
  else
    match dropOldest l.waiting with
    | some q => lose { l with waiting := q ++ [r] } s
    | none => (lose l s).setB R.MGT_STAT_pin_full true

/-- An entry written to the on-chip log. -/
def Dev.logPut (e : LogEvent) (pinned : Bool) (s : Dev) : Dev :=
  let r : LogRec := ⟨e, s.rd64 R.MGT_LOG_SEQ, pinned⟩
  let s1 := s.inc64 R.MGT_LOG_SEQ 1
  let l := s1.mgt.log
  if pinned && decide (l.pinned.length < 64) then s1.setLog { l with pinned := l.pinned ++ [r] } else s1.logWait r

/-- The one MGT_LOG_DROP entry after losses, once there is a free place. -/
def Dev.logLosses (s : Dev) : Dev :=
  let l := s.mgt.log
  if 0 < l.lost ∧ l.waiting.length < 4096 then
    let s1 := s.setLog { l with lost := 0 }
    let s2 := s1.raise Ev.MGT_LOG_DROP [(32, l.lost)]
    match s2.raised.getLast? with
    | some e => ({ s2 with raised := s1.raised }).logPut e false
    | none => s2
  else s

/-! ### Notifications (R418) -/

/-- The subscription has lapsed. -/
def Dev.lapsed (s : Dev) (x : Subscription) : Bool := s.elapsed x.at_ 300000

/-- A notification to a subscriber, dropped beyond 64 in a second. Its cmd, tag and target are not given: free. -/
def Dev.notify (k : Nat) (body : List Nat) (s0 : Dev) : Dev :=
  match s0.mgt.subs[k]? with
  | none => s0
  | some x =>
    let s := s0.takeFree
    let w := fun (i n : Nat) => Config.freeNat s0.freeCtr i % 2 ^ n
    let sec := s.time.clk / hz
    let x1 := if x.sec = sec then x else { x with sec := sec, sent := 0 }
    if 64 ≤ x1.sent then ({ s with mgt := { s.mgt with subs := s.mgt.subs.set k x1 } }).mgtCount R.MGT_NTF_DROP
    else { s with mgt := { s.mgt with subs := s.mgt.subs.set k { x1 with sent := x1.sent + 1 }
                                      tx := s.mgt.tx ++ [(x.src, mgtHeader 2 (w 0 16) (w 1 32) body.length 0 (w 2 32) ++ body)] } }

/-- The oldest event that may be logged now, and the others. SYS_PLL_UNLOCK is logged once Laruri firmware runs (R458). -/
def Dev.nextEvent (s : Dev) : Option (LogEvent × List LogEvent) :=
  (s.raised.find? fun e => e.noCode || e.code != Ev.SYS_PLL_UNLOCK || s.firmware).map fun e => (e, s.raised.erase e)

/-- The oldest event raised goes to the on-chip log and to the subscribers of its block. -/
def logEntry (s : Dev) : Dev :=
  match s.nextEvent with
  | none => s
  | some (e, r) =>
    let first := !s.mgt.log.first && startsStop e
    let pin := alwaysPinned e || first
    let s0 : Dev := { s with raised := r, mgt := { s.mgt with tx := [] } }
    let s1 := (s0.logLosses).logPut e pin
    let s2 := if first then s1.setLog { s1.mgt.log with first := true } else s1
    let body := (LogRec.mk e 0 pin).bytes
    (List.range s2.mgt.subs.length).foldl (fun s k =>
      match s.mgt.subs[k]? with
      | some x => if x.mask.testBit (e.code / 1024) && !s.lapsed x then s.notify k body else s
      | none => s) s2

def execLogEntry := act logEntry

/-! ### Flash (R421, R422) -/

/-- The ring has 34 sectors of 2,048 entries, the pinned area 94. -/
def ringSectors : Nat := 34
def ringAt (slot : Nat) : Nat := 0x07800000 + slot * 32
def pinAt (slot : Nat) : Nat := 0x07A20000 + slot * 32
def pinSlots : Nat := 192512

/-- A span of flash erased. -/
def Dev.eraseFlash (a n : Nat) (s : Dev) : Dev := { s with flash := s.flash.filter fun e => decide (e.1 < a) || decide (a + n ≤ e.1) }

/-- The next sector of the ring that is not left out, after sector `k`; `n` bounds the search. -/
def LogSt.nextSector (l : LogSt) (k n : Nat) : Nat :=
  match n with
  | 0 => (k + 1) % ringSectors
  | n + 1 => if l.bad.contains ((k + 1) % ringSectors) then l.nextSector ((k + 1) % ringSectors) n else (k + 1) % ringSectors

/-- The head moves to the next sector, and the one ahead of it is erased. -/
def Dev.nextHead (s : Dev) : Dev :=
  let l := s.mgt.log
  let k := l.nextSector (l.head / 2048) ringSectors
  let a := l.nextSector k ringSectors
  (s.setLog { l with head := k * 2048 }).eraseFlash (ringAt (a * 2048)) 65536

/-- An entry written to the flash ring. -/
def Dev.ringLog (b : List Nat) (s : Dev) : Dev :=
  let h := s.mgt.log.head
  let s1 := s.setFbytes (ringAt h) b
  if (h + 1) % 2048 = 0 then s1.nextHead else s1.setLog { s1.mgt.log with head := h + 1 }

/-- An entry written to the pinned area, or turned away when it is full. -/
def Dev.pinLog (b : List Nat) (s : Dev) : Dev :=
  let p := s.mgt.log.pinHead
  if p < pinSlots then (s.setFbytes (pinAt p) b).setLog { s.mgt.log with pinHead := p + 1 }
  else if s.flag R.MGT_STAT_pin_full then s
  else (s.setB R.MGT_STAT_pin_full true).raise Ev.MGT_PIN_FULL []

/-- Every waiting entry copied to flash: pinned ones to the ring and to the pinned area. -/
def Dev.flushLog (s : Dev) : Dev :=
  let l := s.mgt.log
  let put := fun (s : Dev) (r : LogRec) => if r.pinned then (s.ringLog r.bytes).pinLog r.bytes else s.ringLog r.bytes
  let s1 := (l.pinned ++ l.waiting).foldl put s
  s1.setLog { s1.mgt.log with waiting := [], pinned := [] }

/-- A sector of the ring fails: it is left out, and the head moves on if it was the head's. -/
def Dev.badSector (erase : Bool) (s : Dev) : Dev :=
  let l := s.mgt.log
  let k := if erase then l.nextSector (l.head / 2048) ringSectors else l.head / 2048
  let s1 := (s.setLog { l with bad := l.bad ++ [k] }).raise Ev.MGT_FLASH_ERR [(32, ringAt (if erase then k * 2048 else l.head)), (1, b2n erase)]
  if erase then s1.eraseFlash (ringAt (s1.mgt.log.nextSector (l.head / 2048) ringSectors * 2048)) 65536 else s1.nextHead

/-- The waiting entries are copied once the firmware runs and the flash has its supply. -/
def logFlush (err : Option Bool) (s : Dev) : Dev :=
  let l := s.mgt.log
  if !s.firmware || s.mgt.noFlash || (l.waiting.isEmpty && l.pinned.isEmpty) then s
  else
    match err with
    | none => s.flushLog
    | some e => (s.badSector e).flushLog

def execLogFlush (err : Option Bool) := act (logFlush err)

/-- Entries on chip, newest first. -/
def Dev.chipLog (s : Dev) : List LogRec :=
  (s.mgt.log.pinned ++ s.mgt.log.waiting).foldl (fun l r => l.takeWhile (fun x => decide (r.seq < x.seq)) ++ r :: l.dropWhile (fun x => decide (r.seq < x.seq))) []

/-- Entries of the ring or the pinned area, newest first; entries that fail their CRC are skipped. The ring serves the newest 65,536. -/
def Dev.flashLog (s : Dev) (pinned : Bool) : List (List Nat) :=
  let n := ringSectors * 2048
  let slots :=
    if pinned then (List.range s.mgt.log.pinHead).reverse.map pinAt
    else (List.range n).map fun i => ringAt ((s.mgt.log.head + n - 1 - i) % n)
  let l := (slots.map fun a => s.fbytes a 32).filter entryGood
  if pinned then l else l.take 65536

end Sys2Proof.Machine
end

