-- ==== Sys2Proof/Machine/CodingBits.lean ====
section
/-!
DEFINITION. Coding arithmetic: the Gold sequence, constellations, LLRs, segmentation and rate matching. Where the spec cites 3GPP TS 38.211, 38.212,
36.211 and 36.212 the procedures are those standards' (PRESUMED from them).
-/

namespace Sys2Proof.Machine

/-! ### Jobs (Table 11-2) -/

def cOp (d : List Nat) : Nat := bits (dw d 0) 0 4
def cDead (d : List Nat) : Nat := dw d 2 + dw d 3 * 2 ^ 32
def cSrc (d : List Nat) : Nat := bits (dw d 4) 0 26
def cDst (d : List Nat) : Nat := bits (dw d 5) 0 26
def cRing (d : List Nat) : Nat := bits (dw d 6) 0 12
def cRd (d : List Nat) : Nat := bits (dw d 6) 12 1
def cNsym (d : List Nat) : Nat := bits (dw d 6) 13 4
def cNsc (d : List Nat) : Nat := bits (dw d 6) 17 12
def cTbs (d : List Nat) : Nat := bits (dw d 7) 0 21
def cQm (d : List Nat) : Nat := bits (dw d 7) 21 4
def cV (d : List Nat) : Nat := bits (dw d 7) 25 3
def cRv (d : List Nat) : Nat := bits (dw d 7) 28 2
def cBg (d : List Nat) : Nat := bits (dw d 7) 30 1
def cNew (d : List Nat) : Bool := bit (dw d 7) 31
def cG (d : List Nat) : Nat := bits (dw d 8) 0 24
def cCbgti (d : List Nat) : Nat := bits (dw d 8) 24 8
def cLim (d : List Nat) : Nat := bits (dw d 10) 0 20
def cMaxIt (d : List Nat) : Nat := bits (dw d 10) 20 5
def cHarq (d : List Nat) : Bool := bit (dw d 10) 25
def cHid (d : List Nat) : Nat := bits (dw d 11) 0 13
def cNent (d : List Nat) : Nat := bits (dw d 11) 0 8
def cSst (d : List Nat) : Nat := bits (dw d 12) 0 20
def cCring (d : List Nat) : Nat := bits (dw d 12) 20 12

/-- Bits per symbol of a modulation code (Table 11-3). -/
def qmBits (qm : Nat) : Nat := if qm = 0 then 1 else 2 * qm

/-! ### The Gold sequence (TS 38.211 clause 5.2.1) -/

/-- `n` steps of the two shift registers. -/
def goldStep (n x1 x2 : Nat) : Nat × Nat :=
  match n with
  | 0 => (x1, x2)
  | n + 1 =>
    let a := (bits x1 0 1 + bits x1 3 1) % 2
    let b := (bits x2 0 1 + bits x2 1 1 + bits x2 2 1 + bits x2 3 1) % 2
    goldStep n (x1 / 2 + a * 2 ^ 30) (x2 / 2 + b * 2 ^ 30)

/-- Bit `n` of the sequence from an initialisation. -/
def gold (cInit n : Nat) : Bool :=
  let q := goldStep (1600 + n) 1 cInit
  q.1 % 2 != q.2 % 2

/-! ### Square roots -/

/-- The integer square root of a number below 4^k. -/
def isqrt (k n : Nat) : Nat :=
  match k with
  | 0 => 0
  | k + 1 =>
    let r := 2 * isqrt k (n / 4)
    if (r + 1) * (r + 1) ≤ n then r + 1 else r

/-- a × k / √n to nearest, ties away from zero. -/
def overRoot (a k n : Nat) : Nat := (isqrt 40 (4 * a * a * k * k / n) + 1) / 2

/-! ### Constellations (R266, TS 38.211 clause 5.1) -/

/-- The level of one component from its bits, in units of 1/√n. -/
def level : List Bool → Int
  | [] => 0
  | [b] => if b then -1 else 1
  | b :: r => (if b then -1 else 1) * (2 ^ r.length - level r)

/-- n of a modulation code: a point's components are levels over √n. -/
def normOf (qm : Nat) : Nat := match qm with | 0 => 2 | 1 => 2 | 2 => 10 | 3 => 42 | 4 => 170 | _ => 682

/-- A point in levels: the I and the Q level of modulation symbol `i`. -/
def point (qm i : Nat) (l : List Bool) : Int × Int :=
  if qm = 0 then
    let s : Int := if l.headD false then -1 else 1
    if i % 2 = 0 then (s, s) else (-s, s)
  else
    let idx := l.mapIdx fun k b => (k, b)
    (level ((idx.filter fun p => p.1 % 2 == 0).map (·.2)), level ((idx.filter fun p => p.1 % 2 == 1).map (·.2)))

/-- round(amp × p / √m) of a level, saturated to 16 bits. -/
def ampLevel (amp n : Nat) (k : Int) : Int := satSigned 16 (k.sign * (overRoot amp k.natAbs n : Nat))

/-- Bits `k` of the levels of one component, highest first. -/
def levelBits (m v : Nat) : List Bool := msbBits m v

/-- 10^40 √n, the scale of exact comparisons. -/
def rootScale (n : Nat) : Nat := isqrt 140 (n * 10 ^ 80)

/-- The level nearest to y √n / ref among those whose bit `b` has a value. -/
def nearest (m b : Nat) (v : Bool) (y : Int) (ref n : Nat) : Int :=
  let u := y * rootScale n
  let ls := ((List.range (2 ^ m)).map (levelBits m)).filterMap fun l => if l.getD b false == v then some (level l) else none
  let cost := fun (k : Int) => (u - k * (ref * 10 ^ 40 : Nat)).natAbs
  match ls with
  | [] => 0
  | k :: r => r.foldl (fun best k => if cost k < cost best then k else best) k

/-- LLR of bit `b` of a component. -/
def llrOf (m b : Nat) (y : Int) (ref n w : Nat) : Int :=
  let k0 := nearest m b false y ref n
  let k1 := nearest m b true y ref n
  let num := (w : Int) * (k0 - k1) * (2 * y * rootScale n - (k0 + k1) * (ref * 10 ^ 40 : Nat))
  clampInt (divRound num (256 * n * ref * 10 ^ 40)) (-127) 127

/-- The LLRs of a value y against a reference amplitude, both in the same units. -/
def llrs (qm i : Nat) (y : Int × Int) (ref w : Nat) : List Int :=
  if qm = 0 then
    let (a, b) := point 0 i [false]
    let num := 4 * (w : Int) * (y.1 * a + y.2 * b) * rootScale 2
    [clampInt (divRound num (2 * 256 * ref * 10 ^ 40)) (-127) 127]
  else
    (List.range (qmBits qm)).map fun b => llrOf qm (b / 2) (if b % 2 = 0 then y.1 else y.2) ref (normOf qm) w

/-! ### Segmentation and rate matching (TS 38.212 clauses 5.2.2, 5.4.2; TS 36.212 clauses 5.1.2, 5.1.4.1) -/

/-- What one code block of a transport block is: C, information bits, its size K, N_cb, the filler positions' range in the circular buffer, the row size. -/
structure CodeBlock where
  c : Nat
  info : Nat
  k : Nat
  ncb : Nat
  null : List Nat
  start : Nat
deriving DecidableEq, Repr

/-- The 51 lifting sizes in ascending order. -/
def liftSizes : List Nat :=
  (nums 2 383).filter fun z => [2, 3, 5, 7, 9, 11, 13, 15].any fun a => (List.range 8).any fun j => a * 2 ^ j == z

/-- An LDPC job's code blocks; all are alike. -/
def ldpcBlock (d : List Nat) : CodeBlock :=
  let b := cTbs d + (if 3824 < cTbs d then 24 else 16)
  let kcb := if cBg d = 0 then 8448 else 3840
  let c := if b ≤ kcb then 1 else (b + kcb - 25) / (kcb - 24)
  let l := if c = 1 then 0 else 24
  let kp := (b + c * l) / c
  let kb := if cBg d = 0 then 22 else if 640 < b then 10 else if 560 < b then 9 else if 192 < b then 8 else 6
  let z := (liftSizes.find? fun z => decide (kp ≤ kb * z)).getD 384
  let k := (if cBg d = 0 then 22 else 10) * z
  let cols := if cBg d = 0 then 66 else 50
  let n := cols * z
  let ncb := if cLim d = 0 then n else min n (cLim d)
  let f := if cBg d = 0 then lget 0 [0, 17, 33, 56] (cRv d) else lget 0 [0, 13, 25, 43] (cRv d)
  ⟨c, kp - l, k, ncb, nums (kp - 2 * z) (k - kp), f * ncb / (cols * z) * z⟩

/-- The turbo block sizes at or above a number, least first. -/
def turboSize (b : Nat) : Nat :=
  if b ≤ 40 then 40
  else if b ≤ 512 then (b + 7) / 8 * 8
  else if b ≤ 1024 then (b + 15) / 16 * 16
  else if b ≤ 2048 then (b + 31) / 32 * 32
  else (b + 63) / 64 * 64

/-- The next smaller turbo block size. -/
def turboBelow (k : Nat) : Nat := if k ≤ 512 then k - 8 else if k ≤ 1024 then k - 16 else if k ≤ 2048 then k - 32 else k - 64

/-- The column permutation of the sub-block interleaver. -/
def subColumns : List Nat :=
  [0, 16, 8, 24, 4, 20, 12, 28, 2, 18, 10, 26, 6, 22, 14, 30, 1, 17, 9, 25, 5, 21, 13, 29, 3, 19, 11, 27, 7, 23, 15, 31]

/-- A turbo job's code block `r`. -/
def turboBlock (d : List Nat) (r : Nat) : CodeBlock :=
  let b := cTbs d + 24
  let c := if b ≤ 6144 then 1 else (b + 6119) / 6120
  let l := if c = 1 then 0 else 24
  let bp := b + c * l
  let kp := turboSize ((bp + c - 1) / c)
  let km := turboBelow kp
  let cm := if c = 1 then 0 else (c * kp - bp) / (kp - km)
  let k := if r < cm then km else kp
  let fill := if r = 0 then (c - cm) * kp + cm * km - bp else 0
  let rows := (k + 4 + 31) / 32
  let kpi := 32 * rows
  let nd := kpi - (k + 4)
  let kw := 3 * kpi
  let ncb := if cLim d = 0 then kw else min kw (cLim d)
  let at_ := fun (i : Nat) => lget 0 subColumns (i / rows) + 32 * (i % rows)
  let isNull := fun (p : Nat) =>
    if p < kpi then decide (at_ p < nd + fill)
    else if (p - kpi) % 2 = 0 then decide (at_ ((p - kpi) / 2) < nd + fill)
    else decide ((at_ ((p - kpi) / 2) + 1) % kpi < nd)
  ⟨c, k - fill - l, k, ncb, (List.range ncb).filter isNull, rows * (2 * ((ncb + 8 * rows - 1) / (8 * rows)) * cRv d + 2)⟩

/-- A decoding or encoding job's code block `r`: LDPC for ops 2 and 5, turbo for 3 and 6. -/
def codeBlock (d : List Nat) (r : Nat) : CodeBlock := if cOp d = 3 ∨ cOp d = 6 then turboBlock d r else ldpcBlock d

/-- The code blocks whose group is present in cbgti: up to eight groups. -/
def presentBlocks (d : List Nat) : List Nat :=
  let c := (codeBlock d 0).c
  let m := min 8 c
  let big := (c + m - 1) / m
  let m1 := c % m
  let group := fun (r : Nat) => if r < m1 * big then r / big else m1 + (r - m1 * big) / (c / m)
  (List.range c).filter fun r => bit (cCbgti d) (group r)

/-- The output length of the `i`-th of the `n` blocks present. -/
def blockLen (d : List Nat) (n i : Nat) : Nat :=
  let u := cV d * qmBits (cQm d)
  let g := cG d / u
  if i + g % n < n then u * (g / n) else u * ((g + n - 1) / n)

/-- The circular-buffer positions of a block's output bits, filler left out, repeated as often as needed. -/
def bufferOrder (b : CodeBlock) : List Nat := ((List.range b.ncb).map fun i => (b.start + i) % b.ncb).filter fun p => !b.null.contains p

/-- Sum of two LLRs saturated at ±127. -/
def satLlr (a b : Int) : Int := clampInt (a + b) (-127) 127

end Sys2Proof.Machine
end

