-- ==== Sys2Proof/Machine/CodingCodes.lean ====
section
/-!
DEFINITION. The codes of Table 11-5 (R271–R274): CRCs, NR LDPC, E-UTRA turbo, NR polar and E-UTRA tail-biting convolutional. The procedures are those of the clauses that
the spec cites (PRESUMED from them); their long tables, which the spec does not retell, are constants of `Config` without a body.
-/

namespace Sys2Proof.Machine

/-! ### CRCs (TS 38.212 clause 5.1) -/

/-- The `w` CRC bits of a generator over bits, the highest first. -/
def crcOf (w poly : Nat) (l : List Bool) : List Bool := msbBits w (crcBits w poly 0 l)
def crc24a : List Bool → List Bool := crcOf 24 0x864CFB
def crc24b : List Bool → List Bool := crcOf 24 0x800063
def crc24c : List Bool → List Bool := crcOf 24 0xB2B117
def crcCcitt : List Bool → List Bool := crcOf 16 0x1021

/-- Bits added modulo 2, place by place. -/
def xorBits (a b : List Bool) : List Bool := (a.zip b).map fun p => p.1 != p.2

/-- The last sixteen bits masked with an RNTI. -/
def maskRnti (rnti : Nat) (l : List Bool) : List Bool :=
  let n := l.length - 16
  l.take n ++ xorBits (l.drop n) (msbBits 16 rnti)

/-- The CRC of a transport block: CRC24A, or CRC16 of a short one under NR. -/
def tbCrc (turbo : Bool) (l : List Bool) : List Bool := if turbo || decide (3824 < l.length) then crc24a l else crcCcitt l

/-- A transport block with its CRC passes. -/
def tbGood (turbo : Bool) (tbs : Nat) (l : List Bool) : Bool := tbCrc turbo (l.take tbs) == l.drop tbs

/-- The information bits of code block `r` of a transport block with its CRC, and the CRC24B that it carries where there are several. -/
def blockBits (d : List Nat) (tb : List Bool) (r : Nat) : List Bool :=
  let before := ((List.range r).map fun i => (codeBlock d i).info).foldl (· + ·) 0
  let b := codeBlock d r
  let l := (tb.drop before).take b.info
  if b.c = 1 then l else l ++ crc24b l

/-- A code block's own CRC passes over its bits with their CRC; the transport block's, with one code block. -/
def blockGood (d : List Nat) (r : Nat) (l : List Bool) : Bool :=
  let b := codeBlock d r
  if b.c = 1 then tbGood (cOp d == 3) (cTbs d) l else crc24b (l.take b.info) == l.drop b.info

/-! ### NR LDPC (TS 38.212 clause 5.3.2) -/

/-- The lifting size of a job. -/
def liftOf (d : List Nat) : Nat := (ldpcBlock d).k / (if cBg d = 0 then 22 else 10)

/-- The set that a lifting size belongs to, 0–7. -/
def liftSet (z : Nat) : Nat := ([2, 3, 5, 7, 9, 11, 13, 15].findIdx? fun a => (List.range 8).any fun j => a * 2 ^ j == z).getD 0

/-- Information columns of a base graph; rows. -/
def infoCols (bg : Nat) : Nat := if bg = 0 then 22 else 10
def graphRows (bg : Nat) : Nat := if bg = 0 then 46 else 42

/-- The places of the code bits in check `t` of row `i`. -/
def nrCheck (bg z i t : Nat) : List Nat :=
  (List.range (infoCols bg + graphRows bg)).filterMap fun c => (Config.nrShift bg (liftSet z) i c).map fun v => c * z + (t + v) % z

/-- The sum of the known bits in check `t` of row `i`. -/
def rowSum (bg z i : Nat) (known : List Bool) (t : Nat) : Bool :=
  (nrCheck bg z i t).foldl (fun a p => a != known.getD p false) false

/-- The bits of column `c` that row `i` gives from the bits before that column. -/
def solveCol (bg z i c : Nat) (known : List Bool) : List Bool :=
  let v := (Config.nrShift bg (liftSet z) i c).getD 0
  (List.range z).map fun j => rowSum bg z i known ((j + z - v % z) % z)

/-- A codeword: the information bits, with filler as zeros, and the parity bits column by column. The first core column comes of the sum of the four core
rows, in which the other core columns cancel and its own shift stays that one row or three rows give it. -/
def nrEncode (bg z : Nat) (info : List Bool) : List Bool :=
  let kb := infoCols bg
  let shifts := (List.range 4).filterMap fun i => Config.nrShift bg (liftSet z) i kb
  let v := (shifts.find? fun v => shifts.count v % 2 == 1).getD 0
  let sum := fun (t : Nat) => (List.range 4).foldl (fun a i => a != rowSum bg z i info t) false
  let p0 := (List.range z).map fun j => sum ((j + z - v % z) % z)
  let core := (List.range 3).foldl (fun w i => w ++ solveCol bg z i (kb + 1 + i) w) (info ++ p0)
  (nums 4 (graphRows bg - 4)).foldl (fun w i => w ++ solveCol bg z i (kb + i) w) core

/-- The checks that a decoder processes: those of the core rows, and of each extension row whose parity column holds a combined LLR that is not zero (R272). -/
def activeChecks (bg z : Nat) (post : List Int) : List (List Nat) :=
  let rows := (List.range (graphRows bg)).filter fun i =>
    decide (i < 4) || ((post.drop ((infoCols bg + i) * z)).take z).any (· != 0)
  rows.flatMap fun i => (List.range z).map fun t => nrCheck bg z i t

/-- The parity of every check is even. -/
def syndromeZero (checks : List (List Nat)) (l : List Bool) : Bool :=
  checks.all fun ps => !(ps.foldl (fun a p => a != l.getD p false) false)

/-- A code block decoded from its combined LLRs by circular-buffer position (R272): passed, iterations, its information bits. -/
def nrDecode (d : List Nat) (limit : Nat) (llr : List Int) : Bool × Nat × List Bool :=
  let b := ldpcBlock d
  let z := liftOf d
  let n := (infoCols (cBg d) + graphRows (cBg d)) * z
  let post := List.replicate (2 * z) 0 ++ llr ++ List.replicate (n - 2 * z - llr.length) 0
  let checks := activeChecks (cBg d) z post
  let q := minSumRun 127 1 checks (syndromeZero checks) limit 0 post.toArray (checks.map fun ps => ps.map fun _ => 0)
  (syndromeZero checks q.1 && blockGood d 0 (q.1.take (b.info + if b.c = 1 then 0 else 24)), q.2, q.1.take b.info)

/-! ### Rate matching of LDPC and turbo code blocks -/

/-- The output bits of a code block from its coded bits by circular-buffer position, `e` of them. -/
def rateMatch (b : CodeBlock) (e : Nat) (w : List Bool) : List Bool :=
  let ord := bufferOrder b
  (List.range e).map fun k => w.getD (lget 0 ord (k % ord.length)) false

/-- The bit interleaver of `q` rows. -/
def bitInterleave (q : Nat) (l : List Bool) : List Bool :=
  (List.range l.length).map fun j => l.getD (j % q * (l.length / q) + j / q) false

/-! ### E-UTRA turbo (TS 36.212 clauses 5.1.3.2, 5.1.4.1) -/

/-- The internal interleaver: the input place of output place `i`. -/
def qppAt (k i : Nat) : Nat := let f := Config.qpp k; (f.1 * i + f.2 * i * i) % k

/-- One step of a constituent encoder: its parity bit and its next state, s1 + 2 s2 + 4 s3. -/
def rscStep (st : Nat) (u : Bool) : Bool × Nat :=
  let a := u != (bit st 1 != bit st 2)
  (a != (bit st 0 != bit st 2), b2n a + st % 4 * 2)

/-- Parity bits of a constituent encoder over its input, then the bits and parities of the three steps that end it. -/
def rscEncode (st : Nat) : List Bool → List Bool × List (Bool × Bool)
  | [] =>
    let tail := (List.range 3).foldl (fun (q : Nat × List (Bool × Bool)) _ =>
      let u := bit q.1 1 != bit q.1 2
      let r := rscStep q.1 u
      (r.2, q.2 ++ [(u, r.1)])) (st, [])
    ([], tail.2)
  | u :: l =>
    let r := rscStep st u
    let q := rscEncode r.2 l
    (r.1 :: q.1, q.2)

/-- The three streams of K + 4 bits. -/
def turboStreams (l : List Bool) : List (List Bool) :=
  let a := rscEncode 0 l
  let b := rscEncode 0 ((List.range l.length).map fun i => l.getD (qppAt l.length i) false)
  let x := fun (t : List (Bool × Bool)) (i : Nat) => (lget (false, false) t i).1
  let z := fun (t : List (Bool × Bool)) (i : Nat) => (lget (false, false) t i).2
  [l ++ [x a.2 0, z a.2 1, x b.2 0, z b.2 1],
   a.1 ++ [z a.2 0, x a.2 2, z b.2 0, x b.2 2],
   b.1 ++ [x a.2 1, z a.2 2, x b.2 1, z b.2 2]]

/-- The stream and the place in it of a circular-buffer position; none for a dummy. -/
def turboPos (k p : Nat) : Option (Nat × Nat) :=
  let rows := (k + 4 + 31) / 32
  let kpi := 32 * rows
  let nd := kpi - (k + 4)
  let at_ := fun (i : Nat) => lget 0 subColumns (i / rows) + 32 * (i % rows)
  let q := if p < kpi then (0, at_ p) else if (p - kpi) % 2 = 0 then (1, at_ ((p - kpi) / 2)) else (2, (at_ ((p - kpi) / 2) + 1) % kpi)
  if q.2 < nd then none else some (q.1, q.2 - nd)

/-- Filler bits of a turbo code block. -/
def turboFill (d : List Nat) (r : Nat) : Nat := let b := turboBlock d r; b.k - b.info - if b.c = 1 then 0 else 24

/-- A circular-buffer position holds a filler bit. -/
def isFiller (d : List Nat) (r p : Nat) : Bool :=
  if cOp d = 3 ∨ cOp d = 6 then
    match turboPos (turboBlock d r).k p with
    | some (st, i) => decide (st < 2) && decide (i < turboFill d r)
    | none => false
  else (ldpcBlock d).null.contains p

/-- An impossible path metric. -/
def farMetric : Int := -(2 ^ 60)

/-- Path metrics after one step of the trellis, forward: `ls` the systematic and a priori LLR, `lp` the parity LLR. -/
def stepForward (ls lp : Int) (m : List Int) : List Int :=
  (List.range 8).map fun nx => (List.range 16).foldl (fun best i =>
    let st := i / 2
    let u := i % 2 == 1
    let r := rscStep st u
    if r.2 = nx then max best (lget farMetric m st + (if u then -ls else ls) + (if r.1 then -lp else lp)) else best) farMetric

/-- Path metrics before one step, backward. -/
def stepBack (ls lp : Int) (m : List Int) : List Int :=
  (List.range 8).map fun st => (List.range 2).foldl (fun best i =>
    let u := i == 1
    let r := rscStep st u
    max best (lget farMetric m r.2 + (if u then -ls else ls) + (if r.1 then -lp else lp))) farMetric

/-- Metrics before each step, forward; and after each step, backward. -/
def allForward (m : List Int) : List (Int × Int) → List (List Int)
  | [] => []
  | (a, b) :: r => m :: allForward (stepForward a b m) r
def allBack (l : List (Int × Int)) : List (List Int) :=
  match l with
  | [] => []
  | _ :: r =>
    let q := allBack r
    (match r, q with
      | (a, b) :: _, m :: _ => stepBack a b m
      | _, _ => 0 :: List.replicate 7 farMetric) :: q

/-- The LLRs that max-log-MAP gives for the steps of a terminated trellis. -/
def maxLogMap (l : List (Int × Int)) : List Int :=
  let f := allForward (0 :: List.replicate 7 farMetric) l
  let b := allBack l
  (l.zip (f.zip b)).map fun q =>
    let best := fun (u : Bool) => (List.range 8).foldl (fun best st =>
      let r := rscStep st u
      max best (lget farMetric q.2.1 st + (if u then -q.1.1 else q.1.1) + (if r.1 then -q.1.2 else q.1.2) + lget farMetric q.2.2 r.2)) (2 * farMetric)
    (best false - best true) / 2

/-- An extrinsic LLR times 0.75. -/
def extrinsic (v : Int) : Int := v.sign * (scale34 2 v.natAbs : Nat)

/-- One constituent decoder over `k` steps and its three tail steps: the LLRs of its input bits. -/
def siso (k : Nat) (sys par apr : List Int) (tail : List (Int × Int)) : List Int :=
  (maxLogMap (((sys.zip apr).map fun p => p.1 + p.2).zip par ++ tail)).take k

/-- Full iterations until a code block's CRC passes or the limit is reached: passed, iterations, the decided bits. -/
def turboRun (good : List Bool → Bool) (k : Nat) (sys p1 p2 : List Int) (t1 t2 : List (Int × Int)) (n it : Nat) (apr : List Int) : Bool × Nat × List Bool :=
  match n with
  | 0 => (false, it, [])
  | n + 1 =>
    let l1 := siso k sys p1 apr t1
    let e1 := (List.range k).map fun i => extrinsic (lget 0 l1 i - lget 0 sys i - lget 0 apr i)
    let perm := (List.range k).map (qppAt k)
    let sys2 := perm.map (lget 0 sys)
    let apr2 := perm.map (lget 0 e1)
    let l2 := siso k sys2 p2 apr2 t2
    let at_ := fun (l : List Int) (i : Nat) => lget 0 l (perm.findIdx (· == i))
    let out := (List.range k).map fun i => decide (at_ l2 i < 0)
    if good out then (true, it + 1, out)
    else if n = 0 then (false, it + 1, out)
    else
      let e2 := (List.range k).map fun i => extrinsic (lget 0 l2 i - lget 0 sys2 i - lget 0 apr2 i)
      turboRun good k sys p1 p2 t1 t2 n (it + 1) ((List.range k).map (at_ e2))

/-- A turbo code block decoded from its combined LLRs by circular-buffer position (R273): passed, iterations, its information bits. -/
def turboDecode (d : List Nat) (r limit : Nat) (llr : List Int) : Bool × Nat × List Bool :=
  let b := turboBlock d r
  let fill := turboFill d r
  let stream := fun (st : Nat) =>
    (List.range b.ncb).foldl (fun (a : List Int) p => match turboPos b.k p with
      | some (q, i) => if q = st then a.set i (lget 0 llr p) else a
      | none => a) (List.replicate (b.k + 4) (0 : Int))
  let s0 := stream 0
  let s1 := stream 1
  let s2 := stream 2
  let k := b.k
  let t := fun (l : List Int) (i : Nat) => lget 0 l (k + i)
  let t1 := [(t s0 0, t s1 0), (t s2 0, t s0 1), (t s1 1, t s2 1)]
  let t2 := [(t s0 2, t s1 2), (t s2 2, t s0 3), (t s1 3, t s2 3)]
  let q := turboRun (fun l => blockGood d r (l.drop fill)) k (s0.take k) (s1.take k) (s2.take k) t1 t2 limit 0 (List.replicate k 0)
  (q.1, q.2.1, (q.2.2.drop fill).take b.info)

/-- A code block decoded (R272, R273). -/
def decodeCb (d : List Nat) (r limit : Nat) (llr : List Int) : Bool × Nat × List Bool :=
  if cOp d = 3 then turboDecode d r limit llr else nrDecode d limit llr

/-- The coded bits of code block `r` by circular-buffer position. -/
def codedCb (d : List Nat) (r : Nat) (l : List Bool) : List Bool :=
  let b := codeBlock d r
  if cOp d = 6 then
    let q := turboStreams (List.replicate (turboFill d r) false ++ l)
    (List.range b.ncb).map fun p => match turboPos b.k p with | some (st, i) => (lget [] q st).getD i false | none => false
  else
    let z := liftOf d
    (nrEncode (cBg d) z (l ++ List.replicate (b.k - l.length) false)).drop (2 * z)

/-- Bits scrambled from a place of the Gold sequence. -/
def scrambled (d : List Nat) (ofs : Nat) (l : List Bool) : List Bool :=
  if bit (dw d 9) 31 then l.mapIdx fun i b => b != gold (bits (dw d 9) 0 31) (ofs + i) else l

/-- The G bits of an ENCODE_LDPC or ENCODE_TURBO job from its payload (R274). -/
def encodeTb (d : List Nat) (payload : List Bool) : List Bool :=
  let tb := payload ++ tbCrc (cOp d == 6) payload
  let present := presentBlocks d
  let one := fun (i r : Nat) =>
    let l := rateMatch (codeBlock d r) (blockLen d present.length i) (codedCb d r (blockBits d tb r))
    if cOp d = 6 then l else bitInterleave (qmBits (cQm d)) l
  scrambled d 0 ((present.mapIdx one).flatten)

/-! ### NR polar (TS 38.212 clauses 5.2.1, 5.3.1, 5.4.1, 6.3.1.2, 7.1, 7.3) -/

def pDl (d : List Nat) : Bool := bit (dw d 13) 18
def pCrc (d : List Nat) : Nat := bits (dw d 13) 16 2
def pRnti (d : List Nat) : Nat := bits (dw d 13) 0 16
def pOfs (d : List Nat) : Nat := bits (dw d 15) 0 16

/-- Segments of a polar job. -/
def polarSegs (d : List Nat) : Nat := if !pDl d && ((360 ≤ cTbs d && 1088 ≤ cG d) || 1013 ≤ cTbs d) then 2 else 1

/-- The CRC bits of a segment's payload: CRC6 or CRC11 by A; CRC24C; CRC24C after 24 ones and masked with the RNTI. -/
def polarCrc (d : List Nat) (l : List Bool) : List Bool :=
  match pCrc d with
  | 0 => if cTbs d < 20 then crcOf 6 0x21 l else crcOf 11 0x621 l
  | 1 => crc24c l
  | _ => maskRnti (pRnti d) (crc24c (List.replicate 24 true ++ l))

/-- Payload bits of a segment, a leading zero included where A is odd. -/
def polarPay (d : List Nat) : Nat := (cTbs d + polarSegs d - 1) / polarSegs d
/-- CRC bits of a segment; its length with them. -/
def polarL (d : List Nat) : Nat := if pCrc d = 0 then (if cTbs d < 20 then 6 else 11) else 24
def polarK (d : List Nat) : Nat := polarPay d + polarL d
/-- Output bits of a segment. -/
def polarE (d : List Nat) : Nat := cG d / polarSegs d

/-- The least n with 2^n at or above a number. -/
def ceilLog (n : Nat) : Nat := ((List.range 32).find? fun i => decide (n ≤ 2 ^ i)).getD 32

/-- log2 of the mother code length. -/
def polarLog (d : List Nat) : Nat :=
  let e := polarE d
  let k := polarK d
  let c := ceilLog e
  let n1 := if 8 * e ≤ 9 * 2 ^ (c - 1) ∧ 16 * k < 9 * e then c - 1 else c
  max 5 (min (min n1 (ceilLog (8 * k))) (if pDl d then 9 else 10))

/-- The sub-block interleaver's pattern; the place that output place `i` comes from. -/
def polarSub : List Nat :=
  [0, 1, 2, 4, 3, 5, 6, 7, 8, 16, 9, 17, 10, 18, 11, 19, 12, 20, 13, 21, 14, 22, 15, 23, 24, 25, 26, 28, 27, 29, 30, 31]
def polarJ (n i : Nat) : Nat := lget 0 polarSub (32 * i / n) * (n / 32) + i % (n / 32)

/-- The code punctures its first bits; it shortens otherwise. -/
def polarPunctures (d : List Nat) : Bool := decide (16 * polarK d ≤ 7 * polarE d)

/-- Parity check bits; how many of them have least row weight. -/
def polarPc (d : List Nat) : Nat := if 18 ≤ polarK d ∧ polarK d ≤ 25 then 3 else 0
def polarWm (d : List Nat) : Nat := if 0 < polarPc d ∧ 189 < (polarE d : Int) - polarK d then 1 else 0

/-- Places of information and parity check bits, the least reliable first. -/
def polarInfo (d : List Nat) : List Nat :=
  let n := 2 ^ polarLog d
  let e := polarE d
  let out := (List.range n).filter fun i => decide (e < n) && (if polarPunctures d then decide (i < n - e) else decide (e ≤ i))
  let low := if e < n ∧ polarPunctures d then (if 3 * n ≤ 4 * e then (3 * n - 2 * e + 3) / 4 else (9 * n - 4 * e + 15) / 16) else 0
  let frozen := out.map (polarJ n)
  let l := ((List.range 1024).map Config.polarOrder).filter fun p => decide (p < n) && decide (low ≤ p) && !frozen.contains p
  l.drop (l.length - (polarK d + polarPc d))

/-- Ones of a place's number: the log2 of its row weight. -/
def onesOf (p : Nat) : Nat := ((List.range 10).filter (bit p)).length

/-- Places of parity check bits. -/
def polarPcAt (d : List Nat) : List Nat :=
  let l := polarInfo d
  let a := polarPc d - polarWm d
  let rest := l.drop (polarPc d)
  let least := rest.foldl (fun m p => min m (onesOf p)) 10
  l.take a ++ (if polarWm d = 0 then [] else ((rest.filter fun p => onesOf p == least).getLast?).toList)

/-- Bits before the transform. -/
def polarU (d : List Nat) (c : List Bool) : List Bool :=
  let info := polarInfo d
  let pc := polarPcAt d
  ((List.range (2 ^ polarLog d)).foldl (fun (q : List Bool × List Bool × List Bool) p =>
    let y := q.2.1.drop 1 ++ q.2.1.take 1
    if !info.contains p then (q.1 ++ [false], y, q.2.2)
    else
      let u := if pc.contains p then y.headD false else q.2.2.headD false
      let y' := if pc.contains p then y else (y.headD false != u) :: y.drop 1
      (q.1 ++ [u], y', if pc.contains p then q.2.2 else q.2.2.drop 1)) ([], List.replicate 5 false, c)).1

/-- The transform. -/
def polarTransform (u : List Bool) : List Bool :=
  (List.range u.length).map fun j => (u.mapIdx fun i b => (i, b)).foldl (fun a e => a != (e.2 && Nat.land e.1 j == j)) false

/-- The order of the channel interleaver of `e` bits: a triangle written by rows and read by columns. -/
def triangle (e : Nat) : List Nat :=
  let t := ((List.range 200).find? fun t => decide (2 * e ≤ t * (t + 1))).getD 200
  let start := fun (i : Nat) => i * t - i * (i - 1) / 2
  (List.range t).flatMap fun j => (List.range (t - j)).filterMap fun i => let p := start i + j; if p < e then some p else none

/-- A segment's output bits from its bits with their CRC. -/
def polarSegment (d : List Nat) (c : List Bool) : List Bool :=
  let k := polarK d
  let n := 2 ^ polarLog d
  let e := polarE d
  let c1 := if pDl d then
      ((List.range 164).filterMap fun m => let p := Config.polarIl m; if 164 - k ≤ p then some (c.getD (p - (164 - k)) false) else none)
    else c
  let x := polarTransform (polarU d c1)
  let y := (List.range n).map fun i => x.getD (polarJ n i) false
  let o := (List.range e).map fun i => y.getD (if n ≤ e then i % n else if polarPunctures d then i + n - e else i) false
  if pDl d then o else (triangle e).map fun p => o.getD p false

/-- The payload of each segment. -/
def polarPays (d : List Nat) (l : List Bool) : List (List Bool) :=
  let n := polarPay d
  let a := List.replicate (n * polarSegs d - l.length) false ++ l
  (List.range (polarSegs d)).map fun i => (a.drop (i * n)).take n

/-- The bits of an ENCODE_POLAR job (R274). -/
def encodePolarBits (d : List Nat) (payload : List Bool) : List Bool :=
  scrambled d (pOfs d) ((polarPays d payload).flatMap fun l => polarSegment d (l ++ polarCrc d l))

/-- A polar job decoded (R273): its A bits, and whether every segment's CRC passes. What the list decoder gives for a segment is an uninterpreted function of its LLRs. -/
def decodePolarBits (d : List Nat) (llr : List Int) : List Bool × Bool :=
  let x := llr.mapIdx fun i v => if bit (dw d 9) 31 && gold (bits (dw d 9) 0 31) (pOfs d + i) then -v else v
  let segs := (List.range (polarSegs d)).map fun i =>
    lsbBits (polarK d) (Config.polarList [cTbs d, cG d, pCrc d, b2n (pDl d), pRnti d] ((x.drop (i * polarE d)).take (polarE d)))
  let pays := segs.map (·.take (polarPay d))
  ((pays.flatten).drop (polarPay d * polarSegs d - cTbs d), segs.all fun l => polarCrc d (l.take (polarPay d)) == l.drop (polarPay d))

/-! ### E-UTRA tail-biting convolutional code (TS 36.212 clauses 5.1.3.1, 5.1.4.2) -/

/-- One stream of the encoder from a generator of 7 places. -/
def tbccStream (g : List Bool) (c : List Bool) : List Bool :=
  (List.range c.length).map fun k =>
    (List.range 7).foldl (fun a j => a != (g.getD j false && c.getD ((k + 7 * c.length - j) % c.length) false)) false

/-- The E bits of an ENCODE_TBCC job (R274). -/
def encodeTbccBits (d : List Nat) (payload : List Bool) : List Bool :=
  let c := payload ++ match pCrc d with
    | 0 => crcCcitt payload
    | 1 => maskRnti (pRnti d) (crcCcitt payload)
    | _ => []
  let n := c.length
  let rows := (n + 31) / 32
  let nd := 32 * rows - n
  let cols := (nums 16 16).map (lget 0 subColumns) ++ (List.range 16).map (lget 0 subColumns)
  let order := (List.range (32 * rows)).filterMap fun i =>
    let p := lget 0 cols (i / rows) + 32 * (i % rows)
    if p < nd then none else some (p - nd)
  let w := [0o133, 0o171, 0o165].flatMap fun g =>
    let l := tbccStream (msbBits 7 g) c
    order.map fun p => l.getD p false
  scrambled d (pOfs d) ((List.range (cG d)).map fun k => w.getD (k % w.length) false)

end Sys2Proof.Machine
end

