-- ==== Sys2Proof/Machine/FexPath.lean ====
section
/-!
DEFINITION. What the front end computes of samples: the transforms of a symbol (R218, R224), and the way of a downlink sample from its views through filter and
predistortion to the crossbar (R213, R214, R224, R226). Transforms are exact but for a free error within the accuracy that R218 gives.
-/

namespace Sys2Proof.Machine

/-! ### Tables in cluster memory -/

/-- A cluster's first register. -/
def clBase (cl : Nat) : Nat := 0x308010000 + cl * 0x10000
/-- Word `w` of a slot descriptor (Table 9-2). -/
def slotAddr (cl slot w : Nat) : Nat := clBase cl + 0x8000 + slot * 0x40 + w * 4
def Dev.sd (s : Dev) (cl slot w : Nat) : Nat := s.rd (slotAddr cl slot w)
/-- Coefficient `i` of a predistortion bank. -/
def dpdAddr (cl slot : Nat) (bank : Bool) (i : Nat) : Nat := clBase cl + 0xC000 + slot * 0x80 + b2n bank * 0x40 + i * 4
/-- The word that holds coefficients 2i and 2i + 1 of a filter profile. -/
def filtAddr (cl f i : Nat) : Nat := clBase cl + 0xA400 + f * 0x40 + i * 4

def Dev.fslot (s : Dev) (cl slot : Nat) : FexSlot := tget {} s.fex.slot (cl * 128 + slot)
def Dev.modFslot (cl slot : Nat) (f : FexSlot → FexSlot) (s : Dev) : Dev :=
  { s with fex := { s.fex with slot := tput {} s.fex.slot (cl * 128 + slot) (f (s.fslot cl slot)) } }

/-- The power domain of a cluster is on. -/
def Dev.fexOn (s : Dev) (cl : Nat) : Bool := s.domOn (if cl < 9 then 44 else 45)

/-- Saturated outputs counted; the first since the bit was cleared is logged (R218, R226). -/
def Dev.fexSat (cl slot n : Nat) (s : Dev) : Dev :=
  let s1 := s.inc64 (R.FEX_SAT cl) n
  if n = 0 then s1 else s1.stick (R.FEX_CL_STAT_sat cl) (·.raiseOf Ev.FEX_SAT 5 cl [(7, slot)])

/-! ### Complex numbers -/

/-- I and Q of a cint16 word. -/
def cpx (v : Nat) : Int × Int := (toSigned 16 (v % 2 ^ 16), toSigned 16 (v / 2 ^ 16 % 2 ^ 16))
def clamp16 (v : Int) : Int := clampInt v (-32768) 32767
def cpxClamp (z : Int × Int) : Int × Int := (clamp16 z.1, clamp16 z.2)
/-- A cint16 word of I and Q in range. -/
def cint16 (z : Int × Int) : Nat := toBits 16 z.1 + toBits 16 z.2 * 2 ^ 16
def cpxAdd (a b : Int × Int) : Int × Int := (a.1 + b.1, a.2 + b.2)
def cpxMul (a b : Int × Int) : Int × Int := (a.1 * b.1 - a.2 * b.2, a.1 * b.2 + a.2 * b.1)
def cpxScale (k : Int) (a : Int × Int) : Int × Int := (k * a.1, k * a.2)
/-- Both parts divided, to nearest, ties away from zero. -/
def cpxRound (a : Int × Int) (n : Nat) : Int × Int := (divRound a.1 n, divRound a.2 n)
/-- A component had to be clamped. -/
def cpxSat (z : Int × Int) : Bool := cpxClamp z != z

/-! ### Angles -/

/-- The sum of the terms x^k / k! of alternating sign two places apart, from a term on; x² and the terms are in 2^-48. -/
def alternating (fuel k : Nat) (x2 term : Int) : Int :=
  match fuel with
  | 0 => 0
  | n + 1 => term + alternating n (k + 2) x2 (-(term * x2 / 2 ^ 48 / ((k + 1) * (k + 2) : Nat)))

/-- Cosine and sine of a quarter turn's part r / d, in 2^-30. -/
def quarter (r d : Nat) : Int × Int :=
  let x : Int := ((442139859501778 * r / d : Nat) : Int)
  let x2 := x * x / 2 ^ 48
  (divRound (alternating 14 0 x2 (2 ^ 48)) (2 ^ 18), divRound (alternating 14 1 x2 x) (2 ^ 18))

/-- The unit vector at n / d of a turn, in 2^-30. -/
def unit (n : Int) (d : Nat) : Int × Int :=
  let t := 4 * (n % (d : Int)).toNat
  let (c, z) := quarter (t % d) d
  match t / d % 4 with
  | 0 => (c, z)
  | 1 => (-z, c)
  | 2 => (-c, -z)
  | _ => (z, -c)

/-! ### Transforms of a symbol (R218, R224) -/

/-- Σ x_n × e^(j2π (n − o) × step / den), in 2^-30. -/
def turnSum (x : List (Int × Int)) (step : Int) (o den : Nat) : Int × Int :=
  (x.mapIdx fun n v => (n, v)).foldl (fun a e => cpxAdd a (cpxMul e.2 (unit (((e.1 : Nat) - (o : Nat) : Int) * step) den))) (0, 0)

/-- The largest error of an output, in output units, that the accuracy of R218 lets a transform of `n` points have: −78 dBFS RMS over its outputs is
4.13 each; one that is nothing but zeros has none. -/
def dftTol (x : List (Int × Int)) : Nat := if x.all (· == (0, 0)) then 0 else isqrt 12 (18 * x.length) + 1

/-- A free error within a bound. -/
def Dev.freeErr (s : Dev) (i tol : Nat) : Int := ((Config.freeNat s.freeCtr i % (2 * tol + 1) : Nat) : Int) - tol

/-- An output of a transform rounded, with its free error; not yet saturated. -/
def Dev.dftOut (s : Dev) (i tol : Nat) (v : Int × Int) (scale : Nat) : Int × Int :=
  cpxAdd (cpxRound v scale) (s.freeErr (2 * i + 1) tol, s.freeErr (2 * i + 2) tol)

/-- Subcarrier of place `k` of `nsc` relative to the centre; a downlink E-UTRA carrier leaves the centre out (R219). -/
def binOf (nsc k : Nat) (skipDc : Bool) : Int :=
  let b : Int := (k : Int) - (nsc / 2 : Nat)
  if skipDc ∧ 0 ≤ b then b + 1 else b

/-! ### The downlink's way out (R213, R214, R224, R226) -/

/-- Whether a frame number has come to a switch frame: within half its range past it. -/
def frameReached (f sw : Nat) : Bool := decide ((f + 2 ^ 32 - sw) % 2 ^ 32 < 2 ^ 31)

/-- The slot from which the crossbar takes a stream's downlink samples of a half subframe: of a dual entry, the second one from the boundary of the
switch frame on. -/
def Dev.xbSource (s : Dev) (a b : Nat) : Option (Nat × Nat) :=
  if !s.flag (R.FEX_XB_LO_valid a) then none
  else
    let q :=
      if s.flag (R.FEX_XB_LO_dual a) && frameReached (b / frameTc) (s.rd (R.FEX_XB_HI a)) then (s.get (R.FEX_XB_LO_new_cl a), s.get (R.FEX_XB_LO_new_slot a))
      else (s.get (R.FEX_XB_LO_cl a), s.get (R.FEX_XB_LO_slot a))
    if q.1 < 17 then some q else none

/-- A sample of a list of runs, the newest first; none where no run has it. -/
def segAt (l : List OutSeg) (n : Nat) : Option (Int × Int) :=
  (l.find? fun o => decide (o.at_ ≤ n) && decide (n < o.at_ + o.iq.length)).map fun o => lget (0, 0) o.iq (n - o.at_)

/-- The sum of a slot's views at a sample, saturated (R224). -/
def FexSlot.viewSum (x : FexSlot) (n : Nat) : Int × Int :=
  cpxClamp (cpxAdd ((segAt x.v1.out n).getD (0, 0)) ((segAt x.v2.out n).getD (0, 0)))

/-- A quotient of the downlink's window or filter, whose rounding is open. -/
def fexDiv (v : Int) (n : Nat) : Int := v / (n : Int) + (if v % (n : Int) ≠ 0 && Config.fexUp v n then 1 else 0)

/-- Coefficient `i` of a filter profile, 0–31, the centre tap last. -/
def Dev.filtTap (s : Dev) (cl f i : Nat) : Int := toSigned 16 (s.rd (filtAddr cl f (i / 2)) / 2 ^ (16 * (i % 2)) % 2 ^ 16)

/-- The air shaping filter at a sample: 63 symmetric taps around it. -/
def Dev.firAt (s : Dev) (cl slot n : Nat) : Int × Int :=
  let x := s.fslot cl slot
  let f := bits (s.sd cl slot 0) 15 3
  let v := (List.range 63).foldl (fun a i =>
    if n + i < 31 then a else cpxAdd a (cpxScale (s.filtTap cl f (min i (62 - i))) (x.viewSum (n + i - 31)))) (0, 0)
  cpxClamp (fexDiv v.1 (2 ^ 14), fexDiv v.2 (2 ^ 14))

/-- What enters the predistorter at a sample: an injected one, or the filter's output (R229). -/
def Dev.preDpd (s : Dev) (cl slot n : Nat) : Int × Int :=
  match segAt (s.fslot cl slot).inj n with
  | some v => v
  | none => s.firAt cl slot n

/-- The predistorter's sum at a sample in 2^-103, from the samples n to n − 3 (R226). -/
def Dev.dpdSum (s : Dev) (cl slot n : Nat) : Int × Int :=
  let bank := (s.fslot cl slot).bank
  (List.range 4).foldl (fun a m =>
    if n < m then a
    else
      let x := s.preDpd cl slot (n - m)
      let p := x.1 * x.1 + x.2 * x.2
      (List.range 4).foldl (fun a q =>
        cpxAdd a (cpxScale (p ^ q * 2 ^ (30 * (3 - q))) (cpxMul (cpx (s.rd (dpdAddr cl slot bank (4 * q + m)))) x))) a) (0, 0)

/-- A slot's output sample, with whether predistortion saturated it. A muted slot and one whose configuration memory has failed send zeros. -/
def Dev.slotOut (s : Dev) (cl slot n : Nat) : (Int × Int) × Bool :=
  let x := s.fslot cl slot
  if x.mute || x.broken then ((0, 0), false)
  else if bit (s.sd cl slot 0) 11 then
    let v := cpxRound (s.dpdSum cl slot n) (2 ^ 103)
    (cpxClamp v, cpxSat v)
  else (s.preDpd cl slot n, false)

/-- A sample of stream `a` lost at a crossing lies in the `n` Tc from `t` (R17, R193). -/
def Dev.lostIn (s : Dev) (a : Nat) (down : Bool) (t n : Nat) : Bool :=
  s.fex.lost.any fun e => e.1 == a && e.2.2 == down && decide (t ≤ e.2.1) && decide (e.2.1 < t + n)

/-- Every cell that a stream serves waits for its links or is off air: the device sends zeros (Table 16-3). A stream that a cell on air shares goes on. -/
def Dev.cellsSilent (s : Dev) (a : Nat) : Bool :=
  let l := s.plc.cells.filter fun c => decide (c.asBase ≤ a) && decide (a < c.asBase + c.nAs)
  !l.isEmpty && l.all fun c => s.get (R.PLC_CELL_state c.cell) == 0 || s.get (R.PLC_CELL_state c.cell) == 3

/-- The slot that sends a stream's sample at index `i` of a half subframe of `d` Tc samples, with the sample's index; none sends zeros. -/
def Dev.dlFrom (s : Dev) (a b i d : Nat) : Option (Nat × Nat × Nat) :=
  match s.xbSource a b with
  | none => none
  | some (cl, slot) =>
    let w := s.sd cl slot 0
    if !bit w 0 ∨ !bit w 2 ∨ bits (s.sd cl slot 1) 0 11 ≠ a ∨ !s.fexOn cl ∨ s.cellsSilent a ∨ s.lostIn a true (b + i * d) d then none
    else some (cl, slot, b / d + i)

/-- The downlink sample of a stream at index `i` from a boundary; zero where the crossbar hands none over. -/
def Dev.dlSample (s : Dev) (a b i d : Nat) : Nat :=
  match s.dlFrom a b i d with
  | some (cl, slot, n) => cint16 (s.slotOut cl slot n).1
  | none => 0

/-- The samples that predistortion saturated, of those of stream `a` from index `i` on, counted (R226). -/
def Dev.dlSats (a b i n d : Nat) (s : Dev) : Dev :=
  (nums i n).foldl (fun s k =>
    match s.dlFrom a b k d with
    | some (cl, slot, m) => if (s.slotOut cl slot m).2 then s.fexSat cl slot 1 else s
    | none => s) s

end Sys2Proof.Machine
end

