-- ==== Sys2Proof/Machine/Store.lean ====
section
/-!
DEFINITION. Sample store and grain pool (R167–R188): line reads and writes with their parity, repairs, ring commands, quotas, marks and scrub.
-/

namespace Sys2Proof.Machine

/-! ### Grains and their owners -/

/-- A pool grain that is not lent. -/
def Dev.grainFree (s : Dev) (g : Nat) : Bool :=
  if g < 80 then false
  else if g < s.tableStart then 80 + s.sto.freshW ≤ g || s.sto.retW.contains g
  else s.tableStart + s.sto.freshT ≤ g || s.sto.retT.contains g

/-- The ring that a line belongs to, if any: the owner of its pool grain. -/
def Dev.lineRing (s : Dev) (line : Nat) : Option Nat :=
  let g := line / 64
  if g < 80 ∨ s.grainFree g then none else some (s.grainOwner g)

/-- The ring number that an event about a line carries; 0xFFF where no ring holds it. -/
def Dev.lineRingNo (s : Dev) (line : Nat) : Nat := (s.lineRing line).getD 0xFFF

/-- The word position that the first word of a line holds in its ring: the newest block whose grain holds it, or, beyond the write position in the
grain being written, the block that the ring wrote there before. -/
def Dev.lineWords (s : Dev) (k line : Nat) : Nat :=
  let b := (List.range (s.ringHeld k)).find? fun i => i ≤ s.headBlock k && s.ringGrain k ((s.headBlock k - i) * 512) == line / 64
  let p := (s.headBlock k - b.getD 0) * 512 + line % 64 * 8
  if s.ringW k ≤ p then p - s.ringCap k else p

/-! ### Parity at each hop (R182, Table 7-1) -/

/-- `n` replays on a hop, each counted and logged. -/
def Dev.replays (hop line n : Nat) (s : Dev) : Dev :=
  match n with
  | 0 => s
  | n + 1 => (((s.setB R.STO_STAT_perr true).stoCount R.STO_PERR_XFER).raise Ev.STO_PERR_REPLAY
      [(2, hop), (20, line)]).replays hop line n

/-- A third failure on a hop. -/
def Dev.hopLost (hop line : Nat) (s : Dev) : Dev :=
  (s.stoCount R.STO_PERR_LOST).raise Ev.STO_PERR_LOST [(2, hop), (20, line), (12, s.lineRingNo line)]

/-- Where the last parity error of the store lay. -/
def Dev.perrAddr (hop line word : Nat) (s : Dev) : Dev :=
  ((s.set R.STO_PERR_ADDR_line line).set R.STO_PERR_ADDR_word word).set R.STO_PERR_ADDR_hop hop

/-- A hop on which `n` of three attempts failed. -/
def Dev.hop (hop line word n : Nat) (s : Dev) : Dev :=
  if n = 0 then s
  else
    let s1 := (s.replays hop line (min n 2)).perrAddr hop line word
    if n < 3 then s1 else s1.hopLost hop line

/-! ### Ring commands (R174) -/

/-- A ring's grains in chain order from its head. -/
def Dev.ringGrains (s : Dev) (k : Nat) : List Nat := (List.range (s.ringHeld k)).map (s.walk (s.ringHead k))

/-- The movers that write a ring now destroyed: the words that stood stalled are discarded, and their descriptors end as erased (R201). -/
def Dev.movGone (k : Nat) (s : Dev) : Dev :=
  (s.movWriters k).foldl (fun s c =>
    let x := s.movCh c
    match x.cur with
    | some r => (if (s.ringStalled k).isEmpty then s else s.setMovCh c { x with cur := some { r with era := true } })
    | none => s) s

/-- The HARQ ring destroyed: its grains return whatever entries or failed directory words hold them, so no entry is left (R278). -/
def Dev.harqGone (k : Nat) (s : Dev) : Dev :=
  if s.ringValid k || s.get R.COD_HCFG_ring != k then s
  else (({ s with cod := { s.cod with harq := [], stranded := [] } }).set R.COD_HSTAT_entries 0).set R.COD_HSTAT_grains 0

/-- A ring destroyed: every grain returns, in chain order from its oldest, and its writer has nothing left to write. -/
def Dev.destroyRing (k : Nat) (s : Dev) : Dev :=
  let c := s.ringClass k
  let gs := (List.range (s.ringHeld k)).map (s.walk (s.ringTail k))
  let s1 := gs.foldl (fun s g => s.giveGrain c g) s
  let s2 := (s1.setRf k 0 0 1 0).setRf k 12 6 10 0
  let s3 := (s2.movGone k).harqGone k
  (s.movWriters k).foldl (fun s c => s.movShow c)
    { s3 with sto := { s3.sto with stalled := tdel s3.sto.stalled k, stallAcc := tdel s3.sto.stallAcc k } }

/-- The last command's result, logged unless it is 0. -/
def Dev.rcmdDone (k op r : Nat) (s : Dev) : Dev :=
  let s1 := (s.setB R.STO_RCMD_STAT_busy false).set R.STO_RCMD_STAT_result r
  if r = 0 then s1 else s1.raise Ev.STO_CMD_BAD [(12, k), (4, op), (3, r)]

/-- `n` grains drawn one after another for a class. -/
def Dev.takeGrains (c n : Nat) (s : Dev) : List Nat × Dev :=
  match n with
  | 0 => ([], s)
  | n + 1 =>
    let r := s.takeGrain c
    let q := r.2.takeGrains c n
    (r.1 :: q.1, q.2)

/-- Grains chained into a circle for a ring. -/
def Dev.chain (k first : Nat) (gs : List Nat) (s : Dev) : Dev :=
  match gs with
  | [] => s
  | [g] => s.setSucc g first k
  | g :: h :: r => (s.setSucc g h k).chain k first (h :: r)

/-- CREATE's result for an entry: 2 already valid, 4 field out of range (Table 7-4, R178), 1 guarantee short. -/
def Dev.createResult (s : Dev) (k : Nat) : Nat :=
  let b := s.ringBase k
  let c := s.ringClass k
  if s.ringValid k then 2
  else if b < 1 ∨ 256 < b ∨ 256 < s.ringExt k ∨ (s.ringSys k ∧ !s.clsTbl c) then 4
  else if s.clsQuota c < s.clsIn c + b then 1
  else 0

/-- CREATE of ring `k`. -/
def createRing (k : Nat) (s : Dev) : Dev :=
  let r := s.createResult k
  if r ≠ 0 then s.rcmdDone k 1 r
  else
    let b := s.ringBase k
    let gs := s.takeGrains (s.ringClass k) b
    let g := gs.1.headD 0
    let s1 := gs.2.chain k g gs.1
    let s2 := s1.setBytes (ringWordAddr k 2) (List.replicate 52 0)
    let s3 := ((s2.setRf k 12 6 10 b).setRf k 12 16 14 g).setRf k 15 0 14 g
    let s4 : Dev := { s3 with
      sto := { s3.sto with
        overtaken := tdel (tdel s3.sto.overtaken (k * 2)) (k * 2 + 1)
        lostAt := tdel (tdel s3.sto.lostAt (k * 2)) (k * 2 + 1)
        lineFlag := tdel s3.sto.lineFlag k }
      fex := { s3.fex with debt := tdel (tdel s3.fex.debt (k * 2)) (k * 2 + 1) } }
    (((s4.setRf k 0 0 1 1).set (R.RP_STAT_rw0 k) 0 |>.set (R.RP_STAT_rw1 k) 0 |>.set (R.RP_STAT_rep k) 0).ringPort k).rcmdDone k 1 0

def execCreate (k : Fin 4096) := act (createRing k)

/-- DESTROY of ring `k`. -/
def destroy (k : Nat) (s : Dev) : Dev :=
  if s.ringValid k then (s.destroyRing k).rcmdDone k 2 0 else s.rcmdDone k 2 3

def execDestroy (k : Fin 4096) := act (destroy k)

/-- Op 3 of STO_RCMD: the overrun and mark-lost counts and the sticky bits zeroed. -/
def zeroCounts (k : Nat) (s : Dev) : Dev :=
  if s.ringValid k then
    ((((s.setRw k 13 0).setRw k 14 0).setRf k 12 2 4 0).ringPort k).rcmdDone k 3 0
  else s.rcmdDone k 3 3

def execZeroCounts (k : Fin 4096) := act (zeroCounts k)

/-- A write of STO_RCMD with op 0 or a reserved op (Table 7-6). -/
def Dev.hookRcmd (v : Nat) (s : Dev) : Dev :=
  let op := bits v 12 4
  if op = 0 then s else s.rcmdDone (bits v 0 12) op 5

/-! ### Stored-word errors (R183–R185) -/

/-- A ring lost to an error in the system region (R185). -/
def Dev.sysLost (k : Nat) (s : Dev) : Dev :=
  if s.ringValid k then ((s.destroyRing k).raise Ev.STO_SYS_PERR [(12, k)]).trigger 4 4 k else s

/-- The rings that an error in word `word` of a line of the system region affects. -/
def Dev.sysRings (s : Dev) (line word : Nat) : List Nat :=
  if line < 4096 then [line]
  else
    let g := (line - 4096) * 16 + word * 2
    ((([g, g + 1].filter fun x => 80 ≤ x && !s.grainFree x)).map s.grainOwner).eraseDups

/-- A line left poisoned (R183). -/
def Dev.leftErased (k line : Nat) (s : Dev) : Dev :=
  (s.stoCount R.STO_ERASED).raise Ev.STO_ERASED [(12, k), (20, line)]

/-- A stored-word error at a word of a line: the device after it, and the status that a read of the line returns. -/
def Dev.storedError (line word : Nat) (s : Dev) : Nat × Dev :=
  let k := s.lineRingNo line
  let s0 := (s.setB R.STO_STAT_perr true).stoCount R.STO_PERR_STORED |>.raise Ev.STO_PERR_STORED [(20, line), (12, k)]
  if line < 80 * 64 then (1, (s.sysRings line word).foldl (fun s r => s.sysLost r) s0)
  else
    let s1 := s0.setPoison (line * 64) true
    match s.lineRing line with
    | none => (2, s1)
    | some k =>
      if s.ringKind k ≠ 0 then (2, s1)
      else if s.ringRegen k && s.flag R.STO_CTL_regen_en then
        (1, { s1 with sto := { s1.sto with regen := s1.sto.regen ++ [⟨s.rf k 1 12 6, k, s.lineWords k line, line⟩] } })
      else (1, s1.leftErased k line)

/-! ### Line reads and writes (R168, R169) -/

/-- The eight words of a line. -/
def Dev.lineOf (s : Dev) (line : Nat) : List Nat := (List.range 8).map fun i => s.sword (line * 64 + i * 8)

/-- What a read delivered. -/
def Dev.deliver (l : List Nat) (st : Nat) (s : Dev) : Dev :=
  { s with sto := { s.sto with readLine := l, readStatus := st } }

/-- A ring's reader consumes words and its grains return (R175, R177). -/
def Dev.consume (reader : Option (Fin 4096 × Fin 2 × Fin 9)) (s : Dev) : Dev :=
  match reader with
  | some (k, j, n) => if s.ringValid k && decide ((j : Nat) < s.ringReaders k) then s.readerAdvance k j n else s
  | none => s

/-- A read of one line carried over the three hops of Table 7-1: its status (0 OK, 1 ERASED, 2 PERR), and the device after it. `gone`: the ring it
is read from is not valid (R174). -/
def Dev.lineRead (l : Nat) (gone : Bool) (h : ReadHops) (s : Dev) : Nat × Dev :=
  let s1 := s.hop 0 l h.word h.req
  let bad := decide ((h.req : Nat) = 3)
  let s2 :=
    if bad then s1
    else if (h.arr : Nat) = 1 then s1.hop 1 l h.word 1
    else if (h.arr : Nat) = 2 then s1.perrAddr 1 l h.word
    else s1
  let bad2 := bad || decide ((h.arr : Nat) = 2)
  let s3 := if bad2 then s2 else s2.hop 2 l h.word h.ret
  let bad3 := bad2 || decide ((h.ret : Nat) = 3)
  if gone || s.poisoned (l * 64) then (1, s3)
  else if bad3 then s3.storedError l h.word
  else (0, s3)

/-- A read of one line. -/
def storeRead (line : BitVec 20) (word : Fin 8) (req : Fin 4) (arr : Fin 3) (ret : Fin 4)
    (reader : Option (Fin 4096 × Fin 2 × Fin 9)) (s : Dev) : Dev :=
  let gone := match reader with | some (k, _, _) => !s.ringValid k | none => false
  let r := s.lineRead line.toNat gone ⟨word, req, arr, ret⟩
  (r.2.deliver (if r.1 = 0 then s.lineOf line.toNat else List.replicate 8 0) r.1).consume reader

def execStoreRead (line : BitVec 20) (word : Fin 8) (req : Fin 4) (arr : Fin 3) (ret : Fin 4)
    (reader : Option (Fin 4096 × Fin 2 × Fin 9)) := act (storeRead line word req arr ret reader)

/-- A write of the words of a line under a mask; a third failure at the bank input writes it with the erase flag. -/
def storeWrite (line : BitVec 20) (mask : BitVec 8) (words : Vector (BitVec 64) 8) (erase : Bool) (h : WriteHop) (s : Dev) : Dev :=
  if mask = 0 then s
  else
    let l := line.toNat
    let s1 := s.hop 0 l h.word h.fails
    let s2 := (List.range 8).foldl (fun s i =>
      if mask.toNat.testBit i then s.setSword (l * 64 + i * 8) (words.toList.getD i 0).toNat else s) s1
    if (h.fails : Nat) = 3 then s2.setPoison (l * 64) true
    else if mask = 0xFF then s2.setPoison (l * 64) erase
    else s2

def execStoreWrite (line : BitVec 20) (mask : BitVec 8) (words : Vector (BitVec 64) 8) (erase : Bool) (hop : WriteHop) :=
  act (storeWrite line mask words erase hop)

/-- The words of a unit computed anew, each with its erase flag. -/
def regenWords (u : RegenUnit) : List (Nat × Bool) := u.lines.flatMap fun l => l.1.toList.map fun w => (w.toNat, l.2)

/-- A unit's lines rewritten whole, at the positions of the ring that hold them. -/
def Dev.regenWrite (k p : Nat) (ws : List (Nat × Bool)) (s : Dev) : Dev :=
  (List.range (ws.length / 8)).foldl (fun s i => s.putWords (s.ringOff k (p + i * 8)) ((ws.drop (i * 8)).take 8)) s

/-- The unit begins at a line of ring `k`, has been written, is still held, and includes the line of the request. -/
def Dev.regenFits (s : Dev) (k : Nat) (u : RegenUnit) (r : RegenReq) : Bool :=
  let p := u.at_.toNat
  p % 8 == 0 && decide (p ≤ r.words) && decide (r.words < p + u.lines.length * 8) && decide (p + u.lines.length * 8 ≤ s.ringW k) &&
    decide (s.ringW k ≤ p + s.ringCap k)

/-- The producer of ring `k` answers its oldest regeneration request (R183). It rewinds its input ring, and where that returns OK it reads the
unit again, up to where it stood, and rewrites the unit's lines whole. A rewind that returns LOST or NONE leaves the line poisoned. The unit it computes
is the command's operand; one that does not hold the line asked for is no answer. -/
def stoRegenDone (k : Fin 4096) (u : RegenUnit) (s : Dev) : Dev :=
  match s.sto.regen.find? (fun r => r.ring == (k : Nat)) with
  | none => s
  | some r =>
    let j := u.reader
    let src := s.ringSrc k
    let s1 := { s with sto := { s.sto with regen := s.sto.regen.erase r } }
    if !s.ringValid k then s1
    else if src ≠ 0xFFF ∧ s.hasReader src j ∧ s.rewindStatus src j = 0 then
      if !s.regenFits k u r then s
      else
        let s2 := (s1.rewindRing src j).ringAdvance src j (s.ringR src j - s.ringMark src j)
        let s3 := (s2.regenWrite k u.at_.toNat (regenWords u)).set (R.RP_STAT_rep k) (2 ^ s.ringReaders k - 1)
        (((s3.stoCount R.STO_REGEN).raise Ev.STO_REGEN_DONE [(12, (k : Nat)), (32, r.words)])).postOpen 4 (s.ringSq k)
    else ((if src ≠ 0xFFF then s1.rewindRing src j else s1)).leftErased k r.line

def execStoRegenDone (k : Fin 4096) (unit : RegenUnit) := act (stoRegenDone k unit)

/-! ### Quotas (R171) -/

/-- A write of STO_CLS[c], refused where it would break the limit of a part or promise more grains than are free. -/
def quotaWrite (c : Fin 16) (v : Word) (s : Dev) : Dev :=
  let v := v.toNat &&& 0x3FFFBFFF
  let s1 := s.wr (R.STO_CLS c) v
  let t := s1.clsTbl c
  let ended := s1.partQuota t > s1.partSize t
  let short := (s.clsQuota c < s1.clsQuota c ∨ s.clsTbl c ≠ t) ∧ s1.partOwed t > s1.partFree t
  if ended ∨ short then
    (s.setB R.STO_STAT_quota_bad true).raise Ev.STO_QUOTA_BAD [(4, (c : Nat)), (32, v)]
  else s1

def execQuotaWrite (c : Fin 16) (v : Word) := act (quotaWrite c v)

/-- STO_CTL.pk_clr: every peak at its held value. -/
def stoPeakClear (s : Dev) : Dev :=
  (List.range 16).foldl (fun s c => s.set (R.STO_CLS_HELD_peak c) (s.clsHeld c)) s

def execStoPeakClear := act stoPeakClear

/-! ### Ring writers and readers (R175–R181) -/

/-- A ring writer's words, at most one line in a cycle (R175, R176). -/
def ringWords (k : Fin 4096) (words : List (BitVec 64)) (erase : Bool) (s : Dev) : Dev := s.ringWrite k (words.map (·.toNat)) erase

def execRingWrite (k : Fin 4096) (words : List (BitVec 64)) (erase : Bool) := act (ringWords k words erase)

/-- A stalled writer can go on: O has advanced or a grain request is granted. -/
def Dev.canResume (s : Dev) (k : Nat) : Bool :=
  s.ringValid k && (decide (s.ringW k - s.ringOldest k < s.ringCap k) || (s.grainRequest k).1.isSome)

/-- A stalled writer of a HOLD ring resumes (R176). -/
def stalledWriteResume (k : Fin 4096) (s : Dev) : Dev :=
  let q := s.ringStalled k
  if q.isEmpty ∨ !s.canResume k then s
  else
    let s1 := { s with sto := { s.sto with stalled := tdel s.sto.stalled k, stallAcc := tdel s.sto.stallAcc k } }
    let a := tget (none, false) s.sto.stallAcc k
    (s.movWriters k).foldl (fun s c => s.movShow c) (((s1.ringPuts k a.2 a.1 q).ringPort k).payDebt k)

def execStalledWriteResume (k : Fin 4096) := act (stalledWriteResume k)


/-- RP_ADV (R175). -/
def rpAdv (k : Fin 4096) (j : Fin 2) (n : BitVec 19) (s : Dev) : Dev := if s.hasReader k j then s.readerAdvance k j n.toNat else s

def execRpAdv (k : Fin 4096) (j : Fin 2) (n : BitVec 19) := act (rpAdv k j n)

/-- MARK (R179, R180). -/
def mark (k : Fin 4096) (j : Fin 2) (s : Dev) : Dev := if s.hasReader k j then (s.markRing k j).rxFollow k else s

def execMark (k : Fin 4096) (j : Fin 2) := act (mark k j)

/-- UNMARK (R179). -/
def unmark (k : Fin 4096) (j : Fin 2) (s : Dev) : Dev := if s.hasReader k j then (s.unmarkRing k j).rxFollow k else s

def execUnmark (k : Fin 4096) (j : Fin 2) := act (unmark k j)

/-- REWIND (R179). -/
def rewind (k : Fin 4096) (j : Fin 2) (s : Dev) : Dev := s.rewindRing k j

def execRewind (k : Fin 4096) (j : Fin 2) := act (rewind k j)

/-! ### Scrub (R186–R188) -/

/-- intv clamped into its range (R188). -/
def Dev.scrubIntv (s : Dev) : Nat := min (max (s.rd R.STO_SCRUB_CFG) 4096) 210933404

def Dev.scrubBank (s : Dev) (b : Nat) : ScrubBank := tget {} s.sto.scrub b
def Dev.setScrub (b : Nat) (x : ScrubBank) (s : Dev) : Dev :=
  { s with sto := { s.sto with scrub := tput {} s.sto.scrub b x } }

/-- A bank raises its next request, intv cycles of 1.2 GHz after its last slot. A bank that has done its rows waits for the pass to end. -/
def scrubRequest (b : Fin 256) (s : Dev) : Dev :=
  let x := s.scrubBank b
  if s.flag R.STO_CTL_scrub_en && !x.req && !x.done && decide ((x.last * 625 + s.scrubIntv * 512) ≤ s.time.clk * 625) then
    s.setScrub b { x with req := true }
  else s

def execScrubRequest (b : Fin 256) := act (scrubRequest b)

/-- The pass ends: it is counted and logged, and every bank starts at its first row. -/
def Dev.scrubPassEnd (s : Dev) : Dev :=
  let s1 := s.stoCount R.STO_SCRUB_PASSES
  let s2 := s1.raise Ev.STO_SCRUB_PASS [(32, s1.rd R.STO_SCRUB_PASSES), (32, s.sto.scrubErr)]
  { s2 with sto := { s2.sto with scrubErr := 0, scrubDone := 0, scrub := s2.sto.scrub.map fun e => (e.1, { e.2 with done := false }) } }

/-- The slot that a waiting request of a bank takes. -/
def Dev.scrubSlot (b : Nat) (err : Option (Fin 8)) (s : Dev) : Dev :=
  let x := s.scrubBank b
  if !x.req then s
  else
    let line := storeLine b x.row / 64
    let s1 :=
      if s.grainFree (line / 64) then (s.setBytes (storeBase + line * 64) (List.replicate 64 0)).setPoison (line * 64) false
      else match err with
        | some w =>
          if s.poisoned (line * 64) then s
          else
            let s' := ((s.perrAddr 1 line w).storedError line w).2
            { s' with sto := { s'.sto with scrubErr := s'.sto.scrubErr + 1 } }
        | none => s
    let last := x.row = 4095
    let s2 := s1.setScrub b ⟨if last then 0 else x.row + 1, false, last, s.time.clk⟩
    let s3 := if b = 0 then s2.set R.STO_SCRUB_POS_row (if last then 0 else x.row + 1) else s2
    let s4 := if last then { s3 with sto := { s3.sto with scrubDone := s3.sto.scrubDone + 1 } } else s3
    if s4.sto.scrubDone = 256 then s4.scrubPassEnd else s4

def execScrubSlot (b : Fin 256) (err : Option (Fin 8)) := act (Dev.scrubSlot b err)

/-- A forced slot (R187): it counts, and is otherwise as any other. -/
def scrubForced (b : Fin 256) (err : Option (Fin 8)) (s : Dev) : Dev :=
  if (s.scrubBank b).req then (s.inc64 R.STO_SCRUB_FORCED 1).scrubSlot b err else s

def execScrubForced (b : Fin 256) (err : Option (Fin 8)) := act (scrubForced b err)

end Sys2Proof.Machine
end

