-- ==== Sys2Proof/Machine/Coding.lean ====
section
/-!
DEFINITION. The channel coding cluster (R261–R283): queues, units, demapping and mapping, decoding and encoding jobs, HARQ soft buffers.
-/

namespace Sys2Proof.Machine

/-! ### Queues and units -/

def Dev.cq (s : Dev) (q : Nat) : CodQueue := tget {} s.cod.queue q

def Dev.setCq (q : Nat) (x : CodQueue) (s : Dev) : Dev :=
  ({ s with cod := { s.cod with queue := tput {} s.cod.queue q x } }).set (R.COD_QSTAT_depth q) x.jobs.length

def Dev.modJob (q id : Nat) (f : CodJob → CodJob) (s : Dev) : Dev :=
  let x := s.cq q
  s.setCq q { x with jobs := x.jobs.map fun j => if j.id = id then f j else j }

def Dev.job (s : Dev) (q id : Nat) : Option CodJob := (s.cq q).jobs.find? fun j => j.id == id

def Dev.cunit (s : Dev) (u : Nat) : CodUnit := tget {} s.cod.unit u

/-- A unit's work and its busy bit. -/
def Dev.setCunit (u : Nat) (x : CodUnit) (s : Dev) : Dev :=
  let s1 : Dev := { s with cod := { s.cod with unit := tput {} s.cod.unit u x } }
  let a := if u < 32 then R.COD_BUSY_LO else R.COD_BUSY_HI
  s1.wr a (setBits (s1.rd a) (u % 32) 1 (b2n x.work.isSome))

/-- An S32 counter of the cluster. -/
def Dev.codCount (a : Nat) (s : Dev) : Dev :=
  let sat := s.rd a = 0xFFFFFFFE
  let s1 := s.incSat a ⟨R.COD_CNT_OVF, (a - R.COD_LATE) / 4, 1⟩ Ev.COD_CNT_SAT [] 1
  if sat then s1.setB R.COD_STAT_cnt_ovf true else s1

/-- The units of an op's kind (Table 11-1). -/
def opUnits (op : Nat) : List Nat :=
  match op with
  | 1 => nums 34 8
  | 2 => nums 0 16
  | 3 => nums 28 4
  | 4 => nums 24 4
  | 5 => nums 16 8
  | 6 => nums 32 2
  | 7 => nums 24 4
  | 8 => nums 32 2
  | 9 => nums 42 8
  | _ => []

/-- Queue `q`'s mask holds a unit. -/
def Dev.inMask (s : Dev) (q u : Nat) : Bool :=
  if u < 32 then bit (s.rd (R.COD_QCFG q)) u else bit (s.rd (R.COD_QCFG2 q)) (u - 32)

def Dev.unitBad (s : Dev) (u : Nat) : Bool :=
  if u < 32 then bit (s.rd R.COD_UFAULT_LO) u else bit (s.rd R.COD_UFAULT_HI) (u - 32)

def Dev.unitFree (s : Dev) (u : Nat) : Bool := (s.cunit u).work.isNone && !s.unitBad u

/-! ### Entries (Table 11-4) -/

/-- The words of entry `e` of a job's list. -/
def Dev.entry (s : Dev) (d : List Nat) (e : Nat) : List Nat :=
  (List.range 8).map fun i => leNat (s.storeBytes (cSrc d + e * 32 + i * 4) 4)

def eQm (e : List Nat) : Nat := bits (dw e 0) 1 4
def eV (e : List Nat) : Nat := bits (dw e 0) 8 3
def eLam (e : List Nat) : Nat := bits (dw e 0) 11 2
def eSym0 (e : List Nat) : Nat := bits (dw e 0) 13 4
def eNsym (e : List Nat) : Nat := bits (dw e 0) 17 4
def eRb0 (e : List Nat) : Nat := bits (dw e 1) 0 9
def eNrb (e : List Nat) : Nat := bits (dw e 1) 9 9
def eBuf (e : List Nat) : Nat := bits (dw e 4) 0 26

/-- A number of the form 2^a 3^b 5^c. -/
def smooth (n : Nat) : Bool :=
  (List.range 10).any fun a => (List.range 7).any fun b => (List.range 5).any fun c => 2 ^ a * 3 ^ b * 5 ^ c == n

/-- An entry is malformed for a job. -/
def entryBad (d e : List Nat) : Bool :=
  let demap := cOp d == 1
  let kind1 := bit (dw e 0) 0
  (demap && kind1) || (!kind1 && (decide (6 ≤ eQm e) || eV e == 0 || decide (4 < eV e) || decide (eV e ≤ eLam e))) ||
    decide (cNsym d < eSym0 e + eNsym e) || decide (cNsc d < 12 * (eRb0 e + eNrb e)) ||
    bits (dw e 3) 0 3 != 0 || bits (dw e 4) 0 3 != 0 || bits (dw e 5) 0 3 != 0 ||
    (demap && (bits (dw e 2) 16 16 == 0 || (bit (dw e 0) 5 && !smooth (eNrb e)))) ||
    (!demap && !kind1 && bit (dw e 0) 7 && eV e != 2)

/-- A job is malformed (R280). -/
def Dev.codMalformed (s : Dev) (q : Nat) (d : List Nat) : Bool :=
  let op := cOp d
  let mapping := op == 1 || op == 9
  let block := op == 2 || op == 3 || op == 5 || op == 6
  let polar := op == 4 || op == 7 || op == 8
  decide (11 ≤ op) || ((1 ≤ op && op ≤ 9) && !((opUnits op).any fun u => s.inMask q u)) ||
    bits (dw d 4) 0 3 != 0 || bits (dw d 5) 0 3 != 0 ||
    (mapping && (cNsym d == 0 || decide (14 < cNsym d) || cNsc d % 12 != 0 || decide (cNsc d < 12) || decide (3300 < cNsc d) ||
      (List.range (cNent d)).any fun e => entryBad d (s.entry d e))) ||
    (block && (decide (6 ≤ cQm d) || cV d == 0 || decide (4 < cV d) || cG d % (cV d * qmBits (cQm d)) != 0 ||
      decide (cG d < 2 * qmBits (cQm d) * (codeBlock d 0).c) ||
      (if op == 2 || op == 5 then decide (cTbs d < 24) || decide (1277992 < cTbs d) || decide (152 < (codeBlock d 0).c) else decide (cTbs d < 16)))) ||
    (op == 3 && decide (16 < cMaxIt d)) ||
    (polar && bits (dw d 13) 16 2 == 3) ||
    ((op == 4 || op == 7) && (decide (cTbs d < 12) || decide ((if bit (dw d 13) 18 then 140 else 1706) < cTbs d)))

/-! ### HARQ (R275–R278) -/

def Dev.harq (s : Dev) (hid : Nat) : Option HarqEntry := tget none s.cod.harq hid

/-- The HARQ ring. -/
def Dev.hring (s : Dev) : Nat := s.get R.COD_HCFG_ring

/-- A directory entry set, with the entries and grains in use shown. -/
def Dev.setHarq (hid : Nat) (e : Option HarqEntry) (s : Dev) : Dev :=
  let s1 : Dev := { s with cod := { s.cod with harq := tput none s.cod.harq hid e } }
  let used := s1.cod.harq.filterMap (·.2)
  (s1.set R.COD_HSTAT_entries used.length).set R.COD_HSTAT_grains (used.foldl (fun n e => n + e.grains.length) 0)

/-- Grains of the HARQ ring that some record or a failed entry holds. -/
def Dev.harqUsed (s : Dev) : List Nat := (s.cod.harq.filterMap (·.2)).flatMap (·.grains) ++ s.cod.stranded

/-- A grain for records, beside those in `mine`: one of the ring's own that no record holds, else one requested in its name. -/
def Dev.harqGrain (mine : List Nat) (s : Dev) : Option Nat × Dev :=
  let k := s.hring
  let own := (List.range (s.ringHeld k)).map (s.walk (s.ringHead k))
  match own.find? fun g => !s.harqUsed.contains g && !mine.contains g with
  | some g => (some g, s)
  | none =>
    if !s.ringValid k then (none, s)
    else match s.grainRequest k with
      | (some g, s1) => (some g, s1.linkGrain k g)
      | (none, s1) => (none, s1)

/-- A grain that no record holds any longer goes back to the pool while the ring holds more than its guarantee. -/
def Dev.harqReturn (g : Nat) (s : Dev) : Dev :=
  let k := s.hring
  let n := s.ringHeld k
  if n ≤ s.ringBase k ∨ n ≤ 1 then s
  else
    match ((List.range n).map (s.walk (s.ringHead k))).find? fun p => s.succ p == g with
    | some p =>
      let nx := s.succ g
      let s1 := (s.setSucc p nx k).setRf k 12 6 10 (n - 1)
      let s2 := if s.ringHead k = g then s1.setRf k 12 16 14 nx else s1
      let s3 := if s.ringTail k = g then s2.setRf k 15 0 14 nx else s2
      s3.giveGrain (s.ringClass k) g
    | none => s

/-- An entry discarded and its grains returned. -/
def Dev.harqDiscard (hid : Nat) (s : Dev) : Dev :=
  match s.harq hid with
  | some e => e.grains.foldl (fun s g => s.harqReturn g) (s.setHarq hid none)
  | none => s

/-- The store offset of byte `p` of a chain. -/
def chainOff (gs : List Nat) (p : Nat) : Nat := lget 0 gs (p / 4096) * 4096 + p % 4096

/-- A byte of a chain; none where its line reads ERASED. -/
def Dev.chainByte (s : Dev) (gs : List Nat) (p : Nat) : Option Nat :=
  let o := chainOff gs p
  if s.poisoned o then none else some (s.byte (storeBase + o))

/-- A chain's bytes written, in whole lines with zeros after the last record. -/
def Dev.putChain (gs : List Nat) (l : List Nat) (s : Dev) : Dev :=
  (List.range ((l.length + 63) / 64)).foldl (fun s i =>
    let b := (l.drop (64 * i)).take 64
    s.putWords (chainOff gs (64 * i)) ((wordsOf (b ++ List.replicate (64 - b.length) 0)).map fun w => (w, false))) s

/-- A soft value of a record: a combined LLR scaled down by 2^hs, clamped at ±7; how an inexact one is rounded is open. -/
def softValue (v : Int) (hs : Nat) : Int :=
  let n := 2 ^ hs
  clampInt (v / n + if v % n != 0 && Config.softUp v hs then 1 else 0) (-7) 7

/-- A soft record's bytes from combined LLRs. -/
def softRecord (cb ncb : Nat) (llr : List Int) : List Nat :=
  let nz := llr.filter (· != 0)
  let sum := nz.foldl (fun n v => n + v.natAbs) 0
  let hs := ((List.range 5).find? fun h => decide (2 * sum ≤ 7 * 2 ^ h * nz.length)).getD 4
  let q := fun (i : Nat) => toBits 4 (softValue (lget 0 llr i) hs)
  leBytes 8 (cb + hs * 2 ^ 8 + ncb * 2 ^ 32) ++ (List.range ((ncb + 1) / 2)).map fun i => q (2 * i) + (if 2 * i + 1 < ncb then q (2 * i + 1) * 16 else 0)

/-- Bits packed eight to a byte, the first in bit 7. -/
def packBits (l : List Bool) : List Nat :=
  (List.range ((l.length + 7) / 8)).map fun i => msbNat ((List.range 8).map fun k => l.getD (8 * i + k) false)

/-- The first `n` bits of packed bytes. -/
def unpackBits (l : List Nat) (n : Nat) : List Bool := (l.flatMap fun b => msbBits 8 b).take n

def hardRecord (cb ncb : Nat) (b : List Bool) : List Nat := leBytes 8 (cb + 2 ^ 11 + ncb * 2 ^ 32) ++ packBits b

/-- A soft record's values scaled by its hs; those of an erased line are 0. The flag tells of one. -/
def Dev.softValues (s : Dev) (e : HarqEntry) (ofs : Nat) : List Int × Bool :=
  let get := s.chainByte e.grains
  let hs := match get (ofs + 1) with | some v => v % 8 | none => 0
  let vals := (List.range e.ncb).map fun p =>
    match get (ofs + 8 + p / 2) with
    | some v => let n := toSigned 4 (v / (if p % 2 = 0 then 1 else 16) % 16); (if n = -8 then -7 else n) * (2 ^ hs : Nat)
    | none => 0
  let bad := (List.range (8 + (e.ncb + 1) / 2)).any fun i => (get (ofs + i)).isNone
  (vals, bad)

/-- A line of a code block's stored record that reads PERR: `i` counts the record's lines (R182). -/
def Dev.recordPerr (d : List Nat) (r i : Nat) (s : Dev) : Dev :=
  match s.harq (cHid d) with
  | some e =>
    match e.recs.find? fun x => x.1 == r with
    | some (_, ofs, _) => if cHarq d then (s.storedError (chainOff e.grains (ofs / 64 * 64 + 64 * i) / 64) 0).2 else s
    | none => s
  | none => s

/-- A hard record's bits; none where a line of it is bad. -/
def Dev.hardBits (s : Dev) (e : HarqEntry) (ofs n : Nat) : Option (List Bool) :=
  let l := (List.range (8 + (n + 7) / 8)).map fun i => s.chainByte e.grains (ofs + i)
  if l.any (·.isNone) then none else some (unpackBits ((l.drop 8).map fun o => o.getD 0) n)

/-- A bad record line counted and logged. -/
def Dev.harqPerr (q id hid cb : Nat) (s : Dev) : Dev :=
  (((s.modJob q id fun j => { j with hpart := true }).codCount R.COD_HARQ_PERR).setB R.COD_STAT_perr true).raise Ev.COD_HARQ_PERR
    [(13, hid), (8, cb)]

/-! ### LLRs of a code block (R272 steps 1–4) -/

/-- LLR `j` of the codeword from the layer sections. -/
def Dev.llrAt (s : Dev) (d : List Nat) (j : Nat) : Int :=
  let q := qmBits (cQm d)
  let sec := j / q % cV d
  let o := cSrc d + sec * cSst d + j / q / cV d * q + j % q
  toSigned 8 (if s.poisoned o then 0 else s.byte (storeBase + o))

/-- The new LLRs of a code block by circular-buffer position. -/
def Dev.newLlrs (s : Dev) (d : List Nat) (r : Nat) : List Int :=
  let b := codeBlock d r
  let present := presentBlocks d
  let i := (present.findIdx fun k => k == r)
  let lens := (List.range present.length).map (blockLen d present.length)
  let ofs := (lens.take i).foldl (· + ·) 0
  let e := lget 0 lens i
  let q := qmBits (cQm d)
  let ord := bufferOrder b
  let src := fun (k : Nat) => if cOp d = 3 then k else k % (e / q) * q + k / (e / q)
  let zero : List Int := List.replicate b.ncb 0
  let acc := (List.range e).foldl (fun (a : List Int) k =>
    let p := lget 0 ord (k % ord.length)
    a.set p (satLlr (lget 0 a p) (s.llrAt d (ofs + src k)))) zero
  acc.mapIdx fun p v => if isFiller d r p then 127 else v

/-- The code block's LLRs combined with its stored soft record, and whether a record line was bad (R276, R278). -/
def Dev.combined (s : Dev) (d : List Nat) (r : Nat) : List Int × Bool :=
  let n := s.newLlrs d r
  if !cHarq d then (n, false)
  else match s.harq (cHid d) with
    | some e =>
      match e.recs.find? fun x => x.1 == r && !x.2.2 with
      | some (_, ofs, _) =>
        let q := s.softValues e ofs
        (n.mapIdx fun p v => satLlr v (lget 0 q.1 p), q.2)
      | none => (n, false)
    | none => (n, false)

/-! ### A job's end (R276, R278, R279) -/

/-- New records appended to a chain as far as grains are granted; the bytes of the chain so far come with it. -/
def Dev.appendRecs (q id hid : Nat) (l : List (Nat × Bool × List Nat)) (e : HarqEntry) (bytes : List Nat) (s : Dev) : HarqEntry × Dev :=
  match l with
  | [] => (e, s.putChain e.grains bytes)
  | (cb, hard, b) :: r =>
    let need := (e.len + b.length + 4095) / 4096 - e.grains.length
    let got := (List.range need).foldl (fun (a : Option (List Nat) × Dev) _ =>
      match a.1 with
      | some gs => match a.2.harqGrain (e.grains ++ gs) with | (some g, s) => (some (gs ++ [g]), s) | (none, s) => (none, s)
      | none => a) (some [], s)
    match got with
    | (some gs, s1) =>
      let e1 := { e with recs := e.recs ++ [(cb, e.len, hard)], grains := e.grains ++ gs, len := e.len + b.length }
      Dev.appendRecs q id hid r e1 (bytes ++ b) s1
    | (none, s1) =>
      let s2 := (s1.modJob q id fun j => { j with hpart := true }).codCount R.COD_HARQ_FULL
      Dev.appendRecs q id hid r e bytes (s2.raise Ev.COD_HARQ_FULL [(13, hid), (8, cb)])

/-- A record of the old chain as it stands; a hard one with a bad line is no record any longer. -/
def Dev.oldRecord (s : Dev) (e : HarqEntry) (cb : Nat) (info : Nat) : Option (Nat × Bool × List Nat) :=
  match e.recs.find? fun x => x.1 == cb with
  | some (_, ofs, hard) =>
    let n := if hard then 8 + (info + 7) / 8 else 8 + (e.ncb + 1) / 2
    let l := (List.range n).map fun i => s.chainByte e.grains (ofs + i)
    if hard && l.any (·.isNone) then none else some (cb, hard, l.map fun o => o.getD 0)
  | none => none

/-- The outcome of a code block. -/
def CodJob.cb (j : CodJob) (r : Nat) : Option CbRes := j.res.find? fun x => x.cb == r

/-- A code block passed. -/
def CodJob.passed (j : CodJob) (r : Nat) : Bool := match j.cb r with | some x => x.pass | none => false

/-- Every code block passed. -/
def CodJob.allPassed (j : CodJob) : Bool := (List.range (codeBlock j.d 0).c).all j.passed

/-- The HARQ entry after a decode (R276). -/
def Dev.harqStore (q : Nat) (j : CodJob) (tb : Bool) (s : Dev) : Dev :=
  let d := j.d
  let hid := cHid d
  let b := codeBlock d 0
  let old := s.harq hid
  let all := j.allPassed
  if all && tb then s.harqDiscard hid
  else
    let recs := (List.range b.c).filterMap fun r =>
      match j.cb r with
      | some x => if x.pass && !all then some (r, true, hardRecord r b.ncb x.bits) else some (r, false, softRecord r b.ncb x.llr)
      | none => match old with | some e => s.oldRecord e r (codeBlock d r).info | none => none
    let q' := s.appendRecs q j.id hid recs ⟨cTbs d, cBg d, b.c, b.ncb, [], [], 0⟩ []
    let s1 := q'.2.setHarq hid (some q'.1)
    match old with
    | some e => e.grains.foldl (fun s g => s.harqReturn g) s1
    | none => s1

/-- The transport block with its CRC as its code blocks give it. The bits of a code block that was not decoded are free. -/
def Dev.assembled (s : Dev) (j : CodJob) : List Bool :=
  (List.range (codeBlock j.d 0).c).flatMap fun r => match j.cb r with
    | some x => x.bits
    | none => lsbBits (codeBlock j.d r).info (Config.freeNat s.freeCtr r)

/-- The CRC of the assembled block passes. -/
def Dev.tbPasses (s : Dev) (j : CodJob) : Bool := tbGood (cOp j.d == 3) (cTbs j.d) (s.assembled j)

/-- The output of a decoding job: TB bits, zeros to 8 bytes, pass bits (R279). -/
def Dev.decodeOutput (j : CodJob) (s : Dev) : Dev :=
  let d := j.d
  let c := (codeBlock d 0).c
  let bytes := packBits ((s.assembled j).take (cTbs d))
  let pad := List.replicate ((8 - bytes.length % 8) % 8) 0
  (s.takeFree).writeLines (cDst d) (bytes ++ pad ++ leBytes ((c + 7) / 8) (lsbNat ((List.range c).map j.passed))) false

/-- A decoding job with nothing left to decode: its verdict, its output and its HARQ entry. -/
def Dev.decodeEnd (q id : Nat) (s : Dev) : Dev :=
  match s.job q id with
  | some j =>
    let tb := s.tbPasses j
    let ok := j.allPassed && tb
    let s1 := s.modJob q id fun j => { j with ended := true, ok := tb, sts := if ok then j.sts else j.sts ++ [7] }
    let s2 := s1.decodeOutput j
    let s3 := if cHarq j.d then s2.harqStore q j tb else s2
    s3.inc64 R.COD_BITS_DEC (cTbs j.d)
  | none => s

/-! ### DEMAP and MAP (R266–R269) -/

/-- The grid of an entry: symbol and subcarrier of each resource element, frequency first, with its rmap code. -/
def Dev.grid (s : Dev) (e : List Nat) : List (Nat × Nat × Nat) :=
  let n := 12 * eNrb e
  let rm := bits (dw e 3) 0 26
  (List.range (eNsym e * n)).map fun i =>
    let code := if rm = 0 then 0 else lget 0 (s.storeBytes (rm + i / 4) 1) 0 / 4 ^ (i % 4) % 4
    (eSym0 e + i / n, 12 * eRb0 e + i % n, code)

/-- The number of each element among those that a test holds for. -/
def numbered (l : List (Nat × Nat × Nat)) (p : Nat → Bool) : List (Nat × Nat × Nat × Nat) :=
  ((l.filter fun g => p g.2.2).mapIdx fun n g => (n, g))

/-- Bytes of signed 8-bit values, filled with zeros to 8 bytes. -/
def llrBytes (l : List Int) : List Nat :=
  let b := l.map (toBits 8)
  b ++ List.replicate ((8 - b.length % 8) % 8) 0

/-- The values of a symbol of an entry after the inverse DFT of its resource elements (R268), in 2^-60 with the root of their number left out; lost ones count as zero. -/
def inverseDft (e : List Nat) (y : Nat → Nat → Nat × Bool) (sym sc : Nat) : Int × Int :=
  let n := 12 * eNrb e
  let x := (List.range n).map fun k => let v := y sym (12 * eRb0 e + k); if v.2 then (0, 0) else cpx v.1
  cpxScale (2 ^ 30) (turnSum x ((sc : Int) - (12 * eRb0 e : Nat)) 0 n)

/-- An LLR within one of what approximate twiddles give; an erasure stays one. -/
def Dev.nearLlr (s : Dev) (i : Nat) (v : Int) : Int := clampInt (v + s.freeErr i 1) (-127) 127

/-- The LLRs of a resource element before descrambling. `i` is its modulation symbol. -/
def Dev.demapOne (s : Dev) (e : List Nat) (y : Nat → Nat → Nat × Bool) (i sym sc : Nat) : List Int :=
  let m := qmBits (eQm e)
  let v := y sym sc
  let ref := bits (dw e 2) 16 16
  let w := bits (dw e 2) 0 16
  if v.2 then List.replicate m 0
  else if bit (dw e 0) 5 then
    let z := inverseDft e y sym sc
    let l := llrs (eQm e) i z (ref * isqrt 80 (12 * eNrb e * 2 ^ 120)) w
    if z = (0, 0) then l else l.mapIdx fun b x => s.nearLlr (m * i + b) x
  else llrs (eQm e) i (cpx v.1) ref w

/-- One DEMAP entry: `y` gives a resource element's value and whether it is lost. The flag tells of UCI LLRs dropped. -/
def Dev.demapEntry (e : List Nat) (y : Nat → Nat → Nat × Bool) (s : Dev) : Bool × Dev :=
  let m := qmBits (eQm e)
  let g := numbered (s.grid e) (· != 1)
  let scr := bit (dw e 7) 31
  let one := fun (n sym sc : Nat) =>
    let i := eLam e + eV e * n
    (s.demapOne e y i sym sc).mapIdx fun b x => if scr && gold (bits (dw e 7) 0 31) (m * i + b) then -x else x
  let data := (g.filter fun x => x.2.2.2 != 2).map fun (n, sym, sc, code) => (sym, sc, if code = 3 then List.replicate m 0 else one n sym sc)
  let order := if bit (dw e 0) 6 then
      (List.range (12 * eNrb e)).flatMap fun p => data.filter fun x => x.2.1 == 12 * eRb0 e + p
    else data
  let uci := (g.filter fun x => decide (2 ≤ x.2.2.2)).flatMap fun (n, sym, sc, _) => one n sym sc
  let max := bits (dw e 6) 0 24
  let s1 := (s.takeFree).writeLines (eBuf e) (llrBytes (order.flatMap (·.2.2))) false
  let s2 := if uci.isEmpty then s1 else s1.writeLines (bits (dw e 5) 0 26) (llrBytes (uci.take max)) false
  (decide (max < uci.length), s2)

/-- A DEMAP job's entries. -/
def Dev.demapAll (q id : Nat) (d : List Nat) (y : Nat → Nat → Nat × Bool) (s : Dev) : Dev :=
  (List.range (cNent d)).foldl (fun s e =>
    let r := s.demapEntry (s.entry d e) y
    if r.1 then r.2.modJob q id fun j => { j with era := true } else r.2) s

/-- One MAP entry's values: subcarrier of a symbol to cint16. -/
def Dev.mapEntry (s : Dev) (e : List Nat) : List (Nat × Nat × Nat) :=
  let g := numbered (s.grid e) (· == 0)
  let m := qmBits (eQm e)
  let amp := bits (dw e 2) 0 16
  let sym := fun (i : Nat) => point (eQm e) i ((List.range m).map fun b =>
    let k := m * i + b
    bit (lget 0 (s.storeBytes (eBuf e + k / 8) 1) 0) (7 - k % 8))
  let put := fun (n : Nat) (p : Int × Int) => mkIq (ampLevel amp n p.1) (ampLevel amp n p.2)
  g.map fun (n, sy, sc, _) =>
    let v :=
      if bit (dw e 0) 0 then leNat (s.storeBytes (eBuf e + 4 * n) 4)
      else if bit (dw e 0) 7 then
        let a := sym (n / 2 * 2)
        let b := sym (n / 2 * 2 + 1)
        let r := 2 * normOf (eQm e)
        if eLam e = 0 then put r (if n % 2 = 0 then a else b)
        else put r (if n % 2 = 0 then (-b.1, b.2) else (a.1, -a.2))
      else put (normOf (eQm e)) (sym (eLam e + eV e * n))
    (sy, sc, v)

/-- The words of a MAP job's symbols. -/
def Dev.mapWords (s : Dev) (d : List Nat) : List Nat :=
  let sets := (List.range (cNent d)).flatMap fun e => s.mapEntry (s.entry d e)
  let re := fun (i : Nat) => match (sets.filter fun x => x.1 * cNsc d + x.2.1 == i).getLast? with | some x => x.2.2 | none => 0
  (List.range (cNsym d * cNsc d / 2)).map fun i => re (2 * i) + re (2 * i + 1) * 2 ^ 32

/-! ### Settling and dispatch (R263, R264, R277) -/

/-- The job of a queue that may be dispatched: the first that is not over and has pieces to go, with every earlier one fully dispatched. -/
def frontJob (l : List CodJob) : Option CodJob :=
  l.find? fun j => !j.ended && (j.t0.isNone || !j.todo.isEmpty || !j.redo.isEmpty)

/-- No earlier job that uses the same HARQ entry is in flight. -/
def Dev.hidFree (s : Dev) (j : CodJob) : Bool :=
  let uses := (cHarq j.d && (cOp j.d == 2 || cOp j.d == 3)) || cOp j.d == 10
  !uses || !(s.cod.queue.any fun e => e.2.jobs.any fun k =>
    decide (k.id < j.id) && k.t0.isSome && !k.ended && cHarq k.d && cHid k.d == cHid j.d)

/-- The HARQ entry as the job's first dispatch finds it, and the outcomes that hard records give (R276). -/
def Dev.harqOpen (q : Nat) (j : CodJob) (dirBad : Bool) (s : Dev) : Dev :=
  let d := j.d
  let hid := cHid d
  let b := codeBlock d 0
  let present := presentBlocks d
  if !cHarq d then s.modJob q j.id fun j => { j with todo := present }
  else
    let s0 :=
      if dirBad then
        match s.harq hid with
        | some e =>
          (({ s.setHarq hid none with cod := { (s.setHarq hid none).cod with stranded := s.cod.stranded ++ e.grains } }).setB
            R.COD_STAT_perr true).raise Ev.COD_HDIR_PERR [(13, hid)]
        | none => s
      else s
    let s1 :=
      if cNew d then s0.harqDiscard hid
      else
        let same := match s0.harq hid with | some e => e.tbs == cTbs d && e.bg == cBg d && e.c == b.c | none => false
        if same then s0
        else
          ((((s0.harqDiscard hid).modJob q j.id fun j => { j with hmis := true }).codCount R.COD_HARQ_MIS).setB R.COD_STAT_harq true).raise
            Ev.COD_HARQ_MISMATCH [(13, hid)]
    let queue := fun (r : Nat) (s : Dev) => if present.contains r then s.modJob q j.id fun j => { j with todo := j.todo ++ [r] } else s
    match s1.harq hid with
    | some e =>
      (List.range b.c).foldl (fun s r =>
        match e.recs.find? fun x => x.1 == r && x.2.2 with
        | some (_, ofs, _) =>
          match s.hardBits e ofs (codeBlock d r).info with
          | some bs => s.modJob q j.id fun j => { j with res := j.res ++ [⟨r, true, 0, bs, s.newLlrs d r, true⟩] }
          | none => queue r (s.harqPerr q j.id hid r)
        | none => queue r s) s1
    | none => s1.modJob q j.id fun j => { j with todo := present }

/-- A LATE job's outcome (R264). The words that a DEMAP's reader still has to pass are passed as they arrive. -/
def Dev.lateJob (q : Nat) (j : CodJob) (s : Dev) : Dev :=
  let d := j.d
  let n := cNsym d * cNsc d / 2
  let s1 := s.modJob q j.id fun j => { j with ended := true, late := true, sts := j.sts ++ [3] }
  match cOp d with
  | 1 =>
    let have_ := min n (s.ringW (cRing d) - s.ringR (cRing d) (cRd d))
    ((s1.demapAll q j.id d fun _ _ => (0, true)).readerAdvance (cRing d) (cRd d) have_).addDebt (cRing d) (cRd d) (n - have_)
  | 9 => s1.ringWriteWhole (cRing d) (List.replicate n (0, true))
  | 2 | 3 =>
    let s2 := s1.harqOpen q j false
    match s2.job q j.id with
    | some k =>
      let fails := k.todo.map fun r =>
        (⟨r, false, 0, lsbBits (codeBlock d r).info (Config.freeNat s2.freeCtr r), (s2.combined d r).1, false⟩ : CbRes)
      let k' := { k with todo := [], res := (k.res ++ fails).map fun x => { x with pass := false } }
      let s3 := (((s2.takeFree).modJob q j.id fun _ => k').decodeOutput k')
      if cHarq d then s3.harqStore q k' false else s3
    | none => s2
  | _ => s1

/-- A queue's front jobs that need no unit to fail: malformed, an invalid ring, or late. A LATE one that uses a HARQ entry keeps the order of its entry (R277). -/
def Dev.settle (q n : Nat) (s : Dev) : Dev :=
  match n with
  | 0 => s
  | n + 1 =>
    match frontJob (s.cq q).jobs with
    | some j =>
      if j.t0.isSome then s
      else if s.codMalformed q j.d then Dev.settle q n (s.modJob q j.id fun j => { j with ended := true, sts := [1] })
      else if (cOp j.d = 1 ∨ cOp j.d = 9) ∧ !s.ringValid (cRing j.d) then
        Dev.settle q n (s.modJob q j.id fun j => { j with ended := true, sts := [2] })
      else if cDead j.d ≠ 0 ∧ cDead j.d < s.time.cnt ∧ s.hidFree j ∧ !(s.cod.clearing && cHarq j.d) then Dev.settle q n (s.lateJob q j)
      else s
    | none => s

/-- Every queue settled. -/
def Dev.settleAll (s : Dev) : Dev := (List.range 32).foldl (fun s q => s.settle q 64) s

/-- Ops whose code blocks are spread over units. -/
def perBlock (op : Nat) : Bool := op == 2 || op == 3 || op == 5 || op == 6

/-- Queue `q`'s front job may take unit `u` now. -/
def Dev.mayTake (s : Dev) (q u : Nat) : Bool :=
  match frontJob (s.cq q).jobs with
  | some j =>
    let op := cOp j.d
    (opUnits op).contains u && s.inMask q u && (j.t0.isSome || s.hidFree j) &&
      (!perBlock op || ((opUnits op).find? fun k => s.inMask q k && s.unitFree k) == some u)
  | none => false

/-- The queue a freed unit serves: the highest priority, then round robin from the queue after the one it last served. -/
def Dev.unitPick (s : Dev) (u : Nat) : Option Nat :=
  let last := (s.cunit u).last
  let order := (List.range 32).map fun i => (last + 1 + i) % 32
  let can := order.filter fun q => s.mayTake q u
  let top := can.foldl (fun p q => max p (s.get (R.COD_QCFG2_pri q))) 0
  can.find? fun q => s.get (R.COD_QCFG2_pri q) == top

/-- A unit takes its next piece of work. -/
def codDispatch (u : Fin 50) (dirBad : Bool) (s : Dev) : Dev :=
  let s0 := s.settleAll
  if !s0.unitFree u ∨ s0.cod.clearing ∨ !s0.domOn 46 then s0
  else
    match s0.unitPick u with
    | none => s0
    | some q =>
      match frontJob (s0.cq q).jobs with
      | none => s0
      | some j =>
        let op := cOp j.d
        let s1 :=
          if j.t0.isSome then s0
          else
            let s2 := s0.modJob q j.id fun j => { j with t0 := some s.time.cnt, pos := s0.ringR (cRing j.d) (cRd j.d) }
            if op = 2 ∨ op = 3 then s2.harqOpen q j dirBad
            else s2.modJob q j.id fun k => { k with todo := if perBlock op then presentBlocks k.d else [0] }
        match s1.job q j.id with
        | none => s1
        | some k =>
          let take := fun (cb : Nat) (again : Bool) (f : CodJob → CodJob) =>
            (s1.modJob q k.id f).setCunit u { s1.cunit u with work := some ⟨q, k.id, cb, again, none⟩, last := q }
          match k.redo, k.todo with
          | c :: r, _ => take c true fun k => { k with redo := r, out := k.out + 1 }
          | [], c :: r => take c false fun k => { k with todo := r, out := k.out + 1 }
          | [], [] => s1.decodeEnd q k.id

def execCodDispatch (u : Fin 50) (dirBad : Bool) := act (codDispatch u dirBad)

/-- The write of a job's word 15. A status for a discarded job's event is not given: free. -/
def codJobPost (q : Fin 32) (v : Word) (s : Dev) : Dev :=
  let s1 := s.wr (R.COD_JQ q 15) v.toNat
  let d := (List.range 16).map fun i => s1.rd (R.COD_JQ q i)
  let x := s1.cq q
  if !s1.flag (R.COD_QCFG2_en q) ∨ !s1.domOn 46 then
    ((s1.takeFree).codCount R.COD_BAD).stick R.COD_STAT_bad
      (·.raiseOf Ev.COD_BAD 5 (q : Nat) [(32, dw d 1), (4, (Config.freeNat s.freeCtr 0 : Nat))])
  else if x.jobs.length < 64 then
    let s2 := s1.setCq q { x with jobs := x.jobs ++ [{ id := s.cod.accepted, d := d }] }
    ({ s2 with cod := { s2.cod with accepted := s.cod.accepted + 1 } }).settle q 64
  else s1.setCq q { x with held := x.held ++ [d] }

def execCodJobPost (q : Fin 32) (v : Word) := act (codJobPost q v)

/-! ### Work of the units -/

/-- A piece is done: its unit is free and the job has one fewer on units. -/
def Dev.release (u : Nat) (w : CodWork) (f : CodJob → CodJob) (s : Dev) : Dev :=
  (s.setCunit u { s.cunit u with work := none }).modJob w.q w.id fun j => f { j with out := j.out - 1 }

/-- A job has nothing more to dispatch and nothing on a unit. -/
def CodJob.drained (j : CodJob) : Bool := j.todo.isEmpty && j.redo.isEmpty && j.out == 0

/-- An error in a unit's working memory (R282): the piece is restarted once; a second failure ends it. -/
def Dev.unitError (u : Nat) (w : CodWork) (fail : Dev → Dev) (s : Dev) : Dev :=
  let x := s.cunit u
  let twice := match x.failed with | some t => decide (s.time.clk < t + hz) | none => false
  let s1 := (s.setCunit u { x with failed := some s.time.clk }).setB R.COD_STAT_perr true
  let s2 := if w.again then fail s1
    else ((s1.codCount R.COD_PERR).raiseOf Ev.COD_PERR 6 u []).release u w fun j => { j with redo := j.redo ++ [w.cb] }
  if twice && !s.unitBad u then
    let a := if u < 32 then R.COD_UFAULT_LO else R.COD_UFAULT_HI
    ((s2.wr a (setBits (s2.rd a) (u % 32) 1 1)).raiseOf Ev.COD_FAULT 6 u []).trigger 1 3 u
  else s2

/-- A job without code blocks ends UNIT_FAULT. -/
def Dev.unitFaultEnd (u : Nat) (w : CodWork) (s : Dev) : Dev := s.release u w fun j => { j with ended := true, sts := j.sts ++ [6] }

/-- A unit with work of an op. -/
def Dev.workOf (s : Dev) (u op : Nat) : Option (CodWork × CodJob) :=
  match (s.cunit u).work with
  | some w =>
    match s.job w.q w.id with
    | some j => if cOp j.d = op then some (w, j) else none
    | none => none
  | none => none

/-- A DEMAP job over the words of its ring that `lost` does not take away. -/
def Dev.demapRun (u : Nat) (w : CodWork) (j : CodJob) (short : Bool) (s : Dev) : Dev :=
  let d := j.d
  let k := cRing d
  let n := cNsym d * cNsc d / 2
  let have_ := min n (s.ringW k - j.pos)
  let words := s.ringRead k j.pos have_
  let o := s.ringOldest k
  let overtaken := fun (i : Nat) => decide (j.pos + i < o)
  let y := fun (sym sc : Nat) =>
    let re := sym * cNsc d + sc
    match words[re / 2]? with
    | some (v, e) => (if re % 2 = 0 then v % 2 ^ 32 else v / 2 ^ 32, e || overtaken (re / 2))
    | none => (0, true)
  let era := (words.mapIdx fun i x => ((j.pos + i) / 8, x.2)).foldl (fun (a : List Nat) x => if x.2 && !a.contains x.1 then x.1 :: a else a) []
  let lost := decide (j.pos < o) && decide (0 < have_)
  let s1 := s.demapAll w.q w.id d y
  let s2 := if short then s1 else s1.readerAdvance k (cRd d) (j.pos + n - s1.ringR k (cRd d))
  let sts := (if short then [4] else []) ++ (if lost then [5] else [])
  s2.release u w fun j => { j with ended := true, sts := j.sts ++ sts, era := j.era || !era.isEmpty, nEra := min (j.nEra + era.length) 65535 }

/-- DEMAP, once the ring's write count has passed its words. -/
def demap (u : Fin 8) (par : Bool) (s : Dev) : Dev :=
  match s.workOf (34 + u) 1 with
  | some (w, j) =>
    if par then s.unitError (34 + u) w (Dev.unitFaultEnd (34 + u) w)
    else if s.ringW (cRing j.d) < j.pos + cNsym j.d * cNsc j.d / 2 then s
    else s.demapRun (34 + u) w j false
  | none => s

def execDemap (u : Fin 8) (par : Bool) := act (demap u par)

/-- A DEMAP that has waited over 1 ms. -/
def codShort (u : Fin 8) (s : Dev) : Dev :=
  match s.workOf (34 + u) 1 with
  | some (w, j) =>
    if s.ringW (cRing j.d) < j.pos + cNsym j.d * cNsc j.d / 2 ∧ j.t0.getD 0 + 1966080 < s.time.cnt then
      s.demapRun (34 + u) w j true
    else s
  | none => s

def execCodShort (u : Fin 8) := act (codShort u)

/-- MAP. Words that stand stalled on a HOLD ring keep the mapper until they are written. -/
def mapJob (u : Fin 8) (par : Bool) (s : Dev) : Dev :=
  match s.workOf (42 + u) 9 with
  | some (w, j) =>
    if par then s.unitError (42 + u) w (Dev.unitFaultEnd (42 + u) w)
    else
      let s1 := if j.wrote then s
        else (s.ringWriteWhole (cRing j.d) ((s.mapWords j.d).map fun w => (w, false))).modJob w.q w.id fun j => { j with wrote := true }
      if (s1.ringStalled (cRing j.d)).isEmpty then s1.release (42 + u) w fun j => { j with ended := true } else s1
  | none => s

def execMap (u : Fin 8) (par : Bool) := act (mapJob u par)

/-- The iteration limit of a decoding job. -/
def Dev.decodeLimit (s : Dev) (d : List Nat) : Nat :=
  if cMaxIt d ≠ 0 then cMaxIt d
  else if cOp d = 2 then (if s.get R.COD_CTL_ldpc_it = 0 then 8 else s.get R.COD_CTL_ldpc_it)
  else if s.get R.COD_CTL_turbo_it = 0 then 6 else s.get R.COD_CTL_turbo_it

/-- A decoder's code block: combined and decoded. A piece whose restart failed too is reported failed; its bits are free. -/
def Dev.decodeBlock (u op : Nat) (par : Bool) (recBad : Option (BitVec 10)) (s : Dev) : Dev :=
  match s.workOf u op with
  | some (w, j) =>
    if w.res.isSome then s
    else
      let s0 := match recBad with | some i => s.recordPerr j.d w.cb i.toNat | none => s
      let c := s0.combined j.d w.cb
      let put := fun (r : Bool × Nat × List Bool) (s : Dev) =>
        let s1 := s.setCunit u { s.cunit u with work := some { w with res := some ⟨w.cb, r.1, r.2.1, r.2.2, c.1, false⟩ } }
        if c.2 then s1.harqPerr w.q w.id (cHid j.d) w.cb else s1
      if par then
        s0.unitError u w fun s => put (false, 0, lsbBits (codeBlock j.d w.cb).info (Config.freeNat s.freeCtr 0)) s.takeFree
      else put (decodeCb j.d w.cb (s.decodeLimit j.d) c.1) s0
  | none => s

def execDecodeLdpc (u : Fin 16) (par : Bool) (recBad : Option (BitVec 10)) (_pass _iters : Unit) := act (Dev.decodeBlock u 2 par recBad)

def execDecodeTurbo (u : Fin 4) (par : Bool) (recBad : Option (BitVec 10)) (_pass _iters : Unit) :=
  act (Dev.decodeBlock (28 + u) 3 par recBad)

/-- A decoder is done with a code block; the last one ends the job. -/
def codeBlockComplete (u : Fin 50) (s : Dev) : Dev :=
  match (s.cunit u).work with
  | some w =>
    match w.res with
    | some r =>
      let s1 := s.release u w fun j => { j with res := j.res ++ [r] }
      let s2 := ((s1.inc64 R.COD_CB 1).inc64 R.COD_CB_FAIL (b2n (!r.pass))).inc64 R.COD_ITER r.iters
      match s2.job w.q w.id with
      | some j => if j.drained && !j.ended then s2.decodeEnd w.q w.id else s2
      | none => s2
    | none => s
  | none => s

def execCodeBlockComplete (u : Fin 50) (_tb : Unit) := act (codeBlockComplete u)

/-- The payload of an encoding job. -/
def Dev.payload (s : Dev) (d : List Nat) : List Bool := unpackBits (s.storeBytes (cSrc d) ((cTbs d + 7) / 8)) (cTbs d)

/-- DECODE_POLAR: A bits at dst, and the CRC's verdict. -/
def decodePolar (u : Fin 4) (par : Bool) (s : Dev) : Dev :=
  match s.workOf (24 + u) 4 with
  | some (w, j) =>
    if par then s.unitError (24 + u) w (Dev.unitFaultEnd (24 + u) w)
    else
      let r := decodePolarBits j.d ((s.storeBytes (cSrc j.d) (cG j.d)).map (toSigned 8))
      (s.writeLines (cDst j.d) (packBits r.1) false).release (24 + u) w fun j =>
        { j with ended := true, ok := r.2, sts := if r.2 then j.sts else j.sts ++ [7] }
  | none => s

def execDecodePolar (u : Fin 4) (par : Bool) (_pass : Unit) := act (decodePolar u par)

/-- The coded bits of an encoding job (R274). An odd bit that two polar segments leave over is free. -/
def Dev.encoded (s : Dev) (d : List Nat) : List Bool :=
  let p := s.payload d
  match cOp d with
  | 7 => let l := encodePolarBits d p; l ++ lsbBits (cG d - l.length) (Config.freeNat s.freeCtr 0)
  | 8 => encodeTbccBits d p
  | _ => encodeTb d p

/-- An encoder's piece; the last one writes the coded bits. -/
def Dev.encodePiece (u op : Nat) (par : Bool) (s : Dev) : Dev :=
  match s.workOf u op with
  | some (w, j) =>
    if par then s.unitError u w (Dev.unitFaultEnd u w)
    else
      let s1 := s.release u w id
      match s1.job w.q w.id with
      | some k =>
        if k.drained && !k.ended then
          (((s1.takeFree).writeLines (cDst j.d) (packBits (s1.encoded j.d)) false).inc64 R.COD_BITS_ENC (cTbs j.d)).modJob w.q w.id fun j =>
            { j with ended := true }
        else s1
      | none => s1
  | none => s

def execEncodeLdpc (u : Fin 8) (par : Bool) := act (Dev.encodePiece (16 + u) 5 par)
def execEncodeTurbo (u : Fin 2) (par : Bool) := act (Dev.encodePiece (32 + u) 6 par)
def execEncodePolar (u : Fin 4) (par : Bool) := act (Dev.encodePiece (24 + u) 7 par)
def execEncodeTbcc (u : Fin 2) (par : Bool) := act (Dev.encodePiece (32 + u) 8 par)

/-- A job of an op at its queue's head that needs no unit. -/
def Dev.headJob (s : Dev) (q op : Nat) : Option CodJob :=
  match frontJob (s.cq q).jobs with
  | some j => if cOp j.d = op ∧ j.t0.isNone ∧ !s.cod.clearing then some j else none
  | none => none

/-- NOP. -/
def codNop (q : Fin 32) (s : Dev) : Dev :=
  let s0 := s.settle q 64
  match s0.headJob q 0 with
  | some j => s0.modJob q j.id fun j => { j with ended := true }
  | none => s0

def execCodNop (q : Fin 32) := act (codNop q)

/-- HARQ_REL, in the order of R277. -/
def harqRel (q : Fin 32) (s : Dev) : Dev :=
  let s0 := s.settle q 64
  match s0.headJob q 10 with
  | some j =>
    if s0.hidFree j then (s0.harqDiscard (cHid j.d)).modJob q j.id fun j => { j with ended := true } else s0
  | none => s0

def execHarqRel (q : Fin 32) := act (harqRel q)

/-! ### Completion (R279) -/

/-- Every HARQ entry discarded, once no job is in flight. -/
def Dev.clearWhenIdle (s : Dev) : Dev :=
  let busy := s.cod.queue.any fun e => e.2.jobs.any fun j => j.t0.isSome && !j.ended
  if s.cod.clearing && !busy then
    let s1 := (s.cod.harq.map (·.1)).foldl (fun s h => s.harqDiscard h) s
    { s1 with cod := { s1.cod with clearing := false } }
  else s

/-- What each status counts and logs (Table 11-7). -/
def Dev.codStatus (q : Nat) (j : CodJob) (st : Nat) (s : Dev) : Dev :=
  let d := j.d
  match st with
  | 1 => (s.codCount R.COD_BAD).stick R.COD_STAT_bad (·.raiseOf Ev.COD_BAD 5 q [(32, dw d 1), (4, 1)])
  | 2 => (s.codCount R.COD_BAD).stick R.COD_STAT_bad (·.raiseOf Ev.COD_BAD 5 q [(32, dw d 1), (4, 2)])
  | 3 => (s.codCount R.COD_LATE).stick R.COD_STAT_late (·.raiseOf Ev.COD_LATE 5 q [(32, dw d 1)])
  | 4 => ((s.codCount R.COD_SHORT).stick R.COD_STAT_short (·.raiseOf Ev.COD_SHORT 5 q [(12, cRing d)])).trigger 4 4 (cRing d)
  | 5 => (s.codCount R.COD_LOST).stick R.COD_STAT_lost (·.raiseOf Ev.COD_LOST 5 q [(12, cRing d)])
  | 6 => s.codCount R.COD_PERR
  | _ => s

/-- A completion record (Table 11-6). -/
def codRecord (q : Nat) (j : CodJob) (st now : Nat) : List Nat :=
  let dec := cOp j.d == 2 || cOp j.d == 3
  let c := if dec || cOp j.d == 5 || cOp j.d == 6 then (codeBlock j.d 0).c else 0
  let fails := if dec && !j.sts.contains 1 then ((List.range c).filter fun r => !j.passed r).length else 0
  let it := min (j.res.foldl (fun n x => n + x.iters) 0) 65535
  let w1 := st + cOp j.d * 2 ^ 4 + q * 2 ^ 8 + b2n j.hmis * 2 ^ 13 + b2n j.hpart * 2 ^ 14 + b2n j.era * 2 ^ 15 + c % 256 * 2 ^ 16 + fails % 256 * 2 ^ 24
  [dw j.d 1 + w1 * 2 ^ 32, it + j.nEra * 2 ^ 16 + b2n j.ok * 2 ^ 32, j.t0.getD 0, now]

/-- The oldest job of a queue that is over writes its record; a stalled writer's job takes its place. -/
def codJobComplete (q : Fin 32) (s : Dev) : Dev :=
  let s0 := s.settle q 64
  let x := s0.cq q
  match x.jobs with
  | j :: r =>
    if !j.ended ∨ 0 < j.out then s0
    else
      let st := leastOf j.sts
      let s1 := j.sts.foldl (fun s c => s.codStatus q j c) s0
      let s2 := if st = 0 ∨ st = 7 then s1.inc64 R.COD_JOBS 1 else s1
      let s3 := if j.hmis || j.hpart then s2.setB R.COD_STAT_harq true else s2
      let s4 := (s3.record (cCring j.d) (codRecord q j st s.time.cnt)).postOpen 3 (bits (dw j.d 0) 16 16)
      let next := x.held.take 1
      let s5 := (s4.setCq q { jobs := r ++ next.map fun d => { id := s.cod.accepted, d := d }, held := x.held.drop 1 }).wr
        (R.COD_QSEQ q) (dw j.d 1)
      (({ s5 with cod := { s5.cod with accepted := s.cod.accepted + next.length } }).settle q 64).clearWhenIdle
  | [] => s0.clearWhenIdle
where
  /-- The lowest status code; OK where none arose. -/
  leastOf (l : List Nat) : Nat := match l with | [] => 0 | a :: r => r.foldl min a

def execCodJobComplete (q : Fin 32) := act (codJobComplete q)

/-- A write of COD_CTL.hclr. -/
def harqClear (s : Dev) : Dev := ({ s with cod := { s.cod with clearing := true } }).clearWhenIdle

def execHarqClear := act harqClear

end Sys2Proof.Machine
end

