-- ==== Sys2Proof/Machine/Combiner.lean ====
section
/-!
DEFINITION. The spatial combiner array (R238–R260): harnesses, jobs, uplink combining, downlink precoding, calibration banks.
-/

namespace Sys2Proof.Machine

/-! ### Counters and harnesses -/

def Dev.harness (s : Dev) (h : Nat) : Harness := tget {} s.sca.harness h

/-- A harness's queue and its job, shown in SCA_HSTAT. -/
def Dev.setHarness (h : Nat) (x : Harness) (s : Dev) : Dev :=
  let s1 : Dev := { s with sca := { s.sca with harness := tput {} s.sca.harness h x } }
  (s1.set (R.SCA_HSTAT_qdepth h) x.queue.length).setB (R.SCA_HSTAT_busy h) x.cur.isSome

def Dev.modRun (h : Nat) (f : ScaRun → ScaRun) (s : Dev) : Dev :=
  let x := s.harness h
  s.setHarness h { x with cur := x.cur.map f }

/-- An S32 counter of the array. -/
def Dev.scaCount (a : Nat) (s : Dev) : Dev :=
  let sat := s.rd a = 0xFFFFFFFE
  let s1 := s.incSat a ⟨R.SCA_CNT_OVF, (a - R.SCA_LATE) / 4, 1⟩ Ev.SCA_CNT_SAT [] 1
  if sat then s1.setB R.SCA_STAT_cnt_ovf true else s1

/-- Blocks of a shape code. -/
def blocks (code : Nat) : Nat := 2 ^ code

/-- First tile and number of tiles that a value of SCA_HCFG names. -/
def cfgTiles (v : Nat) : Nat × Nat := (bits v 1 6, blocks (bits v 7 2) * blocks (bits v 9 2))

def Dev.hRows (s : Dev) (h : Nat) : Nat := blocks (s.get (R.SCA_HCFG_rows h))
def Dev.hCols (s : Dev) (h : Nat) : Nat := blocks (s.get (R.SCA_HCFG_cols h))

/-- The harness is enabled and its quarter is powered. -/
def Dev.hOn (s : Dev) (h : Nat) : Bool :=
  s.flag (R.SCA_HCFG_en h) && s.domOn (40 + s.get (R.SCA_HCFG_tile0 h) / 16)

/-- A write of SCA_HCFG. -/
def harnessConfigWrite (h : Fin 32) (v : Word) (s : Dev) : Dev :=
  let w := v.toNat % 2 ^ 11
  let x := s.harness h
  let (t, n) := cfgTiles w
  let overlap := (List.range 32).any fun k =>
    let q := cfgTiles (s.rd (R.SCA_HCFG k))
    k != (h : Nat) && s.flag (R.SCA_HCFG_en k) && decide (t < q.1 + q.2) && decide (q.1 < t + n)
  if x.cur.isSome || !x.queue.isEmpty || overlap || bits w 7 2 == 3 || bits w 9 2 == 3 || t % n != 0 then
    (s.setB (R.SCA_HSTAT_cfg_bad h) true).raiseOf Ev.SCA_CFG_BAD 5 (h : Nat) [(32, (v.toNat : Nat))]
  else s.wr (R.SCA_HCFG h) w

def execHarnessConfigWrite (h : Fin 32) (v : Word) := act (harnessConfigWrite h v)

/-! ### Job words (Table 10-4) -/

def jobOp (d : List Nat) : Nat := bits (dw d 0) 0 2
def jobNsym (d : List Nat) : Nat := bits (dw d 0) 3 4
def jobSet (d : List Nat) : Nat := bits (dw d 0) 8 8
def jobWsrc (d : List Nat) : Nat := bits (dw d 4) 0 26
def jobStart (d : List Nat) : Nat := dw d 6 + dw d 7 * 2 ^ 32
def jobDead (d : List Nat) : Nat := dw d 8 + dw d 9 * 2 ^ 32

/-- A reserved op or field, a symbol count out of range, or a misaligned weight set. -/
def jobMalformed (d : List Nat) : Bool :=
  jobOp d == 3 || bit (dw d 0) 7 || jobNsym d == 0 || jobNsym d == 15 || bits (dw d 2) 5 27 != 0 || bits (dw d 4) 0 6 != 0 ||
    bits (dw d 4) 26 6 != 0 || dw d 5 != 0 || bits (dw d 10) 12 20 != 0 || (nums 11 5).any fun i => dw d i != 0

/-- The write of a job's word 15. The status item of a discarded job's event is not given: free. -/
def scaJobPost (h : Fin 32) (v : Word) (s : Dev) : Dev :=
  let s1 := s.wr (R.SCA_JQ h 15) v.toNat
  let d := (List.range 16).map fun i => s1.rd (R.SCA_JQ h i)
  let x := s1.harness h
  if !s1.hOn h then
    ((s1.takeFree).scaCount R.SCA_BAD).stick R.SCA_STAT_bad
      (·.raiseOf Ev.SCA_BAD 5 (h : Nat) [(32, dw d 1), (4, (Config.freeNat s.freeCtr 0 : Nat))])
  else if x.queue.length < 32 then
    s1.setHarness h { x with queue := x.queue ++ [d], headAt := if x.queue.isEmpty && x.cur.isNone then s.time.cnt else x.headAt }
  else s1.setHarness h { x with held := x.held ++ [d] }

def execScaJobPost (h : Fin 32) (v : Word) := act (scaJobPost h v)

/-! ### Sets and weight sets (R242, R244, R245) -/

/-- The store offset of a set's entry. -/
def Dev.setOff (s : Dev) (j : Nat) : Nat := (s.get R.SCA_SET_BASE_grain + j) % 16384 * 4096

/-- A 32-bit word of a set's entry; zero where its line reads ERASED. -/
def Dev.setW (s : Dev) (j o : Nat) : Nat := leNat (s.storeBytes (s.setOff j + o) 4)

def Dev.setNa (s : Dev) (j : Nat) : Nat := bits (s.setW j 0) 1 7 + 1
def Dev.setNl (s : Dev) (j : Nat) : Nat := bits (s.setW j 0) 8 6 + 1
def Dev.setNsc (s : Dev) (j : Nat) : Nat := bits (s.setW j 4) 0 12

/-- A job finds its set valid on a harness. -/
def Dev.setOk (s : Dev) (j h : Nat) : Bool :=
  let w := s.setW j 0
  let n := s.setNsc j
  bit w 0 && n % 12 == 0 && decide (12 ≤ n) && decide (n ≤ 3300) && bits w 14 5 == h &&
    decide (s.setNa j ≤ 32 * s.hRows h) && decide (s.setNl j ≤ 16 * s.hCols h)

/-- The inputs of a set in a direction: ring and reader. -/
def Dev.setIn (s : Dev) (j : Nat) (down : Bool) : List (Nat × Nat) :=
  if down then (List.range (s.setNl j)).map fun l => let w := s.setW j (0x240 + l * 4); (bits w 16 12, bits w 12 1)
  else (List.range (s.setNa j)).map fun a => let w := s.setW j (0x40 + a * 4); (bits w 0 12, bits w 12 1)

/-- The output rings of a set in a direction. -/
def Dev.setOut (s : Dev) (j : Nat) (down : Bool) : List Nat :=
  if down then (List.range (s.setNa j)).map fun a => bits (s.setW j (0x40 + a * 4)) 16 12
  else (List.range (s.setNl j)).map fun l => bits (s.setW j (0x240 + l * 4)) 0 12

/-- What a job reads of its set (R242). -/
def Dev.readSet (s : Dev) (d : List Nat) : ScaSet :=
  let j := jobSet d
  { na := s.setNa j, nl := s.setNl j, nsc := s.setNsc j, mu := bits (s.setW j 0) 19 2, eraMax := bits (s.setW j 0) 22 7,
    cal := bit (s.setW j 0) 21, ins := s.setIn j (jobOp d == 1), outs := s.setOut j (jobOp d == 1) }

/-- Rows and columns of the matrices of a job. -/
def jobShape (d : List Nat) (q : ScaSet) : Nat × Nat := if jobOp d = 1 then (q.na, q.nl) else (q.nl, q.na)

/-- A word of a weight set's header. -/
def Dev.wHead (s : Dev) (d : List Nat) (i : Nat) : Nat := leNat (s.storeBytes (jobWsrc d + i * 4) 4)

/-- The weight set does not match its job. -/
def Dev.jobStale (s : Dev) (d : List Nat) (q : ScaSet) : Bool :=
  let w := s.wHead d 1
  let (o, i) := jobShape d q
  s.wHead d 0 != dw d 3 || bits w 0 7 + 1 != o || bits w 7 7 + 1 != i || bits w 17 1 != jobOp d || decide (6 ≤ bits w 14 3)

/-- Subcarriers of a subband; the whole carrier under code 5. -/
def subbandSc (sbg nsc : Nat) : Nat := if sbg = 5 then nsc else 12 * 2 ^ sbg

/-- Bytes of a padded row. -/
def rowBytes (nin : Nat) : Nat := (nin + 15) / 16 * 64

/-- Words of a symbol of a job's rings. -/
def ScaRun.words (r : ScaRun) : Nat := r.set.nsc / 2
/-- Subcarriers of a subband of a job. -/
def ScaRun.per (r : ScaRun) : Nat := subbandSc r.set.sbg r.set.nsc
/-- Subbands of a job. -/
def ScaRun.nsb (r : ScaRun) : Nat := (r.set.nsc + r.per - 1) / r.per
def ScaRun.nout (r : ScaRun) : Nat := (jobShape r.d r.set).1
def ScaRun.nin (r : ScaRun) : Nat := (jobShape r.d r.set).2
/-- Bytes of a subband's matrix. -/
def ScaRun.matrix (r : ScaRun) : Nat := r.nout * rowBytes r.nin

/-- The tile that holds the weights of an output and an input keeps its whole slice: its subbands fit in 384 lines (R247). -/
def ScaRun.resident (r : ScaRun) (o i : Nat) : Bool :=
  let bo := if jobOp r.d = 1 then 32 else 16
  let bi := if jobOp r.d = 1 then 16 else 32
  let rows := min bo (r.nout - o / bo * bo)
  let cols := min bi (r.nin - i / bi * bi)
  decide (r.nsb * rows * ((cols + 15) / 16) ≤ 384)

/-- The output and the input of the line at a byte past a weight set's header. -/
def ScaRun.lineAt (r : ScaRun) (a : Nat) : Nat × Nat := (a / rowBytes r.nin % r.nout, a % rowBytes r.nin / 64 * 16)

/-- The line at a byte past a weight set's header is one of a slice that is resident. -/
def ScaRun.kept (r : ScaRun) (a : Nat) : Bool := let q := r.lineAt a; r.resident q.1 q.2

/-- A weight: subband, row, column. It comes from the cache where its slice is resident, and else from the store. -/
def Dev.weight (s : Dev) (r : ScaRun) (b o i : Nat) : Nat :=
  let a := (b * r.nout + o) * rowBytes r.nin + i * 4
  if r.resident o i then bits (lget 0 r.cache (a / 8)) (a % 8 * 8) 32 else s.le (storeBase + jobWsrc r.d + 64 + a) 4

/-- Subbands with a line of the resident slices, or of the others, that reads ERASED now. -/
def Dev.erasedSubbands (s : Dev) (r : ScaRun) (kept : Bool) : List Nat :=
  (List.range r.nsb).filter fun b => (List.range (r.matrix / 64)).any fun i =>
    let a := b * r.matrix + i * 64
    r.kept a == kept && s.poisoned (jobWsrc r.d + 64 + a)

/-- The resident slices loaded, in a job's first symbol (R247). -/
def Dev.loadSlices (s : Dev) (r : ScaRun) : ScaRun :=
  { r with cache := (List.range (r.nsb * r.matrix / 8)).map fun i => if r.kept (i * 8) then s.sword (jobWsrc r.d + 64 + i * 8) else 0,
           eraSb := s.erasedSubbands r true }

/-- The subbands of the next symbol that have a line which reads ERASED. -/
def Dev.badSubbands (s : Dev) (r : ScaRun) : List Nat := r.eraSb ++ s.erasedSubbands r false

/-! ### Complex arithmetic (R238, R239, R255) -/

/-- The exact sum of products of a weight row and an operand column. -/
def cxDot : List Nat → List Nat → Int × Int
  | a :: r, b :: t => cpxAdd (cpxMul (cpx a) (cpx b)) (cxDot r t)
  | _, _ => (0, 0)

/-- A result saturated: its cint16 and how many of its components had to be. -/
def cxSat (v : Int × Int) : Nat × Nat := (cint16 (cpxClamp v), b2n (v.1 != clamp16 v.1) + b2n (v.2 != clamp16 v.2))

/-- The largest error that a rotation to −90 dBc can leave in a component of `v` × 2^−sh (R239). -/
def rotTol (v : Int × Int) (sh : Nat) : Nat := if v = (0, 0) then 0 else (v.1.natAbs + v.2.natAbs) * 317 / (10 ^ 7 * 2 ^ sh) + 1

/-- A downlink result under calibration with gain `g` and delay `tau` (R239, R255): exact with no delay, and else within a free error. `i` numbers
the free values. -/
def Dev.calibrated (s : Dev) (i : Nat) (nsc mu k : Nat) (g : Int × Int) (tau : Int) (acc : Int × Int) (sh : Nat) : Int × Int :=
  let v := cpxMul g acc
  if tau = 0 then cpxRound v (2 ^ (sh + 14))
  else
    let z := cpxMul v (unit (-(((k : Nat) : Int) - ((nsc / 2 : Nat) : Int)) * 15000 * ((2 ^ mu : Nat) : Int) * tau) (256 * 1966080000))
    let t := rotTol v (sh + 14)
    cpxAdd (cpxRound z (2 ^ (sh + 44))) (s.freeErr i t, s.freeErr (i + 1) t)

/-! ### Job start (R242, R246, R249) -/

/-- A status met by the running job. -/
def ScaRun.met (c : Nat) (r : ScaRun) : ScaRun := if r.sts.contains c then r else { r with sts := r.sts ++ [c] }

/-- The job at the head starts, or ends at once by what it meets. One that came to the head after t_dead does not wait for t_start. Its first access
is the read of its set's entry. -/
def scaJobStart (h : Fin 32) (perr : Option (Fin 4096)) (s : Dev) : Dev :=
  let x := s.harness h
  match x.queue with
  | d :: q =>
    let late := jobDead d != 0 && decide (jobDead d < x.headAt)
    if x.cur.isSome ∨ (!late ∧ jobStart d ≠ 0 ∧ s.time.cnt < jobStart d) then s
    else
      let r : ScaRun := { d := d, since := s.time.cnt, startClk := s.time.clk, bank := b2n (bit (s.rd (R.SCA_CALSEL (jobSet d / 32))) (jobSet d % 32)) }
      let put := fun (r : ScaRun) (s : Dev) =>
        (s.set (R.SCA_HSTAT_set h) (jobSet d)).setHarness h { x with queue := q ++ x.held.take 1, held := x.held.drop 1, cur := some r }
      let r1 := if late then r.met 1 else r
      if jobMalformed d then put { r1.met 3 with ended := true } s
      else if jobOp d = 2 then put { r1 with ended := late } s
      else
        let r2 := { r1 with t0 := s.time.cnt }
        match perr with
        | some o =>
          let a := s.setOff (jobSet d) + o
          let s1 := (put { r2.met 7 with ended := true } (s.storedError (a / 64) (a % 64 / 8)).2).setB R.SCA_STAT_perr true
          s1.raiseOf Ev.SCA_PERR 5 (h : Nat) [(1, 1), (26, a)]
        | none =>
          if !s.setOk (jobSet d) h then put { r2.met 4 with ended := true } s
          else
            let set := s.readSet d
            let stale := !late && s.jobStale d set
            let r3 := if stale then r2.met 5 else r2
            put { r3 with skip := late || stale, set := { set with sbg := if late || stale then 0 else bits (s.wHead d 1) 14 3 } } s
  | [] => s

def execScaJobStart (h : Fin 32) (perr : Option (Fin 4096)) := act (scaJobStart h perr)

/-! ### Symbols (R250, R251, R259) -/

/-- Distinct lines among flagged words that start at a ring position; `old`: the line in which they start was counted before. -/
def flaggedLines (p : Nat) (old : Bool) (fl : List Bool) : Nat :=
  let n := if old then (8 - p % 8) % 8 else 0
  (((fl.mapIdx fun i b => ((p + i) / 8, b)).drop n).foldl (fun (a : List Nat) q => if q.2 && !a.contains q.1 then q.1 :: a else a) []).length

/-- A symbol's resource elements of one input: value and erased flag. -/
def splitRes (l : List (Nat × Bool)) : List (Nat × Bool) := l.flatMap fun (w, e) => [(w % 2 ^ 32, e), (w / 2 ^ 32, e)]

/-- The next symbol of every input has arrived. -/
def Dev.inputsReady (s : Dev) (ins : List (Nat × Nat)) (n : Nat) : Bool :=
  ins.all fun (k, j) => !s.ringValid k || decide (s.ringR k j + n ≤ s.ringW k)

/-- One output's resource elements of a symbol: value, flag, saturated components. -/
def Dev.scaOutput (s : Dev) (r : ScaRun) (o : Nat) (cols : List (List (Nat × Bool))) (bad : List Nat) (tileHit : Bool) :
    List (Nat × Bool × Nat) :=
  let down := jobOp r.d == 1
  let j := jobSet r.d
  let g := s.setW j (0x400 + r.bank * 0x400 + o * 8)
  let tau := toSigned 32 (s.setW j (0x404 + r.bank * 0x400 + o * 8))
  let sh := bits (dw r.d 2) 0 5
  cols.mapIdx fun k col =>
    let b := k / r.per
    let era := (col.filter (·.2)).length
    if bad.contains b || tileHit || (!down && decide (r.set.eraMax < era)) then (0, true, 0)
    else
      let acc := cxDot ((List.range r.nin).map fun i => s.weight r b o i) (col.map fun x => if x.2 then 0 else x.1)
      let v :=
        if down && r.set.cal then s.calibrated (64 + 2 * (o * r.set.nsc + k)) r.set.nsc r.set.mu k (cpx g) tau acc sh
        else cpxRound acc (2 ^ sh)
      let q := cxSat v
      (q.1, false, q.2)

/-- Words of an output from its resource elements. -/
def joinRes : List (Nat × Bool × Nat) → List (Nat × Bool)
  | a :: b :: r => (a.1 + b.1 * 2 ^ 32, a.2.1 || b.2.1) :: joinRes r
  | _ => []

/-- The outputs that a tile contributes to: the order of a harness's tiles is not given, so which block a tile serves is free. -/
def Dev.tileOutput (s : Dev) (h : Nat) (down : Bool) (t : Option Nat) (o : Nat) : Bool :=
  match t with
  | some t =>
    let (t0, n) := cfgTiles (s.rd (R.SCA_HCFG h))
    if t < t0 ∨ t0 + n ≤ t then false
    else if down then o / 32 == Config.freeNat s.freeCtr t % s.hRows h
    else o / 16 == Config.freeNat s.freeCtr t % s.hCols h
  | none => false

/-- The outputs of a job whose writing stands stalled on a HOLD ring. -/
def Dev.scaStalled (s : Dev) (r : ScaRun) : Bool := r.set.outs.any fun k => !(s.ringStalled k).isEmpty

/-- Words of a job's outputs written, with the output lines that this writes erased for the first time. -/
def Dev.scaWrite (h : Nat) (l : List (Nat × List (Nat × Bool))) (s : Dev) : Dev :=
  let era := l.foldl (fun c q => c + flaggedLines (s.ringEnd q.1) (s.openFlag q.1) (q.2.map (·.2))) 0
  (l.foldl (fun s q => s.ringWriteWhole q.1 q.2) s).modRun h fun r => { r with nEra := min (r.nEra + era) 65535 }

/-- One symbol of the running job: inputs read and consumed, outputs written. -/
def Dev.scaSymbol (h : Nat) (tile : Option Nat) (s : Dev) : Dev :=
  match (s.harness h).cur with
  | none => s
  | some r =>
    let down := jobOp r.d == 1
    let n := r.words
    let data := r.set.ins.map fun (k, i) => s.ringRead k (s.ringR k i) n
    let lines := (r.set.ins.zip data).foldl (fun c (q, l) => c + flaggedLines (s.ringR q.1 q.2) (0 < r.sym) (l.map (·.2))) 0
    let res := data.map splitRes
    let cols := (List.range r.set.nsc).map fun k => res.map fun l => lget (0, true) l k
    let bad := s.badSubbands r
    let results := r.set.outs.mapIdx fun o k =>
      (k, if r.skip then List.replicate r.set.nsc (0, true, 0) else s.scaOutput r o cols bad (s.tileOutput h down tile o))
    let s1 := r.set.ins.foldl (fun s q => if s.ringValid q.1 then s.readerAdvance q.1 q.2 n else s) s
    let sat := results.foldl (fun c q => c + q.2.foldl (fun c x => c + x.2.2) 0) 0
    let s2 := s1.scaWrite h (results.map fun q => (q.1, joinRes q.2))
    let s3 := (s2.takeFree).modRun h fun r =>
      { r with sym := r.sym + 1, since := s.time.cnt, nSat := min (r.nSat + sat) 65535, ended := r.sym + 1 == jobNsym r.d }
    if r.skip then s3
    else
      let s4 := (s3.inc64 R.SCA_RE r.set.nsc).inc64 R.SCA_IN_ERA lines
      let s5 := if lines = 0 then s4 else s4.setB R.SCA_STAT_in_era true
      let s6 := s5.inc64 R.SCA_SAT sat
      if sat = 0 then s6 else s6.stick R.SCA_STAT_sat (·.raiseOf Ev.SCA_SAT 5 h [(8, jobSet r.d)])

/-- Cells of a harness count this frame as an outage frame: the device erases their outputs (R377). -/
def Dev.harnessLost (h : Nat) (s : Dev) : Dev :=
  { s with plc := { s.plc with outs := ((s.plc.cells.filter fun c => s.get (R.PLC_CELL_harness c.cell) == h).map (·.cell)) ++ s.plc.outs } }

/-- A residue mismatch of a tile (R259). -/
def Dev.tileFault (t : Nat) (s : Dev) : Dev :=
  let f := if t < 32 then R.SCA_TFAULT_LO_tile else R.SCA_TFAULT_HI_tile
  let v := s.get f
  let s1 := s.set f (if bit v (t % 32) then v else v + 2 ^ (t % 32))
  ((s1.setB R.SCA_STAT_perr true).raise Ev.SCA_FAULT [(6, t)]).trigger 1 2 t

/-- A tile of a harness that has had a mismatch: its outputs stay erased and the harness's jobs end TILE_FAULT until the re-placement's switch (Table 16-4). -/
def Dev.badTile (s : Dev) (h : Nat) : Option Nat :=
  let (t0, n) := cfgTiles (s.rd (R.SCA_HCFG h))
  (nums t0 n).find? fun t => bit (s.rd (if t < 32 then R.SCA_TFAULT_LO else R.SCA_TFAULT_HI)) (t % 32)

/-- What the next symbol takes of the weight set: in a job's first one the resident slices are loaded; an erased line is met as status 6. -/
def Dev.takeWeights (h : Nat) (s : Dev) : Dev :=
  match (s.harness h).cur with
  | some r =>
    if r.skip then s
    else
      let s1 := if r.sym = 0 then s.modRun h s.loadSlices else s
      match s1.badSubbands (if r.sym = 0 then s.loadSlices r else r) with
      | b :: _ => (s1.modRun h (·.met 6)).stick R.SCA_STAT_w_era (·.raiseOf Ev.SCA_WERA 5 h [(8, jobSet r.d), (9, b)])
      | [] => s1
  | none => s

/-- Symbols of the running job while its inputs hold them. -/
def Dev.scaSymbols (h : Nat) (fault : Option (Nat × Nat)) (k : Nat) (s : Dev) : Dev :=
  match k with
  | 0 => s
  | k + 1 =>
    match (s.harness h).cur with
    | some r =>
      if r.ended ∨ s.scaStalled r ∨ !s.inputsReady r.set.ins r.words then s
      else
        let (t0, n) := cfgTiles (s.rd (R.SCA_HCFG h))
        let hit := match fault with
          | some (m, t) => if m = r.sym ∧ t0 ≤ t ∧ t < t0 + n ∧ !r.skip then some t else none
          | none => none
        let was := if r.skip then none else s.badTile h
        let s1 := (s.takeWeights h).scaSymbol h (hit.or was)
        let s2 := match hit, was with
          | some t, _ => (s1.tileFault t).modRun h (·.met 9)
          | none, some _ => s1.modRun h (·.met 9)
          | none, none => s1
        Dev.scaSymbols h fault k s2
    | none => s

/-- The byte of a job's matrices at a store offset. -/
def ScaRun.byteAt (r : ScaRun) (o : Nat) : Option Nat :=
  let b := jobWsrc r.d + 64
  if b ≤ o ∧ o < b + r.nsb * r.matrix then some (o - b) else none

/-- A cache word that failed its parity, fetched again from the store (R258). One whose line has become erased erases its subband. -/
def Dev.refetch (h o : Nat) (s : Dev) : Dev :=
  match (s.harness h).cur with
  | some r =>
    match r.byteAt o with
    | some a =>
      let s1 := ((s.scaCount R.SCA_PERR).setB R.SCA_STAT_perr true).raiseOf Ev.SCA_PERR 5 h [(1, 0), (26, o)]
      if r.kept a && decide (0 < r.sym) then
        s1.modRun h fun r =>
          if s.poisoned o then { r with eraSb := r.eraSb ++ [a / r.matrix] }
          else { r with cache := r.cache.set (a / 8) (s.sword (o / 8 * 8)) }
      else s1
    | none => s
  | none => s

/-- A combine or precode job runs as far as its inputs allow. `refetch`: cache words that failed, each fetched again up to twice; `lost`: a weight line that read PERR;
`fault`: a symbol and the tile whose residue did not match in it. -/
def Dev.scaRun (h op : Nat) (refetch : List (BitVec 26)) (lost : Option (BitVec 26)) (fault : Option (Fin 14 × Fin 64)) (s : Dev) : Dev :=
  match (s.harness h).cur with
  | some r =>
    if jobOp r.d ≠ op ∨ r.ended ∨ s.scaStalled r ∨ !s.inputsReady r.set.ins r.words then s
    else
      let again := refetch.foldl (fun (l : List Nat) o => if l.count (o.toNat / 8) < 2 then l ++ [o.toNat / 8] else l) []
      let s1 := if r.skip then s else again.foldl (fun s o => s.refetch h (o * 8)) s
      let s2 := match lost with
        | some o =>
          match r.byteAt o.toNat with
          | some a =>
            if r.skip then s1
            else
              (s1.storedError (o.toNat / 64) (o.toNat % 64 / 8)).2.modRun h fun r =>
                if r.kept a && decide (0 < r.sym) then { r with eraSb := r.eraSb ++ [a / r.matrix] } else r
          | none => s1
        | none => s1
      s2.scaSymbols h (fault.map fun f => ((f.1 : Nat), (f.2 : Nat))) 14
  | none => s

def execUplinkCombine (h : Fin 32) (refetch : List (BitVec 26)) (lost : Option (BitVec 26)) (fault : Option (Fin 14 × Fin 64)) :=
  act (Dev.scaRun h 0 refetch lost fault)

def execDownlinkPrecode (h : Fin 32) (refetch : List (BitVec 26)) (lost : Option (BitVec 26)) (fault : Option (Fin 14 × Fin 64)) :=
  act (Dev.scaRun h 1 refetch lost fault)

/-- CAL_SWAP: its bank is active for the set's later jobs. -/
def calSwap (h : Fin 32) (s : Dev) : Dev :=
  match (s.harness h).cur with
  | some r =>
    if jobOp r.d ≠ 2 ∨ r.ended then s
    else
      let a := R.SCA_CALSEL (jobSet r.d / 32)
      (s.wr a (setBits (s.rd a) (jobSet r.d % 32) 1 (bits (dw r.d 0) 2 1))).modRun h fun r => { r with ended := true }
  | none => s

def execCalSwap (h : Fin 32) := act (calSwap h)

/-! ### Ends (R250, R252, R253) -/

/-- What each status counts and logs (Table 10-6). -/
def Dev.scaStatus (h : Nat) (d : List Nat) (st : Nat) (s : Dev) : Dev :=
  let j := jobSet d
  match st with
  | 1 => (s.scaCount R.SCA_LATE).stick R.SCA_STAT_late (·.raiseOf Ev.SCA_LATE 5 h [(8, j), (32, dw d 1)])
  | 3 => (s.scaCount R.SCA_BAD).stick R.SCA_STAT_bad (·.raiseOf Ev.SCA_BAD 5 h [(32, dw d 1), (4, 3)])
  | 4 => (s.scaCount R.SCA_BAD).stick R.SCA_STAT_bad (·.raiseOf Ev.SCA_BAD 5 h [(32, dw d 1), (4, 4)])
  | 5 => (s.scaCount R.SCA_STALE).stick R.SCA_STAT_stale (·.raiseOf Ev.SCA_STALE 5 h [(8, j), (32, dw d 3)])
  | 6 => s.scaCount R.SCA_WERA
  | 7 => s.scaCount R.SCA_PERR
  | 8 => s.scaCount R.SCA_SHORT
  | 9 => s.scaCount R.SCA_PERR
  | _ => s

/-- The least of a list of statuses; 0 where there is none. -/
def leastStatus (l : List Nat) : Nat := match l with | [] => 0 | a :: r => r.foldl min a

/-- A job's record and event (Table 10-5). -/
def Dev.scaEnd (h : Nat) (d : List Nat) (st nSat nEra t0 : Nat) (s : Dev) : Dev :=
  let w1 := st + h * 2 ^ 4 + jobSet d * 2 ^ 9
  let s1 := s.record (bits (dw d 10) 0 12) [dw d 1 + w1 * 2 ^ 32, nSat + nEra * 2 ^ 16, t0, s.time.cnt]
  (s1.postOpen 3 (bits (dw d 0) 16 16)).wr (R.SCA_HSEQ h) (dw d 1)

/-- Every flushed job ends STOPPED without any access (R253). -/
def Dev.scaFlush (h : Nat) (l : List (List Nat)) (s : Dev) : Dev :=
  (l.foldl (fun s d => s.scaEnd h d 2 0 0 0) s).raiseOf Ev.SCA_STOPPED 5 h [(32, l.length)]

/-- The running job ends, once its outputs are all written. Its cycles at 1.2 GHz are those of the time it ran, give or take where it began in a cycle: free.
A stop that waited for it flushes its jobs then, and the next job comes to the head. -/
def scaJobComplete (h : Fin 32) (s : Dev) : Dev :=
  let x := s.harness h
  match x.cur with
  | some r =>
    if !r.ended || s.scaStalled r then s
    else
      let cyc := (s.time.clk - r.startClk) * 625 / 512 + Config.freeNat s.freeCtr 0 % 2
      let s1 := ((s.takeFree).setHarness h { x with cur := none, headAt := s.time.cnt, flush := none }).inc64 (R.SCA_HCYC h) cyc
      let s2 := r.sts.foldl (fun s c => s.scaStatus h r.d c) s1
      let s3 := if r.sts.isEmpty then s2.inc64 R.SCA_JOBS 1 else s2
      let s4 := (if r.sts.contains 9 then s3.harnessLost h else s3).scaEnd h r.d (leastStatus r.sts) r.nSat r.nEra r.t0
      match x.flush with
      | some l => s4.scaFlush h l
      | none => s4
  | none => s

def execScaJobComplete (h : Fin 32) := act (scaJobComplete h)

/-- The outputs not yet written, written erased. -/
def Dev.eraseRest (h : Nat) (r : ScaRun) (s : Dev) : Dev :=
  s.scaWrite h (r.set.outs.map fun k => (k, List.replicate ((jobNsym r.d - r.sym) * r.words) (0, true)))

/-- A wait of over 1 ms on one input line. -/
def scaShort (h : Fin 32) (s : Dev) : Dev :=
  match (s.harness h).cur with
  | some r =>
    let j := jobSet r.d
    if r.ended ∨ jobOp r.d = 2 ∨ s.scaStalled r ∨ s.inputsReady r.set.ins r.words ∨ s.time.cnt ≤ r.since + 1966080 then s
    else
      let k := ((r.set.ins.find? fun q => s.ringValid q.1 && decide (s.ringW q.1 < s.ringR q.1 q.2 + r.words)).map (·.1)).getD 0
      let s1 := (s.eraseRest h r).modRun h fun r => { r.met 8 with ended := true }
      ((s1.setB R.SCA_STAT_short true).raiseOf Ev.SCA_SHORT 5 (h : Nat) [(8, j), (12, k)]).trigger 4 5 j
  | none => s

def execScaShort (h : Fin 32) := act (scaShort h)

/-- A write of stop: the running job writes the rest erased and consumes the rest unread, and once it has ended every job that was queued ends STOPPED.
Writers that stalled get their places. -/
def harnessStop (h : Fin 32) (s : Dev) : Dev :=
  let x := s.harness h
  let s1 := fun (cur : Option ScaRun) (fl : Option (List (List Nat))) =>
    s.setHarness h { queue := x.held.take 32, held := x.held.drop 32, cur := cur, headAt := s.time.cnt, flush := fl }
  match x.cur with
  | some r =>
    let r1 := if r.ended then r else if jobOp r.d = 2 then { r.met 2 with ended := true } else { r.met 2 with skip := true }
    s1 (some r1) (some (x.flush.getD [] ++ x.queue))
  | none => (s1 none none).scaFlush h x.queue

def execHarnessStop (h : Fin 32) := act (harnessStop h)

/-- A write of clr. -/
def harnessClear (h : Fin 32) (s : Dev) : Dev := (s.wr64 (R.SCA_HCYC h) 0).setB (R.SCA_HSTAT_cfg_bad h) false

def execHarnessClear (h : Fin 32) := act (harnessClear h)

end Sys2Proof.Machine
end

