-- ==== Sys2Proof/Machine/LinkTest.lean ====
section
/-!
DEFINITION. Link tests (R155–R164): the pattern generator and checker, the error injector, and the three loopbacks.
-/

namespace Sys2Proof.Machine

/-! ### Patterns (R155, Table 6-3) -/

def Dev.pat (s : Dev) (n : Nat) : Nat := s.get (R.LNK_GEN_CFG_pat n)

/-- The user pattern's bits. -/
def Dev.userPattern (s : Dev) (n : Nat) : List Bool :=
  let u := s.get (R.LNK_GEN_CFG_ulen n)
  (List.range (if u = 0 then 8 else u)).flatMap fun k => msbBits 32 (s.rd (R.LNK_PAT_USR n k))

/-- The next `k` bits of the generator of a lane. -/
def Dev.genBits (s : Dev) (n k : Nat) (x : LaneSt) : List Bool × LaneSt :=
  match k with
  | 0 => ([], x)
  | k + 1 =>
    let inv := s.flag (R.LNK_GEN_CFG_inv n)
    match prbsTaps (s.pat n) with
    | some t =>
      let b := prbsNext t x.genReg
      let q := s.genBits n k { x with genReg := regPush t.1 x.genReg b }
      ((b != inv) :: q.1, q.2)
    | none =>
      let u := s.userPattern n
      let q := s.genBits n k { x with genPos := (x.genPos + 1) % u.length }
      ((u.getD x.genPos false != inv) :: q.1, q.2)

/-! ### Checker (R156) -/

/-- Whether a lane's checker compares against a pattern that exists. -/
def Dev.patOk (s : Dev) (n : Nat) : Bool := decide (s.pat n < 6)

/-- The place in the user pattern that the last 256 bits end at, if they follow it. -/
def userAlign (u w : List Bool) : Option Nat :=
  if w.length < 256 then none
  else (List.range u.length).find? fun o => (w.mapIdx fun i b => b == u.getD ((o + i) % u.length) false).all id

/-- One bit before sync: the register takes the received bits, and 256 in a row without error declare sync. -/
def Dev.chkHunt (s : Dev) (n : Nat) (b : Bool) (c : Checker) : Checker :=
  match prbsTaps (s.pat n) with
  | some t =>
    let ok := c.have_ < t.1 || b == prbsNext t c.reg
    let run := if c.have_ < t.1 then 0 else if ok then c.run + 1 else 0
    { c with reg := regPush t.1 c.reg b, have_ := min (c.have_ + 1) t.1, run := run, due := run == 256 }
  | none =>
    let u := s.userPattern n
    let w := (c.window ++ [b]).drop (c.window.length + 1 - 256)
    match userAlign u w with
    | some o => { c with window := w, have_ := (o + 256) % u.length, due := true }
    | none => { c with window := w }

/-- One bit in sync: the error it shows, and the loss of sync after more than 32 errors in 256 bits. -/
def Dev.chkCompare (s : Dev) (n : Nat) (b : Bool) (c : Checker) : Bool × Checker :=
  let r := match prbsTaps (s.pat n) with
    | some t => let p := prbsNext t c.reg; (b != p, { c with reg := regPush t.1 c.reg p })
    | none =>
      let u := s.userPattern n
      (b != u.getD c.have_ false, { c with have_ := (c.have_ + 1) % u.length })
  let w := (r.2.window ++ [r.1]).drop (r.2.window.length + 1 - 256)
  (r.1, { r.2 with window := w, due := decide (32 < (w.filter id).length) })

/-- The waiting bits of a checker taken up until a change of sync is due: how many bits were compared in sync and how many of them
differed. -/
def Dev.chkFeed (s : Dev) (n : Nat) (synced : Bool) (l : List Bool) (c : Checker) : Nat × Nat × Checker :=
  match l with
  | [] => (0, 0, { c with input := [] })
  | b :: r =>
    let b := b != s.flag (R.LNK_GEN_CFG_inv n)
    if synced then
      let q := s.chkCompare n b c
      let z := if q.2.due then (0, 0, { q.2 with input := r }) else s.chkFeed n true r q.2
      (z.1 + 1, z.2.1 + b2n q.1, z.2.2)
    else
      let c' := s.chkHunt n b c
      if c'.due then (0, 0, { c' with input := r }) else s.chkFeed n false r c'

/-- A lane's checker takes up its waiting bits. -/
def Dev.chkRun (n : Nat) (s : Dev) : Dev :=
  let x := s.lane n
  if x.chk.due ∨ !s.patOk n then s
  else
    let q := s.chkFeed n (s.flag (R.LNK_TEST_STAT_chk_sync n)) x.chk.input x.chk
    ((s.setLane n { x with chk := q.2.2 }).inc64 (R.LNK_CHK_BITS n) q.1).inc64 (R.LNK_CHK_ERR n) q.2.1

/-- The checker declares sync. -/
def lnkChkSync (n : Fin 1024) (s : Dev) : Dev :=
  if (s.lane n).eff.chk ∧ (s.lane n).chk.due ∧ !s.flag (R.LNK_TEST_STAT_chk_sync n) then
    let s1 := s.modLane n fun x => { x with chk := { x.chk with due := false, window := [] } }
    ((s1.setB (R.LNK_TEST_STAT_chk_sync n) true).raiseOf Ev.LNK_CHK_SYNC 10 n []).chkRun n
  else s

def execLnkChkSync (n : Fin 1024) := act (lnkChkSync n)

/-- The checker loses sync and seeds itself again. -/
def lnkChkLoss (n : Fin 1024) (s : Dev) : Dev :=
  if (s.lane n).eff.chk ∧ (s.lane n).chk.due ∧ s.flag (R.LNK_TEST_STAT_chk_sync n) then
    let s1 := s.modLane n fun x => { x with chk := { input := x.chk.input } }
    let s2 := (s1.setB (R.LNK_TEST_STAT_chk_sync n) false).laneCount n (R.LNK_CHK_LOSS n) (R.LNK_CNT_OVF3 n) 0
    (s2.stick (R.LNK_TEST_STAT_chk_loss n) (·.raiseOf Ev.LNK_CHK_LOSS 10 n [])).chkRun n
  else s

def execLnkChkLoss (n : Fin 1024) := act (lnkChkLoss n)

/-! ### Writes of the test control (R158–R162) -/

/-- A refused test write. -/
def Dev.testRefused (n why : Nat) (s : Dev) : Dev :=
  ((s.setB (R.LNK_TEST_STAT_test_ref n) true).set (R.LNK_TEST_STAT_ref_why n) why).raiseOf Ev.LNK_TEST_REFUSED 10 n [(2, why)]

/-- A LOOP command's word for a target (Table 6-6). -/
def loopWord (on : Bool) (target : Nat) : Nat := 3 * 2 ^ 60 + b2n on * 2 ^ 58 + target % 2 ^ 32

/-- LOOP or LOOP off queued, for the first half-subframe boundary at least 4 frames ahead (R159). -/
def Dev.queueLoop (f : Nat) (on : Bool) (s : Dev) : Dev :=
  let t := s.boundaryAhead f 4
  let q := (s.link f).cseq
  (s.queueCmd f (loopWord on t) t).modLink f fun k => { k with feLoop := some (t, on), loopSeq := some q }

/-- A reserved mode is shown and logged with its field. -/
def Dev.modeBad (n field : Nat) (s : Dev) : Dev :=
  s.stick (R.LNK_TEST_STAT_mode_bad n) (·.raiseOf Ev.LNK_MODE_BAD 10 n [(4, field)])

/-- The reserved patterns and injection types (Tables 6-3 and 6-4). A pending inj_one of a reserved type is no injection. -/
def Dev.testModes (n : Nat) (s : Dev) : Dev :=
  let e := (s.lane n).eff
  let one := (s.lane n).injOne != 0
  let s1 := if (e.gen ∨ e.chk) ∧ 6 ≤ s.pat n then s.modeBad n 14 else s
  if (e.inj ∨ one) ∧ 5 ≤ s.get (R.LNK_INJ_CFG_type_ n) then (s1.modeBad n 15).modLane n fun x => { x with injOne := 0 } else s1

/-- Why a write of LNK_TEST_CTL that gives these values is refused (R161, R162); none when it is not. -/
def Dev.testWhy (s : Dev) (n v : Nat) : Option Nat :=
  let f := s.linkOf n
  let l := v % 4
  let new := l != s.get (R.LNK_TEST_CTL_loop n)
  if (l != 0 || bit v 2 || bit v 3) && s.linkState f == 3 && !bit v 5 then some 0
  else if new && l == 1 && s.get (R.LNK_LINE_CFG_rate_code n) == 0 && s.get (R.LNK_LINE_STAT_found_rate n) == 0 then some 1
  else if new && decide (2 ≤ l) && (s.laneState n != 8 || (l == 3 && !s.flag (R.LNK_LINK_STAT_radio_lock f))) then some 2
  else none

/-- A write of LNK_TEST_CTL as a whole: a refused one changes nothing there (R162). Under split duplex lane 2k holds the register for the pair.
Far-end loopback is asked for on a link's first lane: LOOP goes out when 3 is written, LOOP off when 3 is left (R159). -/
def Dev.writeTest (n v : Nat) (s : Dev) : Dev :=
  if s.isPairOdd n then s
  else
    match s.testWhy n v with
    | some why => s.testRefused n why
    | none =>
      let was := s.get (R.LNK_TEST_CTL_loop n)
      let s1 := (s.wr (R.LNK_TEST_CTL n) (v % 64)).modLane n fun x =>
        { x with injOne := x.injOne + b2n (bit v 6), clrPend := x.clrPend || bit v 7 }
      let s2 :=
        if s.linkOf n ≠ n ∨ v % 4 = was then s1
        else if v % 4 = 3 then s1.queueLoop n true
        else if was = 3 then s1.queueLoop n false
        else s1
      s2.testModes n

/-- The present value of LNK_TEST_CTL with one field replaced. -/
def Dev.testWith (s : Dev) (n lo w v : Nat) : Nat := setBits (s.rd (R.LNK_TEST_CTL n)) lo w v

/-- A write of loop. -/
def testLoopWrite (n : Fin 1024) (loop : Fin 4) (s : Dev) : Dev := s.writeTest n (s.testWith n 0 2 loop)

def execTestLoopWrite (n : Fin 1024) (loop : Fin 4) := act (testLoopWrite n loop)

/-- A write of gen_en. -/
def genEnWrite (n : Fin 1024) (on : Bool) (s : Dev) : Dev := s.writeTest n (s.testWith n 2 1 (b2n on))

def execGenEnWrite (n : Fin 1024) (on : Bool) := act (genEnWrite n on)

/-- A write of chk_en. -/
def chkEnWrite (n : Fin 1024) (on : Bool) (s : Dev) : Dev := s.writeTest n (s.testWith n 3 1 (b2n on))

def execChkEnWrite (n : Fin 1024) (on : Bool) := act (chkEnWrite n on)

/-- A write of inj_en. -/
def injEnWrite (n : Fin 1024) (on : Bool) (s : Dev) : Dev := s.writeTest n (s.testWith n 4 1 (b2n on))

def execInjEnWrite (n : Fin 1024) (on : Bool) := act (injEnWrite n on)

/-- A write of inj_one. -/
def injOne (n : Fin 1024) (s : Dev) : Dev := s.writeTest n (s.testWith n 6 1 1)

def execInjOne (n : Fin 1024) := act (injOne n)

/-- A write of clr. -/
def testClr (n : Fin 1024) (s : Dev) : Dev := s.writeTest n (s.testWith n 7 1 1)

def execTestClr (n : Fin 1024) := act (testClr n)

/-! ### The frame start and the LOOP target (R158, R164) -/

/-- The counters that clr zeroes (Table 6-7). -/
def Dev.testZero (n : Nat) (s : Dev) : Dev :=
  let s1 := [R.LNK_CHK_BITS n, R.LNK_CHK_ERR n, R.LNK_INJ_CNT n, R.LNK_GEN_DISC n].foldl (fun s a => s.wr64 a 0) s
  (s1.wr (R.LNK_CHK_LOSS n) 0).modLane n fun x => { x with clrPend := false }

/-- After a write of LNK_GEN_CFG or LNK_INJ_CFG: reserved codes are shown, and a pattern other than `was` starts from its beginning. -/
def Dev.hookTestCfg (n was : Nat) (s : Dev) : Dev :=
  (if s.pat n = was then s else s.modLane n fun x => { x with genReg := 2 ^ 31 - 1, genPos := 0 }).testModes n

/-- The functions in effect change: the start of the first and the end of the last are logged. -/
def Dev.testChange (n : Nat) (e : TestEff) (s : Dev) : Dev :=
  let was := (s.lane n).eff
  let ended := (was.on || was.inj) && !e.on && !e.inj
  let s1 := s.setEff n e
  let s2 := if e.chk then s1 else s1.setB (R.LNK_TEST_STAT_chk_sync n) false
  let s3 := if e.gen ∧ !was.gen then s2.modLane n fun x => { x with genReg := 2 ^ 31 - 1, genPos := 0 } else s2
  let s4 :=
    if !was.on && e.on then s3.raiseOf Ev.LNK_TEST_START 10 n [(2, e.loop), (1, b2n e.gen), (1, b2n e.chk)]
    else if ended then s3.testEnd n 0
    else s3
  s4.testModes n

/-- A near-end analog loopback begins: the ball goes quiet, the link loses its radio, and the lane acquires its own D by sync word (Table 6-5). -/
def Dev.neaStart (n : Nat) (s : Dev) : Dev := ((s.linkDown (s.linkOf n) n).toQuiet n).setLaneState n 2

/-- The latest test configuration takes effect at the lane's frame start. Far-end loopback starts and ends at its LOOP targets; another loopback
asked for replaces it, as it does a near-end one. -/
def testApply (n : Fin 1024) (s : Dev) : Dev :=
  let was := (s.lane n).eff
  let l := s.get (R.LNK_TEST_CTL_loop n)
  let loop := if l = 0 ∨ l = 3 then (if was.loop = 3 then 3 else 0) else l
  let e : TestEff := ⟨loop, s.flag (R.LNK_TEST_CTL_gen_en n), s.flag (R.LNK_TEST_CTL_chk_en n), s.flag (R.LNK_TEST_CTL_inj_en n)⟩
  if s.isPairOdd n then s
  else
    let s0 := if (s.lane n).clrPend then s.testZero n else s
    let s1 := if e = was then s0 else s0.testChange n e
    if loop = 1 ∧ was.loop ≠ 1 then s1.neaStart n
    else if was.loop = 1 ∧ loop ≠ 1 then (s1.linkDown (s.linkOf n) n).toQuiet n
    else s1

def execTestApply (n : Fin 1024) := act (testApply n)

/-- Far-end loopback leaves effect on every lane of a link. -/
def Dev.feEnd (f : Nat) (change : Nat → TestEff → Dev → Dev) (s : Dev) : Dev :=
  (s.linkLanes f).foldl (fun s k =>
    let e := (s.lane k).eff
    if e.loop = 3 then change k { e with loop := 0 } s else s) s

/-- A LOOP target comes: far-end loopback starts on the whole link if it is still asked for on the first lane, or ends (R159, Table 6-2). -/
def feLoopTarget (n : Fin 1024) (s : Dev) : Dev :=
  match (s.link n).feLoop with
  | some (t, on) =>
    if t ≤ s.time.cnt then
      let s1 := s.modLink n fun k => { k with feLoop := none }
      if on then
        if s.get (R.LNK_TEST_CTL_loop n) = 3 then
          (s.linkLanes n).foldl (fun s k => s.testChange k { (s.lane k).eff with loop := 3 }) s1
        else s1
      else s1.feEnd n Dev.testChange
    else s
  | none => s

def execFeLoopTarget (n : Fin 1024) := act (feLoopTarget n)

/-- The radio refused the last LOOP command: no far-end loopback is in effect (R159). -/
def Dev.loopRefused (f cseq : Nat) (s : Dev) : Dev :=
  if (s.link f).loopSeq = some cseq then
    let s1 := (s.modLink f fun k => { k with feLoop := none, loopSeq := none }).set (R.LNK_TEST_CTL_loop f) 0
    (s1.feEnd f Dev.setEff).testEnd f 2
  else s

/-! ### Injection (R157, Table 6-4) -/

/-- The first frame bits of an injection unit inverted or moved: the frame with type `t` applied at unit `u`, given as a codeword and a frame
bit. -/
def injectAt (t blen : Nat) (units : List (Nat × Nat)) (u : Nat) (frame : List Bool) : List Bool :=
  match units[u]? with
  | none => frame
  | some (c, p) =>
    let flip := fun (ps : List Nat) => frame.mapIdx fun i b => if ps.contains i then !b else b
    match t with
    | 0 => flip [p]
    | 1 => flip (((units.drop u).take blen).filterMap fun q => if q.1 = c then some q.2 else none)
    | 2 =>
      let v := pam4 (frame.getD p false) (frame.getD (p + 1) false)
      let b := pam4Bits (if v.natAbs = 3 then v / 3 else -v)
      frame.mapIdx fun i x => if i = p then b.1 else if i = p + 1 then b.2 else x
    | 3 => flip [p + 16]
    | 4 => flip ((List.range 1016).map fun k => p + 16 + 2 * k)
    | _ => frame

/-- The frame on the line with bits of it changed: the samples of the transmit path follow. -/
def Dev.reLine (n : Nat) (l : List Bool) (s : Dev) : Dev :=
  let x := s.lane n
  s.setLane n { x with sent := l, line := s.lineSamples n x.before (lineLevels l x.gap) }

/-- How many bits a burst inverts. -/
def Dev.injLen (s : Dev) (n : Nat) : Nat := min (max (s.get (R.LNK_INJ_CFG_blen n)) 2) 64

/-- The unit of the last frame at which the next injection falls: at once for inj_one, else where the interval expires. -/
def Dev.injUnit (s : Dev) (n : Nat) : Option Nat :=
  let x := s.lane n
  let int := s.rd (R.LNK_INJ_INT n)
  if x.injOne ≠ 0 then some 0
  else if x.eff.inj && int != 0 && decide (int ≤ x.injCount + x.injUnits.length) then some (int - x.injCount - 1)
  else none

/-- One error applied to the frame being sent. The units up to it count as passed. -/
def injection (n : Fin 1024) (s : Dev) : Dev :=
  let x := s.lane n
  let t := s.get (R.LNK_INJ_CFG_type_ n)
  if 5 ≤ t then s
  else
    match s.injUnit n with
    | some u =>
      if u < x.injUnits.length then
        let f := injectAt t (s.injLen n) x.injUnits u x.sent
        let full := x.injCount + u + 1
        let int := s.rd (R.LNK_INJ_INT n)
        let s1 := (s.setLane n { x with injOne := x.injOne - 1, injCount := if int ≤ full then 0 else full,
                                        injUnits := x.injUnits.drop (u + 1) }).reLine n f
        s1.inc64 (R.LNK_INJ_CNT n) 1
      else s
    | none => s

def execInjection (n : Fin 1024) := act (injection n)

end Sys2Proof.Machine
end

