-- ==== Sys2Proof/Machine/LinkFrame.lean ====
section
/-!
DEFINITION. Antenna links, framing and steering (R119–R151, R476): link frames sent and received, sample groups, the control channel, radio
commands, the steering loop, and the states of a link.
-/

namespace Sys2Proof.Machine

/-! ### Group timing (R129, R139) -/

/-- Sample groups of a link in a half subframe. -/
def Dev.perHalf (s : Dev) (f : Nat) : Nat := s.linkFs f / 2000 / fmtBlock (s.get (R.LNK_LINK_CFG_fmt f))

/-- A sample period in 1/32 Tc. -/
def Dev.samplePeriod (s : Dev) (f : Nat) : Nat := 128 * 2 ^ s.get (R.LNK_LINK_CFG_srate f)

/-- A group's time in 1/32 Tc. -/
def Dev.groupPeriod (s : Dev) (f : Nat) : Nat := s.samplePeriod f * fmtBlock (s.get (R.LNK_LINK_CFG_fmt f))

/-- d_dl + dl_lead + LNK_DL_MARGIN in 1/32 Tc. -/
def Dev.dlAdvance (s : Dev) (f : Nat) : Int :=
  (s.link f).dul + 2 * s.getS (R.LNK_ASYM_asym f) + 32 * (s.rd (R.LNK_RPAGE f 3) + s.get (R.LNK_DL_MARGIN_margin f) : Nat)

/-- The launch time of the first payload bit of the codeword marked for a boundary, in 1/32 Tc (R139). -/
def Dev.launch (s : Dev) (f b : Nat) : Int := 32 * (b : Int) - s.dlAdvance f

/-- The time of a frame bit in 1/32 Tc, from the frame's departure in 1/16 Tc. -/
def Dev.bitTime (s : Dev) (n at_ p : Nat) : Int := (2 * at_ + p * (98304 * 32) / (65000 * rateMul (s.laneRate n)) : Nat)

/-! ### Downlink samples (R128, R129, R213) -/

/-- The duration of a link's sample in Tc. -/
def Dev.sampleTc (s : Dev) (f : Nat) : Nat := 4 * 2 ^ s.get (R.LNK_LINK_CFG_srate f)

/-- The bits of downlink group `j`. -/
def Dev.groupBits (s : Dev) (f b j : Nat) : List Bool :=
  let fmt := s.get (R.LNK_LINK_CFG_fmt f)
  let k := fmtBlock fmt
  (List.range (s.get (R.LNK_LINK_CFG_nstr f))).flatMap fun p =>
    packSamples fmt ((List.range k).map fun i => s.dlSample (s.get (R.LNK_LINK_CFG2_str_base f) + p) b (j * k + i) (s.sampleTc f))

/-- What predistortion saturated of the groups that a lane took for a frame, counted (R226). -/
def Dev.groupSats (f : Nat) (took : List (Nat × Nat)) (s : Dev) : Dev :=
  let k := fmtBlock (s.get (R.LNK_LINK_CFG_fmt f))
  took.foldl (fun s e =>
    (List.range (s.get (R.LNK_LINK_CFG_nstr f))).foldl (fun s p =>
      s.dlSats (s.get (R.LNK_LINK_CFG2_str_base f) + p) e.1 (e.2 * k) k (s.sampleTc f)) s) s

/-- The link carries payload in codewords from a time on, in 1/32 Tc: it is in RUN, or leaves DOZE one codeword time before its exit target; air time
is RUN or FALLBACK and not off air; and no DEEP target has come (R34, R62, R148, R149). -/
def Dev.payloadOn (s : Dev) (f : Nat) (t : Int) : Bool :=
  let k := s.link f
  let came := fun (kind : Nat) (lead : Int) => k.power.any fun p => p.2 == kind && decide (32 * (p.1 : Int) - lead ≤ t)
  (s.linkState f == 3 || (s.linkState f == 4 && came 0 0)) && decide (2 ≤ s.airState) && !s.time.offAir && !came 2 0

/-- The link's downlink groups are sent at a time: its TDD state is downlink then, and no test takes the lane's payload (R131, R161). -/
def Dev.sendsGroups (s : Dev) (f n : Nat) (t : Int) : Bool := s.tddAt f (t / 32).toNat == 1 && !(s.testActs n).on

/-- Groups of a lane due at a time in its present half subframe, from its cursor on. -/
def Dev.groupsDue (s : Dev) (f n : Nat) (t : Int) (x : LaneSt) : Nat :=
  let per := (s.perHalf f - x.txJ + s.linkSize f - 1) / s.linkSize f
  let first := s.launch f x.txB + (x.txJ * s.groupPeriod f : Nat)
  if t < first ∨ n ≥ 1024 then 0 else min per (((t - first).toNat) / (s.groupPeriod f * s.linkSize f) + 1)

/-- The bits of the next `k` groups of a lane appended to what it carries. -/
def Dev.takeGroups (s : Dev) (f k need : Nat) (x : LaneSt) : LaneSt :=
  match k with
  | 0 => x
  | k + 1 =>
    if need ≤ x.carry.length then x
    else s.takeGroups f k need
      { x with carry := x.carry ++ s.groupBits f x.txB x.txJ, txJ := x.txJ + s.linkSize f, took := x.took ++ [(x.txB, x.txJ)] }

/-- The cursor moved to a boundary whose marked group is due: whether this codeword carries its mark. A boundary missed by more than a frame
passes without a mark. -/
def Dev.markStep (s : Dev) (f n : Nat) (t : Int) (x : LaneSt) : Bool × LaneSt :=
  if x.txJ < s.perHalf f ∨ !x.carry.isEmpty then (false, x)
  else
    let due := fun (b : Nat) => s.launch f b + (s.bondPos n * s.groupPeriod f : Nat)
    let last := ((t + s.dlAdvance f - (s.bondPos n * s.groupPeriod f : Nat)) / (32 * halfSubTc)).toNat * halfSubTc
    if t < due (x.txB + halfSubTc) ∨ last ≤ x.txB then (false, x)
    else if due last + (s.bitTime n 0 32896) < t then (false, { x with txB := last, txJ := s.perHalf f })
    else (s.sendsGroups f n t, { x with txB := last, txJ := s.bondPos n })

/-- The payload of codeword `c`: its data bits, its filler blocks, its mark, the lane after it, and the groups discarded. -/
def Dev.cwData (s : Dev) (f n c at_ : Nat) (x : LaneSt) : List Bool × Nat × Bool × LaneSt × Nat :=
  let nb := payloadBlocks (s.get (R.LNK_LINE_CFG_fec n)) c
  let t := s.bitTime n at_ (payloadFrameBit c)
  let q := s.markStep f n t x
  let k := s.groupsDue f n t q.2
  if !s.payloadOn f t then ([], nb, false, x, 0)
  else if !s.sendsGroups f n t then
    let y := { q.2 with txJ := q.2.txJ + k * s.linkSize f, carry := [] }
    ([], nb, false, y, if (s.testActs n).on ∧ s.tddAt f (t / 32).toNat = 1 then k else 0)
  else
    let y := s.takeGroups f k (16 * nb) q.2
    let ends := decide (s.perHalf f ≤ y.txJ)
    let blocks := min nb (if ends then (y.carry.length + 15) / 16 else y.carry.length / 16)
    let d := y.carry.take (16 * blocks)
    (d ++ lsbBits (16 * blocks - d.length) (Config.freeNat s.freeCtr (64 + c)), nb - blocks, q.1, { y with carry := y.carry.drop (16 * blocks) }, 0)

/-- The payload of codeword `c` while the generator runs (R155): reserved patterns send filler only. -/
def Dev.cwGen (s : Dev) (n c : Nat) (x : LaneSt) : List Bool × Nat × LaneSt :=
  let nb := payloadBlocks (s.get (R.LNK_LINE_CFG_fec n)) c
  if !s.patOk n then ([], nb, x)
  else
    let fill := if c = 15 then 4 else 0
    let q := s.genBits n (16 * (nb - fill)) x
    (q.1, fill, q.2)

/-- One codeword to be sent: its place in the frame, its header, its payload, how many of its payload bits carry data, and for a marked one the
boundary and the time of its first payload bit in 1/32 Tc. -/
structure CwOut where
  idx : Nat
  hdr : List Bool
  pay : List Bool
  data : Nat
  mark : Option (Nat × Int)
deriving DecidableEq, Repr

/-- Codeword `c` is sent: in DOZE only codeword 0, and each one that starts at or after the exit target less one codeword time (R148). -/
def Dev.cwSent (s : Dev) (f n at_ c : Nat) : Bool :=
  c == 0 || s.linkState f != 4 ||
    (s.link f).power.any fun p => p.2 == 0 && decide (32 * (p.1 : Int) - s.bitTime n 0 2048 ≤ s.bitTime n at_ (128 + 2048 * c))

/-- The codewords of a frame from `c` on; `fill` gives the content of filler blocks, which is open (R124). -/
def Dev.cwList (s : Dev) (f n at_ c k : Nat) (fill : Nat → Nat) (x : LaneSt) (disc : Nat) : List CwOut × LaneSt × Nat :=
  match k with
  | 0 => ([], x, disc)
  | k + 1 =>
    if !s.cwSent f n at_ c then s.cwList f n at_ (c + 1) k fill x disc
    else
      let nb := payloadBlocks (s.get (R.LNK_LINE_CFG_fec n)) c
      let q := s.cwData f n c at_ x
      let g := s.cwGen n c q.2.2.2.1
      let (d, fl, mrk, x1) := if (s.testActs n).gen then (g.1, g.2.1, false, g.2.2) else (q.1, q.2.1, q.2.2.1, q.2.2.2.1)
      let mark := if mrk then some (x1.txB, s.bitTime n at_ (payloadFrameBit c)) else none
      let o : CwOut := ⟨c, cwHeader c mrk fl, d ++ lsbBits (16 * fl) (fill c), 16 * (nb - fl), mark⟩
      let r := s.cwList f n at_ (c + 1) k fill x1 (disc + q.2.2.2.2)
      (o :: r.1, r.2)

/-! ### The command slot (R136) -/

/-- The first of two commands: the earlier target, ties to the lower sequence, which the queue's order gives. -/
def firstCmd (l : List RadioCmd) : Option RadioCmd :=
  l.foldl (fun o c => match o with | some b => if c.target < b.target then some c else some b | none => some c) none

/-- The command the slot carries: the earliest unsent one, else the next after the one sent last in target order, round and round. -/
def slotCmd (k : LinkSt) : Option RadioCmd :=
  match firstCmd (k.queue.filter fun c => !c.sent) with
  | some c => some c
  | none =>
    let after := match k.lastSent with
      | some (t, q) => k.queue.filter fun c => decide (t < c.target) || (c.target == t && decide (q < c.cseq))
      | none => []
    match firstCmd after with
    | some c => some c
    | none => firstCmd k.queue

/-- The slot chosen at the frame start of the link's first lane; a TDD command sent for the first time will act at its target. -/
def Dev.chooseSlot (f : Nat) (s : Dev) : Dev :=
  let k := s.link f
  match slotCmd k with
  | none =>
    let q := Config.freeNat s.freeCtr 0 % 256
    (s.takeFree).setLink f { k with slot := (q, 0) }
  | some c =>
    let tdd := !c.sent && bits c.word 60 4 == 1
    let dir := bits c.word 58 2
    s.setLink f { k with
      slot := (c.cseq, c.word), lastSent := some (c.target, c.cseq)
      queue := k.queue.map fun d => if d.cseq = c.cseq then { d with sent := true } else d
      tddDue := if tdd && dir != 3 then k.tddDue ++ [(c.target, dir)] else k.tddDue
      tddAir := if tdd then (k.tddAir.filter fun t => decide (s.time.cnt < t + 5 * tickTc)) ++ [c.target] else k.tddAir }

/-! ### Frames sent (R119–R124, R132) -/

/-- The steering master whose words a link sends (R144). -/
def Dev.master (s : Dev) (f : Nat) : Nat := s.get (R.LNK_LINK_CFG2_master f)

/-- d_dl in 1/32 Tc (R139). -/
def Dev.dDl (s : Dev) (f : Nat) : Int := (s.link f).dul + 2 * s.getS (R.LNK_ASYM_asym f)

/-- The control channel (Table 5-7); fields that their valid bit leaves open are free. `mk` is the frame's marked codeword: its boundary and the
time of its first payload bit; rl runs from that bit's arrival at the radio to the boundary. -/
def Dev.ccBits (s : Dev) (f : Nat) (mk : Option (Nat × Int)) : List Bool :=
  let m := s.master f
  let k := s.link f
  let realign := mk.isSome && (mk.map (·.1)) == k.realign
  let air := match mk with | some b => b.1 % 2 ^ 48 | none => Config.freeNat s.freeCtr 1 % 2 ^ 48
  let rl := match mk with
    | some (b, t) => if realign then toBits 16 (divRound (32 * (b : Int) - t - s.dDl f) 32) else Config.freeNat s.freeCtr 2
    | none => Config.freeNat s.freeCtr 2
  let sv := s.get (R.LNK_LINK_STAT_steer m) != 0
  let steer := if sv then s.get (R.LNK_STEER_s m) else Config.freeNat s.freeCtr 3
  let h := msbBits 4 1 ++ [sv, realign, mk.isSome, false] ++ msbBits 24 steer ++ msbBits 8 (s.get (R.LNK_STEER_ssn m)) ++
    msbBits 48 air ++ msbBits 8 k.slot.1 ++ msbBits 64 k.slot.2 ++ msbBits 16 rl ++ msbBits 64 0
  h ++ msbBits 16 (crc16 h)

/-- The deskew marker (Table 5-4). -/
def Dev.markerBits (s : Dev) (f n : Nat) : List Bool :=
  let h := msbBits 16 (s.lane n).fcnt ++ msbBits 10 n ++ msbBits 8 (s.get (R.LNK_LINK_CFG_bgid f)) ++
    msbBits 2 (s.get (R.LNK_LINK_CFG_bsize f)) ++ msbBits 3 (s.bondPos n) ++ [s.linkState f == 4] ++ msbBits 8 0
  h ++ msbBits 16 (crc16 h)

/-- The frame bits of a list of codewords: information bits scrambled, then the parity of the link LDPC. -/
def encodeCws (fec scr : Nat) (cc : List Bool) (l : List CwOut) : List Bool × Nat :=
  match l with
  | [] => ([], scr)
  | o :: r =>
    let q := scramble (scrTap true) scr (o.hdr ++ cc ++ o.pay)
    let z := encodeCws fec q.2 [] r
    (lsbBits 2048 (ldpcEncode fec (lsbNat q.1)) ++ z.1, z.2)

/-- The units of a frame that an injection type counts (R157): codeword and place among the bits sent. -/
def Dev.unitsOf (s : Dev) (n : Nat) (l : List CwOut) : List (Nat × Nat) :=
  let t := s.get (R.LNK_INJ_CFG_type_ n)
  let fec := s.get (R.LNK_LINE_CFG_fec n)
  let info := 64 * ldpcKb fec
  ((l.mapIdx fun i o => (i, o)).drop 1).flatMap fun (i, o) =>
    let base := 128 + 2048 * i
    let ps := nums (base + 16) o.data ++ nums (base + info) (2048 - info)
    if t < 2 then ps.map fun p => (o.idx, p)
    else if t = 2 then (ps.filter fun p => p % 2 == 0).map fun p => (o.idx, p)
    else [(o.idx, base)]

/-- The boundary that carries realign when the transmitter has moved from one lane state to another with this mark: the first marked group that is
sent, so the boundary moves on where its group was not (R145). -/
def nextRealign (realign : Option Nat) (x y : LaneSt) (mk : Option (Nat × Int)) : Option Nat :=
  match realign with
  | some b => if x.txB < b ∧ b ≤ y.txB ∧ mk.map (·.1) ≠ some b then some (y.txB + halfSubTc) else some b
  | none => none

/-- A link frame sent. obs_en takes effect with the frames of the link's first lane. A link in DEEP that is not waking has its lanes go quiet at the
end of the frame before. -/
def linkFrameSend (n : Fin 1024) (at_ : BitVec 68) (s : Dev) : Dev :=
  let f := s.linkOf n
  if s.laneState n ≠ 8 ∨ s.isPairOdd n then s
  else if s.linkState f = 5 ∧ (s.link f).wake.isNone then s.toQuiet n
  else
    let s0 := if (n : Nat) = f then (s.chooseSlot f).modLink f fun k => { k with obs := s.flag (R.LNK_LINK_CFG_obs_en f) } else s
    let x := { s0.lane n with took := [] }
    let fill := fun c => Config.freeNat s0.freeCtr (16 + c)
    let q := s0.cwList f n at_.toNat 0 16 fill x 0
    let y := q.2.1
    let mk := (q.1.find? fun o => o.mark.isSome).bind (·.mark)
    let m := scramble (scrTap true) x.txScr (s0.markerBits f n)
    let e := encodeCws (s0.get (R.LNK_LINE_CFG_fec n)) m.2 (s0.ccBits f mk) q.1
    let inj := x.eff.inj || x.injOne != 0
    let y1 := { y with
      txScr := e.2, fcnt := (x.fcnt + 1) % 65536
      departs := ((x.fcnt, at_.toNat) :: x.departs).take 256
      injCount := x.injCount + x.injUnits.length, injUnits := if inj then s0.unitsOf n q.1 else [] }
    let s1 := (((s0.takeFree).setLane n y1).onLine n (syncD ++ m.1 ++ e.1) (16 - q.1.length)).modLink f fun k =>
      { k with realign := nextRealign k.realign x y mk }
    (s1.groupSats f y.took).inc64 (R.LNK_GEN_DISC n) q.2.2

def execLinkFrameSend (n : Fin 1024) (at_ : BitVec 68) := act (linkFrameSend n at_)

/-! ### Received groups (R125, R127, R129) -/

/-- Sample groups counted in LNK_ERASE. -/
def Dev.eraseCount (f k : Nat) (s : Dev) : Dev := s.inc64 (R.LNK_ERASE f) k

/-- Group `i` of a lane since its last mark delivered to the link's streams. -/
def Dev.deliverGroup (f n : Nat) (l : List Bool) (bad : Bool) (s : Dev) : Dev :=
  let x := s.lane n
  match x.markAt, x.marker with
  | some b, some (_, _, _, pos) =>
    let fmt := s.get (R.LNK_LINK_CFG_fmt f)
    let w := fmtBits fmt
    let j := x.groups * s.linkSize f + pos
    let parts := (List.range (s.get (R.LNK_LINK_CFG_nstr f))).map fun p => unpackSamples fmt ((l.drop (w * p)).take w)
    let inv := (parts.mapIdx fun p q => (p, q.2)).filterMap fun (p, v) => if v then some p else none
    let g : RxGroup := ⟨parts.flatMap (·.1), bad, inv⟩
    let key := (b / halfSubTc + j / s.perHalf f) * 2 ^ 20 + j % s.perHalf f
    let s1 := (s.modLink f fun k => { k with groups := tput {} k.groups key g }).setLane n { x with groups := x.groups + 1 }
    s1.eraseCount f (b2n bad + inv.length)
  | _, _ => s

/-- Bits of payload data taken up by a lane: whole groups are delivered as they fill, each erased where a bit of it came in a codeword flagged
uncorrectable. -/
def Dev.takeBits (f n : Nat) (k : Nat) (s : Dev) : Dev :=
  match k with
  | 0 => s
  | k + 1 =>
    let x := s.lane n
    let w := fmtBits (s.get (R.LNK_LINK_CFG_fmt f)) * s.get (R.LNK_LINK_CFG_nstr f)
    if x.part.length < w ∨ w = 0 then s
    else
      let g := x.part.take w
      let s1 := s.deliverGroup f n (g.map (·.1)) (g.any (·.2))
      Dev.takeBits f n k (s1.modLane n fun y => { y with part := y.part.drop w })

/-- The half-subframe boundary that an arrival in 1/16 Tc follows at the radio. -/
def Dev.rxBoundary (s : Dev) (f at_ : Nat) : Nat := ((2 * (at_ : Int) - (s.link f).dul) / (32 * halfSubTc)).toNat * halfSubTc

/-- Groups of a lane from one boundary to another. -/
def Dev.laneGroups (s : Dev) (f a b : Nat) : Nat := (b - a) / halfSubTc * (s.perHalf f / s.linkSize f)

/-- Zero groups flagged erased stand for those that a lane should have brought since its last mark, up to the boundary before an arrival; each is
counted (R125, R145, Table 6-2). -/
def Dev.zeroGroups (f n at_ : Nat) (s : Dev) : Dev :=
  let x := s.lane n
  match x.markAt with
  | some b =>
    let due := s.laneGroups f b (s.rxBoundary f at_)
    if x.groups < due then (s.eraseCount f (due - x.groups)).setLane n { x with groups := due, part := [] } else s
  | none => s

/-- A mark received: the groups since the last one are brought to the exact number (R125). -/
def Dev.markReceived (f n at_ : Nat) (s : Dev) : Dev :=
  let x := s.lane n
  let b := s.rxBoundary f at_
  let want := match x.markAt with
    | some a => s.laneGroups f a b
    | none => x.groups
  let s1 := s.eraseCount f ((want - x.groups) + (x.groups - want))
  let s2 := if want < x.groups then s1.stick (R.LNK_LINK_STAT_overrun f) (·.raiseOf Ev.LNK_OVERRUN 10 f []) else s1
  let s3 := s2.modLink f fun k => { k with groups := k.groups.filter fun e => decide ((b / halfSubTc - 20) * 2 ^ 20 ≤ e.1) }
  s3.setLane n { x with markAt := some b, groups := 0, part := [] }

/-- One received codeword: its header, its filler, and its payload data for the streams or for the checker. -/
def Dev.rxCodeword (f n c at_ : Nat) (info : List Bool) (flagged : Bool) (s : Dev) : Dev :=
  let fec := s.get (R.LNK_LINE_CFG_fec n)
  let h := info.take 16
  if headerBad fec c h then
    (s.linkCount f (R.LNK_HDR_BAD f)).stick (R.LNK_LINK_STAT_hdr_bad f) (·.raiseOf Ev.LNK_HDR_BAD 10 f [(10, n)])
  else
    let fill := fieldAt h 5 7
    let d := (info.drop (payloadAt c)).take (16 * (payloadBlocks fec c - fill))
    let s1 := s.inc64 (R.LNK_FILL f) fill
    let eff := s.testActs n
    if eff.chk then if s.patOk n then s1.modLane n fun x => { x with chk := { x.chk with input := x.chk.input ++ d } } else s1
    else if eff.on ∨ s.linkState f ≠ 3 then s1
    else
      let at' := at_ + payloadFrameBit c * 98304 * 16 / (65000 * rateMul (s.laneRate n))
      let s2 := if h.getD 4 false then s1.markReceived f n at' else s1
      let s3 := s2.modLane n fun x => { x with part := x.part ++ d.map fun b => (b, flagged) }
      s3.takeBits f n d.length

/-- The codewords of a received frame, from `c` on. -/
def Dev.rxCodewords (f n c at_ : Nat) (l : List (List Bool × Bool)) (s : Dev) : Dev :=
  match l with
  | [] => s
  | (info, flagged) :: r => Dev.rxCodewords f n (c + 1) at_ r (s.rxCodeword f n c at_ info flagged)

/-! ### The radio's control channel (R133–R139) -/

/-- The air count of the half-subframe boundary nearest a time in 1/32 Tc. -/
def nearestBoundary (t : Int) : Int := divRound t (32 * halfSubTc) * halfSubTc

/-- The timing error of an uplink frame that carries mkv and rtv (R139), in 1/32 Tc; an odd value's half in the registers is open. -/
def Dev.timingError (f n : Nat) (dfc rt mk at_ : Nat) (s : Dev) : Dev :=
  match (s.lane n).departs.find? fun d => d.1 % 256 == dfc with
  | none => s
  | some (_, dg) =>
    let dul := (at_ : Int) - dg - 16 * rt - s.getS (R.LNK_ASYM_asym f)
    let tb := 2 * (at_ : Int) - dul - 32 * mk
    let e := tb - 32 * nearestBoundary tb
    let half := fun (v : Int) (i : Nat) => (v + (Config.freeNat s.freeCtr i % 2 : Nat)) / 2
    let s1 := ((s.takeFree).wr (R.LNK_TERR f) (toBits 32 (half e 0))).wr (R.LNK_DUL f) (toBits 32 (half dul 1))
    s1.modLink f fun k => { k with dul := dul, newE := some e, lastE := s.time.cnt }

/-- The acknowledgement kept; a refusal is logged (R136). -/
def Dev.ackReceived (f q st : Nat) (s : Dev) : Dev :=
  if 6 ≤ st then s
  else
    let s1 := (s.set (R.LNK_CMD_STAT_ack_cseq f) q).set (R.LNK_CMD_STAT_ack_st f) st
    if (s.link f).lastAck = some (q, st) then s1
    else
      let s2 := s1.modLink f fun k => { k with lastAck := some (q, st) }
      if 3 ≤ st ∧ st ≤ 5 then
        ((s2.setB (R.LNK_LINK_STAT_cmd_ref f) true).raiseOf Ev.LNK_CMD_REFUSED 10 f [(8, q), (4, st)]).loopRefused f q
      else s2

/-- Alarm bits that rise (R134, R139). -/
def Dev.alarmReceived (f v : Nat) (s : Dev) : Dev :=
  let old := (s.link f).alarm
  let risen := (List.range 32).any fun i => bit v i && !bit old i
  let s1 := s.modLink f fun k => { k with alarm := v }
  let s2 := if bit v 0 && !bit old 0 then s1.stick (R.LNK_LINK_STAT_dl_unf f) (·.raiseOf Ev.LNK_DL_UNDERRUN 10 f []) else s1
  if risen then s2.raiseOf Ev.LNK_RADIO_ALARM 10 f [(32, v)] else s2

/-- A received control channel (Table 5-8). -/
def Dev.rxControl (f n at_ : Nat) (c : List Bool) (s : Dev) : Dev :=
  if crc16 (c.take 240) ≠ fieldAt c 240 16 ∨ fieldAt c 0 4 ≠ 1 then
    (s.linkCount f (R.LNK_CC_BAD f)).stick (R.LNK_LINK_STAT_cc_bad f) (·.raiseOf Ev.LNK_CC_BAD 10 f [])
  else
    let p := fieldAt c 75 3
    let rtv := c.getD 5 false
    let s1 := (s.wr (R.LNK_RPAGE f p) (fieldAt c 78 32)).setB (R.LNK_LINK_STAT_radio_lock f) (c.getD 6 false)
    let s2 := s1.modLink f fun k => { k with pages := if k.pages.contains p then k.pages else p :: k.pages }
    let s3 := (s2.ackReceived f (fieldAt c 64 8) (fieldAt c 72 3)).alarmReceived f (fieldAt c 110 32)
    let st := s.linkState f
    if 2 ≤ st ∧ st ≤ 4 ∧ rtv then
      let s4 := s3.modLink f fun k => { k with rtOk := true }
      if c.getD 4 false then s4.timingError f n (fieldAt c 8 8) (fieldAt c 16 24) (fieldAt c 40 24) at_ else s4
    else s3

/-! ### ALIGN (R145, R146) -/

/-- Every received lane's skew in UI against the earliest. -/
def Dev.skews (s : Dev) (f : Nat) : List (Nat × Nat) :=
  let m := 65000 * rateMul (s.laneRate f)
  let x0 := s.lane f
  let fc := fun (x : LaneSt) => match x.marker with | some (c, _, _, _) => c | none => 0
  let ds := (s.linkLanes f).map fun n =>
    let x := s.lane n
    (n, ((x.arrival : Int) - x0.arrival) * m / (196608 * 16) - 16448 * toSigned 16 ((fc x + 65536 - fc x0) % 65536))
  let least := ds.foldl (fun v d => min v d.2) 0
  ds.map fun d => (d.1, (d.2 - least).toNat)

/-- The check that ends ALIGN, once every lane has had two good markers in a row. -/
def Dev.alignCheck (f : Nat) (s : Dev) : Dev :=
  let lanes := s.linkLanes f
  let mark := fun n => (s.lane n).marker.getD (0, 0, 0, 0)
  if s.linkState f ≠ 1 ∨ !(lanes.all fun n => decide (2 ≤ (s.lane n).goodRun)) then s
  else
    let sk := s.skews f
    let poss := lanes.map fun n => (mark n).2.2.2
    let s1 := sk.foldl (fun s d => (s.set (R.LNK_SKEW_skew d.1) (min d.2 2047)).set (R.LNK_SKEW_bpos_rx d.1) (mark d.1).2.2.2) s
    let bond := fun (n fld : Nat) => s1.stick (R.LNK_LINK_STAT_bond_bad f) (·.raiseOf Ev.LNK_BOND_BAD 10 f [(10, n), (4, fld)])
    match lanes.find? fun n => (mark n).2.1 != s.get (R.LNK_LINK_CFG_bgid f) with
    | some n => bond n 5
    | none =>
      match lanes.find? fun n => (mark n).2.2.1 != s.get (R.LNK_LINK_CFG_bsize f) with
      | some n => bond n 4
      | none =>
        match (lanes.mapIdx fun i n => (i, n)).find? fun (i, n) => (poss.take i).contains (mark n).2.2.2 || decide (lanes.length ≤ (mark n).2.2.2) with
        | some (_, n) => bond n 11
        | none =>
          match sk.find? fun d => decide (1024 < d.2) with
          | some (n, v) => s1.stick (R.LNK_LINK_STAT_skew f) (·.raiseOf Ev.LNK_SKEW 10 f [(10, n), (11, min v 2047)])
          | none =>
            let reversed := decide (1 < lanes.length) && poss == (List.range lanes.length).reverse
            let s2 := s1.setB (R.LNK_LINK_STAT_lane_rev f) reversed
            let s3 :=
              if poss = List.range lanes.length then s2
              else s2.raiseOf Ev.LNK_LANE_REORDER 10 f [(24, (poss.foldr (fun p v => p + 8 * v) 0 : Nat))]
            if s.get (R.LNK_LINE_CFG_rate_code f) = 0 ∧ !s.linkFits f then s3.linkCfgFault f 13 else s3.setLinkState f 2

/-! ### Frames received (R122, R123, R145) -/

/-- A link frame received. Its codewords were decoded by CODEWORD_DECODE. -/
def linkFrameReceive (n : Fin 1024) (head : BitVec 128) (at_ : BitVec 68) (s : Dev) : Dev :=
  if s.laneState n ≠ 8 ∨ s.isPairOdd n then s
  else
    let f := s.linkOf n
    let x := s.lane n
    let own := x.eff.loop == 1 || x.eff.loop == 2
    let l := if x.eff.loop = 2 then x.sent.take 128 else s.unInvert n (lsbBits 128 head.toNat)
    let bad := decide (s.syncTol n < bitDiff (l.take 64) (s.syncWant n))
    let m := descramble (scrTap own) x.rxScr (l.drop 64)
    let good := crc16 (m.1.take 48) == fieldAt m.1 48 16
    let infos := x.cws.foldl (fun (a : List (List Bool × Bool) × Nat) w =>
      let q := descramble (scrTap own) a.2 w.1
      (a.1 ++ [(q.1, w.2)], q.2)) ([], m.2)
    let count := fun (b : Bool) (s : Dev) =>
      if b then (s.linkCount f (R.LNK_SYNC_BAD f)).setB (R.LNK_LINK_STAT_sync_bad f) true else s
    let mk := (fieldAt m.1 0 16, fieldAt m.1 26 8, fieldAt m.1 34 2, fieldAt m.1 36 3)
    let s1 := (count bad s).modLane n fun y =>
      { y with badRun := if bad then min (y.badRun + 1) 3 else 0, rxScr := infos.2, cws := [] }
    let s3 := (count (!good) s1).modLane n fun y =>
      if good then { y with marker := some mk, arrival := at_.toNat, goodRun := min (y.goodRun + 1) 2 } else { y with goodRun := 0 }
    let away := s.linkState f == 1 || s.linkState f == 2 || (s.linkState f == 3 && (s.testActs n).on)
    let s4 := ((if away then s3.zeroGroups f n at_.toNat else s3).rxCodewords f n 0 at_.toNat infos.1).adapt n true true
    let s5 := s4.chkRun n
    let s6 := match infos.1 with
      | (info, _) :: _ => if x.eff.loop = 2 then s5 else s5.rxControl f n at_.toNat ((info.drop 16).take 256)
      | [] => s5
    s6.alignCheck f

def execLinkFrameReceive (n : Fin 1024) (head : BitVec 128) (at_ : BitVec 68) := act (linkFrameReceive n head at_)

/-! ### Bring-up and configuration (R126, R145) -/

/-- The first boundary whose marked group can still be launched. -/
def Dev.nextLaunch (s : Dev) (f : Nat) : Nat :=
  ((32 * (s.time.cnt : Int) + s.dlAdvance f + 32 * halfSubTc - 1) / (32 * halfSubTc)).toNat * halfSubTc

/-- The conditions of TIMING are met, and the target of a DEEP exit has come: the first marked group from the next boundary on carries realign, and
the link enters RUN (R145, R149). -/
def lnkLinkUp (n : Fin 1024) (s : Dev) : Dev :=
  let k := s.link n
  let woken := match k.wake with | some t => decide (t ≤ s.time.cnt) | none => true
  if s.linkState n = 2 ∧ s.flag (R.LNK_LINK_STAT_radio_lock n) ∧ k.rtOk ∧ k.pages.contains 3 ∧ k.pages.contains 4 ∧ 2 ≤ s.airState ∧ woken = true then
    if s.rd (R.LNK_RPAGE n 4) < s.rd (R.LNK_RPAGE n 3) + s.get (R.LNK_DL_MARGIN_margin n) then s.linkCfgFault n 12
    else
      let b := s.nextLaunch n
      let s1 := s.modLanes n fun x => { x with txB := b - halfSubTc, txJ := s.perHalf n, carry := [], part := [] }
      let st := s.get (R.LNK_LINK_STAT_steer n)
      let pull := s.master n = n ∧ (st = 0 ∨ k.wake.isSome)
      let s2 := (if pull then s1.setSteer n 1 else s1).modLink n fun k => { k with realign := some b, wake := none }
      (s2.raiseOf Ev.LNK_LINK_UP 10 n [(2, s.get (R.LNK_LINK_CFG_bsize n))]).setLinkState n 3
  else s

def execLnkLinkUp (n : Fin 1024) := act (lnkLinkUp n)

/-- A write of LNK_LINK_CFG or LNK_LINK_CFG2. Any change but of obs_en takes a running link to OFF, and the new values are checked. -/
def linkCfgWrite (n : Fin 1024) (cfg2 : Bool) (v : Word) (s : Dev) : Dev :=
  let a := if cfg2 then R.LNK_LINK_CFG2 n else R.LNK_LINK_CFG n
  let w := if cfg2 then v.toNat % 2 ^ 21 else v.toNat % 2 ^ 26
  let obs := fun (x : Nat) => if cfg2 then x else x % 2 ^ 25
  if s.linkOf n ≠ n ∨ obs (s.rd a) = obs w then s.wr a w
  else
    let s1 := if s.linkState n = 0 then s else (s.linkOff n).raiseOf Ev.LNK_LINK_DOWN 10 n [(10, (n : Nat))]
    let s2 := s1.wr a w
    if !s2.flag (R.LNK_LINK_CFG_en n) then s2
    else match s2.linkCfgBad n with
      | some c => s2.linkCfgFault n c
      | none => s2.alignEnter n

def execLinkCfgWrite (n : Fin 1024) (cfg2 : Bool) (v : Word) := act (linkCfgWrite n cfg2 v)

/-! ### Commands (R136, R138, R147) -/

/-- A write of LNK_CMD_HI. A POWER command arms the LNK/PWR slot of its target beside its place in the queue; the one that ends DEEP needs 168
ticks of lead (R38, R147). -/
def commandQueue (n : Fin 1024) (hi : Word) (s : Dev) : Dev :=
  let lo := s.rd (R.LNK_CMD_LO n)
  let s1 := s.wr (R.LNK_CMD_HI n) hi.toNat
  let word := hi.toNat * 2 ^ 32 + lo
  let d := (lo + 2 ^ 32 - s.time.cnt % 2 ^ 32) % 2 ^ 32
  let t := s.time.cnt + d
  let kind := bits word 58 2
  if s.linkOf n ≠ n then s1
  else if 2 ^ 31 < d then s1.cmdDrop n word (t - 2 ^ 32)
  else if bits word 60 4 = 5 ∧ kind ≠ 3 then
    let lead := if kind = 0 ∧ s.linkState n = 5 then 168 * tickTc else tickTc
    if 16 ≤ (s.link n).queue.length ∨ t < s.time.cnt + max lead (s.framesTc n 2) then s1.cmdDrop n word t
    else (s1.queueCmd n word t).modLink n fun k => { k with power := k.power ++ [(t, kind)] }
  else s1.queueCmd n word t

def execCommandQueue (n : Fin 1024) (hi : Word) := act (commandQueue n hi)

/-- Commands whose target lies less than a frame after this frame start are withdrawn; one never sent is dropped as late. -/
def commandExpire (n : Fin 1024) (s : Dev) : Dev :=
  let k := s.link n
  let ended := fun (c : RadioCmd) => decide (c.target < s.time.cnt + s.framesTc n 1)
  let s1 := (s.setLink n { k with queue := k.queue.filter fun c => !ended c }).cmdShow n
  (k.queue.filter fun c => ended c && !c.sent).foldl (fun s c => s.cmdDrop n c.word c.target) s1

def execCommandExpire (n : Fin 1024) := act (commandExpire n)

/-- The entries of LNK_TDD up to the first with dir = 3: offset and direction. -/
def Dev.tddList (s : Dev) (f : Nat) : List (Nat × Nat) :=
  ((List.range 8).map fun k => (s.get (R.LNK_TDD_ofs f k), s.get (R.LNK_TDD_dir f k))).takeWhile fun e => e.2 != 3

/-- Automatic TDD commands whose targets lie within the next 4 link frames and have not been queued, while the link's frames carry a control
channel. -/
def tddAutoQueue (n : Fin 1024) (s : Dev) : Dev :=
  let per := s.rd (R.LNK_TDD_PER n)
  let lo := max ((s.link n).tddLast.getD 0) (s.time.cnt + s.framesTc n 2 - 1)
  let hi := s.time.cnt + s.framesTc n 4
  if per = 0 ∨ s.linkOf n ≠ n ∨ s.linkState n = 0 ∨ s.linkState n = 5 ∨ hi ≤ lo then s
  else
    let s1 := s.modLink n fun k => { k with tddLast := some hi }
    (s.tddList n).foldl (fun s e =>
      let first := lo + 1 + (e.1 % per + per - (lo + 1) % per) % per
      ((List.range ((hi - lo) / per + 1)).map fun i => first + i * per).foldl (fun s t =>
        if t ≤ hi then s.queueCmd n (2 ^ 60 + e.2 * 2 ^ 58 + t % 2 ^ 32) t else s) s) s1

def execTddAutoQueue (n : Fin 1024) := act (tddAutoQueue n)

/-- The target of a TDD command that was sent: the link's TDD state changes (R217). -/
def tddCommandTarget (n : Fin 1024) (s : Dev) : Dev :=
  s.modLink n fun k =>
    match (k.tddDue.filter fun d => decide (d.1 ≤ s.time.cnt)).getLast? with
    | some d => { k with tdd := d.2, tddWas := (d.1, k.tdd), tddDue := k.tddDue.filter fun d => !decide (d.1 ≤ s.time.cnt) }
    | none => k

def execTddCommandTarget (n : Fin 1024) := act (tddCommandTarget n)

/-! ### Steering (R142–R144) -/

/-- pi in 10^-40. -/
abbrev piE40 : Int := 31415926535897932384626433832795028841971

/-- The denominator that the loop's terms share: 10^84 × 1029² × 32 × 1,966,080,000. -/
abbrev steerDen : Nat := 10 ^ 84 * 1058841 * 62914560000

/-- The steering range in ppm: 0 and above 122 act as 122. -/
def Dev.steerRange (s : Dev) (f : Nat) : Nat :=
  let r := s.get (R.LNK_STEER_CFG_range f)
  if r = 0 ∨ 122 < r then 122 else r

/-- The loop bandwidth in 0.1 Hz: 50 Hz in PULL; values above 500 act as 500. -/
def Dev.steerBw (s : Dev) (f : Nat) : Nat :=
  if s.get (R.LNK_LINK_STAT_steer f) = 1 then 500 else min (s.get (R.LNK_STEER_CFG_bw f)) 500

/-- One update of the loop with an error in 1/32 Tc. -/
def Dev.steerLoop (f : Nat) (e : Int) (s : Dev) : Dev :=
  let bw : Int := s.steerBw f
  let range : Int := s.steerRange f
  if bw = 0 then s
  else
    let lim : Int := range * (steerDen / 10 ^ 6 : Nat)
    let j := clampInt ((s.link f).integ + bw * bw * e * piE40 * piE40 * 50000) (-lim) lim
    let y := 14142 * piE40 * bw * e * (100 * 1029 * 10 ^ 40) + j
    let top : Int := range * 2 ^ 36 / 10 ^ 6
    let v := clampInt (divRound (y * 2 ^ 36) steerDen) (-top) top
    ((s.setS (R.LNK_STEER_s f) v).set (R.LNK_STEER_ssn f) ((s.get (R.LNK_STEER_ssn f) + 1) % 256)).modLink f fun k => { k with integ := j }

/-- A BSHIFT command queued for the radio, counted and logged. -/
def Dev.bshift (f : Nat) (n : Int) (s : Dev) : Dev :=
  let t := s.boundaryAhead f 4
  let s1 := s.queueCmd f (4 * 2 ^ 60 + toBits 24 n * 2 ^ 32 + t % 2 ^ 32) t
  let s2 := (s1.modLink f fun k => { k with skip := s.time.cnt / halfSubTc + 5, lockRun := 0 }).linkCount f (R.LNK_BSHIFT f)
  s2.raiseOf Ev.LNK_BSHIFT 10 f [(24, n)]

/-- Runs of boundaries within and beyond the lock threshold move the loop between PULL and LOCK. -/
def Dev.steerLock (f : Nat) (e : Int) (s : Dev) : Dev :=
  let thr := 32 * max (s.get (R.LNK_STEER_CFG_lock_thr f)) 1
  let k := s.link f
  if s.get (R.LNK_LINK_STAT_steer f) = 1 then
    let r := if e.natAbs ≤ thr then k.lockRun + 1 else 0
    if 16 ≤ r then
      ((s.setLink f { k with lockRun := 0, unlockRun := 0 }).setSteer f 2).raiseOf Ev.LNK_STEER_LOCK 10 f []
    else s.setLink f { k with lockRun := r }
  else
    let r := if 4 * thr < e.natAbs then k.unlockRun + 1 else 0
    if 4 ≤ r then
      let s1 := ((s.setLink f { k with lockRun := 0, unlockRun := 0 }).setSteer f 1).linkCount f (R.LNK_SUNLK f)
      s1.raiseOf Ev.LNK_STEER_UNLOCK 10 f [(32, s.getS (R.LNK_TERR_e f))]
    else s.setLink f { k with unlockRun := r }

/-- The loop at a boundary with a new error. A link with another master runs no loop and shows its master's word. -/
def steerUpdate (n : Fin 1024) (s : Dev) : Dev :=
  let m := s.master n
  match (s.link n).newE with
  | none => s
  | some e =>
    let s1 := s.modLink n fun k => { k with newE := none }
    if m ≠ n then (s1.set (R.LNK_STEER_s n) (s.get (R.LNK_STEER_s m))).set (R.LNK_STEER_ssn n) (s.get (R.LNK_STEER_ssn m))
    else if s.get (R.LNK_LINK_STAT_steer n) = 0 ∨ (s.linkState n ≠ 3 ∧ s.linkState n ≠ 4) then s1
    else if s.get (R.LNK_LINK_STAT_steer n) = 3 ∧ s.linkState n ≠ 3 then s1
    else if s.time.cnt / halfSubTc < (s.link n).skip then s1
    else
      let s2 := if s.get (R.LNK_LINK_STAT_steer n) = 3 then s1.setSteer n 1 else s1
      let p := s.samplePeriod n
      if s2.get (R.LNK_LINK_STAT_steer n) = 1 ∧ p < 2 * e.natAbs then s2.bshift n (divRound e p)
      else (s2.steerLoop n e).steerLock n e

def execSteerUpdate (n : Fin 1024) := act (steerUpdate n)

/-- 64 boundaries without a valid error. -/
def steerHold (n : Fin 1024) (s : Dev) : Dev :=
  if (s.linkState n = 3 ∨ s.linkState n = 4) ∧ (s.link n).lastE + 64 * halfSubTc ≤ s.time.cnt then s.steerHold n else s

def execSteerHold (n : Fin 1024) := act (steerHold n)

/-! ### DOZE and DEEP (R147–R150) -/

/-- A power slot of a link of this kind that has come, `lead` Tc before its target; none fires in FREE (Table 2-2). -/
def Dev.powerDue (s : Dev) (f kind lead : Nat) : Option Nat :=
  ((s.link f).power.find? fun p => p.2 == kind && decide (p.1 ≤ s.time.cnt + lead) && decide (1 ≤ s.airState)).map (·.1)

def Dev.powerDone (f kind t : Nat) (s : Dev) : Dev := s.modLink f fun k => { k with power := k.power.erase (t, kind) }

/-- The DOZE target: the transmitters wait for the first boundary after the exit, and no group is missed meanwhile. -/
def dozeEntry (n : Fin 1024) (s : Dev) : Dev :=
  match s.powerDue n 1 0 with
  | some t =>
    if s.linkState n = 3 then
      let s1 := (s.powerDone n 1 t).modLanes n fun x => { x with txJ := s.perHalf n, carry := [], markAt := none, part := [] }
      (s1.raiseOf Ev.LNK_DOZE 10 n [(1, 0)]).setLinkState n 4
    else s.powerDone n 1 t
  | none => s

def execDozeEntry (n : Fin 1024) := act (dozeEntry n)

/-- The exit from DOZE, one codeword time before its target. -/
def dozeExit (n : Fin 1024) (s : Dev) : Dev :=
  if s.linkState n = 4 then
    match s.powerDue n 0 (s.uiTc n 1024) with
    | some t => ((s.powerDone n 0 t).raiseOf Ev.LNK_DOZE 10 n [(1, 1)]).setLinkState n 3
    | none => s
  else s

def execDozeExit (n : Fin 1024) := act (dozeExit n)

/-- The DEEP target: payload stops, steering holds and tests end. The lanes go quiet at the end of the frame that they send. -/
def deepEntry (n : Fin 1024) (s : Dev) : Dev :=
  match s.powerDue n 2 0 with
  | some t =>
    let s1 := s.powerDone n 2 t
    if s.linkState n = 3 ∨ s.linkState n = 4 then
      let s2 := (((s1.testsDeep n).steerHold n).setLinkState n 5).modLanes n fun x => { x with markAt := none, part := [] }
      (s2.modLink n fun k => { k with wake := none }).raiseOf Ev.LNK_DEEP 10 n [(1, 0)]
    else s1
  | none => s

def execDeepEntry (n : Fin 1024) := act (deepEntry n)

/-- 168 ticks before the exit target: the lanes power up, send a wake burst and retrain warm (Table 5-15). -/
def deepExitStart (n : Fin 1024) (s : Dev) : Dev :=
  if s.linkState n = 5 ∧ (s.link n).wake.isNone then
    match s.powerDue n 0 (168 * tickTc) with
    | some t =>
      let s0 := (s.powerDone n 0 t).modLink n fun k => { k with wake := some t }
      let s1 := (s0.linkLanes n).foldl (fun s l => s.groupWake l) s0
      ((s1.linkLanes n).foldl (fun s l => s.trainFromQuiet l (s.flag (R.LNK_LINE_STAT_warm_ok l))) s1).raiseOf Ev.LNK_DEEP 10 n [(1, 1)]
    | none => s
  else s

def execDeepExitStart (n : Fin 1024) := act (deepExitStart n)

/-- A link not in TIMING at the target of its exit: logged, and trained cold. -/
def lnkWakeFail (n : Fin 1024) (s : Dev) : Dev :=
  match (s.link n).wake with
  | some t =>
    if s.time.cnt < t then s
    else if s.linkState n = 2 ∨ s.linkState n = 3 then s
    else
      let s1 := s.modLink n fun k => { k with wake := none }
      let s2 := (s1.raiseOf Ev.LNK_WAKE_FAIL 10 n []).setLinkState n 1
      (s2.linkLanes n).foldl (fun s l => s.trainFromQuiet l false) s2
  | none => s

def execLnkWakeFail (n : Fin 1024) := act (lnkWakeFail n)

end Sys2Proof.Machine
end

