-- ==== Sys2Proof/Machine/FrontEnd.lean ====
section
/-!
DEFINITION. Front-end clusters (R213–R237): the stream crossbar, stream slots, uplink and downlink symbols, front-end commands, PRACH and the
quality records. What samples become is in FexPath; what the spec gives no filter or fit for (decimation, a second view's interpolation) is free.
-/

namespace Sys2Proof.Machine

/-! ### Tables in cluster memory -/

/-- Word `w` of a PRACH configuration (Table 9-5). -/
def prachAddr (cl j w : Nat) : Nat := clBase cl + 0xA000 + j * 0x10 + w * 4
def Dev.pw (s : Dev) (cl j w : Nat) : Nat := s.rd (prachAddr cl j w)
def FexSlot.view (x : FexSlot) (second : Bool) : FexView := if second then x.v2 else x.v1
def FexSlot.modView (second : Bool) (f : FexView → FexView) (x : FexSlot) : FexSlot :=
  if second then { x with v2 := f x.v2 } else { x with v1 := f x.v1 }
def Dev.fcl (s : Dev) (cl : Nat) : FexCl := tget {} s.fex.cl cl
def Dev.setFcl (cl : Nat) (x : FexCl) (s : Dev) : Dev := { s with fex := { s.fex with cl := tput {} s.fex.cl cl x } }

/-- An S32 counter of a cluster. -/
def Dev.fexCount (cl a : Nat) (s : Dev) : Dev :=
  let sat := s.rd a = 0xFFFFFFFE
  let s1 := s.incSat a ⟨R.FEX_CNT_OVF cl, (a - R.FEX_UL_DROP cl) / 4, 1⟩ Ev.FEX_CNT_SAT [(5, cl)] 1
  if sat then s1.setB (R.FEX_CL_STAT_cnt_ovf cl) true else s1

/-! ### The crossbar (R213, R214) -/

/-- The crossbar hands a stream's uplink samples to this slot. -/
def Dev.xbIn (s : Dev) (a cl slot : Nat) : Bool :=
  s.flag (R.FEX_XB_LO_valid a) &&
    ((s.get (R.FEX_XB_LO_cl a) == cl && s.get (R.FEX_XB_LO_slot a) == slot) ||
      (s.flag (R.FEX_XB_LO_dual a) && s.get (R.FEX_XB_LO_new_cl a) == cl && s.get (R.FEX_XB_LO_new_slot a) == slot))

/-- The switch boundary of a dual entry has come. -/
def fexXbSwitch (a : Fin 2048) (s : Dev) : Dev :=
  if s.flag (R.FEX_XB_LO_dual a) ∧ frameReached (s.time.cnt / frameTc) (s.rd (R.FEX_XB_HI a)) then
    let old := s.get (R.FEX_XB_LO_cl a)
    let new := s.get (R.FEX_XB_LO_new_cl a)
    let s1 := (s.set (R.FEX_XB_LO_cl a) new).set (R.FEX_XB_LO_slot a) (s.get (R.FEX_XB_LO_new_slot a))
    (s1.setB (R.FEX_XB_LO_dual a) false).raise Ev.FEX_XB_SWITCH [(11, (a : Nat)), (5, old), (5, new)]
  else s

def execFexXbSwitch (a : Fin 2048) := act (fexXbSwitch a)

/-! ### Slot descriptors (R215, R216) -/

/-- The shorter cyclic prefix in Tc. -/
def shortCp (mu : Nat) (ecp eutra : Bool) : Nat :=
  if eutra then (if ecp then 32768 else 9216) else (numerology mu ecp).2.2.2.2

/-- The FFT size of a view, as a power of two: 15 − srate − mu − the decimation's exponent. -/
def fftOk (srate mu dec : Nat) : Bool := decide (srate + mu + dec ≤ 8) && decide (3 ≤ srate + mu + dec)
def fftSize (srate mu dec : Nat) : Nat := 2 ^ (15 - srate - mu - dec)

/-- A view's subcarriers fit its FFT. -/
def nscOk (nsc n : Nat) (eutra : Bool) : Bool :=
  nsc % 12 == 0 && decide (12 ≤ nsc) && decide (nsc ≤ 3300) && decide (nsc ≤ n) && (!eutra || decide (nsc + 1 ≤ n))

/-- A stream rate code in samples per second. -/
def srateFs (c : Nat) : Nat := 491520000 / 2 ^ c

/-- The slots of a cluster other than one that are valid. -/
def Dev.otherSlots (s : Dev) (cl slot : Nat) : List Nat :=
  (List.range 128).filter fun k => k != slot && bit (s.sd cl k 0) 0

/-- The configuration has a short sequence, L_RA = 139. -/
def prachShort (w0 : Nat) : Bool := if bit w0 5 then bits w0 1 4 == 13 else decide (4 ≤ bits w0 1 4)

/-- N_cs of a zero-correlation zone configuration for unrestricted sets (3GPP TS 38.211 and 36.211; PRESUMED from those standards). -/
def prachNcs (w0 zcz : Nat) : Nat :=
  let short := [0, 2, 4, 6, 8, 10, 12, 13, 15, 17, 19, 23, 27, 34, 46, 69]
  let f4 := [2, 4, 6, 8, 10, 12, 15]
  let long1 := [0, 13, 15, 18, 22, 26, 32, 38, 46, 59, 76, 93, 119, 167, 279, 419]
  let long5 := [0, 13, 26, 33, 38, 41, 49, 55, 64, 76, 93, 119, 139, 209, 279, 419]
  lget 0 (if bit w0 5 && bits w0 1 4 == 13 then f4 else if prachShort w0 then short
    else if !bit w0 5 && bits w0 1 4 == 3 then long5 else long1) zcz

/-- The root sequences of an occasion's 64 preambles: of restricted sets, which follow the standards' own rules, the number is free. -/
def prachRoots (w0 w1 : Nat) : Nat :=
  if bits w0 6 2 = 1 then Config.freeNat 0 (w0 + w1 * 2 ^ 32) % 64 + 1
  else
    let n := prachNcs w0 (bits w1 10 4)
    let shifts := if n = 0 then 1 else (if prachShort w0 then 139 else 839) / n
    if shifts = 0 then 64 else (64 + shifts - 1) / shifts

/-- The antenna-root correlations of an occasion of configuration `j`, all FDM positions, a long one counting as 8 (R234). -/
def Dev.prachCost (s : Dev) (cl j : Nat) : Nat :=
  let w0 := s.pw cl j 0
  bits (s.pw cl j 2) 7 8 * prachRoots w0 (s.pw cl j 1) * 2 ^ bits w0 8 2 * (if prachShort w0 then 1 else 8)

/-- The configurations of a cluster that are valid. -/
def Dev.prachValid (s : Dev) (cl : Nat) : List Nat := (List.range 16).filter fun j => bit (s.pw cl j 0) 0

/-- No millisecond ends occasions of more than the PRACH load that a cluster carries (R234); occasions repeat every 160 ms. -/
def Dev.prachLoadOk (s : Dev) (cl : Nat) : Bool :=
  let l := s.prachValid cl
  l.isEmpty || (List.range 160).all fun ms =>
    decide (l.foldl (fun n j => n + s.prachCost cl j * Config.prachEnds (s.pw cl j 0) (s.pw cl j 1) ms) 0 ≤ 32768)

/-- The rules that a descriptor is set valid by; `w` gives its words. -/
def Dev.slotOk (s : Dev) (cl slot : Nat) (w : Nat → Nat) : Bool :=
  let srate := bits (w 0) 3 3
  let mu := bits (w 0) 6 2
  let ecp := bit (w 0) 8
  let eutra := bit (w 0) 9
  let dec := bits (w 0) 18 3
  let v2 := bit (w 0) 21
  let cp := shortCp mu ecp eutra / (4 * 2 ^ (srate + dec))
  let vdec := bits (w 9) 0 3
  let vmu := bits (w 9) 3 2
  let others := s.otherSlots cl slot
  let rate := others.foldl (fun r k => r + srateFs (bits (s.sd cl k 0) 3 3)) (srateFs srate)
  let views := (others.filter fun k => bit (s.sd cl k 0) 21).length + b2n v2
  decide (srate < 7) && decide (dec < 5) && fftOk srate mu dec && nscOk (bits (w 2) 0 12) (fftSize srate mu dec) eutra &&
    decide (bits (w 3) 0 10 ≤ cp) && decide (2 * bits (w 3) 10 10 ≤ cp) && (!eutra || mu == 0) && (!ecp || mu == 2 || eutra) &&
    decide (rate ≤ 32000000000) && decide (views ≤ 32) && s.prachLoadOk cl &&
    (!v2 || (decide (1 ≤ vdec) && decide (vdec ≤ 4) && decide (srateFs (srate + vdec) ≤ 61440000) && fftOk srate vmu vdec &&
      nscOk (bits (w 9) 7 12) (fftSize srate vmu vdec) (bit (w 9) 5) && (!bit (w 9) 5 || vmu == 0) && (!bit (w 9) 6 || vmu == 2 || bit (w 9) 5)))

/-- The counts of a cluster's valid slots, their input rate and their second views. -/
def Dev.showCluster (cl : Nat) (s : Dev) : Dev :=
  let l := s.otherSlots cl 128
  let rate := l.foldl (fun r k => r + srateFs (bits (s.sd cl k 0) 3 3)) 0 / 1000000
  ((s.set (R.FEX_CL_STAT_nslot cl) l.length).set (R.FEX_CL_RATE_rate cl) rate).set (R.FEX_CL_RATE_nv2 cl)
    (l.filter fun k => bit (s.sd cl k 0) 21).length

/-- A configuration refused; the codes of its field item are not given: free. -/
def Dev.fexCfgBad (cl idx : Nat) (s : Dev) : Dev :=
  let fld := Config.freeNat s.freeCtr 0 % 16
  ((s.takeFree).setB (R.FEX_CL_STAT_cfg_bad cl) true).raiseOf Ev.FEX_CFG_BAD 5 cl [(7, idx), (4, fld)]

/-- The bits of each word of a slot descriptor that are no reserved ones (Table 9-2). -/
def slotMasks : List Nat :=
  [0x3FFFFF, 0x7FFFF, 0xFFFFF, 0xFFFFF, 0xFFFFFF, 0xFFFF, 0xFFFFFFFF, 0xF, 0xFFFFFFFF, 0x7FFFFF, 0xFFFFFF, 0xFFFF]

/-- The words of late symbols that a slot's rings owe are forgotten with its descriptor. -/
def Dev.forgetDebt (cl slot : Nat) (s : Dev) : Dev :=
  { s with fex := { s.fex with debt := tdel (tdel s.fex.debt (bits (s.sd cl slot 4) 12 12 * 2)) (bits (s.sd cl slot 10) 12 12 * 2) } }

/-- A write of a slot descriptor's word. Only word 0 of a valid descriptor may be written. -/
def slotDescriptorWrite (cl : Fin 17) (slot : Fin 128) (w : Fin 16) (v : Word) (s : Dev) : Dev :=
  if (w : Nat) ≠ 0 then
    if bit (s.sd cl slot 0) 0 then s.fexCfgBad cl slot else s.wr (slotAddr cl slot w) (Nat.land v.toNat (lget 0 slotMasks w))
  else
    let v := v.setWidth 22
    let words := fun (i : Nat) => if i = 0 then v.toNat else s.sd cl slot i
    let s1 := (s.forgetDebt cl slot).modFslot cl slot fun x => { x with broken := false, v1 := {}, v2 := {}, inj := [] }
    if bit v.toNat 0 && !s.slotOk cl slot words then ((s1.wr (slotAddr cl slot 0) (v.toNat - 1)).showCluster cl).fexCfgBad cl slot
    else (s1.wr (slotAddr cl slot 0) v.toNat).showCluster cl

def execSlotDescriptorWrite (cl : Fin 17) (slot : Fin 128) (w : Fin 16) (v : Word) := act (slotDescriptorWrite cl slot w v)

/-! ### Views and their symbols (R217, R227) -/

/-- What a view needs of its descriptor. -/
structure FexCarrier where
  a : Nat
  srate : Nat
  dec : Nat
  mu : Nat
  ecp : Bool
  eutra : Bool
  nsc : Nat
  ulRing : Nat
  dlRing : Nat
  sq : Nat
  sUl : Nat
  sDl : Nat
deriving DecidableEq, Repr

/-- A slot's view; none where the descriptor has it not. -/
def Dev.carrier (s : Dev) (cl slot : Nat) (second : Bool) : Option FexCarrier :=
  let w0 := s.sd cl slot 0
  let w9 := s.sd cl slot 9
  let a := bits (s.sd cl slot 1) 0 11
  if !bit w0 0 then none
  else if second then
    if bit w0 21 then
      some ⟨a, bits w0 3 3, bits w9 0 3, bits w9 3 2, bit w9 6, bit w9 5, bits w9 7 12, bits (s.sd cl slot 10) 0 12, bits (s.sd cl slot 10) 12 12,
        bits (s.sd cl slot 11) 0 16, bits w9 19 4, bits w9 19 4⟩
    else none
  else some ⟨a, bits w0 3 3, bits w0 18 3, bits w0 6 2, bit w0 8, bit w0 9, bits (s.sd cl slot 2) 0 12, bits (s.sd cl slot 4) 0 12,
    bits (s.sd cl slot 4) 12 12, bits (s.sd cl slot 5) 0 16, bits (s.sd cl slot 2) 12 4, bits (s.sd cl slot 2) 16 4⟩

/-- Start and end of each symbol of a half subframe in Tc. -/
def symTable (mu : Nat) (ecp eutra : Bool) : List (Nat × Nat) :=
  let (n, u, cp0, cp) :=
    if eutra then (if ecp then (6, 131072, 32768, 32768) else (7, 131072, 10240, 9216))
    else
      let (nsym, slot, u, cp0, cp) := numerology mu ecp
      (halfSubTc * nsym / slot, u, cp0, cp)
  (List.range n).map fun k =>
    let start := if k = 0 then 0 else u + cp0 + (k - 1) * (u + cp)
    (start, start + u + (if k = 0 then cp0 else cp))

/-- The last symbol of a view that has ended by an air count: its half subframe's boundary, its index there, its start and its end. -/
def lastEnded (c : FexCarrier) (cnt : Nat) : Nat × Nat × Nat × Nat :=
  let t := symTable c.mu c.ecp c.eutra
  let b := cnt / halfSubTc * halfSubTc
  match ((t.mapIdx fun k e => (k, e)).filter fun p => decide (b + p.2.2 ≤ cnt)).getLast? with
  | some (k, x, e) => (b, k, b + x, b + e)
  | none => let e := t.getLast?.getD (0, 0); (b - halfSubTc, t.length - 1, b - halfSubTc + e.1, b)

/-- The symbol of a view that holds an air count: boundary, index, start, end. -/
def symbolAt (c : FexCarrier) (t : Nat) : Nat × Nat × Nat × Nat :=
  let b := t / halfSubTc * halfSubTc
  match ((symTable c.mu c.ecp c.eutra).mapIdx fun k e => (k, e)).find? fun p => decide (t < b + p.2.2) with
  | some (k, x, e) => (b, k, b + x, b + e)
  | none => (b, 0, b, b)

/-- Symbol within its slot and slot within its frame. -/
def symbolNo (c : FexCarrier) (b k : Nat) : Nat × Nat :=
  let per := (symTable c.mu c.ecp c.eutra).length
  let nsym := if c.eutra then per else (numerology c.mu c.ecp).1
  let k := b % frameTc / halfSubTc * per + k
  (k % nsym, k / nsym)

/-- The link that carries a stream. -/
def Dev.linkOfStream (s : Dev) (a : Nat) : Option Nat :=
  (List.range 1024).find? fun f => s.flag (R.LNK_LINK_CFG_en f) && decide (s.get (R.LNK_LINK_CFG2_str_base f) ≤ a) &&
    decide (a < s.get (R.LNK_LINK_CFG2_str_base f) + s.get (R.LNK_LINK_CFG_nstr f))

/-- Samples of a stream as the crossbar hands them on, from the link's receiver (R19): `n` from index `i` of a half subframe, each with its
erased flag. One lost on the way is zero and erased (R17). -/
def Dev.rxSamples (s : Dev) (f a b i n : Nat) : List (Nat × Bool) :=
  let k := fmtBlock (s.get (R.LNK_LINK_CFG_fmt f))
  let p := a - s.get (R.LNK_LINK_CFG2_str_base f)
  let d := 4 * 2 ^ s.get (R.LNK_LINK_CFG_srate f)
  (nums i n).map fun i =>
    let g := tget {} (s.link f).groups (b / halfSubTc * 2 ^ 20 + i / k)
    if s.lostIn a false (b + i * d) d then (0, true) else (lget 0 g.iq (p * k + i % k), g.erased || g.bad.contains p)

/-! ### Completion events (R220, R222) -/

/-- The clusters' events held, shown. -/
def Dev.showEvents (cl : Nat) (s : Dev) : Dev := s.set (R.FEX_CL_STAT_evt cl) (s.fcl cl).events.length

/-- An event may leave: its symbol's last line has arrived (R219), and the symbol that shares that line has come or its time is over (R220). -/
def Dev.eventReady (s : Dev) (e : FexEvent) : Bool :=
  decide (e.until_ ≤ s.time.cnt) && (!s.ringValid e.ring || decide (e.end_ ≤ s.ringW e.ring))

/-- The oldest event of a cluster goes to the scheduler when its class input has room. -/
def ulSymbolEvent (cl : Fin 17) (s : Dev) : Dev :=
  match (s.fcl cl).events with
  | e :: r =>
    if (s.input 0).length < 32 ∧ s.eventReady e then ((s.setFcl cl { s.fcl cl with events := r }).showEvents cl).post 0 e.sq e.pay else s
  | [] => s

def execUlSymbolEvent (cl : Fin 17) := act (ulSymbolEvent cl)

/-! ### Parity (R236) -/

/-- What a parity error does beside the symbol it spoils: counted and logged; in configuration memory the cluster is faulty. -/
def Dev.fexParity (cl slot : Nat) (p : FexParity) (s : Dev) : Dev :=
  let hit := fun (k : Nat) (o : BitVec 24) =>
    ((s.fexCount cl (R.FEX_PERR cl)).setB (R.FEX_CL_STAT_perr cl) true).raiseOf Ev.FEX_PERR 5 cl [(1, k), (24, o.toNat)]
  match p with
  | .none => s
  | .working o => hit 0 o
  | .configuration o =>
    let s1 := (hit 1 o).modFslot cl slot fun x => { x with broken := true }
    let f := s1.get R.FEX_STAT_fault
    ((s1.set R.FEX_STAT_fault (if bit f cl then f else f + 2 ^ cl)).raiseOf Ev.FEX_FAULT 5 cl []).trigger 1 1 cl

/-- A symbol of a stream that the device itself erased or zeroed (R377). -/
def Dev.outage (t a : Nat) (s : Dev) : Dev := { s with plc := { s.plc with erased := (t, a) :: s.plc.erased } }

/-! ### Uplink symbols (R218–R222) -/

/-- T_sym of a view in Tc (R221). -/
def tSym (c : FexCarrier) : Nat :=
  if c.eutra ∨ c.mu = 0 then 140288 else if c.mu = 1 then 70144 else if c.mu = 2 then (if c.ecp then 40960 else 35072) else 17536

/-- The useful part of a view's symbol in Tc. -/
def usefulTc (c : FexCarrier) : Nat := 131072 / 2 ^ c.mu

/-- The first change of a link's TDD state within a symbol; its end where there is none (R217). -/
def Dev.tddChange (s : Dev) (f t0 t1 : Nat) : Nat :=
  let k := s.link f
  let was := s.tddAt f t0
  let l := (if k.tdd = was then [] else [k.tddWas.1]) ++ (k.tddDue.filter fun d => d.2 != was).map (·.1)
  (l.filter fun t => decide (t0 < t)).foldl min t1

/-- The half-subcarrier shift of an uplink view in units of 1 / 2^(mu+1) subcarriers: E-UTRA always, NR with shift75 (R218). -/
def Dev.halfShift (s : Dev) (cl slot : Nat) (second : Bool) (c : FexCarrier) : Int :=
  if c.eutra || (!second && bit (s.sd cl slot 0) 10) then 1 else 0

/-- The phase of a symbol's upconversion, a part of a turn in 1 / 1,966,080,000: f0 times the start of its useful part in its subframe (TS 38.211 clause 5.4;
PRESUMED from that standard). 0 where compensation is off. -/
def Dev.upPhase (s : Dev) (cl slot : Nat) (c : FexCarrier) (t1 : Nat) : Int :=
  let f0 := s.sd cl slot 6 + bits (s.sd cl slot 7) 0 4 * 2 ^ 32
  if c.eutra then 0 else ((f0 * ((t1 - usefulTc c) % (2 * halfSubTc)) % 1966080000 : Nat) : Int)

/-- The samples of an uplink symbol's window, the first view at the stream rate. After decimation, whose filter the spec does not give, they are free. -/
def Dev.ulWindow (s : Dev) (cl slot : Nat) (second : Bool) (c : FexCarrier) (n : Nat) (rx : List (Int × Int)) : List (Int × Int) :=
  let back := bits (s.sd cl slot 3) 0 10
  if second || c.dec ≠ 0 then (List.range n).map fun i => cpx (Config.freeNat s.freeCtr (2 ^ 20 + i) % 2 ^ 32)
  else (rx.drop (rx.length - n - back)).take n

/-- The subcarriers of an uplink symbol, not yet saturated (R218). -/
def Dev.ulBins (s : Dev) (cl slot : Nat) (second : Bool) (c : FexCarrier) (t1 : Nat) (x : List (Int × Int)) : List (Int × Int) :=
  let n := fftSize c.srate c.mu c.dec
  let back := bits (s.sd cl slot 3) 0 10
  let m : Nat := 2 ^ (c.mu + 1)
  let ph := unit (s.upPhase cl slot c t1) 1966080000
  let tol := dftTol x
  (List.range c.nsc).map fun k =>
    s.dftOut k tol (cpxMul (turnSum x (-(binOf c.nsc k false * (m : Int) + s.halfShift cl slot second c)) back (n * m)) ph) (2 ^ (60 + c.sUl))

/-- Held events of the view's ring whose last line holds a word from `w` on carry edge (R220). -/
def markEdge (ring w : Nat) (l : List FexEvent) : List FexEvent :=
  l.map fun e => if e.ring = ring ∧ w / 8 * 8 < e.end_ ∧ !bit e.pay 23 then { e with pay := setBits e.pay 24 1 1 } else e

/-- Events of a ring no longer wait for the symbol after theirs. -/
def closeEvents (ring : Nat) (l : List FexEvent) : List FexEvent := l.map fun e => if e.ring = ring then { e with until_ := 0 } else e

/-- A symbol's words go to its ring in whole lines, the first of which it writes anew with the symbol before (R219); its event is held, or dropped when 256 are. -/
def Dev.ulWrite (cl slot : Nat) (second : Bool) (c : FexCarrier) (sym : Nat × Nat) (era : Bool) (l : List Nat) (s : Dev) : Dev :=
  let x := s.fcl cl
  let w0 := s.ringEnd c.ulRing
  let w1 := w0 + l.length / 2
  let shared := w0 % 8 != 0
  let edge := s.openFlag c.ulRing && !era && shared
  let full := decide (256 ≤ x.events.length)
  let flag := era || full
  let pay := slot + cl * 2 ^ 7 + sym.1 * 2 ^ 12 + sym.2 % 2 ^ 7 * 2 ^ 16 + b2n era * 2 ^ 23 + b2n edge * 2 ^ 24 + b2n second * 2 ^ 25
  let words := (List.range (l.length / 2)).map fun i => (if era then 0 else lget 0 l (2 * i) + lget 0 l (2 * i + 1) * 2 ^ 32, flag)
  let s1 := (s.ringWriteWhole c.ulRing words).inc64 (R.FEX_UL_SYM cl) 1
  let s2 := s1.modFslot cl slot (·.modView second fun v => { v with nEra := v.nEra + b2n era })
  let held := closeEvents c.ulRing (if flag && shared then markEdge c.ulRing w0 x.events else x.events)
  let s3 := s2.setFcl cl { x with events := held }
  if full then
    (s3.fexCount cl (R.FEX_UL_DROP cl)).stick (R.FEX_CL_STAT_drop cl) (·.raiseOf Ev.FEX_UL_DROP 5 cl [(7, slot), (48, s.time.cnt)])
  else if c.sq = 0xFFFF then s3
  else
    let e : FexEvent := ⟨c.sq, pay, c.ulRing, w1, if w1 % 8 = 0 then 0 else s.time.cnt + tSym c⟩
    (s3.setFcl cl { x with events := held ++ [e] }).showEvents cl

/-- A sample has I or Q at full scale (R235). -/
def fullScale (v : Int × Int) : Bool := v.1 == -32768 || v.1 == 32767 || v.2 == -32768 || v.2 == 32767

/-- An uplink symbol that has ended. Samples after a change of the TDD state within it read as zeros (R217). -/
def ulSymbol (cl : Fin 17) (slot : Fin 128) (second : Bool) (par : FexParity) (s : Dev) : Dev :=
  match s.carrier cl slot second with
  | none => s
  | some c =>
    match s.linkOfStream c.a with
    | none => s
    | some f =>
      let (b, k, t0, t1) := lastEnded c s.time.cnt
      let st := s.linkState f
      if !bit (s.sd cl slot 0) 1 ∨ !s.fexOn cl ∨ !s.xbIn c.a cl slot ∨ st = 4 ∨ st = 5 ∨ s.airState < 2 ∨ s.tddAt f t0 ≠ 2 ∨
          ((s.fslot cl slot).view second).ulLast = some t0 then s
      else
        let d := 4 * 2 ^ c.srate
        let cut := (s.tddChange f t0 t1 + d - 1 - t0) / d
        let raw := s.rxSamples f c.a b ((t0 - b) / d) ((t1 - t0) / d)
        let rx := (raw.take cut) ++ (raw.drop cut).map fun _ => (0, false)
        let s0 := s.fexParity cl slot par
        let bad := match par with | .none => false | _ => true
        let own := bad || (s0.fslot cl slot).broken || s.lostIn c.a false t0 (t1 - t0)
        let era := own || st != 3 || rx.any (·.2)
        let x := s.ulWindow cl slot second c (fftSize c.srate c.mu c.dec) (rx.map fun v => cpx v.1)
        let y := if era then [] else s.ulBins cl slot second c t1 x
        let l := if era then List.replicate c.nsc 0 else y.map fun v => cint16 (cpxClamp v)
        let sat := (y.filter cpxSat).length
        let hot := (rx.filter fun v => fullScale (cpx v.1)).length
        let s1 := (if own then s0.outage t0 c.a else s0).takeFree
        let s2 := (s1.fexSat cl slot sat).modFslot cl slot (·.modView second fun v =>
          { v with fftSat := min (v.fftSat + sat) 65535, inSat := min (v.inSat + hot) 65535, ulLast := some t0 })
        (if era then s2.fexCount cl (R.FEX_ERA cl) else s2).ulWrite cl slot second c (symbolNo c b k) era l

def execUlSymbol (cl : Fin 17) (slot : Fin 128) (second : Bool) (par : FexParity) := act (ulSymbol cl slot second par)

/-! ### Downlink symbols (R223–R227) -/

/-- Runs of samples of the last 20 half subframes, which an OBS window can reach. -/
def Dev.recent (s : Dev) (d : Nat) (l : List OutSeg) : List OutSeg := l.filter fun o => decide (s.time.cnt ≤ o.at_ * d + 20 * halfSubTc)

/-- The resource elements that a downlink symbol sends, in its words' order: zero where a line read ERASED or PERR, and, of a symbol with a parity error in the
cluster's memory, where the error hit, which is free (R223, R236). -/
def Dev.dlElements (s : Dev) (words : List (Nat × Bool)) (bad : Bool) : List (Int × Int) :=
  (words.flatMap fun w => if w.2 then [(0, 0), (0, 0)] else [cpx w.1, cpx (w.1 / 2 ^ 32)]).mapIdx fun i v =>
    if bad && Config.freeNat s.freeCtr (2 ^ 21 + i) % 2 == 1 then (0, 0) else v

/-- The body of a downlink symbol: the IFFT of its elements, its upconversion phase taken off before, rounded and saturated (R224). -/
def Dev.dlBody (s : Dev) (cl slot : Nat) (c : FexCarrier) (t1 : Nat) (res : List (Int × Int)) : List (Int × Int) :=
  let n := fftSize c.srate c.mu c.dec
  let ph := unit (-(s.upPhase cl slot c t1)) 1966080000
  let tol := if res.all (· == (0, 0)) then 0 else isqrt 12 (18 * n) + 1
  (List.range n).map fun (i : Nat) =>
    let v := (res.mapIdx fun k e => (k, e)).foldl (fun a e =>
      cpxAdd a (cpxMul e.2 (unit (binOf c.nsc e.1 c.eutra * (i : Int)) n))) (0, 0)
    cpxClamp (s.dftOut i tol (cpxMul v ph) (2 ^ (60 + c.sDl)))

/-- A sample under a weight in 2^-15. -/
def ramped (w : Nat) (v : Int × Int) : Int × Int := (fexDiv (v.1 * min w 32768) 32768, fexDiv (v.2 * min w 32768) 32768)

/-- A symbol's samples, prefix and body, under the rising ramp with the suffix of the symbol before it, and its own suffix under the falling one (R224). -/
def symbolWindow (wlen cp at_ : Nat) (tail : Option OutSeg) (body : List (Int × Int)) : List (Int × Int) × OutSeg :=
  let w := fun (i : Nat) => Config.rampWeight wlen i
  let main := (body.drop (body.length - cp) ++ body).mapIdx fun i v =>
    if i < wlen then cpxAdd (ramped (w i) v) ((segAt tail.toList (at_ + i)).getD (0, 0)) else v
  (main, ⟨at_ + cp + body.length, (body.take wlen).mapIdx fun i v => ramped (w (wlen - 1 - i)) v⟩)

/-- The samples of a downlink symbol at the stream rate, and the suffix that its successor takes up. A view at a lower rate is interpolated through filters
that the spec does not give: its samples are free, but for a symbol of zeros. -/
def Dev.dlSamples (s : Dev) (cl slot : Nat) (second : Bool) (c : FexCarrier) (t0 t1 : Nat) (res : List (Int × Int)) : List (Int × Int) × Option OutSeg :=
  let d := 4 * 2 ^ c.srate
  let n := (t1 - t0) / d
  let v := (s.fslot cl slot).view second
  if second || c.dec ≠ 0 then
    (if res.all (· == (0, 0)) then List.replicate n (0, 0) else (List.range n).map fun i => cpx (Config.freeNat s.freeCtr (2 ^ 22 + i) % 2 ^ 32), none)
  else
    let q := symbolWindow (bits (s.sd cl slot 3) 10 10) ((t1 - t0 - usefulTc c) / d) (t0 / d) v.tail (s.dlBody cl slot c t1 res)
    (q.1, some q.2)

/-- A downlink symbol whose reading time has come (R223). Of a stream in an overlap, the slot whose samples the crossbar will take reads it (R214). Samples after a change of the TDD state within it are zeros (R217). -/
def dlSymbol (cl : Fin 17) (slot : Fin 128) (second : Bool) (par : FexParity) (s : Dev) : Dev :=
  match s.carrier cl slot second with
  | none => s
  | some c =>
    match s.linkOfStream c.a with
    | none => s
    | some f =>
      let ahead := ((32 * (s.time.cnt + tSym c + tickTc) + s.dlAdvance f) / 32).toNat
      let (_, _, t0, t1) := symbolAt c ahead
      let st := s.linkState f
      if (s.flag (R.FEX_XB_LO_dual c.a) ∧ s.xbSource c.a t0 ≠ some ((cl : Nat), (slot : Nat))) ∨ !bit (s.sd cl slot 0) 2 ∨ !s.fexOn cl ∨ st = 4 ∨ st = 5 ∨ s.airState < 2 ∨ s.tddAt f t0 ≠ 1 ∨
          ((s.fslot cl slot).view second).dlLast = some t0 then s
      else
        let s0 := s.fexParity cl slot par
        let k := c.dlRing
        let need := c.nsc / 2
        let have_ := s0.ringW k - s0.ringR k 0
        let late := !s0.ringValid k || decide (have_ < need)
        let words := if late then [] else s0.ringRead k (s0.ringR k 0) need
        let bad := match par with | .none => false | _ => true
        let res := if late then List.replicate c.nsc (0, 0) else s0.dlElements words bad
        let d := 4 * 2 ^ c.srate
        let q := s0.dlSamples cl slot second c t0 t1 res
        let cut := (s.tddChange f t0 t1 + d - 1 - t0) / d
        let iq := q.1.take cut ++ (q.1.drop cut).map fun _ => (0, 0)
        let s1 := (if ((s0.fslot cl slot).broken && (s0.xbSource c.a t0) == some ((cl : Nat), (slot : Nat))) || bad || words.any (·.2) then s0.outage t0 c.a else s0).takeFree
        let s2 := s1.modFslot cl slot (·.modView second fun v =>
          { v with dlLast := some t0, tail := q.2, out := ⟨t0 / d, iq⟩ :: s.recent d v.out })
        let s3 := if (bad || words.any (·.2)) && !late then s2.fexCount cl (R.FEX_ERA cl) else s2
        let s4 :=
          if late then
            let s5 : Dev := s3.addDebt k 0 need
            ((s5.payDebt k).fexCount cl (R.FEX_DL_LATE cl)).stick (R.FEX_CL_STAT_dl_late cl)
              (·.raiseOf Ev.FEX_DL_LATE 5 cl [(7, (slot : Nat)), (48, s.time.cnt)])
          else s3.readerAdvance k 0 need
        s4.inc64 (R.FEX_DL_SYM cl) 1

def execDlSymbol (cl : Fin 17) (slot : Fin 128) (second : Bool) (par : FexParity) := act (dlSymbol cl slot second par)

/-- A band of a slot's mask profile has a limit (R225). -/
def Dev.maskBand (s : Dev) (cl slot i : Nat) : Bool :=
  bits (s.rd (clBase cl + 0xA200 + bits (s.sd cl slot 0) 12 3 * 0x40 + i * 4)) 18 8 != 0

/-- The mask check at a slot's end. -/
def maskCheck (cl : Fin 17) (slot : Fin 128) (ended : BitVec 16) (s : Dev) : Dev :=
  if !bit (s.sd cl slot 0) 0 ∨ !bit (s.sd cl slot 0) 2 ∨ !s.fexOn cl then s
  else
    let muted := (s.fslot cl slot).mute
    match (List.range 16).find? fun i => bit ended.toNat i && s.maskBand cl slot i with
    | some i =>
      let s1 := ((s.fexCount cl (R.FEX_MASK_VIOL cl)).setB (R.FEX_CL_STAT_mask cl) true).raiseOf Ev.FEX_MASK_VIOL 5 cl
        [(7, (slot : Nat)), (4, i)]
      if s.flag R.FEX_CTL_mask_mute && !muted then
        (s1.modFslot cl slot fun x => { x with mute := true }).raiseOf Ev.FEX_MUTE 5 cl [(7, (slot : Nat)), (1, 1)]
      else s1
    | none =>
      if muted then (s.modFslot cl slot fun x => { x with mute := false }).raiseOf Ev.FEX_MUTE 5 cl [(7, (slot : Nat)), (1, 0)]
      else s

def execMaskCheck (cl : Fin 17) (slot : Fin 128) (ended : BitVec 16) := act (maskCheck cl slot ended)

/-! ### Commands (R228, R229) -/

def cmdOp (c : List Nat) : Nat := bits (dw c 0) 0 4
def cmdSlot (c : List Nat) : Nat := bits (dw c 0) 4 7
def cmdTarget (c : List Nat) : Nat := dw c 2 + dw c 3 * 2 ^ 32
def cmdRing (c : List Nat) : Nat := bits (dw c 4) 0 12
def cmdLen (c : List Nat) : Nat := bits (dw c 5) 0 16

/-- The queue and the armed commands shown. -/
def Dev.showQueue (cl : Nat) (s : Dev) : Dev :=
  (s.set (R.FEX_CQ_STAT_depth cl) (s.fcl cl).queue.length).set (R.FEX_CQ_STAT_armed cl) (s.fcl cl).armed.length

/-- A command ends: its record, its event, and what its status counts. `figs` is the record's word 4 and the low half of word 5. -/
def Dev.fexEnd (cl : Nat) (c : List Nat) (st : Nat) (figs : Nat) (s : Dev) : Dev :=
  let w1 := st + cmdOp c * 2 ^ 4 + cmdSlot c * 2 ^ 8 + cl * 2 ^ 15
  let s1 := s.record (bits (dw c 7) 0 12) [dw c 1 + w1 * 2 ^ 32, s.time.cnt, figs, 0]
  let s2 := s1.postOpen 4 (bits (dw c 0) 16 16)
  if st = 2 ∨ st = 3 ∨ st = 4 ∨ st = 7 then
    ((s2.fexCount cl (R.FEX_CMD_BAD cl)).setB (R.FEX_CL_STAT_cmd_bad cl) true).raiseOf Ev.FEX_CMD_BAD 5 cl
      [(4, cmdOp c), (32, dw c 1), (4, st)]
  else s2

/-- The status a command gets when it is armed; none where it waits for its time. -/
def Dev.armStatus (s : Dev) (cl : Nat) (c : List Nat) : Option Nat :=
  let op := cmdOp c
  let timed := decide (2 ≤ op) || (op == 1 && cmdTarget c != 0)
  let reserved := bits (dw c 0) 12 4 != 0 || dw c 6 != 0 || bits (dw c 7) 12 20 != 0 || (op == 1 && bits (dw c 4) 0 6 != 0)
  if 5 ≤ op ∨ reserved ∨ (1 ≤ op ∧ !bit (s.sd cl (cmdSlot c) 0) 0) ∨ (2 ≤ op ∧ cmdLen c = 0) then some 2
  else if 2 ≤ op ∧ !s.ringValid (cmdRing c) then some 4
  else if timed ∧ cmdTarget c < s.time.cnt + 4096 then some 1
  else none

/-- Queued commands are armed in order while fewer than 16 are and the cluster is on; places freed in the queue go to stalled writers. -/
def Dev.armCmds (cl k : Nat) (s : Dev) : Dev :=
  match k with
  | 0 => s.showQueue cl
  | k + 1 =>
    let x := s.fcl cl
    match x.queue with
    | c :: r =>
      if x.armed.length < 16 ∧ s.fexOn cl then
        let y := { x with queue := r ++ x.held.take 1, held := x.held.drop 1 }
        match s.armStatus cl c with
        | some st => Dev.armCmds cl k ((s.setFcl cl y).fexEnd cl c st 0xFFFF)
        | none => Dev.armCmds cl k (s.setFcl cl { y with armed := x.armed ++ [c] })
      else s.showQueue cl
    | [] => s.showQueue cl

/-- As many commands as a cluster holds. -/
def Dev.cmdCount (s : Dev) (cl : Nat) : Nat := (s.fcl cl).queue.length + (s.fcl cl).held.length

/-- The write of a command's word 7. -/
def fexCommandPost (cl : Fin 17) (v : Word) (s : Dev) : Dev :=
  let s1 := s.wr (R.FEX_CQ cl 7) v.toNat
  let c := (List.range 8).map fun i => s1.rd (R.FEX_CQ cl i)
  let x := s1.fcl cl
  let s2 := s1.setFcl cl (if x.queue.length < 64 then { x with queue := x.queue ++ [c] } else { x with held := x.held ++ [c] })
  s2.armCmds cl (s2.cmdCount cl)

def execFexCommandPost (cl : Fin 17) (v : Word) := act (fexCommandPost cl v)

/-- The first armed command with an opcode that a test holds for leaves the armed list and acts; then others are armed. -/
def Dev.runCmd (cl op : Nat) (due : List Nat → Bool) (run : List Nat → Dev → Dev) (s : Dev) : Dev :=
  let x := s.fcl cl
  match x.armed.find? fun c => s.fexOn cl && cmdOp c == op && due c with
  | some c =>
    let s1 := run c (s.setFcl cl { x with armed := x.armed.erase c })
    s1.armCmds cl (s1.cmdCount cl)
  | none => s

/-- NOP. -/
def fexNop (cl : Fin 17) : Dev → Dev := Dev.runCmd cl 0 (fun _ => true) fun c s => s.fexEnd cl c 0 0xFFFF

def execFexNop (cl : Fin 17) := act (fexNop cl)

/-- The first half-subframe boundary at or after an air count. -/
def boundaryFrom (t : Nat) : Nat := (t + halfSubTc - 1) / halfSubTc * halfSubTc

/-- LOAD_DPD: the coefficients copied into the inactive bank, whose swap is to come. A load that waits is superseded. -/
def Dev.loadDpd (cl : Nat) (c : List Nat) (s : Dev) : Dev :=
  let slot := cmdSlot c
  let off := bits (dw c 4) 0 26
  let x := s.fslot cl slot
  if s.erasedIn off 64 then s.fexEnd cl c 5 0xFFFF
  else
    let s0 := match x.load with | some (o, _) => s.fexEnd cl o 6 0xFFFF | none => s
    let s1 := (List.range 16).foldl (fun s i => s.wr (dpdAddr cl slot (!x.bank) i) (s.le (storeBase + off + i * 4) 4)) s0
    s1.modFslot cl slot fun y => { y with load := some (c, boundaryFrom (max (cmdTarget c) (s.time.cnt + 1))) }

def execLoadDpd (cl : Fin 17) := act (Dev.runCmd cl 1 (fun _ => true) (Dev.loadDpd cl))

/-- The boundary of a bank swap. -/
def dpdBankSwap (cl : Fin 17) (slot : Fin 128) (s : Dev) : Dev :=
  match (s.fslot cl slot).load with
  | some (c, b) =>
    if b ≤ s.time.cnt ∧ s.fexOn cl then (s.modFslot cl slot fun x => { x with bank := !x.bank, load := none }).fexEnd cl c 0 0xFFFF else s
  | none => s

def execDpdBankSwap (cl : Fin 17) (slot : Fin 128) := act (dpdBankSwap cl slot)

/-- The stream of a command's slot and its rate code. -/
def Dev.cmdStream (s : Dev) (cl : Nat) (c : List Nat) : Nat × Nat :=
  (bits (s.sd cl (cmdSlot c) 1) 0 11, bits (s.sd cl (cmdSlot c) 0) 3 3)

/-- A command's window has ended. -/
def Dev.windowOver (s : Dev) (cl : Nat) (c : List Nat) : Bool :=
  decide (cmdTarget c + cmdLen c * (4 * 2 ^ (s.cmdStream cl c).2) ≤ s.time.cnt)

/-- The samples a window takes from the link, across half subframes; those that the crossbar does not hand to the slot are lost to it (R213). -/
def Dev.windowRx (s : Dev) (cl : Nat) (c : List Nat) (shift : Int) : List (Nat × Bool) :=
  let (a, sr) := s.cmdStream cl c
  let d := 4 * 2 ^ sr
  let per := halfSubTc / d
  match if s.xbIn a cl (cmdSlot c) then s.linkOfStream a else none with
  | some f =>
    (List.range (cmdLen c)).flatMap fun i =>
      let k := (((cmdTarget c / d + i : Nat) : Int) + shift).toNat
      s.rxSamples f a (k / per * halfSubTc) (k % per) 1
  | none => List.replicate (cmdLen c) (0, true)

/-- cint16 samples packed two to a ring word, erased ones as zeros. -/
def packPairs (l : List (Nat × Bool)) : List Nat :=
  (List.range ((l.length + 1) / 2)).map fun i =>
    let v := fun (k : Nat) => match l[k]? with | some (x, e) => if e then 0 else x | none => 0
    v (2 * i) + v (2 * i + 1) * 2 ^ 32

/-- CAPTURE. -/
def Dev.capture (cl : Nat) (c : List Nat) (s : Dev) : Dev :=
  let rx := s.windowRx cl c 0
  (s.ringWrite (cmdRing c) (packPairs rx) false).fexEnd cl c (if rx.any (·.2) then 5 else 0) 0xFFFF

def execCapture (cl : Fin 17) (s : State) := act (fun d => d.runCmd cl 3 (d.windowOver cl) (Dev.capture cl)) s

/-- The TDD state is downlink throughout a window. -/
def Dev.windowTdd (s : Dev) (f t0 t1 : Nat) (ok : Nat → Bool) : Bool :=
  let k := s.link f
  ok (s.tddAt f t0) && ok (s.tddAt f t1) && (k.tddDue.filter fun d => decide (t0 ≤ d.1) && decide (d.1 ≤ t1)).all fun d => ok d.2

/-- OBS: a header, the predistorter's input, and the observation. -/
def Dev.observe (cl : Nat) (evm gain phase : Nat) (c : List Nat) (s : Dev) : Dev :=
  let (a, sr) := s.cmdStream cl c
  let stop := cmdTarget c + cmdLen c * (4 * 2 ^ sr)
  let ok := match s.linkOfStream a with
    | some f => (s.link f).obs && s.windowTdd f (cmdTarget c) stop (· == 1)
    | none => false
  if !ok then s.fexEnd cl c 7 0xFFFF
  else
    let rx := s.windowRx cl c 0
    let tx := (List.range (cmdLen c)).map fun i => (cint16 (s.preDpd cl (cmdSlot c) (cmdTarget c / (4 * 2 ^ sr) + i)), false)
    let hdr := [cmdTarget c, cmdSlot c + cmdLen c * 2 ^ 32, 0, 0, 0, 0, 0, 0]
    let figs := if bit (dw c 0) 11 then evm + gain * 2 ^ 16 + phase * 2 ^ 32 else 0xFFFF
    (s.ringWrite (cmdRing c) (hdr ++ packPairs (tx ++ rx)) false).fexEnd cl c (if rx.any (·.2) then 5 else 0) figs

def execObs (cl : Fin 17) (evm gain phase : BitVec 16) (s : State) :=
  act (fun d => d.runCmd cl 2 (d.windowOver cl) (Dev.observe cl evm.toNat gain.toNat phase.toNat)) s

/-- INJECT: samples from the ring in place of the filter output, ahead of predistortion. -/
def Dev.inject (cl : Nat) (c : List Nat) (s : Dev) : Dev :=
  let (a, sr) := s.cmdStream cl c
  let d := 4 * 2 ^ sr
  let t := cmdTarget c
  let stop := t + (cmdLen c - 1) * d
  let clash := match s.linkOfStream a with
    | some f => bit (s.sd cl (cmdSlot c) 0) 2 && !s.windowTdd f t stop (· != 1)
    | none => false
  if clash then s.fexEnd cl c 3 0xFFFF
  else
    let k := cmdRing c
    let n := (cmdLen c + 1) / 2
    let have_ := min n (s.ringW k - s.ringR k 0)
    let ws := s.ringRead k (s.ringR k 0) have_
    let raw := (List.range (cmdLen c)).map fun i =>
      let w := lget (0, false) ws (i / 2)
      if i % 2 = 0 then w.1 % 2 ^ 32 else w.1 / 2 ^ 32
    let s2 := (s.readerAdvance k 0 have_).modFslot cl (cmdSlot c) fun x => { x with inj := ⟨t / d, raw.map cpx⟩ :: s.recent d x.inj }
    s2.fexEnd cl c (if have_ < n ∨ ws.any (·.2) then 5 else 0) 0xFFFF

def execInject (cl : Fin 17) (s : State) := act (fun d => d.runCmd cl 4 (fun c => decide (cmdTarget c ≤ d.time.cnt)) (Dev.inject cl)) s

/-! ### PRACH (R230–R233) -/

def prachKey (cl j : Nat) : Nat := cl * 16 + j
def Dev.prachSt (s : Dev) (cl j : Nat) : PrachCfg := tget {} s.fex.prach (prachKey cl j)
def Dev.setPrach (cl j : Nat) (x : PrachCfg) (s : Dev) : Dev :=
  { s with fex := { s.fex with prach := tput {} s.fex.prach (prachKey cl j) x } }

/-- A configuration word 0 that may be valid (R230). -/
def prachOk (w0 : Nat) : Bool :=
  let fmt := bits w0 1 4
  decide (bits w0 6 2 ≤ 1) && (if bit w0 5 then decide (fmt ≤ 3) || fmt == 13 else decide (fmt ≤ 12))

/-- The bits of each word of a PRACH configuration that are no reserved ones (Table 9-5). -/
def prachMasks : List Nat := [0x3FFFFFF, 0xFFFFFFFF, 0x7FFFFFF, 0xFFFFFFF]

/-- A write of a PRACH configuration's word: an invalid one stays invalid and is logged. -/
def Dev.prachWrite (cl j w v : Nat) (s : Dev) : Dev :=
  let v := Nat.land v (lget 0 prachMasks w)
  if w = 0 ∧ bit v 0 ∧ !prachOk v then (s.wr (prachAddr cl j 0) (v - 1)).fexCfgBad cl j else s.wr (prachAddr cl j w) v

/-- Cyclic shifts per root and N_cs: of restricted sets, which follow the standards' own rules, the number is free. -/
def Dev.prachShifts (s : Dev) (w0 zcz : Nat) : Nat × Nat :=
  let l := if prachShort w0 then 139 else 839
  if bits w0 6 2 = 1 then (Config.freeNat s.freeCtr 0 % 64 + 1, Config.freeNat s.freeCtr 1 % l + 1)
  else
    let n := prachNcs w0 zcz
    if n = 0 then (1, l) else (l / n, n)

/-- A list in ascending order. -/
def sorted (l : List Nat) : List Nat :=
  l.foldr (fun v r => r.takeWhile (fun k => decide (k < v)) ++ v :: r.dropWhile (fun k => decide (k < v))) []

/-- The noise level of an occasion: sum and number of the lowest half of all bins. -/
def prachNoise (prof : List (List Nat)) : Nat × Nat :=
  let all := sorted (prof.flatMap id)
  let n := all.length / 2
  ((all.take n).foldl (· + ·) 0, n)

/-- A bin exceeds noise × 10^(thr / 40). -/
def prachOver (v : Nat) (noise : Nat × Nat) (thr : Nat) : Bool := decide (noise.1 ^ 40 * 10 ^ thr < (v * noise.2) ^ 40)

/-- The peaks of one window, as places in it. -/
def prachPeaks (w : List Nat) (noise : Nat × Nat) (thr : Nat) : List Nat :=
  (List.range w.length).filter fun i =>
    let v := lget 0 w i
    prachOver v noise thr && (i + 1 == w.length || decide (lget 0 w (i + 1) ≤ v)) && (i == 0 || decide (lget 0 w (i - 1) < v))

/-- The four strongest of more peaks, in ascending delay. -/
def prachFour (w : List Nat) (l : List Nat) : List Nat :=
  let rank := fun i => (l.filter fun k => decide (lget 0 w i < lget 0 w k) || (lget 0 w i == lget 0 w k && decide (k < i))).length
  l.filter fun i => decide (rank i < 4)

/-- A peak's delay from its window's first bin in 1/8 bin, by the parabola through it and its neighbours. -/
def prachDelay (w : List Nat) (i : Nat) : Nat :=
  let at_ := fun (k : Nat) => ((lget (0 : Nat) w k : Nat) : Int)
  let a := if i = 0 then 0 else at_ (i - 1)
  let b := at_ i
  let c := at_ (i + 1)
  let d := 2 * (2 * b - a - c)
  if d ≤ 0 then 8 * i else (8 * (i : Int) + divRound (8 * (c - a)) d.toNat).toNat

/-- The preambles of an occasion: index, window. -/
def prachWindows (prof : List (List Nat)) (np l shifts ncs : Nat) : List (Nat × List Nat) :=
  ((prof.mapIdx fun r row => (r, row)).flatMap fun (r, row) =>
    (List.range shifts).map fun v =>
      let lo := (v * ncs * np + l - 1) / l
      let hi := ((v + 1) * ncs * np + l - 1) / l
      (r * shifts + v, (row.drop lo).take (hi - lo))).filter fun p => decide (p.1 < 64)

/-- Subcarrier spacing of a configuration's preamble in Hz: long NR formats 0–2 and E-UTRA 0–3 1,250, NR 3 5,000, E-UTRA 4 7,500, short ones
that of the cell's numerology. -/
def Dev.prachScs (s : Dev) (cl j : Nat) : Nat :=
  let w0 := s.pw cl j 0
  if bit w0 5 then (if bits w0 1 4 = 13 then 7500 else 1250)
  else if bits w0 1 4 = 3 then 5000
  else if bits w0 1 4 < 3 then 1250
  else 15000 * 2 ^ bits (s.sd cl (bits (s.pw cl j 2) 0 7) 0) 6 2

/-- Detection and report of an occasion (Table 9-6): levels in dB are free, as no rounding of them is given. -/
def Dev.prachReport (cl j : Nat) (tOcc fdm : Nat) (prof : List (List Nat)) (ants : Nat) (s : Dev) : Dev :=
  let w0 := s.pw cl j 0
  let w1 := s.pw cl j 1
  let w3 := s.pw cl j 3
  let (l, np) := if prachShort w0 then (139, 256) else (839, 1024)
  let (shifts, ncs) := s.prachShifts w0 (bits w1 10 4)
  let thr := bits w1 23 9
  let noise := prachNoise prof
  let found := (prachWindows prof np l shifts ncs).map fun (p, w) => (p, w, prachPeaks w noise thr)
  let more := found.any fun x => decide (4 < x.2.2.length)
  let entries := found.flatMap fun (p, w, ks) =>
    (prachFour w ks).mapIdx fun i k =>
      let delay := prachDelay w k * (1966080000 / (np * s.prachScs cl j))
      p + i * 2 ^ 6 + b2n (decide (4 < ks.length)) * 2 ^ 8 + delay % 2 ^ 23 * 2 ^ 9 +
        Config.freeNat s.freeCtr (3 + p * 4 + i) % 2 ^ 12 * 2 ^ 32 + ants % 256 * 2 ^ 44
  let h2 := bits w0 10 8 + fdm * 2 ^ 8 + entries.length % 2 ^ 8 * 2 ^ 11 + Config.freeNat s.freeCtr 2 % 2 ^ 16 * 2 ^ 19
  let s1 := ((s.takeFree).ringWrite (bits w3 0 12) (tOcc :: h2 :: entries) false).postOpen 0 (bits w3 12 16)
  if more then
    ((s1.fexCount cl (R.FEX_PRACH_MORE cl)).setB (R.FEX_CL_STAT_more cl) true).raiseOf Ev.FEX_PRACH_MORE 5 cl [(4, j)]
  else s1

/-- Profiles added bin by bin. -/
def addProfiles (a b : List (List Nat)) : List (List Nat) :=
  (List.range (max a.length b.length)).map fun r =>
    let x := lget [] a r
    let y := lget [] b r
    (List.range (max x.length y.length)).map fun i => lget 0 x i + lget 0 y i

/-- A configuration whose own profile and all its forwarded ones are in passes the sum on, or detects. -/
def Dev.prachStep (cl j : Nat) (s : Dev) : Dev :=
  let x := s.prachSt cl j
  let w2 := s.pw cl j 2
  match x.own with
  | some (t, fdm) =>
    if x.got < bits w2 24 3 then s
    else
      let s1 := s.setPrach cl j { inbox := x.inbox }
      if bits w2 15 5 = 31 then s1.prachReport cl j t fdm x.prof x.ants
      else
        let c := bits w2 15 5
        let k := bits w2 20 4
        let y := s1.prachSt c k
        s1.setPrach c k { y with inbox := y.inbox ++ [(x.prof, x.ants)] }
  | none => s

/-- A PRACH occasion. -/
def prachOccasion (cl : Fin 17) (j : Fin 16) (fdm : Fin 8) (tOcc : BitVec 64) (prof : List (List Nat)) (s : Dev) : Dev :=
  let w0 := s.pw cl j 0
  if !bit w0 0 ∨ 2 ^ bits w0 8 2 ≤ (fdm : Nat) ∨ !s.fexOn cl then s
  else
    let x := s.prachSt cl j
    let ants := bits (s.pw cl j 2) 7 8
    ((s.inc64 (R.FEX_PRACH_OCC cl) 1).setPrach cl j
      { x with own := some (tOcc.toNat, fdm), prof := addProfiles x.prof prof, ants := x.ants + ants }).prachStep cl j

def execPrachOccasion (cl : Fin 17) (j : Fin 16) (fdm : Fin 8) (tOcc : BitVec 64) (prof : List (List Nat)) :=
  act (prachOccasion cl j fdm tOcc prof)

/-- A forwarded profile added. -/
def prachProfileReceive (cl : Fin 17) (j : Fin 16) (s : Dev) : Dev :=
  let x := s.prachSt cl j
  match x.inbox with
  | (p, a) :: r =>
    (s.setPrach cl j { x with inbox := r, prof := addProfiles x.prof p, ants := x.ants + a, got := x.got + 1 }).prachStep cl j
  | [] => s

def execPrachProfileReceive (cl : Fin 17) (j : Fin 16) := act (prachProfileReceive cl j)

/-! ### Quality (R235) -/

/-- The quality record of a view at a slot's end. -/
def qualityRecord (cl : Fin 17) (slot : Fin 128) (second : Bool) (rssi nf : BitVec 16) (_ : Unit) (s : Dev) : Dev :=
  match s.carrier cl slot second with
  | none => s
  | some c =>
    if !s.flag (R.FEX_CL_CFG_q_en cl) ∨ !bit (s.sd cl slot 0) 1 ∨ !s.fexOn cl then s
    else
      let (b, k, _, _) := lastEnded c s.time.cnt
      let v := (s.fslot cl slot).view second
      let head := (slot : Nat) + (cl : Nat) * 2 ^ 7 + b2n second * 2 ^ 12 + (symbolNo c b k).2 % 2 ^ 7 * 2 ^ 13 + b / frameTc % 1024 * 2 ^ 20
      let w0 := head + rssi.toNat * 2 ^ 32 + nf.toNat * 2 ^ 48
      let w1 := min v.inSat 65535 + min v.fftSat 65535 * 2 ^ 16 + min v.nEra 15 * 2 ^ 32
      (s.ringWrite (s.get (R.FEX_CL_CFG_qring cl)) [w0, w1] false).modFslot cl slot
        (·.modView second fun v => { v with nEra := 0, fftSat := 0, inSat := 0 })

def execQualityRecord (cl : Fin 17) (slot : Fin 128) (second : Bool) (rssi nf : BitVec 16) (ended : Unit) :=
  act (qualityRecord cl slot second rssi nf ended)

end Sys2Proof.Machine
end

