-- ==== Sys2Proof/Machine/Mover.lean ====
section
/-!
DEFINITION. Stream movers (R196–R212): posting and chaining, checks, pacing, bursts, events, records, stops and timed starts.
-/

namespace Sys2Proof.Machine

/-! ### Descriptor fields (Table 8-1) -/

def movSq (d : List Nat) : Nat := bits (dw d 0) 16 16
/-- Words per full burst. -/
def movBurst (d : List Nat) : Nat := if bits (dw d 1) 24 6 = 0 then 512 else bits (dw d 1) 24 6 * 8
def movSrc (d : List Nat) : Nat := dw d 6 + bits (dw d 7) 0 8 * 2 ^ 32
def movDst (d : List Nat) : Nat := dw d 8 + bits (dw d 9) 0 8 * 2 ^ 32
def movStart (d : List Nat) : Nat := dw d 10 + dw d 11 * 2 ^ 32
def movFill (d : List Nat) : Nat := dw d 12 + dw d 13 * 2 ^ 32
def movPaced (d : List Nat) : Bool := bits (dw d 3) 0 12 ≠ 0xFFF
def movSrcRing (d : List Nat) : Nat := dw d 6 % 4096

/-- Fill reads no source. -/
def movReads (d : List Nat) : Bool := movMode d ≠ 1

/-- A reserved mode or field, misalignment, a length of part of a word, or lo ≥ hi. -/
def movMalformed (d : List Nat) : Bool :=
  movMode d == 3 || bits (dw d 0) 12 4 != 0 || bits (dw d 1) 30 2 != 0 || bits (dw d 1) 0 3 != 0 ||
  bits (dw d 3) 13 19 != 0 || bits (dw d 4) 22 10 != 0 || bits (dw d 5) 22 10 != 0 || bits (dw d 14) 26 6 != 0 ||
  bits (dw d 14) 0 6 != 0 || bits (dw d 15) 12 20 != 0 ||
  (movReads d && (bits (dw d 7) 8 24 != 0 || (!movFlag d 8 && dw d 6 % 8 != 0))) ||
  bits (dw d 9) 8 24 != 0 || (!movFlag d 10 && dw d 8 % 8 != 0) ||
  (!movFlag d 5 && movStart d != 0) || (movMode d != 1 && movFill d != 0) ||
  decide (bits (dw d 4) 0 22 ≤ bits (dw d 5) 0 22)

/-- The range lies in the sample store above the system region, and below `top`. -/
def inStore (a n top : Nat) : Bool := storeBase + 80 * 4096 ≤ a && a + n ≤ storeBase + top

/-- The range lies in one engine's data memory (R287). -/
def inDmem (a n : Nat) : Bool :=
  let o := a - 0x0200000000
  0x0200000000 ≤ a && o < 24 * 0x100000 && o % 0x20000 ≥ 0x10000 && o % 0x20000 + n ≤ 0x20000

/-- Both endpoints are where R199 lets them be. -/
def Dev.movAddrOk (s : Dev) (d : List Nat) : Bool :=
  let n := movLen d * 8
  let srcOk := !movReads d || movFlag d 8 || inStore (movSrc d) n 0x4000000 || inDmem (movSrc d) n
  let dstOk :=
    if movFlag d 10 then !(s.ringValid (movDstRing d) && s.ringSys (movDstRing d))
    else inStore (movDst d) n (s.tableStart * 4096) || inDmem (movDst d) n
  srcOk && dstOk

/-- Every ring named is valid. -/
def Dev.movRingsOk (s : Dev) (d : List Nat) : Bool :=
  (!(movReads d && movFlag d 8) || s.ringValid (movSrcRing d)) && (!movFlag d 10 || s.ringValid (movDstRing d)) &&
  (!movPaced d || s.ringValid (bits (dw d 3) 0 12)) && (dw d 15 == 0xFFF || s.ringValid (dw d 15))

/-- A linear range holds a grain of ring `k`. -/
def Dev.rangeOwns (s : Dev) (a n k : Nat) : Bool :=
  if storeBase ≤ a ∧ a < storeBase + 0x4000000 then
    let o := a - storeBase
    (nums (o / 4096) ((o + n + 4095) / 4096 - o / 4096)).any fun g => !s.grainFree g && s.grainOwner g == k
  else false

/-- Ranges that overlap in one of R207's two cases. -/
def Dev.movOverlap (s : Dev) (d : List Nat) : Bool :=
  let n := movLen d * 8
  movReads d &&
    match movFlag d 8, movFlag d 10 with
    | true, true => movSrcRing d == movDstRing d
    | true, false => s.rangeOwns (movDst d) n (movSrcRing d)
    | false, true => s.rangeOwns (movSrc d) n (movDstRing d)
    | false, false => false

/-- The status that a descriptor's checks give; 0 lets it start. -/
def Dev.movCheck (s : Dev) (d : List Nat) : Nat :=
  if movMalformed d then 3
  else if movLen d = 0 then 0
  else if !s.movAddrOk d then 4
  else if !s.movRingsOk d then 7
  else if s.movOverlap d then 5
  else if movFlag d 5 ∧ movStart d < s.time.cnt + 256 then 1
  else 0

/-! ### Channel status and counters -/


/-- An S32 counter of a channel advanced. -/
def Dev.movCount (c a : Nat) (s : Dev) : Dev :=
  let sat := s.rd a = 0xFFFFFFFE
  let s1 := s.incSat a ⟨R.MOV_CNT_OVF c, (a - R.MOV_LATE c) / 4, 1⟩ Ev.MOV_CNT_SAT [(8, c)] 1
  if sat then s1.setB (R.MOV_CH_STAT_cnt_ovf c) true else s1

/-- What a status counts and logs (Table 8-3, R212). -/
def Dev.movStatus (c seq st : Nat) (s : Dev) : Dev :=
  if st = 1 ∨ st = 8 then
    (s.movCount c (R.MOV_LATE c)).stick (R.MOV_CH_STAT_late c) (·.raiseOf Ev.MOV_LATE 8 c [(32, seq)])
  else if st = 3 ∨ st = 4 ∨ st = 5 ∨ st = 7 then
    (s.movCount c (R.MOV_BAD c)).stick (R.MOV_CH_STAT_bad c) (·.raiseOf Ev.MOV_BAD 8 c [(32, seq), (4, st)])
  else if st = 6 then
    (s.movCount c (R.MOV_ERASED c)).stick (R.MOV_CH_STAT_erased c) (·.raiseOf Ev.MOV_ERASED 8 c [(32, seq)])
  else s

/-- The completion record of Table 8-2. -/
def movRecord (seq st c mism first tEnd tStart : Nat) : List Nat :=
  [seq + (st + c * 16) * 2 ^ 32, mism % 2 ^ 32 + first * 2 ^ 32, tEnd, tStart]

/-- A descriptor ends with a status: the half event if its half-way point is past and it is not yet posted, the full event, the record, the
counters (R206). -/
def Dev.movEnd (c : Nat) (r : MovRun) (st : Nat) (s : Dev) : Dev :=
  let d := r.d
  let seq := dw d 2
  let half := movFlag d 3 && !r.halfDone && (if movLen d = 0 then st == 0 else max 1 (movLen d / 2) ≤ s.movDone r)
  let s1 := if half then s.postOpen 2 (movSq d) else s
  let s2 := if movFlag d 4 then s1.postOpen 2 (movSq d) else s1
  let s3 := s2.record (dw d 15 % 4096) (movRecord seq st c r.mism r.first s.time.cnt r.tStart)
  ((s3.wr (R.MOV_CH_SEQ c) seq).inc64 (R.MOV_DESC c) 1).movStatus c seq st

/-- A place in a channel's queue taken up by a stalled writer's descriptor. -/
def movRefill (x : MovCh) : MovCh :=
  match x.held with
  | h :: r => if x.queue.length < 16 then { x with queue := x.queue ++ [h], held := r } else x
  | [] => x

/-- The record of a linked descriptor lost to parity, whose status the spec does not give, to the ring of the descriptor before (R198, Table 8-2). -/
def Dev.lostRecord (c ring : Nat) (s : Dev) : Dev :=
  (s.takeFree).record ring (movRecord 0xFFFFFFFF (Config.freeNat s.freeCtr 0 % 9) c 0 0xFFFFFF s.time.cnt 0)

/-- A descriptor whose link is followed after status `st` (Table 8-3). -/
def movFollows (d : List Nat) (st : Nat) : Bool := movFlag d 6 && !(st == 3 || st == 4 || st == 5 || st == 7)

/-- What follows a descriptor: its link, where that has not been fetched or lost during its last burst, unless its status abandons the list. -/
def Dev.movNext (c : Nat) (d : List Nat) (st : Nat) (s : Dev) : Dev :=
  let x := s.movCh c
  let go := movFollows d st && x.fetched.isNone && !x.lost
  let x1 := { x with cur := none, lost := false, link := if go then some (bits (dw d 14) 0 26, dw d 15 % 4096) else none }
  let s1 := (s.setMovCh c x1).setB (R.MOV_CH_STAT_req c) false
  (if x.lost then s1.lostRecord c (dw d 15 % 4096) else s1).movShow c

/-- UNMARK of the source ring's reader where the descriptor marked it. -/
def Dev.movUnmark (d : List Nat) (s : Dev) : Dev :=
  let k := movSrcRing d
  if movFlag d 7 && movFlag d 8 && movReads d then (s.unmarkRing k (bits (dw d 0) 9 1)).rxFollow k else s

/-- MARK of the source ring's reader, as R179 lays it down. -/
def Dev.movMark (d : List Nat) (s : Dev) : Dev :=
  let k := movSrcRing d
  if movFlag d 7 && movFlag d 8 && movReads d then (s.markRing k (bits (dw d 0) 9 1)).rxFollow k else s

/-! ### Posting, starting, fetching (R196–R198) -/

/-- The write of word 15 (R196): a full queue holds its writer. -/
def descriptorPost (c : Fin 128) (v : Word) (s : Dev) : Dev :=
  if !s.flag (R.MOV_CH_CFG_en c) then s.movCount c (R.MOV_BAD c)
  else
    let s1 := s.wr (R.MOV_Q c 15) v.toNat
    let d := (List.range 16).map fun i => s1.rd (R.MOV_Q c i)
    let x := s1.movCh c
    (if x.queue.length < 16 then s1.setMovCh c { x with queue := x.queue ++ [d] }
    else s1.setMovCh c { x with held := x.held ++ [d] }).movShow c

def execDescriptorPost (c : Fin 128) (v : Word) := act (descriptorPost c v)

/-- The next descriptor of a channel: the linked one, else the head of its queue. -/
def movTake (x : MovCh) : Option (List Nat × MovCh) :=
  match x.fetched, x.queue with
  | some d, _ => some (d, { x with fetched := none })
  | none, d :: r => some (d, movRefill { x with queue := r })
  | none, [] => none

/-- A channel takes its next descriptor, checks it and begins it, or completes it with an error status. -/
def descriptorStart (c : Fin 128) (s : Dev) : Dev :=
  let x := s.movCh c
  if x.cur.isSome ∨ x.link.isSome then s
  else
    match movTake x with
    | none => s
    | some (d, x1) =>
      let st := s.movCheck d
      let r : MovRun := { d := d, waitTime := movFlag d 5 }
      let s1 := s.setMovCh c x1
      if st ≠ 0 ∨ movLen d = 0 then (s1.movEnd c r st).movNext c d st
      else (((s1.movMark d).setMovCh c { x1 with cur := some r }).pace c).movShow c

def execDescriptorStart (c : Fin 128) := act (descriptorStart c)

/-- The sixteen words of a descriptor read from the store; none where parity has failed (R182, R198). -/
def Dev.descFetch (off : Nat) (h : ReadHops) (s : Dev) : Option (List Nat) × Dev :=
  let r := s.lineRead (off / 64) false h
  (if r.1 = 0 then some ((List.range 16).map fun i => s.le (storeBase + off + i * 4) 4) else none, r.2)

/-- The offset of the link that a channel may fetch now, with whether its predecessor still runs its last burst (R197). -/
def Dev.linkDue (s : Dev) (c : Nat) : Option (Nat × Bool) :=
  let x := s.movCh c
  match x.link, x.cur with
  | some (off, _), _ => some (off, false)
  | none, some r =>
    if movFlag r.d 6 && r.done == movLen r.d && x.fetched.isNone && !x.lost && x.stop.isNone then some (bits (dw r.d 14) 0 26, true) else none
  | none, none => none

/-- A linked descriptor fetched from the store, during its predecessor's last burst or after it (R197). A link lost to parity is logged; its record
follows that of its predecessor (R198). -/
def linkedFetch (c : Fin 128) (h : ReadHops) (s : Dev) : Dev :=
  match s.linkDue c with
  | none => s
  | some (off, early) =>
    let r := s.descFetch off h
    let s1 := r.2
    let x := s1.movCh c
    match r.1 with
    | some d => (s1.setMovCh c { x with link := none, fetched := some d }).movShow c
    | none =>
      let s2 := (s1.setMovCh c { x with link := none, lost := early }).raiseOf Ev.MOV_DESC_PERR 8 c [(26, off)]
      match x.link with
      | some (_, ring) => (s2.lostRecord c ring).movShow c
      | none => s2.movShow c

def execLinkedFetch (c : Fin 128) (hops : ReadHops) := act (linkedFetch c hops)

/-! ### Bursts (R200–R204) -/

/-- Mover words at a linear address of the store or of an engine's data memory, each with its erased flag. -/
def Dev.linRead (s : Dev) (a n : Nat) : List (Nat × Bool) :=
  (List.range n).map fun i =>
    let b := a + i * 8
    if storeBase ≤ b ∧ b < storeBase + 0x4000000 then s.readWord (b - storeBase) else (s.le b 8, false)

/-- The words of erased lines as copy writes them: zeros (R201). -/
def erasedZero (ws : List (Nat × Bool)) : List (Nat × Bool) := ws.map fun w => (if w.2 then 0 else w.1, w.2)

/-- Words written at a linear address of the store, or of an engine's data memory. -/
def Dev.linWrite (a : Nat) (ws : List (Nat × Bool)) (s : Dev) : Dev :=
  if storeBase ≤ a ∧ a < storeBase + 0x4000000 then s.putWords (a - storeBase) ws else s.setBytes a (bytesOf (ws.map (·.1)))

/-- The transfer runs in descending address order (R207): both ranges linear, the destination above the source. -/
def movDescends (d : List Nat) : Bool :=
  movReads d && !movFlag d 8 && !movFlag d 10 && decide (movSrc d < movDst d)

/-- How many words a burst of the descriptor moves, sized when it starts (R203). -/
def Dev.burstSize (s : Dev) (r : MovRun) : Nat :=
  let d := r.d
  let n := min (movBurst d) (movLen d - r.done)
  if !movPaced d then n
  else if movFlag d 11 then min n (bits (dw d 4) 0 22 - s.paceLevel d)
  else min n (s.paceLevel d)

/-- The place, in words from the start of both ranges, of a burst of `n` words. -/
def burstAt (r : MovRun) (n : Nat) : Nat := if movDescends r.d then movLen r.d - r.done - n else r.done

/-- The source words of a burst; a ring source is read at its reader's count. -/
def Dev.burstSource (s : Dev) (r : MovRun) (p n : Nat) : List (Nat × Bool) :=
  let d := r.d
  if movMode d = 1 then List.replicate n (movFill d, false)
  else if movFlag d 8 then s.ringRead (movSrcRing d) (s.ringR (movSrcRing d) (bits (dw d 0) 9 1)) n
  else s.linRead (movSrc d + p * 8) n

/-- The words that compare reads at the destination. Where that is a ring, the spec does not say from which position; a ring destroyed reads
ERASED (R174). -/
def Dev.burstDest (s : Dev) (r : MovRun) (p n : Nat) : List (Nat × Bool) :=
  if movFlag r.d 10 then
    (List.range n).map fun i => if s.ringValid (movDstRing r.d) then (Config.freeNat s.freeCtr i % 2 ^ 64, false) else (0, true)
  else s.linRead (movDst r.d + p * 8) n

/-- The indices, in words from the start, at which compare finds a difference. -/
def differences (p : Nat) (a b : List (Nat × Bool)) : List Nat :=
  (((a.zip b).zip (nums p a.length)).filter fun e => e.1.1.2 || e.1.2.2 || e.1.1.1 != e.1.2.1).map (·.2)

/-- The cycles for which a burst of `n` words issues: one for each line, two in compare (R200). -/
def burstCycles (d : List Nat) (n : Nat) : Nat := (n + 7) / 8 * (if movMode d = 2 then 2 else 1)

/-- One burst of channel `c` carried out. -/
def Dev.burst (c : Nat) (r : MovRun) (s : Dev) : Dev :=
  let d := r.d
  let n := s.burstSize r
  let p := burstAt r n
  let src := s.burstSource r p n
  let era := src.any (·.2)
  let gone := movFlag d 10 && !s.ringValid (movDstRing d)
  let t := if r.done = 0 then s.time.cnt else r.tStart
  let s1 :=
    if movFlag d 8 && movReads d && s.hasReader (movSrcRing d) (bits (dw d 0) 9 1) then s.readerAdvance (movSrcRing d) (bits (dw d 0) 9 1) n
    else s
  let done := r.done + n
  let u := c / 16
  let lines := (n + 7) / 8
  let s2 :=
    if movMode d = 2 then
      let dst := s.burstDest r p n
      let df := differences p src dst
      let r1 := { r with done := done, due := false, tStart := t, era := r.era || era || dst.any (·.2), mism := r.mism + df.length,
                         first := df.foldl (fun m i => min m (i * 8)) r.first }
      (s1.setMovCh c { s1.movCh c with cur := some r1 }).takeFree
    else
      let out := erasedZero src
      let s' := if movFlag d 10 then s1.ringWriteE (movDstRing d) out else s1.linWrite (movDst d + p * 8) out
      s'.setMovCh c { s'.movCh c with cur := some { r with done := done, due := false, tStart := t, era := r.era || era || gone } }
  (((s2.inc64 (R.MOV_BYTES c) (n * 8)).inc64 (R.MOV_UNIT_LINES u) lines).inc64 (R.MOV_UNIT_BUSY u)
    (burstCycles d n)).pace c |>.movShow c

/-- A burst of this channel would still be issuing at a pending timed start of its unit (R210). -/
def Dev.burstBlocks (s : Dev) (u : Nat) (r : MovRun) : Bool :=
  let cycles := burstCycles r.d (s.burstSize r)
  (List.range 16).any fun i =>
    match (s.movCh (16 * u + i)).cur with
    | some q => q.waitTime && decide (s.time.cnt < movStart q.d) && decide (movStart q.d * 10000 < s.time.cnt * 10000 + cycles * 16384)
    | none => false

/-- The run of a channel that requests a burst now. A stop ends its requests. -/
def Dev.requesting (s : Dev) (u i : Nat) : Option MovRun :=
  let x := s.movCh (16 * u + i)
  match x.cur with
  | some r => if !r.waitTime && r.req && x.stop.isNone && decide (r.done < movLen r.d) && (r.due || !s.burstBlocks u r) then some r else none
  | none => none

/-- A channel of this unit stands stalled on a HOLD ring. -/
def Dev.unitStalled (s : Dev) (u : Nat) : Bool :=
  (List.range 16).any fun i => match (s.movCh (16 * u + i)).cur with | some r => s.movStalled r != 0 | none => false

/-- The timed start that a unit serves now: its due channels take their first bursts in ascending order, before any other (R210, R211). -/
def Dev.dueStart (s : Dev) (u : Nat) : Option Nat :=
  (List.range 16).find? fun i => match s.requesting u i with | some r => r.due | none => false

/-- The channel that a unit serves next: a timed start that has come; else the highest priority, and within it the next in turn (R204). -/
def Dev.burstPick (s : Dev) (u : Nat) : Option Nat :=
  let last := tget 15 s.mov.last u
  let order := (List.range 16).map fun i => (last + 1 + i) % 16
  match s.dueStart u with
  | some i => some i
  | none => [3, 2, 1, 0].findSome? fun p =>
      order.find? fun i => s.get (R.MOV_CH_CFG_pri (16 * u + i)) == p && (s.requesting u i).isSome

/-- A unit starts one burst. -/
def burstStart (u : Fin 8) (s : Dev) : Dev :=
  if s.unitStalled u then s
  else
    match s.burstPick u with
    | none => s
    | some i =>
      match s.requesting u i with
      | none => s
      | some r => ({ s with mov := { s.mov with last := tput 15 s.mov.last u i } }).burst (16 * u + i) r

def execBurstStart (u : Fin 8) := act (burstStart u)

/-! ### Timed starts, events and ends -/

/-- A start of a lower channel of the unit falls in the same cycle as `t` and takes its burst first (R211). A cycle lasts 1.64 Tc: `same` says whether
starts 1 Tc apart share one. -/
def Dev.startBefore (s : Dev) (c t : Nat) (same : Bool) : Bool :=
  (List.range (c % 16)).any fun i =>
    match (s.movCh (c / 16 * 16 + i)).cur with
    | some q =>
      let v := movStart q.d
      movFlag q.d 5 && q.req && (q.due || q.waitTime) && (v == t || (same && (v == t + 1 || v + 1 == t)))
    | none => false

/-- A timed start comes (R210). It slips where a lower channel of the unit starts in the same cycle, or where another channel of it stands stalled on a HOLD ring
(R211). Outside RUN and FALLBACK no slot fires, so the descriptor is late. -/
def timedStart (c : Fin 128) (same : Bool) (s : Dev) : Dev :=
  let x := s.movCh c
  match x.cur with
  | some r =>
    if r.waitTime ∧ movStart r.d ≤ s.time.cnt then
      if 2 ≤ s.airState then
        let slip := s.unitStalled (c / 16) || s.startBefore c (movStart r.d) same
        let s1 := (s.setMovCh c { x with cur := some { r with waitTime := false, slipped := slip } }).pace c
        let x1 := s1.movCh c
        (s1.setMovCh c { x1 with cur := x1.cur.map fun q => { q with due := q.req } }).movShow c
      else ((s.movUnmark r.d).movEnd c r 1).movNext c r.d 1
    else s
  | none => s

def execTimedStart (c : Fin 128) (slip : Bool) := act (timedStart c slip)

/-- The half event (R206). -/
def halfEvent (c : Fin 128) (s : Dev) : Dev :=
  let x := s.movCh c
  match x.cur with
  | some r =>
    if movFlag r.d 3 ∧ !r.halfDone ∧ max 1 (movLen r.d / 2) ≤ s.movDone r then
      (s.setMovCh c { x with cur := some { r with halfDone := true } }).postOpen 2 (movSq r.d)
    else s
  | none => s

def execHalfEvent (c : Fin 128) := act (halfEvent c)

/-- The end of a stop: the current descriptor and those flushed complete with status 2, and the channel is idle (R209). -/
def Dev.stopEnd (c : Nat) (flush : List (List Nat)) (s : Dev) : Dev :=
  let s1 := match (s.movCh c).cur with | some r => (s.movUnmark r.d).movEnd c r 2 | none => s
  let s2 := flush.foldl (fun s d => s.movEnd c { d := d } 2) s1
  let x := s2.movCh c
  ((s2.setMovCh c { queue := x.queue, held := x.held }).setB (R.MOV_CH_STAT_req c) false).movShow c
    |>.raiseOf Ev.MOV_STOPPED 8 c [(32, flush.length)]

/-- A descriptor whose words are done, and whose ring writes are not stalled, ends; where a stop waited for its burst, the stop ends (R209). -/
def descriptorComplete (c : Fin 128) (s : Dev) : Dev :=
  let x := s.movCh c
  match x.cur with
  | some r =>
    if s.movStalled r ≠ 0 then s
    else
      match x.stop with
      | some flush => s.stopEnd c flush
      | none =>
        if r.done = movLen r.d then
          let st := if r.era then 6 else if r.slipped then 8 else 0
          ((s.movUnmark r.d).movEnd c r st).movNext c r.d st
        else s
  | none => s

def execDescriptorComplete (c : Fin 128) := act (descriptorComplete c)

/-- A stop (R209). A burst that stands stalled on a HOLD ring completes first; what is queued now is flushed after it. -/
def channelStop (c : Fin 128) (s : Dev) : Dev :=
  let x := s.movCh c
  let flush := x.stop.getD [] ++ x.queue
  let s1 := s.setMovCh c { x with queue := x.held.take 16, held := x.held.drop 16, stop := some flush }
  match x.cur with
  | some r => if s.movStalled r ≠ 0 then s1.movShow c else s1.stopEnd c flush
  | none => s1.stopEnd c flush

def execChannelStop (c : Fin 128) := act (channelStop c)

/-- MOV_CH_CTL.clr. -/
def channelClear (c : Fin 128) (s : Dev) : Dev :=
  let s1 := (s.wr64 (R.MOV_BYTES c) 0).wr64 (R.MOV_DESC c) 0
  let s2 := [R.MOV_LATE c, R.MOV_BAD c, R.MOV_ERASED c, R.MOV_CNT_OVF c].foldl (fun s a => s.wr a 0) s1
  [R.MOV_CH_STAT_late c, R.MOV_CH_STAT_bad c, R.MOV_CH_STAT_erased c, R.MOV_CH_STAT_cnt_ovf c].foldl
    (fun s f => s.setB f false) s2

def execChannelClear (c : Fin 128) := act (channelClear c)

end Sys2Proof.Machine
end

