-- ==== Sys2Proof/Machine/Operands.lean ====
section
/-!
DEFINITION. The operand forms of the cores' instructions: immediates, and the 32-bit word of each format (Tables 12-2 to 12-5, 13-2,
13-3 and 14-2), which an exception records in EXC_INSN.
-/

namespace Sys2Proof.Machine

/-- A 16-bit immediate or offset, sign-extended to 64 bits (R292). -/
def sext16 (v : BitVec 16) : BitVec 64 := v.signExtend 64

/-- A 16-bit immediate, zero-extended. -/
def zext16 (v : BitVec 16) : BitVec 64 := v.zeroExtend 64

/-- A branch target: pc + 4 × sext(off16) (R292). -/
def branchTarget (pc : Nat) (off : BitVec 16) : BitVec 64 := BitVec.ofNat 64 pc + 4 * sext16 off

/-- Formats OP and VEC by their fields: major, [25:21], [20:16], [15:11], [10:0]. -/
def wordOp (major a b c low : Nat) : Nat := major * 2 ^ 26 + a * 2 ^ 21 + b * 2 ^ 16 + c * 2 ^ 11 + low

/-- Formats IMM, MEM and BR: major, [25:21], [20:16], 16-bit immediate or offset. -/
def wordImm (major a b : Nat) (v : BitVec 16) : Nat := major * 2 ^ 26 + a * 2 ^ 21 + b * 2 ^ 16 + v.toNat

/-- Format SYS (Table 12-5). -/
def wordSys (sub rd rs1 : Nat) (v : BitVec 12) : Nat := 0x28 * 2 ^ 26 + rd * 2 ^ 21 + rs1 * 2 ^ 16 + sub * 2 ^ 12 + v.toNat

/-- Formats VA, VM and VC (Table 13-2). -/
def wordVec (major fn : Nat) (f : VecFields) : Nat := wordOp major f.a f.b f.c (f.ty * 2 ^ 7 + f.pg * 2 ^ 4 + f.span * 2 ^ 2 + fn)

/-- Format VP: fn in [3:0], whose upper half the span field holds (Table 13-2). -/
def wordPred (fn : Nat) (f : VecFields) : Nat := wordOp 0x3A f.a f.b f.c (f.ty * 2 ^ 7 + f.pg * 2 ^ 4 + fn)

/-- Format COP (Table 14-2). -/
def wordCop (major : Nat) (f : CopFields) : Nat :=
  wordOp major f.rd f.rs1 f.rs2 (f.slot * 2 ^ 9 + (if f.keep then 256 else 0) + f.op.toNat)

end Sys2Proof.Machine
end

