-- ==== Sys2Proof/Machine/Scheduler.lean ====
section
/-!
DEFINITION. The hardware task scheduler (R339–R357): descriptors, events, activations, the delay list, dispatch, completion and
cancelling.
-/

namespace Sys2Proof.Machine

/-! ### Descriptors (Table 15-1) -/

def Dev.tdAddr (s : Dev) (d k : Nat) : Nat := storeBase + s.get R.TSK_DBASE_grain * 4096 + d * 32 + k * 4
def Dev.tdWord (s : Dev) (d k : Nat) : Nat := s.le (s.tdAddr d k) 4
def Dev.td (s : Dev) (d k lo w : Nat) : Nat := bits (s.tdWord d k) lo w
def Dev.setTd (d k lo w v : Nat) (s : Dev) : Dev := s.setLe (s.tdAddr d k) 4 (setBits (s.tdWord d k) lo w v)

def Dev.tdGen (s : Dev) (d : Nat) : Nat := s.td d 0 0 20
def Dev.tdEn (s : Dev) (d : Nat) : Bool := s.td d 0 23 1 == 1
/-- 0 OFF, 1 IDLE, 2 READY, 3 SLOTTED, 4 RUNNING, 5 FAULT. -/
def Dev.tdState (s : Dev) (d : Nat) : Nat := s.td d 0 24 3
def Dev.setTdState (d v : Nat) (s : Dev) : Dev := s.setTd d 0 24 3 v
def Dev.tdNeed (s : Dev) (d : Nat) : Nat := max 1 (s.td d 1 16 8)
def Dev.tdEvc (s : Dev) (d : Nat) : Nat := s.td d 7 0 16

/-- An S32 counter of the scheduler advanced (Table 15-7). -/
def Dev.tskCount (a : Nat) (s : Dev) : Dev :=
  let sat := s.rd a = 0xFFFFFFFE
  let s1 := s.incSat a ⟨R.TSK_CNT_OVF, (a - R.TSK_LATE) / 4, 1⟩ Ev.TSK_CNT_SAT [] 1
  if sat then s1.setB R.TSK_STAT_cnt_ovf true else s1

/-! ### Ready lists (R347, R348) -/

/-- `a` is dispatched before `b`: by priority, then deadline, then the order of becoming ready. -/
def Activation.before (a b : Activation) : Bool :=
  if a.pri ≠ b.pri then decide (b.pri < a.pri)
  else if a.dead = b.dead then decide (a.seq < b.seq)
  else match a.dead, b.dead with
    | some x, some y => decide (x < y)
    | some _, none => true
    | none, _ => false

def insertAct (a : Activation) : List Activation → List Activation
  | [] => [a]
  | b :: r => if a.before b then a :: b :: r else b :: insertAct a r

def Dev.clsHolds (s : Dev) (c : Nat) : Nat := (s.tsk.ready.filter (·.cls == c)).length

/-- The depth registers of a class and a priority, with their peaks. -/
def Dev.showReady (c p : Nat) (s : Dev) : Dev :=
  let n := s.clsHolds c
  let m := (s.tsk.ready.filter (·.pri == p)).length
  let s1 := (s.set R.TSK_DEPTH_ready s.tsk.ready.length).set (R.TSK_CLS_HELD_held c) n
  let s2 := s1.set (R.TSK_CLS_HELD_peak c) (max n (s1.get (R.TSK_CLS_HELD_peak c)))
  let s3 := s2.set (R.TSK_RDY_depth p) m
  s3.set (R.TSK_RDY_peak p) (max m (s3.get (R.TSK_RDY_peak p)))

def Dev.rsv (s : Dev) (c : Nat) : Nat := s.get (R.TSK_CLS_rsv c)
def Dev.rsvSum (s : Dev) : Nat := ((List.range 8).map s.rsv).sum

/-- An activation of class `c` may enter (R348). -/
def Dev.mayEnter (s : Dev) (c : Nat) : Bool :=
  decide (s.clsHolds c < s.rsv c) ||
    decide (((List.range 8).map fun k => s.clsHolds k - s.rsv k).sum < 16384 - s.rsvSum)

def Dev.enterReady (a : Activation) (s : Dev) : Dev :=
  ({ s with tsk := { s.tsk with ready := insertAct a s.tsk.ready } }).showReady a.cls a.pri

def Dev.counted (s : Dev) (d : Nat) : List (Nat × Nat) := tget [] s.tsk.counted d
def Dev.setCounted (d : Nat) (l : List (Nat × Nat)) (s : Dev) : Dev :=
  { s with tsk := { s.tsk with counted := tput [] s.tsk.counted d l } }

/-- One activation forms where the descriptor is IDLE, has its events, and its class has room (R341, R348). -/
def Dev.form (d : Nat) (s : Dev) : Dev :=
  let need := s.tdNeed d
  if s.tdState d ≠ 1 ∨ s.tdEvc d < need then s
  else
    let (pay, cls) := lget (0, 0) (s.counted d) (need - 1)
    if !s.mayEnter cls then { s with tsk := { s.tsk with starved := if s.tsk.starved.contains d then s.tsk.starved else s.tsk.starved ++ [d] } }
    else
      let s1 := (s.setTd d 7 0 16 (s.tdEvc d - need)).setCounted d ((s.counted d).drop need)
      let gen := (s1.tdGen d + 1) % 2 ^ 20
      let s2 := (s1.setTd d 0 0 20 gen).setTdState d 2
      let s3 := if s2.td d 0 27 1 = 1 then s2.setTd d 2 0 32 pay else s2
      let rel := s3.td d 3 0 32
      let a : Activation := ⟨d, gen, cls, s3.td d 0 20 3, s3.tsk.seq, s3.time.cnt, if rel = 0 then none else some (s3.time.cnt + rel)⟩
      let s4 : Dev := { s3 with tsk := { s3.tsk with seq := s3.tsk.seq + 1, starved := s3.tsk.starved.filter (· != d) } }
      (s4.inc64 R.TSK_ACT 1).enterReady a

/-- The descriptors that wait for room are tried again, in order. -/
def Dev.formStarved (s : Dev) : Dev := s.tsk.starved.foldl (fun s d => s.form d) s

/-- An activation leaves its ready list. -/
def Dev.leaveReady (a : Activation) (s : Dev) : Dev :=
  (({ s with tsk := { s.tsk with ready := s.tsk.ready.filter (·.seq != a.seq) } }).showReady a.cls a.pri).formStarved

/-! ### Completion (R351) -/

/-- The current activation of a descriptor completes with a status. -/
def Dev.complete (d st : Nat) (s : Dev) : Dev :=
  let v := if s.tdState d = 5 then 5 else if s.tdEn d then 1 else 0
  let s1 := (s.inc64 R.TSK_DONE 1).setTdState d v
  (s1.post 7 (s1.td d 5 0 16) (d + st * 2 ^ 16 + s1.tdGen d % 256 * 2 ^ 24)).form d

def Dev.slot (s : Dev) (g : Nat) : Option Activation := tget none s.tsk.slots g
def Dev.loaded (s : Dev) (g : Nat) : Option Activation := tget none s.tsk.loaded g

def Dev.setSlot (g : Nat) (a : Option Activation) (s : Dev) : Dev :=
  let s1 := ({ s with tsk := { s.tsk with slots := tput none s.tsk.slots g a } }).setB (R.TSK_ESTAT_slot g) a.isSome
  let s2 := s1.setB (R.CSR_TK_STAT_slot g) a.isSome
  match a with | some x => s2.set (R.TSK_ESTAT_idx g) x.desc | none => s2

def Dev.setLoaded (g : Nat) (a : Option Activation) (s : Dev) : Dev :=
  ({ s with tsk := { s.tsk with loaded := tput none s.tsk.loaded g a } }).setB (R.TSK_ESTAT_run g) a.isSome

def Dev.slotOf (s : Dev) (d : Nat) : Option Nat := (List.range 192).find? fun g => match s.slot g with | some a => a.desc == d | none => false
def Dev.engineOf (s : Dev) (d : Nat) : Option Nat := (List.range 192).find? fun g => match s.loaded g with | some a => a.desc == d | none => false

/-- The current activation of a descriptor withdrawn from its list, its slot or its engine. -/
def Dev.withdraw (d : Nat) (s : Dev) : Dev :=
  match s.tsk.ready.find? (·.desc == d) with
  | some a => s.leaveReady a
  | none =>
    match s.slotOf d, s.engineOf d with
    | some g, _ => s.setSlot g none
    | none, some g => s.setLoaded g none
    | none, none => s

/-- The line of a descriptor is poisoned, so that a read of it returns PERR (R168, R354). -/
def Dev.tdBad (s : Dev) (d : Nat) : Bool := s.poisoned (s.tdAddr d 0 - storeBase)

/-- A descriptor that reads PERR (R354). -/
def Dev.descPerr (d : Nat) (s : Dev) : Dev :=
  let line := (s.tdAddr d 0 - storeBase) / 64
  let busy := s.tdState d = 2 ∨ s.tdState d = 3 ∨ s.tdState d = 4
  let s1 := ((s.storedError line (d % 2 * 4)).2.tskCount R.TSK_PERR).setB R.TSK_STAT_perr true |>.raise Ev.TSK_DESC_PERR [(16, d)]
  let s2 := (s1.setTdState d 5).trigger 4 4 (s.lineRingNo line)
  if busy then (s2.withdraw d).complete d 0xF3 else s2

/-- The ready-list entry at place `i` reads PERR and is lost (R354). -/
def Dev.listPerr (i : Option (Fin 16384)) (s : Dev) : Dev :=
  match i with
  | none => s
  | some i =>
    match s.tsk.ready[(i : Nat)]? with
    | none => s
    | some a =>
      let s1 := ((s.leaveReady a).tskCount R.TSK_PERR).setB R.TSK_STAT_perr true |>.raise Ev.TSK_LIST_PERR [(16, a.desc)]
      s1.complete a.desc 0xF3

/-! ### Events (R340) -/

def Dev.popInput (cls : Nat) (s : Dev) : Dev :=
  { s with tsk := { s.tsk with inputs := tput [] s.tsk.inputs cls ((s.input cls).drop 1) } }

def eventAccept (cls : Fin 8) (perr : Bool) (lost : Option (Fin 16384)) (s : Dev) : Dev :=
  match s.input cls with
  | [] => s
  | e :: _ =>
    let d := e.desc
    let s1 := if (perr || s.tdBad d) && s.tdState d != 5 then s.descPerr d else s.listPerr lost
    if !s1.tdEn d || s1.tdState d == 5 then (s1.popInput cls).tskCount R.TSK_BAD
    else if s1.tdEvc d = 65535 then
      ((s1.popInput cls).tskCount R.TSK_EV_DROP).stick R.TSK_STAT_ev_drop fun s => s.raise Ev.TSK_EV_DROP [(16, d)]
    else if s1.tdState d = 1 ∧ s1.tdEvc d + 1 = s1.tdNeed d ∧ !s1.mayEnter cls then s1
    else
      let s2 := ((s1.popInput cls).setTd d 7 0 16 (s1.tdEvc d + 1)).setCounted d (s1.counted d ++ [(e.payload, (cls : Nat))])
      let s3 := s2.inc64 R.TSK_EVN 1
      let ring := s3.td d 5 16 12
      let s4 := if ring = 0xFFF then s3 else s3.record ring [e.payload + (cls : Nat) * 2 ^ 32, s3.time.cnt]
      s4.form d

def execEventAccept (cls : Fin 8) (perr : Bool) (lost : Option (Fin 16384)) := act (eventAccept cls perr lost)

/-! ### Ports (R344) -/

/-- Class 5's input is full. -/
def Dev.portsFull (s : Dev) : Bool := decide (32 ≤ (s.input 5).length)

/-- An event put into an input, whatever its descriptor. -/
def Dev.putInput (cls : Nat) (e : TskEvent) (s : Dev) : Dev :=
  { s with tsk := { s.tsk with inputs := tput [] s.tsk.inputs cls (s.input cls ++ [e]) } }

/-- A writer stalls at a full port (R290): the core holds its store and shows QSTALL. -/
def Dev.stallStore (g addr size v : Nat) (insn : Bool) (s : Dev) : Dev :=
  (s.setCore g { s.core g with wait := .store addr size v insn }).setCoreState g 6

/-- A write of EV_HI: the event goes to the input of class 5. -/
def Dev.portEvent (g v : Nat) (s : Dev) : Dev := s.putInput 5 { desc := v % 2 ^ 16, payload := s.rd (R.EV_LO g) }

def eventPost (g : Fin 193) (v : Word) (s : Dev) : Dev :=
  if s.portsFull then s.stallStore g (R.EV_HI g) 4 v.toNat false else s.portEvent g v.toNat

def execEventPost (g : Fin 193) (v : Word) := act (eventPost g v)

/-! ### Delay list (R345, R346) -/

def insertDelay (e : DelayEntry) : List DelayEntry → List DelayEntry
  | [] => [e]
  | b :: r => if e.tick < b.tick then e :: b :: r else b :: insertDelay e r

def Dev.setDelay (l : List DelayEntry) (s : Dev) : Dev :=
  ({ s with tsk := { s.tsk with delay := l } }).set R.TSK_DEPTH_delay l.length

/-- The first tick boundary at or after an air count, or the next one where the count has passed. -/
def Dev.releaseTick (s : Dev) (t : Nat) : Nat :=
  if s.time.cnt < t then (t + tickTc - 1) / tickTc else s.time.cnt / tickTc + 1

def Dev.delayFull (s : Dev) : Bool := decide (8192 ≤ s.tsk.delay.length)

/-- A write of TE_T_HI: the entry goes into the delay list. -/
def Dev.portTimed (g v : Nat) (s : Dev) : Dev :=
  s.setDelay (insertDelay ⟨s.releaseTick (s.rd (R.TE_T_LO g) + v % 2 ^ 32 * 2 ^ 32), s.get (R.TE_DESC_desc g), s.rd (R.TE_PAY g),
    s.flag (R.TE_DESC_periodic g), false⟩ s.tsk.delay)

def timedEventEnter (g : Fin 193) (v : Word) (s : Dev) : Dev :=
  if s.delayFull then s.stallStore g (R.TE_T_HI g) 4 v.toNat false else s.portTimed g v.toNat

def execTimedEventEnter (g : Fin 193) (v : Word) := act (timedEventEnter g v)

/-- The first entry that is due is released into the input of class 6, or waits there; in FREE no release fires (R34). -/
def delayRelease (s : Dev) : Dev :=
  match s.tsk.delay with
  | [] => s
  | e :: r =>
    if s.airState = 0 ∨ s.time.cnt < e.tick * tickTc then s
    else if 32 ≤ (s.input 6).length then
      if e.slip then s
      else ((s.setDelay ({ e with slip := true } :: r)).setB R.TSK_STAT_slip true).tskCount R.TSK_SLIP
    else
      let s1 := (s.setDelay r).putInput 6 { desc := e.desc, payload := e.payload }
      if !e.periodic then s1
      else if !s1.tdEn e.desc || s1.td e.desc 6 0 24 == 0 then s1.tskCount R.TSK_BAD
      else s1.setDelay (insertDelay { e with tick := e.tick + s1.td e.desc 6 0 24, slip := false } r)

def execDelayRelease := act delayRelease

/-! ### Cancelling (R353) -/

/-- The current activation of a descriptor cancelled. -/
def Dev.cancel (d : Nat) (s : Dev) : Dev :=
  let s1 := s.inc64 R.TSK_CAN 1
  if s.tdState d = 4 then
    match s1.engineOf d with
    | some g => s1.setB (R.CSR_TK_STAT_cancel g) true
    | none => s1
  else (s1.withdraw d).complete d 0xF0

/-- A write of CAN_HI. -/
def Dev.portCancel (g v : Nat) (s : Dev) : Dev :=
  let d := s.get (R.CAN_LO_idx g)
  if s.tdGen d = v % 2 ^ 20 ∧ (s.tdState d = 2 ∨ s.tdState d = 3 ∨ s.tdState d = 4) then s.cancel d else s.tskCount R.TSK_CAN_STALE

def execTaskCancel (g : Fin 193) (v : Word) := act (Dev.portCancel g v.toNat)

/-! ### Dispatch (R349, R350) -/

/-- An engine is eligible (R349). -/
def Dev.eligible (s : Dev) (g : Nat) : Bool :=
  (s.rd R.PWR_DOM_LO).testBit (g / 8) && (s.coreState g == 1 || s.coreState g == 2) && s.flag R.TSK_CTL_en

def Dev.countLate (a : Activation) (s : Dev) : Dev :=
  (s.tskCount R.TSK_LATE).stick R.TSK_STAT_late fun s => s.raise Ev.TSK_LATE [(16, a.desc), (20, a.gen)]

def Activation.overdue (a : Activation) (now : Nat) : Bool := match a.dead with | some t => decide (t < now) | none => false

def Dev.ddrop (s : Dev) (d : Nat) : Bool := s.td d 0 28 1 == 1

/-- A ddrop activation whose deadline has passed is removed (R350). -/
def Dev.dropLate (a : Activation) (s : Dev) : Dev := ((s.leaveReady a).countLate a).complete a.desc 0xF1

/-- The activation that goes to an engine of pod `p`: ddrop activations past their deadline are removed on the way. -/
def Dev.pick (p : Nat) (l : List Activation) (s : Dev) : Option Activation × Dev :=
  match l with
  | [] => (none, s)
  | a :: r =>
    if !(s.td a.desc 4 0 24).testBit p then s.pick p r
    else if s.ddrop a.desc && a.overdue s.time.cnt then (s.dropLate a).pick p r
    else (some a, s)

/-- An activation filled into an engine's slot. -/
def Dev.fill (g : Nat) (a : Activation) (s : Dev) : Dev :=
  let wait := s.time.cnt - a.ready
  let s1 := ((s.leaveReady a).setSlot g (some a)).setTdState a.desc 3
  let s2 := (s1.inc64 (R.TSK_DISP g) 1).inc64 (R.TSK_HIST a.pri (min 31 (wait / 2 ^ s1.get R.TSK_CTL_hist_w))) 1
  let s3 := if a.overdue s2.time.cnt then s2.countLate a else s2
  { s3 with tsk := { s3.tsk with lastFill := g } }

/-- Up to `n` empty slots of the engines in `l` filled. -/
def Dev.fillSlots (n : Nat) (l : List Nat) (s : Dev) : Dev :=
  match n, l with
  | 0, _ => s
  | _, [] => s
  | n + 1, g :: r =>
    if !s.eligible g || (s.slot g).isSome then s.fillSlots (n + 1) r
    else
      match s.pick (g / 8) s.tsk.ready with
      | (some a, s1) => (s1.fill g a).fillSlots n r
      | (none, s1) => s1.fillSlots (n + 1) r

def slotFill (perr : Bool) (lost : Option (Fin 16384)) (s : Dev) : Dev :=
  let s1 := match s.tsk.ready with
    | a :: _ => if perr || s.tdBad a.desc then s.descPerr a.desc else s.listPerr lost
    | [] => s
  s1.fillSlots 4 ((List.range 192).map fun i => (s1.tsk.lastFill + 1 + i) % 192)

def execSlotFill (perr : Bool) (lost : Option (Fin 16384)) := act (slotFill perr lost)

/-- At a tick boundary: every ddrop activation past its deadline goes. -/
def deadlineDrop (s : Dev) : Dev :=
  (s.tsk.ready.filter fun a => s.ddrop a.desc && a.overdue s.time.cnt).foldl (fun s a => s.dropLate a) s

def execDeadlineDrop := act deadlineDrop

/-! ### Engines that leave service (R352) -/

def Dev.engineLost (g : Nat) (s : Dev) : Dev :=
  let s1 := match s.slot g with
    | some a => ((s.setSlot g none).setTdState a.desc 2).enterReady a
    | none => s
  match s1.loaded g with
  | some a =>
    let s2 := ((s1.setLoaded g none).tskCount R.TSK_ENG_LOST).setB R.TSK_STAT_eng_lost true
    ((s2.raiseOf Ev.TSK_ENG_LOST 8 g [(16, a.desc), (20, a.gen)]).complete a.desc 0xF2).rollFault (g / 8)
  | none => s1

/-- A task ends with the status its TEND gives (R351); its completion names its engine. -/
def Dev.taskEnd (g st : Nat) (s : Dev) : Dev :=
  match s.loaded g with
  | none => s
  | some a =>
    let s1 := if 0xF0 ≤ st % 256 then s.tskCount R.TSK_BAD else s
    let s2 := (s1.setLoaded g none).complete a.desc (min (st % 256) 0xEF)
    let q := s2.input 7
    if (s1.input 7).length < q.length then
      { s2 with tsk := { s2.tsk with inputs := tput [] s2.tsk.inputs 7 (q.dropLast ++ (q.getLast?.map fun e => { e with engine := g }).toList) } }
    else s2

/-- The engine's last completion still waits for room in class 7's input (Table 15-4). -/
def Dev.completionWaits (s : Dev) (g : Nat) : Bool := ((s.input 7).drop 32).any (·.engine == g)

/-! ### Registers -/

/-- The bits of each descriptor word that Laruri writes: every field but RO ones and reserved bits. -/
def tdMask (k : Nat) : Nat := lget 0 [0x18F00000, 0x00FFFFFF, 0xFFFFFFFF, 0xFFFFFFFF, 0x00FFFFFF, 0x0FFFFFFF, 0x00FFFFFF, 0] k

/-- A write through the window (R339): with en = 1 only en can change, and clearing it cancels (R353). Word 0 is written in the fields that the value
changes; a write of words 1 to 6 writes their fields; word 7 has none to write (log 135). -/
def descriptorWindowWrite (d : BitVec 16) (k : Fin 8) (v : Word) (s : Dev) : Dev :=
  let i := d.toNat
  let old := s.tdWord i k
  let m := tdMask k
  let new := Nat.lor (old - Nat.land old m) (Nat.land v.toNat m)
  if !s.tdEn i then
    let s1 := s.setLe (s.tdAddr i k) 4 new
    if (k : Nat) = 0 ∧ bit new 23 ∧ (s1.tdState i = 0 ∨ s1.tdState i = 5) then s1.setTdState i 1 else s1
  else
    let enBit := if (k : Nat) = 0 then 2 ^ 23 else 0
    let other := Nat.xor old new - Nat.land (Nat.xor old new) enBit
    let s1 := if (other = 0 ∧ (k : Nat) = 0) ∨ (k : Nat) = 7 then s
      else (s.setB R.TSK_STAT_cfg_bad true).raise Ev.TSK_CFG_BAD [(16, i), (3, (k : Nat))]
    if (k : Nat) = 0 ∧ !bit new 23 then
      let st := s1.tdState i
      let s2 := s1.setTd i 0 23 1 0
      let s3 := if st = 2 ∨ st = 3 ∨ st = 4 then s2.cancel i else s2
      let s4 := (s3.setTd i 7 0 16 0).setCounted i []
      let s5 : Dev := { s4 with tsk := { s4.tsk with starved := s4.tsk.starved.filter (· != i) } }
      if st = 4 then s5 else s5.setTdState i 0
    else s1

def execDescriptorWindowWrite (d : BitVec 16) (k : Fin 8) (v : Word) := act (descriptorWindowWrite d k v)

/-- A write of TSK_CLS.rsv (R348). -/
def reserveWrite (c : Fin 8) (v : Word) (s : Dev) : Dev :=
  let n := v.toNat % 2 ^ 15
  if 16384 < s.rsvSum - s.rsv c + n then
    (s.setB R.TSK_STAT_rsv_bad true).raise Ev.TSK_RSV_BAD [(4, (c : Nat)), (32, n)]
  else (s.set (R.TSK_CLS_rsv c) n).formStarved

def execReserveWrite (c : Fin 8) (v : Word) := act (reserveWrite c v)

/-- Every waiting-time histogram zeroed (R356). -/
def histClear (s : Dev) : Dev := (List.range 256).foldl (fun s i => s.wr64 (R.TSK_HIST (i / 32) (i % 32)) 0) s

def execHistClear := act histClear

/-- Every peak at its current value (R356). -/
def tskPeakClear (s : Dev) : Dev :=
  let s1 := (List.range 8).foldl (fun s c => (s.set (R.TSK_CLS_HELD_peak c) (s.get (R.TSK_CLS_HELD_held c))).set (R.TSK_RDY_peak c)
    (s.get (R.TSK_RDY_depth c))) s
  (List.range 192).foldl (fun s g => s.set (R.TSK_LOAD_peak g) (s.get (R.TSK_LOAD_load g))) s1

def execTskPeakClear := act tskPeakClear

/-- At a frame end each engine's busy fraction is shown; a whole frame at T shows 65,535. -/
def execLoadUpdate := act fun s =>
  (List.range 192).foldl (fun s g =>
    let s1 := s.coreSync g
    let e := s1.core g
    let load := min 65535 (e.frame * 65536 / (s1.coreClock g * 1600))
    let s2 := (s1.setCore g { e with frame := 0 }).set (R.TSK_LOAD_load g) load
    s2.set (R.TSK_LOAD_peak g) (max load (s2.get (R.TSK_LOAD_peak g)))) s

end Sys2Proof.Machine
end

