-- ==== Sys2Proof/Machine/Traps.lean ====
section
/-!
DEFINITION. Exceptions, interrupts and their entry and return on the cores (R294–R297), the protection unit (R289), the address map
(Table 12-1, Table 18-1), and the frame that every instruction runs in.
-/

namespace Sys2Proof.Machine

/-! ### Coprocessor tags, as CP_INUSE, CP_DONE and POD_CPSTAT show them (Tables 14-10, 14-11) -/

def Dev.cops (s : Dev) (g : Nat) : List CopCmd := (s.core g).cops

/-- The tags of a slot among these commands, as a mask. -/
def tagMask (l : List CopCmd) (slot : Nat) : Nat := ((List.range 16).filter fun t => l.any fun c => c.slot == slot && c.tag == t).foldl (fun n t => n + 2 ^ t) 0

/-- The device with a core's commands replaced, and the registers that show them. -/
def Dev.setCops (g : Nat) (l : List CopCmd) (s : Dev) : Dev :=
  let ready := l.filter fun c => c.done && c.keep
  let s1 := s.setCore g { s.core g with cops := l }
  let s2 := ((s1.set (R.CSR_CP_INUSE_s0 g) (tagMask l 0)).set (R.CSR_CP_INUSE_s1 g) (tagMask l 1)).set (R.CSR_CP_INUSE2_s2 g) (tagMask l 2)
  let s3 := ((s2.set (R.CSR_CP_DONE_s0 g) (tagMask ready 0)).set (R.CSR_CP_DONE_s1 g) (tagMask ready 1)).set (R.CSR_CP_DONE2_s2 g) (tagMask ready 2)
  ((s3.set (R.POD_CPSTAT_used0 g) (popBits 16 (tagMask l 0))).set (R.POD_CPSTAT_used1 g) (popBits 16 (tagMask l 1))).set
    (R.POD_CPSTAT_used2 g) (popBits 16 (tagMask l 2))

/-- The writes of a command reach data memory (R329). -/
def Dev.copWrites (g : Nat) (w : List (Nat × Nat)) (s : Dev) : Dev := w.foldl (fun s e => s.setByte (ownBase g + 0x10000 + e.1) e.2) s

/-- CONFIRM: the oldest unretired CPI retires: its tag goes to s[rd], pc moves past it (R329). -/
def Dev.copConfirm (g : Nat) (s : Dev) : Dev :=
  match (s.cops g).find? (fun c => !c.confirmed && !c.squashed) with
  | none => s
  | some c =>
    let s1 := s.setCops g ((s.cops g).map fun x => if x = c then { x with confirmed := true } else x)
    ((s1.setX g c.rd (BitVec.ofNat 64 c.tag)).setPc g (s1.pc g + 4)).inc64 (R.CSR_INSTRET_LO g) 1

/-- SQUASH of every unretired CPI (R330). -/
def Dev.copSquash (g : Nat) (s : Dev) : Dev :=
  let l := s.cops g
  let n := (l.filter fun c => !c.confirmed && !c.squashed).length
  if n = 0 then s
  else
    (s.setCops g (l.map fun c => if c.confirmed then c else { c with squashed := true, writes := [], result := none })).inc64 (R.POD_CPSQ g) n

/-! ### Exceptions -/

/-- An exception: its code (Tables 12-6, 13-5, 14-3) and the parts that apply. -/
structure Exc where
  code : Nat
  addr : Option Nat := none
  elem : Option Nat := none
  insn : Option Nat := none
deriving DecidableEq, Repr

/-- The codes that POD_EEXC counts (Table 12-9). -/
def excCounted (c : Nat) : Bool := decide (c ≤ 5) || c == 0x0A || c == 0x0C || c == 0x0D || (decide (0x10 ≤ c) && decide (c ≤ 0x1F))

/-- EXC_ADDR, EXC_ADDRH, EXC_ELEM and EXC_INSN: only the ones that apply change (R295). -/
def Dev.excRegs (g : Nat) (x : Exc) (s : Dev) : Dev :=
  let s1 := match x.addr with
    | some a => (s.set (R.CSR_EXC_ADDR_addr g) (a % 2 ^ 32)).set (R.CSR_EXC_ADDRH_addr g) (a / 2 ^ 32 % 256)
    | none => s
  let s2 := match x.elem with | some e => s1.set (R.CSR_EXC_ELEM_elem g) e | none => s1
  match x.insn with | some w => s2.set (R.CSR_EXC_INSN_insn g) w | none => s2

/-- Trap entry to S or M: cause, return address, the stacked level and enable, the new level and pc (R295). -/
def Dev.enterTrap (g : Nat) (toM : Bool) (cause : Nat) (s : Dev) : Dev :=
  let l := s.lvl g
  if toM then
    let s1 := (s.wr (R.CSR_CAUSE_M g) cause).set (R.CSR_EPC_M_pc g) (s.pc g)
    let s2 := ((s1.set (R.CSR_STATUS_mpl g) l).set (R.CSR_STATUS_mpie g) (s.get (R.CSR_STATUS_mie g))).set (R.CSR_STATUS_mie g) 0
    ((s2.set (R.CSR_STATUS_mtrap g) 1).setLvl g 2).setPc g (s.get (R.CSR_TVEC_M_pc g))
  else
    let s1 := (s.wr (R.CSR_CAUSE_S g) cause).set (R.CSR_EPC_S_pc g) (s.pc g)
    let s2 := ((s1.set (R.CSR_STATUS_spl g) l).set (R.CSR_STATUS_spie g) (s.get (R.CSR_STATUS_sie g))).set (R.CSR_STATUS_sie g) 0
    (s2.setLvl g 1).setPc g (s.get (R.CSR_TVEC_S_pc g))

/-- A core stops in a state, its task and slot lost to the scheduler (R352), pc shown in POD_EPC. -/
def Dev.stopCore (g st : Nat) (s : Dev) : Dev :=
  let s1 := (s.setCore g { s.core g with wait := .none, haltReq := false }).setCoreState g st
  if g < 192 then (s1.set (R.POD_EPC_pc g) (s.pc g)).engineLost g else s1

/-- A fault of an engine of a pod: the planner is triggered (Table 16-4). -/
def Dev.podFault (g : Nat) (s : Dev) : Dev := if g < 192 then (s.rollFault (g / 8)).trigger 1 0 (g / 8) else s

/-- Taking an exception (R295). -/
def Dev.trap (g : Nat) (x : Exc) (s : Dev) : Dev :=
  let s1 := s.set ⟨estat g, 5, 6⟩ x.code
  let s2 := if g < 192 ∧ excCounted x.code then s1.podCount (R.POD_EEXC g) ⟨R.POD_ECNT_OVF g, 0, 1⟩ (R.POD_ESTAT_cnt_ovf g) g else s1
  let s3 := s2.excRegs g x
  let l := s.lvl g
  if l = 2 ∧ s.flag (R.CSR_STATUS_mtrap g) then
    ((s3.setB ⟨estat g, 11, 1⟩ true).raiseOf Ev.POD_DFAULT 8 g [(6, x.code), (16, s.pc g)]).stopCore g 4 |>.podFault g
  else s3.enterTrap g (l ≠ 0) x.code

/-! ### The protection unit (R289) -/

/-- The first enabled region that holds all `n` bytes from `a`. -/
def Dev.mpuRegion (s : Dev) (g a n : Nat) : Option Nat :=
  (List.range 8).find? fun i =>
    let sz := s.get (R.CSR_MPU_CFG_size g i)
    let b := s.get (R.CSR_MPU_BASE_base g i) * 256
    s.flag (R.CSR_MPU_CFG_en g i) && decide (6 ≤ sz) && decide (sz ≤ 40) && a / 2 ^ sz == b / 2 ^ sz && (a + n - 1) / 2 ^ sz == b / 2 ^ sz

/-- An access is let through: always at M, else by the region's permission bits, read 0, write 1, execute 2. -/
def Dev.mpuOk (s : Dev) (g a n : Nat) (kinds : List Nat) : Bool :=
  let l := s.lvl g
  if l = 2 then true
  else
    match s.mpuRegion g a n with
    | some i => kinds.all fun k => (s.get (R.CSR_MPU_CFG_perm g i)).testBit (3 * l + k)
    | none => false

/-! ### The address map (Table 12-1, Table 18-1) -/

/-- Where an address lies, as a core sees it. -/
inductive Place where
  | imem | dmem | pool | table | sys | port | portStat | otherPort | lmem | rom | engMem | ctl | none
deriving DecidableEq, Repr

/-- The queue ports and ring ports of an engine (R21): MOV_Q, FEX_CQ, SCA_JQ, COD_JQ, ETH_TXQ_DB, its own TSK port, ring ports. -/
def portPlace (g a : Nat) : Place :=
  let inArr (base stride n off len : Nat) : Bool := decide (base ≤ a) && decide ((a - base) / stride < n) &&
    decide (off ≤ (a - base) % stride) && decide ((a - base) % stride < off + len)
  if inArr 0x307000000 0x100 128 0x40 0x40 || inArr 0x308010000 0x10000 17 0x100 0x20 || inArr 0x309001000 0x40 32 0 0x40 ||
      inArr 0x30A001000 0x40 32 0 0x40 || inArr 0x305003800 4 256 0 4 then .port
  else if inArr 0x30C100000 0x40 193 0 0x20 then if (a - 0x30C100000) / 0x40 = g then .port else .otherPort
  else if inArr 0x306100000 0x20 4096 0 0x18 then if a % 0x20 < 4 ∨ 0x14 ≤ a % 0x20 then .portStat else .port
  else .none

/-- The first grain of the table region as a core knows it: an engine by its pod's copy of STO_SYSLIM (R178, R286). -/
def Dev.coreTable (s : Dev) (g : Nat) : Nat := if g < 192 then (if s.eng.lim = 0 then 16384 else s.eng.lim) else s.tableStart

/-- The place of an address. -/
def Dev.place (s : Dev) (g a : Nat) : Place :=
  let store : Place :=
    if a < storeBase + 0x50000 then .sys
    else if a < storeBase + s.coreTable g * 4096 then .pool
    else if a < storeBase + 0x4000000 then .table
    else .none
  if g < 192 then
    if a < 0x10000 then .imem
    else if a < 0x20000 then .dmem
    else if a < storeBase then .none
    else if a < 0x200000000 then store
    else portPlace g a
  else
    if a < 0x200000 then .lmem
    else if a < 0x210000 then .rom
    else if a < storeBase then .none
    else if a < 0x200000000 then store
    else if a < 0x200000000 + 24 * 0x100000 then .engMem
    else if a < 0x300000000 then .none
    else if a < 0x311000000 then .ctl
    else .none

/-- A fetch may reach this address (R286, R288). -/
def Dev.fetchOk (s : Dev) (g a : Nat) : Bool :=
  a % 4 == 0 && (match s.place g a with | .imem => true | .lmem => true | .rom => s.lvl g == 2 | _ => false) && s.mpuOk g a 4 [2]

/-- A load of `n` bytes may reach this address. -/
def Dev.loadOk (s : Dev) (g a n : Nat) : Bool :=
  (match s.place g a with
    | .imem => s.lvl g == 2 | .dmem => true | .pool => true | .table => true | .sys => true | .portStat => true
    | .lmem => true | .rom => s.lvl g == 2 | .engMem => true | .ctl => true | _ => false) && s.mpuOk g a n [0]

/-- A store of `n` bytes may reach this address. -/
def Dev.storeOk (s : Dev) (g a n : Nat) : Bool :=
  (match s.place g a with
    | .imem => s.lvl g == 2 && decide (4 ≤ n) | .dmem => true | .pool => n == 8 | .port => decide (4 ≤ n) | .portStat => decide (4 ≤ n)
    | .lmem => true | .engMem => true | .ctl => true | .table => decide (192 ≤ g) && n == 8 | .sys => decide (192 ≤ g) && n == 8 | _ => false) &&
    s.mpuOk g a n [1]

/-- An AMO may reach this address. -/
def Dev.amoOk (s : Dev) (g a : Nat) : Bool :=
  (match s.place g a with
    | .dmem => true | .pool => true | .lmem => true | .engMem => true | .table => decide (192 ≤ g) | .sys => decide (192 ≤ g) | _ => false) &&
    s.mpuOk g a 8 [0, 1]

/-! ### Running an instruction -/

/-- pc moves past the instruction, which retires. -/
def Dev.retire (g : Nat) (s : Dev) : Dev := (s.setPc g (s.pc g + 4)).inc64 (R.CSR_INSTRET_LO g) 1

/-- The instruction retires with pc at a target (R292); a target outside the memory that instructions come from, or not a multiple of 4,
raises FETCH_FAULT and leaves `s0`. -/
def Dev.jump (g w : Nat) (t : BitVec 64) (s0 s : Dev) : Dev :=
  let a := t.toNat
  let fits := if g < 192 then decide (a < 0x10000) else decide (a < 0x210000)
  if fits && a % 4 == 0 then (s.setPc g a).inc64 (R.CSR_INSTRET_LO g) 1
  else s0.trap g { code := 0, addr := some a, insn := some w }

/-- ILLEGAL (R291). -/
def Dev.illegal (g w : Nat) (s : Dev) : Dev := s.trap g { code := 1, insn := some w }

/-- An instruction issued by a core in RUN that waits for nothing: an older CPI retires, the word is fetched under R286, R289 and R302,
and its effect follows. A core in any other state issues nothing. -/
def Dev.issue (i : Issue) (f : Dev → Dev) (s : Dev) : Dev :=
  let g : Nat := i.core
  if s.coreState g ≠ 1 ∨ (s.core g).wait ≠ .none then s
  else
    let s1 := (s.coreSync g).copConfirm g
    let pc := s1.pc g
    if !s1.fetchOk g pc then s1.trap g { code := 0, addr := some pc }
    else if 192 ≤ g then f s1
    else
      let s2 := s1.podReplays g 0 (min (i.fails : Nat) 2)
      if (i.fails : Nat) < 3 then f s2
      else ((s2.setB (R.POD_ESTAT_fault g) true).raiseOf Ev.POD_IMEM_PERR 8 g [(40, pc)]).stopCore g 5 |>.podFault g

end Sys2Proof.Machine
end

