-- ==== Sys2Proof/Machine/Ports.lean ====
section
/-!
DEFINITION. The queue ports and ring ports as words that a core or Laruri writes (R21, R179, R196, R228, R248, R262, R344).
-/

namespace Sys2Proof.Machine

/-- A write of this word would find its port's queue full. -/
def Dev.portFull (s : Dev) (a : Nat) : Bool :=
  if 0x307000000 ≤ a ∧ a < 0x307008000 ∧ a % 0x100 = 0x7C then
    let c := (a - 0x307000000) / 0x100
    s.flag (R.MOV_CH_CFG_en c) && decide (16 ≤ (s.movCh c).queue.length)
  else if 0x308010000 ≤ a ∧ a < 0x308120000 ∧ a % 0x10000 = 0x11C then decide (64 ≤ (s.fcl ((a - 0x308010000) / 0x10000)).queue.length)
  else if 0x309001000 ≤ a ∧ a < 0x309001800 ∧ a % 0x40 = 0x3C then
    let h := (a - 0x309001000) / 0x40
    s.hOn h && decide (32 ≤ (s.harness h).queue.length)
  else if 0x30A001000 ≤ a ∧ a < 0x30A001800 ∧ a % 0x40 = 0x3C then
    let q := (a - 0x30A001000) / 0x40
    s.flag (R.COD_QCFG2_en q) && s.domOn 46 && decide (64 ≤ (s.cq q).jobs.length)
  else if 0x30C100000 ≤ a ∧ a < 0x30C103040 ∧ a % 0x40 = 4 then s.portsFull
  else if 0x30C100000 ≤ a ∧ a < 0x30C103040 ∧ a % 0x40 = 0x14 then s.delayFull
  else false

/-- The index of an array of ports as a Fin. -/
def portIdx (n : Nat) (h : 0 < n) (i : Nat) : Fin n := ⟨i % n, Nat.mod_lt i h⟩

/-- One word written to a port; the last word of a descriptor, job, command or request posts it. -/
def Dev.portWrite (a v : Nat) (s : Dev) : Dev :=
  let w := BitVec.ofNat 32 v
  if 0x307000000 ≤ a ∧ a < 0x307008000 then
    let c := (a - 0x307000000) / 0x100
    if a % 0x100 = 0x7C then descriptorPost (portIdx 128 (by decide) c) w s
    else if s.flag (R.MOV_CH_CFG_en c) then s.wr a v else s.movCount c (R.MOV_BAD c)
  else if 0x308010000 ≤ a ∧ a < 0x308120000 then
    if a % 0x10000 = 0x11C then fexCommandPost (portIdx 17 (by decide) ((a - 0x308010000) / 0x10000)) w s else s.wr a v
  else if 0x309001000 ≤ a ∧ a < 0x309001800 then
    if a % 0x40 = 0x3C then scaJobPost (portIdx 32 (by decide) ((a - 0x309001000) / 0x40)) w s else s.wr a v
  else if 0x30A001000 ≤ a ∧ a < 0x30A001800 then
    if a % 0x40 = 0x3C then codJobPost (portIdx 32 (by decide) ((a - 0x30A001000) / 0x40)) w s else s.wr a v
  else if 0x305003800 ≤ a ∧ a < 0x305003C00 then txqDoorbell (portIdx 256 (by decide) ((a - 0x305003800) / 4)) (BitVec.ofNat 16 v) s
  else if 0x30C100000 ≤ a ∧ a < 0x30C103040 then
    let g := (a - 0x30C100000) / 0x40
    match a % 0x40 with
    | 0x00 => s.wr a v
    | 0x04 => s.portEvent g v
    | 0x08 => s.wr a v
    | 0x0C => s.wr a (v % 2 ^ 17)
    | 0x10 => s.wr a v
    | 0x14 => s.portTimed g v
    | 0x18 => s.wr a (v % 2 ^ 16)
    | 0x1C => s.portCancel g v
    | _ => s
  else if 0x306100000 ≤ a ∧ a < 0x306120000 then
    let k := portIdx 4096 (by decide) ((a - 0x306100000) / 0x20)
    let j := portIdx 2 (by decide) v
    match a % 0x20 with
    | 0x04 => mark k j s
    | 0x08 => unmark k j s
    | 0x0C => rewind k j s
    | 0x10 => rpAdv k j (BitVec.ofNat 19 (v / 2)) s
    | 0x14 => s.set (R.RP_STAT_rep k) (Nat.land (s.get (R.RP_STAT_rep k)) (3 - bits v 8 2))
    | _ => s
  else s

/-- The address is one of the ports that `portWrite` knows. -/
def isPort (a : Nat) : Bool :=
  match portPlace ((a - 0x30C100000) / 0x40) a with | .port => true | .portStat => true | _ => false

end Sys2Proof.Machine
end

