-- ==== Sys2Proof/Machine/EngineSys.lean ====
section
/-!
DEFINITION. The cores' CSRs, system instructions, interrupts, task instructions, and run control (R293–R302, Table 12-5, Tables 12-8
and 12-9).
-/

namespace Sys2Proof.Machine

/-! ### CSRs (R293, Tables 12-8, 13-7, 14-10) -/

/-- The lowest level that may read a CSR, and the lowest that may write it; nothing for an unlisted one. -/
def csrLevels (c : Nat) : Option (Nat × Option Nat) :=
  if c = 0 then some (0, none)
  else if c ≤ 5 then some (1, some 1)
  else if 0x08 ≤ c ∧ c ≤ 0x0B then some (2, some 2)
  else if (0x10 ≤ c ∧ c ≤ 0x13) ∨ (0x18 ≤ c ∧ c ≤ 0x1C) then some (1, some 1)
  else if c = 0x1D ∨ c = 0x1E then some (0, some 0)
  else if (0x20 ≤ c ∧ c ≤ 0x27) ∨ (0x30 ≤ c ∧ c ≤ 0x36) then some (0, none)
  else if c = 0x37 ∨ c = 0x38 then some (1, some 1)
  else if 0x40 ≤ c ∧ c ≤ 0x4F then some (2, some 2)
  else if c = 0x80 ∨ c = 0x84 then some (0, some 0)
  else if 0x81 ≤ c ∧ c ≤ 0x83 then some (0, none)
  else if 0x100 ≤ c ∧ c ≤ 0x103 then some (0, none)
  else none

def csrAddr (g c : Nat) : Nat := 0x10000000000 + g * 0x1000 + c

/-- The low halves whose read latches the high half after them (R14). -/
def csrPairs : List Nat := [0x10, 0x20, 0x22, 0x24, 0x26, 0x34, 0x82]

/-- A CSR read: the value, and the device after the latch. A high half whose low half nothing has read is 0 (DESIGN CHOICE, log 13). -/
def Dev.csrRead (g c : Nat) (s : Dev) : Nat × Dev :=
  let a := csrAddr g c
  if c = 0x20 then (s.time.cnt % 2 ^ 32, s.latchAt (a + 1) (s.time.cnt / 2 ^ 32))
  else if csrPairs.contains c then (s.rd a, s.latchAt (a + 1) (s.rd (a + 1)))
  else if csrPairs.contains (c - 1) then ((match s.latch.find? (fun e => e.1 == a) with | some (_, v) => v.toNat | none => 0), s)
  else (s.readLatched a, s)

/-- The bits that a write of a CSR reaches at a level, and those it clears by writing one. -/
def csrMask (g c l : Nat) : Nat × Nat :=
  if 192 ≤ g ∧ 0x30 ≤ c ∧ c ≤ 0x38 then (0, 0)
  else if c = 0x01 then (if l = 2 then 0x7FC else 0xCC, 0)
  else if c = 0x03 ∨ c = 0x04 ∨ c = 0x09 ∨ c = 0x0A then (0xFFFC, 0)
  else if c = 0x18 then (if 192 ≤ g then 0 else if l = 2 then 0xFFF else 0x249, 0)
  else if c = 0x19 then (if l = 2 then 3 else 1, 0)
  else match csrRows.find? (fun e => e.1 == c) with | some e => e.2 | none => (0, 0)

/-- STATUS as a write leaves it: spl holds only T or S and mpl no reserved level, and neither holds T on Laruri's cores (R304). -/
def statusFix (g old new : Nat) : Nat :=
  let spl := bits new 2 2
  let mpl := bits new 4 2
  let n1 := if 2 ≤ spl ∨ (192 ≤ g ∧ spl = 0) then setBits new 2 2 (bits old 2 2) else new
  if mpl = 3 ∨ (192 ≤ g ∧ mpl = 0) then setBits n1 4 2 (bits old 4 2) else n1

/-- The alarm armed at the air count that ALARM_HI and ALARM_LO hold (R297). -/
def Dev.armAlarm (g : Nat) (s : Dev) : Dev :=
  s.setCore g { s.core g with alarm := some (s.rd (R.CSR_ALARM_LO g) + s.rd (R.CSR_ALARM_HI g) * 2 ^ 32) }

/-- A CSR write with its access codes and what it starts. -/
def Dev.csrWrite (g c v : Nat) (s : Dev) : Dev :=
  let a := csrAddr g c
  let l := s.lvl g
  let old := s.rd a
  let (m, w1c) := csrMask g c l
  let locked := decide (0x40 ≤ c) && decide (c ≤ 0x4F) && s.flag (R.CSR_MPU_CFG_lock g ((c - 0x40) / 2))
  if locked then s
  else
    let new := Nat.lor (old - Nat.land old m - Nat.land (Nat.land old w1c) v) (Nat.land v m)
    if c = 0x01 then s.wr a (statusFix g old new)
    else if c = 0x1B then (s.wr a new).armAlarm g
    else s.wr a new

/-- CSRR, CSRW, CSRS and CSRC: `f` gives the word written from the old value and s[rs1][31:0]. -/
def csrOp (sub : Nat) (f : Option (Nat → Nat → Nat)) (i : Issue) (rd rs1 : Fin 32) (csr : BitVec 12) (s : Dev) : Dev :=
  s.issue i fun s =>
    let g : Nat := i.core
    let w := wordSys sub rd rs1 csr
    let c := csr.toNat
    let l := s.lvl g
    match csrLevels c with
    | none => s.illegal g w
    | some (r, wl) =>
      match f with
      | none =>
        if l < r ∨ (rs1 : Nat) ≠ 0 then s.illegal g w
        else
          let (v, s1) := s.csrRead g c
          (s1.setX g rd (BitVec.ofNat 64 v)).retire g
      | some f =>
        match wl with
        | none => s.illegal g w
        | some wl =>
          if l < r ∨ l < wl then s.illegal g w
          else
            let x := (s.x g rs1).toNat % 2 ^ 32
            let (v, s1) := s.csrRead g c
            ((s1.csrWrite g c (f v x)).setX g rd (BitVec.ofNat 64 v)).retire g

def execCsrr (i : Issue) (rd rs1 : Fin 32) (imm : BitVec 12) := act (csrOp 0 none i rd rs1 imm)
def execCsrw (i : Issue) (rd rs1 : Fin 32) (imm : BitVec 12) := act (csrOp 1 (some fun _ x => x) i rd rs1 imm)
def execCsrs (i : Issue) (rd rs1 : Fin 32) (imm : BitVec 12) := act (csrOp 2 (some fun v x => Nat.lor v x) i rd rs1 imm)
def execCsrc (i : Issue) (rd rs1 : Fin 32) (imm : BitVec 12) := act (csrOp 3 (some fun v x => v - Nat.land v x) i rd rs1 imm)

/-! ### System instructions (Table 12-5) -/

/-- A SYS instruction at one of its levels with every unused field zero; else ILLEGAL (R291). -/
def sysOp (sub : Nat) (levels : List Nat) (useRd useRs1 useImm : Bool) (i : Issue) (rd rs1 : Fin 32) (imm : BitVec 12) (f : Dev → Dev) (s : Dev) : Dev :=
  s.issue i fun s =>
    let g : Nat := i.core
    if !levels.contains (s.lvl g) || (!useRd && (rd : Nat) != 0) || (!useRs1 && (rs1 : Nat) != 0) || (!useImm && imm != 0) then
      s.illegal g (wordSys sub rd rs1 imm)
    else f s

/-- ECALL: the exception of the level; imm12 goes to EXC_INSN. -/
def execEcall (i : Issue) (rd rs1 : Fin 32) (imm : BitVec 12) := act <| sysOp 4 [0, 1, 2] false false true i rd rs1 imm fun s =>
  s.trap i.core { code := 6 + s.lvl i.core, insn := some imm.toNat }

def execEbreak (i : Issue) (rd rs1 : Fin 32) (imm : BitVec 12) := act <| sysOp 12 [0, 1, 2] false false false i rd rs1 imm fun s =>
  s.trap i.core { code := 9, insn := some (wordSys 12 rd rs1 imm) }

/-- Return from a trap (R296). -/
def Dev.trapReturn (g : Nat) (s : Dev) : Dev :=
  if s.lvl g = 2 then
    let s1 := (s.set (R.CSR_STATUS_mie g) (s.get (R.CSR_STATUS_mpie g))).set (R.CSR_STATUS_mtrap g) 0
    (s1.setLvl g (s.get (R.CSR_STATUS_mpl g))).setPc g (s.get (R.CSR_EPC_M_pc g))
  else
    let s1 := s.set (R.CSR_STATUS_sie g) (s.get (R.CSR_STATUS_spie g))
    (s1.setLvl g (s.get (R.CSR_STATUS_spl g))).setPc g (s.get (R.CSR_EPC_S_pc g))

def execEret (i : Issue) (rd rs1 : Fin 32) (imm : BitVec 12) := act <| sysOp 5 [1, 2] false false false i rd rs1 imm fun s =>
  (s.trapReturn i.core).inc64 (R.CSR_INSTRET_LO i.core) 1

/-- FENCE: accesses take effect in order as each instruction runs, so nothing waits (R290). -/
def execFence (i : Issue) (rd rs1 : Fin 32) (imm : BitVec 12) := act <| sysOp 6 [0, 1, 2] false false false i rd rs1 imm fun s => s.retire i.core

/-- FENCE.I: each fetch sees every earlier store. -/
def execFenceI (i : Issue) (rd rs1 : Fin 32) (imm : BitVec 12) := act <| sysOp 13 [2] false false false i rd rs1 imm fun s => s.retire i.core

/-! ### Interrupts (R297) -/

def Dev.alarmPending (s : Dev) (g : Nat) : Bool := s.flag (R.CSR_IPEND_alarm g) && s.flag (R.CSR_IEN_alarm g)
def Dev.maintPending (s : Dev) (g : Nat) : Bool := s.flag (R.CSR_IPEND_maint g) && s.flag (R.CSR_IEN_maint g)

def Dev.alarmEligible (s : Dev) (g : Nat) : Bool := s.alarmPending g && s.lvl g == 1 && s.flag (R.CSR_STATUS_sie g)
def Dev.maintEligible (s : Dev) (g : Nat) : Bool :=
  s.maintPending g && (s.lvl g == 1 || (s.lvl g == 2 && s.flag (R.CSR_STATUS_mie g)))

/-- A waiting WFE ends with pc past it; a waiting TNEXT is left to be restarted. -/
def Dev.wake (g : Nat) (s : Dev) : Dev :=
  match (s.core g).wait with
  | .wfe => ((s.setCore g { s.core g with wait := .none }).setCoreState g 1).retire g
  | .tnext _ => (s.setCore g { s.core g with wait := .none }).setCoreState g 1
  | _ => s

def execWfe (i : Issue) (rd rs1 : Fin 32) (imm : BitVec 12) := act <| sysOp 7 [1, 2] false false false i rd rs1 imm fun s =>
  let g : Nat := i.core
  if s.alarmEligible g || s.maintEligible g then s.retire g
  else (s.setCore g { s.core g with wait := .wfe }).setCoreState g 2

def execWfeWake (g : Fin 193) := act fun s =>
  if s.coreState g = 2 ∧ (s.alarmEligible g || s.maintEligible g) then (s.coreSync g).wake g else s

/-- The core stands at an instruction boundary, running or waiting for an interrupt or a task. -/
def Dev.atBoundary (s : Dev) (g : Nat) : Bool :=
  (s.coreState g == 1 && (s.core g).wait == .none) ||
    (s.coreState g == 2 && (match (s.core g).wait with | .wfe => true | .tnext _ => true | _ => false))

def execAlarmInterrupt (g : Fin 193) := act fun s =>
  if s.atBoundary g && s.alarmEligible g then
    (((s.coreSync g).wake g).copSquash g).enterTrap g false 0x40
  else s

def execMaintInterrupt (g : Fin 193) := act fun s =>
  if s.atBoundary g && s.maintEligible g then
    (((s.coreSync g).wake g).copSquash g).enterTrap g true 0x41
  else s

/-- A write of ALARM_LO. -/
def execAlarmArm (g : Fin 193) (v : Word) := act fun s => (s.wr (R.CSR_ALARM_LO g) v.toNat).armAlarm g

def execAlarmExpire (g : Fin 193) := act fun s =>
  match (s.core g).alarm with
  | some t => if t ≤ s.time.cnt then (s.setCore g { s.core g with alarm := none }).setB (R.CSR_IPEND_alarm g) true else s
  | none => s

/-- POD_ECTL.maint. -/
def execMaintRequest (g : Fin 192) := act fun s => s.setB (R.CSR_IPEND_maint g) true

/-! ### Tasks (R298–R301) -/

/-- The task in the slot becomes the engine's (R299); a task without a deadline loads an open value. -/
def Dev.takeTask (g rd : Nat) (a : Activation) (s : Dev) : Dev :=
  let s1 := match a.dead with
    | some t => s.wr64 (R.CSR_TK_DEAD_LO g) (t % 2 ^ 64)
    | none => (s.takeFree).wr64 (R.CSR_TK_DEAD_LO g) (Config.freeNat s.freeCtr 0 % 2 ^ 64)
  let s2 := (((s1.set (R.CSR_TK_ID_idx g) a.desc).set (R.CSR_TK_GEN_gen g) a.gen).set (R.CSR_TK_PC_pc g) (s1.td a.desc 1 0 16)).set
    (R.CSR_TK_ARG_arg g) (s1.td a.desc 2 0 32)
  let s3 := ((s2.set (R.CSR_TK_STAT_valid g) 1).set (R.CSR_TK_STAT_cancel g) 0).setSlot g none
  ((((s3.setLoaded g (some a)).setTdState a.desc 4).setCoreState g 1).setX g rd (BitVec.ofNat 64 a.desc)).retire g

/-- A task instruction is ILLEGAL on Laruri's cores (R304). -/
def taskOp (sub : Nat) (levels : List Nat) (useRd useRs1 : Bool) (i : Issue) (rd rs1 : Fin 32) (imm : BitVec 12) (f : Dev → Dev) : Dev → Dev :=
  sysOp sub (if 192 ≤ (i.core : Nat) then [] else levels) useRd useRs1 false i rd rs1 imm f

def execTnext (i : Issue) (rd rs1 : Fin 32) (imm : BitVec 12) := act <| taskOp 8 [1] true false i rd rs1 imm fun s =>
  let g : Nat := i.core
  if s.flag (R.CSR_TK_STAT_valid g) then s.illegal g (wordSys 8 rd rs1 imm)
  else
    match s.slot g with
    | some a => s.takeTask g rd a
    | none => (s.setCore g { s.core g with wait := .tnext rd }).setCoreState g 2

def execTnextWake (g : Fin 192) := act fun s =>
  match (s.core g).wait, s.slot g with
  | .tnext rd, some a => (((s.coreSync g).setCore g { (s.coreSync g).core g with wait := .none })).takeTask g rd a
  | _, _ => s

def execTrun (i : Issue) (rd rs1 : Fin 32) (imm : BitVec 12) := act <| taskOp 9 [1] false false i rd rs1 imm fun s =>
  let g : Nat := i.core
  if !s.flag (R.CSR_TK_STAT_valid g) then s.illegal g (wordSys 9 rd rs1 imm)
  else
    let s1 := (s.setLvl g 0).setCore g { s.core g with task := 0 }
    s.jump g (wordSys 9 rd rs1 imm) (BitVec.ofNat 64 (s.get (R.CSR_TK_PC_pc g))) s1

/-- TEND completes: unread results go, the scheduler hears of it, and the engine returns to S at TK_RET (R300, R331). -/
def Dev.finishTend (g st : Nat) (s : Dev) : Dev :=
  let n := ((s.cops g).filter fun c => c.done && c.keep).length
  let s0 := s.setCore g { s.core g with wait := .none }
  let s1 := s0.setCops g []
  let s2 := (List.range n).foldl (fun s _ => s.podCount (R.POD_CPDISC g) ⟨R.POD_CPCNT_OVF g, 1, 1⟩ (R.POD_CPSTAT_cnt_ovf g) g) s1
  let s3 := if n = 0 then s2 else (s2.setB (R.POD_CPSTAT_disc g) true).raiseOf Ev.POD_CP_DISC 8 g [(32, n)]
  let t := s.get (R.CSR_TK_RET_pc g)
  ((((s3.taskEnd g st).set (R.CSR_TK_STAT_valid g) 0).setLvl g 1).setPc g t).inc64 (R.CSR_INSTRET_LO g) 1

/-- Every command that the engine has accepted is over. -/
def Dev.copsOver (s : Dev) (g : Nat) : Bool := (s.cops g).all (·.done)

/-- A wait of TEND, CPSYNC or a halt that has ended is left. -/
def Dev.endWait (g : Nat) (s : Dev) : Dev :=
  match (s.core g).wait with
  | .tend st => if s.copsOver g && !s.completionWaits g then s.finishTend g st else s
  | .cpsync k => if (s.cops g).all (fun c => c.slot != k || c.done || c.squashed) then (s.setCore g { s.core g with wait := .none }).retire g else s
  | .halt => if s.copsOver g then (s.raiseOf Ev.POD_ENG_HALT 8 g [(16, s.pc g)]).stopCore g 3 else s
  | _ => s

/-- A halt asked for is taken at this boundary: once every command is over (R331). -/
def Dev.takeHalt (g : Nat) (s : Dev) : Dev :=
  if (s.core g).haltReq && (match (s.core g).wait with | .none => true | .wfe => true | .tnext _ => true | _ => false) then
    (s.setCore g { s.core g with wait := .halt, haltReq := false }).endWait g
  else s

def execTend (i : Issue) (rd rs1 : Fin 32) (imm : BitVec 12) := act <| taskOp 10 [0, 1] false true i rd rs1 imm fun s =>
  let g : Nat := i.core
  let w := wordSys 10 rd rs1 imm
  let t := s.get (R.CSR_TK_RET_pc g)
  if !s.flag (R.CSR_TK_STAT_valid g) then s.illegal g w
  else if t % 4 ≠ 0 then s.trap g { code := 0, addr := some t, insn := some w }
  else (s.setCore g { s.core g with wait := .tend ((s.x g rs1).toNat % 256) }).endWait g

def execTchk (i : Issue) (rd rs1 : Fin 32) (imm : BitVec 12) := act <| taskOp 11 [0, 1] true false i rd rs1 imm fun s =>
  (s.setX i.core rd (BitVec.ofNat 64 (s.get (R.CSR_TK_STAT_cancel i.core)))).retire i.core

/-- TK_LIM cycles at T have passed (R301). -/
def execTaskLimit (g : Fin 192) := act fun s =>
  let s1 := s.coreSync g
  let lim := s1.rd (R.CSR_TK_LIM g)
  if s1.coreState g = 1 ∧ (s1.core g).wait = .none ∧ s1.lvl g = 0 ∧ s1.flag (R.CSR_TK_STAT_valid g) ∧ lim ≠ 0 ∧ lim ≤ (s1.core g).task then
    (s1.copSquash g).trap g { code := 0x0B }
  else s

/-! ### Stalled stores (R290) -/

/-- Words of a store to ports, lowest first. -/
def Dev.portStore (a size v : Nat) (s : Dev) : Dev :=
  if size = 8 then (s.portWrite a (v % 2 ^ 32)).portWrite (a + 4) (v / 2 ^ 32) else s.portWrite a (v % 2 ^ 32)

def Dev.portStoreFull (s : Dev) (a size : Nat) : Bool := s.portFull a || (size == 8 && s.portFull (a + 4))

def execQstallRelease (g : Fin 193) := act fun s =>
  match (s.core g).wait with
  | .store a n v insn =>
    if s.portStoreFull a n then s
    else
      let s0 := s.coreSync g
      let s1 := ((s0.setCore g { s0.core g with wait := .none }).setCoreState g 1).portStore a n v
      (if insn then s1.retire g else s1).takeHalt g
  | _ => s.endWait g

/-! ### Run control (Table 12-9, R287, R331, R352) -/

/-- POD_ECTL.run = 1: the engine starts at POD_EBOOT at M. -/
def Dev.engineRun (g : Nat) (s : Dev) : Dev :=
  let s1 := s.setB (R.POD_ECTL_run g) true
  if s.coreState g = 0 then ((s1.setCoreState g 1).setLvl g 2).setCore g { s1.core g with pc := s1.get (R.POD_EBOOT_pc g) / 4 * 4, at_ := s1.time.clk, part := 0 }
  else s1

def execEngineRun (g : Fin 192) := act (Dev.engineRun g)

/-- POD_ECTL.run = 0: the engine resets at once. A stalled store goes, commands are abandoned, and the scheduler loses the engine. -/
def Dev.engineReset (g : Nat) (s : Dev) : Dev :=
  let s1 := s.setB (R.POD_ECTL_run g) false
  if s.coreState g = 0 then s1
  else
    let n := ((s1.cops g).filter fun c => !c.done && !c.squashed).length
    let s2 := (s1.inc64 (R.POD_CPSQ g) n).setCops g []
    let s3 := s2.engineLost g
    let csr := csrAddr g 0
    let s4 : Dev := { s3 with regs := s3.regs.filter fun e => !(decide (csr < e.1) && decide (e.1 < csr + 0x1000))
                              latch := s3.latch.filter fun e => !(decide (csr < e.1) && decide (e.1 < csr + 0x1000))
                              eng := { s3.eng with sxuRun := s3.eng.sxuRun.filter fun e => e.2 != some g } }
    ((s4.setCore g {}).setCoreState g 0).setLvl g 2

def execEngineReset (g : Fin 192) := act (Dev.engineReset g)

/-- POD_ECTL.halt. -/
def Dev.engineHalt (g : Nat) (s : Dev) : Dev :=
  let st := s.coreState g
  if st = 1 ∨ st = 2 ∨ st = 6 then (((s.coreSync g).copConfirm g).setCore g { ((s.coreSync g).copConfirm g).core g with haltReq := true }).takeHalt g
  else s

def execEngineHalt (g : Fin 192) := act (Dev.engineHalt g)

/-- A Laruri write to instruction memory: discarded and logged while the engine is in RUN, WAIT or QSTALL (R287). -/
def Dev.imemWrite (g off n v : Nat) (s : Dev) : Dev :=
  let a := ownBase g + off
  let st := s.coreState g
  if st = 1 ∨ st = 2 ∨ st = 6 then s.raiseOf Ev.POD_LOAD_BUSY 8 g [(40, a)] else s.setLe a n v

def execEngineImemWrite (g : Fin 192) (k : Fin 8192) (v : BitVec 64) := act (Dev.imemWrite g (k * 8) 8 v.toNat)

end Sys2Proof.Machine
end

