-- ==== Sys2Proof/Machine/Planner.lean ====
section
/-!
DEFINITION. The planner's view of the device (R358–R366): which units its cells use, which are spare, and how a pod's firmware is loaded.
-/

namespace Sys2Proof.Machine

/-! ### Units -/

/-- The unit is retired (R366). -/
def Dev.retired (s : Dev) (u : PlcUnit) : Bool :=
  match u.kind with
  | 0 => bit (s.rd R.PLC_RET_POD) u.index
  | 1 => bit (s.rd R.PLC_RET_FEX) u.index
  | 2 => bit (s.rd (if u.index < 32 then R.PLC_RET_TILE_LO else R.PLC_RET_TILE_HI)) (u.index % 32)
  | 3 => bit (s.rd (if u.index < 32 then R.PLC_RET_COD_LO else R.PLC_RET_COD_HI)) (u.index % 32)
  | _ => false

/-- Bits set in a register. -/
def Dev.setBitAt (a i : Nat) (b : Bool) (s : Dev) : Dev := s.wr a (setBits (s.rd a) i 1 (b2n b))

/-- The unit is marked as retired. -/
def Dev.markRetired (u : PlcUnit) (s : Dev) : Dev :=
  match u.kind with
  | 0 => s.setBitAt R.PLC_RET_POD u.index true
  | 1 => s.setBitAt R.PLC_RET_FEX u.index true
  | 2 => s.setBitAt (if u.index < 32 then R.PLC_RET_TILE_LO else R.PLC_RET_TILE_HI) (u.index % 32) true
  | 3 => s.setBitAt (if u.index < 32 then R.PLC_RET_COD_LO else R.PLC_RET_COD_HI) (u.index % 32) true
  | _ => s

/-- The unit has been relieved by a fault and has not passed its self-test, or takes part in the re-placement in progress. -/
def Dev.unitBusy (s : Dev) (u : PlcUnit) : Bool :=
  s.plc.testing.contains u ||
    match s.plc.current with
    | some r => r.old.contains u || (r.old.zip r.new).any fun p => p.1.kind == u.kind && p.2 == some u.index
    | none => false

/-- Cells that the planner still serves. -/
def Dev.liveCells (s : Dev) : List CellRec := s.plc.cells.filter fun c => !s.plc.shed.contains c.cell

/-- The cells of a pod. -/
def Dev.podCells (s : Dev) (p : Nat) : List CellRec := s.liveCells.filter fun c => s.get (R.PLC_CELL_pod c.cell) == p

/-- Some enabled descriptor may run on the pod (R339). -/
def Dev.podMasked (s : Dev) (p : Nat) : Bool := (List.range 65536).any fun d => s.tdEn d && (s.td d 4 0 24).testBit p

/-- The pod runs no cell and holds no pmask bit of an enabled descriptor (R365). -/
def Dev.podIdle (s : Dev) (p : Nat) : Bool := (s.podCells p).isEmpty && !s.podMasked p

/-- The pod is a spare. -/
def Dev.podSpare (s : Dev) (p : Nat) : Bool :=
  s.domOn p && !s.retired ⟨0, p⟩ && !s.unitBusy ⟨0, p⟩ && !s.flag (R.AGE_GRP_INFO_exh p) && s.podIdle p

/-- Spare pods that an admitted placement keeps (Table 16-7). -/
def Dev.sparePods (s : Dev) : Nat := let n := s.get R.PLC_POLICY_spare_pods; if n = 0 then 1 else min n 4

/-- The engine share that the planner uses, in percent (Table 16-7). -/
def Dev.engUtil (s : Dev) : Nat := min (max (s.get R.PLC_POLICY_eng_util) 50) 95

/-- Engine cycles of a pod in a half subframe, at 1.6, 1.5 or 1.4 GHz (R362). -/
def Dev.podCapacity (s : Dev) (p : Nat) : Nat :=
  let f := match s.get (R.POD_PSTAT_clk p) with | 1 => 1500 | 2 => 1400 | _ => 1600
  8 * f * 500 * s.engUtil / 100

/-- Engine cycles that cells declare in a half subframe. -/
def cellLoad (l : List CellRec) : Nat := (l.map (·.engCyc)).sum

/-- The cluster serves no stream and may take some. -/
def Dev.clusterSpare (s : Dev) (c : Nat) : Bool :=
  s.fexOn c && !s.retired ⟨1, c⟩ && !s.unitBusy ⟨1, c⟩ &&
    !(List.range 2048).any fun a => s.flag (R.FEX_XB_LO_valid a) &&
      (s.get (R.FEX_XB_LO_cl a) == c || (s.flag (R.FEX_XB_LO_dual a) && s.get (R.FEX_XB_LO_new_cl a) == c))

/-- First tile and tiles of a harness. -/
def Dev.hTiles (s : Dev) (h : Nat) : Nat × Nat := cfgTiles (s.rd (R.SCA_HCFG h))

/-- The enabled harness that holds a tile. -/
def Dev.harnessOf (s : Dev) (t : Nat) : Option Nat :=
  (List.range 32).find? fun h => s.flag (R.SCA_HCFG_en h) && decide ((s.hTiles h).1 ≤ t) && decide (t < (s.hTiles h).1 + (s.hTiles h).2)

/-- Tiles `t` to `t + n - 1` are free and in a powered quarter. -/
def Dev.tilesFree (s : Dev) (t n : Nat) : Bool :=
  s.domOn (40 + t / 16) && (nums t n).all fun k => (s.harnessOf k).isNone && !s.retired ⟨2, k⟩ && !s.unitBusy ⟨2, k⟩ &&
    !bit (s.rd (if k < 32 then R.SCA_TFAULT_LO else R.SCA_TFAULT_HI)) (k % 32)

/-- Free aligned positions for a harness of `n` tiles (R365). -/
def Dev.freePositions (s : Dev) (n : Nat) : List Nat := ((List.range (64 / max n 1)).map (· * n)).filter fun t => s.tilesFree t n

/-- Tiles of the largest harness in use. -/
def Dev.largestHarness (s : Dev) : Nat :=
  ((List.range 32).filter fun h => s.flag (R.SCA_HCFG_en h)).foldl (fun n h => max n (s.hTiles h).2) 1

/-- PLC_SPARE brought up to date. -/
def Dev.showSpare (s : Dev) : Dev :=
  let pods := ((List.range 24).filter s.podSpare).length
  ((s.set R.PLC_SPARE_pods (min pods 7)).setB R.PLC_SPARE_cluster ((List.range 17).any s.clusterSpare)).set
    R.PLC_SPARE_tile_pos (min (s.freePositions s.largestHarness).length 8)

/-! ### Firmware (R398, R359) -/

/-- The firmware body that a pod runs: the new one in a roll, else the running one. -/
def Dev.podBody (s : Dev) (p : Nat) : Option (List Nat) :=
  let inst := tget 0x10000 s.plc.podFw p
  ((if s.plc.newPods.contains p then s.plc.ref.newFw else s.plc.ref.fw).find? (·.1 == inst)).map (·.2)

/-- One engine loaded and started: instruction image, data image, boot pc. -/
def Dev.loadEngine (g : Nat) (body : List Nat) (s : Dev) : Dev :=
  let im := leNat (body.take 4)
  let dm := leNat ((body.drop 4).take 4)
  let img := body.drop 32
  let s1 := (s.engineReset g).setBytes (ownBase g) (img.take im)
  ((s1.setBytes (ownBase g + 0x10000) ((img.drop im).take dm)).set (R.POD_EBOOT_pc g) (leNat ((body.drop 8).take 2))).engineRun g

/-- The engines of a pod loaded from the reference copy and started; a pod without firmware stays as it is. -/
def Dev.loadPod (p : Nat) (s : Dev) : Dev :=
  match s.podBody p with
  | some b => (nums (8 * p) 8).foldl (fun s g => s.loadEngine g b) s
  | none => s

/-- Registers of the reference copy within a span of addresses put back. -/
def Dev.reloadRegs (lo hi : Nat) (s : Dev) : Dev :=
  let keep := s.regs.filter fun e => decide (e.1 < lo) || decide (hi ≤ e.1)
  (s.plc.ref.regs.filter fun e => decide (lo ≤ e.1) && decide (e.1 < hi)).foldl (fun s e => s.wr e.1 e.2.toNat) { s with regs := keep }

/-- The tables of a cluster: slot descriptors, PRACH configurations, profiles, predistortion banks. -/
def clTables (c : Nat) : Nat × Nat := (clBase c + 0x8000, clBase c + 0x10000)

/-- The tables of a cluster put back from the reference copy, and its slots mended. -/
def Dev.reloadCluster (c : Nat) (s : Dev) : Dev :=
  let s1 := s.reloadRegs (clTables c).1 (clTables c).2
  ({ s1 with fex := { s1.fex with slot := s1.fex.slot.filter fun e => e.1 / 128 != c } }).showCluster c

end Sys2Proof.Machine
end

