-- ==== Sys2Proof/Machine/Power.lean ====
section
/-!
DEFINITION. Power domains (R454–R456) and the PMBus (R453).
-/

namespace Sys2Proof.Machine

/-! ### Domains -/

def Dev.setDomOn (d : Nat) (on : Bool) (s : Dev) : Dev := s.setBitAt (if d < 32 then R.PWR_DOM_LO else R.PWR_DOM_HI) (d % 32) on
def Dev.domReq (s : Dev) (d : Nat) : Bool := bit (s.rd (if d < 32 then R.PWR_REQ_LO else R.PWR_REQ_HI)) (d % 32)
def Dev.setDomReq (d : Nat) (on : Bool) (s : Dev) : Dev := s.setBitAt (if d < 32 then R.PWR_REQ_LO else R.PWR_REQ_HI) (d % 32) on

/-- The 64 lanes of a lane group's domain. -/
def groupLanes (d : Nat) : List Nat := nums ((d - 24) * 64) 64

/-- Every lane of the group is disabled or part of a link in DEEP (R456). -/
def Dev.groupParked (s : Dev) (d : Nat) : Bool :=
  (groupLanes d).all fun n => !s.flag (R.LNK_LINE_CFG_en n) || s.linkState (s.linkOf n) == 5

/-- The current placement uses the domain, its spares included (R455). -/
def Dev.domUsed (s : Dev) (d : Nat) : Bool :=
  if s.plc.cells.isEmpty then false
  else if d < 24 then !s.podIdle d || (((List.range 24).filter s.podSpare).take s.sparePods).contains d
  else if isGroup d then !s.groupParked d
  else if d < 44 then
    (List.range 32).any (fun h => s.flag (R.SCA_HCFG_en h) && 40 + (s.hTiles h).1 / 16 == d) ||
      (((s.freePositions s.largestHarness).map (40 + · / 16)).take 1).contains d
  else if d < 46 then
    ((List.range 2048).any fun a => s.flag (R.FEX_XB_LO_valid a) && (if s.get (R.FEX_XB_LO_cl a) < 9 then 44 else 45) == d) ||
      ((((List.range 17).filter s.clusterSpare).reverse.take 1).map fun c => if c < 9 then 44 else 45).contains d
  else if d = 46 then (List.range 32).any fun q => s.flag (R.COD_QCFG2_en q)
  else (List.range 16).any fun p => s.plc.cells.any fun c => c.port == p

/-- The power domain on the far side of a crossing FIFO from the fabric; none for one that is never switched (Table 7-2). -/
def fifoDom (id : Nat) : Option Nat :=
  let i := id % 2 ^ 11
  match id / 2 ^ 12 with
  | 0 => some (laneDom i)
  | 1 => some i
  | 2 => some (if i < 9 then 44 else 45)
  | 4 => some 47
  | _ => none

/-- What a domain holds is lost as it goes off (Table 20-4); both sides of its crossing FIFOs are reset (R194). -/
def Dev.domLost (d : Nat) (s0 : Dev) : Dev :=
  let s : Dev := { s0 with sto := { s0.sto with xf := s0.sto.xf.filter fun e => fifoDom e.1 != some d } }
  if d < 24 then
    let lo := 0x0200000000 + d * 0x100000
    { s with mem := s.mem.filter fun e => decide (e.1 < lo) || decide (lo + 0x100000 ≤ e.1) }
  else if isGroup d then
    (groupLanes d).foldl (fun s n => s.modLane n fun x => { x with cws := [], part := [], carry := [], goodRun := 0, marker := none }) s
  else if d < 44 then
    ((List.range 32).filter fun h => (s.hTiles h).1 / 16 == d - 40).foldl (fun s h => s.setHarness h {}) (s.setBitAt R.SCA_QPWR (d - 40) false)
  else if d < 46 then
    (if d = 44 then nums 0 9 else nums 9 8).foldl (fun s c =>
      let t := clTables c
      let s0 := (List.range 128).foldl (fun s k => s.forgetDebt c k) s
      let s1 : Dev := { s0 with
        regs := s.regs.filter fun e => decide (e.1 < t.1) || decide (t.2 ≤ e.1)
        fex := { s0.fex with slot := s.fex.slot.filter (fun e => e.1 / 128 != c), prach := s.fex.prach.filter (fun e => e.1 / 16 != c) } }
      ((s1.setFcl c {}).showCluster c).showEvents c |>.showQueue c) s
  else if d = 46 then
    let held := s.cod.harq.flatMap fun e => match e.2 with | some h => h.grains | none => []
    let s1 : Dev := { s with cod := { s.cod with queue := [], unit := [], harq := [], clearing := false, stranded := s.cod.stranded ++ held } }
    let s2 := (s1.wr R.COD_BUSY_LO 0).wr R.COD_BUSY_HI 0
    (List.range 32).foldl (fun s q => s.set (R.COD_QSTAT_depth q) 0) ((s2.set R.COD_HSTAT_entries 0).set R.COD_HSTAT_grains 0)
  else
    (List.range 16).foldl (fun s p => ethLinkDown (portIdx 16 (by decide) p) 0 s) { s with eth := { s.eth with txq := [], rxCount := [], timing := [] } }

/-- What a domain takes up as it comes on: lanes their held writes, pods and clusters the reference copy. -/
def Dev.domReady (d : Nat) (s : Dev) : Dev :=
  if d < 24 then s.loadPod d
  else if isGroup d then
    (groupLanes d).foldl (fun s n =>
      match (s.lane n).held with
      | some v => (s.modLane n fun x => { x with held := none }).lineCfg n v
      | none => s) s
  else if d < 44 then s.setBitAt R.SCA_QPWR (d - 40) true
  else if d < 46 then (if d = 44 then nums 0 9 else nums 9 8).foldl (fun s c => s.reloadCluster c) s
  else s

/-- A domain stands at its new state: counted and logged (R454). -/
def Dev.domSwitched (d : Nat) (on : Bool) (cause : Nat) (s : Dev) : Dev :=
  let s1 := ((s.setDomOn d on).inc64 R.PWR_SW_CNT 1).raise Ev.PWR_DOM [(6, d), (1, b2n on), (4, cause)]
  if on then s1.domReady d else s1.domLost d

/-- A switch of the domain that waits may end now: a lane group's for itself, of the others the one whose turn it is. -/
def Dev.domDue (s : Dev) (d : Nat) : Option (Bool × Nat) :=
  match s.pwr.todo.find? (·.1 == d) with
  | none => none
  | some (_, on, cause) => if (isGroup d || s.domTurn == some d) && s.domQuiet d on then some (on, cause) else none

def pwrDom (d : Fin 48) (s : Dev) : Dev :=
  match s.domDue d with
  | none => s
  | some (on, cause) =>
    (s.setTodo (s.pwr.todo.filter (·.1 != (d : Nat)))).domSwitched d on cause

def execPwrDom (d : Fin 48) := act (pwrDom d)

/-- One bit of a write to PWR_REQ (R455, R456). -/
def Dev.reqBit (d : Nat) (on : Bool) (s : Dev) : Dev :=
  if s.autoGroup d then s.setDomReq d on
  else if on then (s.setDomReq d true).askDom d true 2
  else if s.domUsed d || (isGroup d && !s.groupParked d) then
    ((s.setDomReq d true).setB R.PWR_STAT_refused true).raise Ev.PWR_REFUSED [(6, d)]
  else (s.setDomReq d false).askDom d false 2

/-- A write of PWR_REQ: each domain whose request changes switches. -/
def domainRequest (hi : Bool) (v : Word) (s : Dev) : Dev :=
  (if hi then nums 32 16 else nums 0 32).foldl (fun s d =>
    let on := bit v.toNat (d % 32)
    if on = s.domReq d then s else s.reqBit d on) s

def execDomainRequest (hi : Bool) (v : Word) := act (domainRequest hi v)

/-- An automatic lane group switches off once its lanes are parked; one that a lane of it wakes stays on (R456). -/
def laneGroupAutoOff (g : Fin 16) (s : Dev) : Dev :=
  let d := 24 + (g : Nat)
  if s.autoGroup d && s.domOn d && s.groupParked d && !(groupLanes d).any (fun n => (s.link (s.linkOf n)).wake.isSome) then
    (s.domSwitched d false 1)
  else s

def execLaneGroupAutoOff (g : Fin 16) := act (laneGroupAutoOff g)

/-! ### PMBus (R453) -/

/-- A transaction that failed three times. -/
def Dev.pmbError (addr cmd : Nat) (s : Dev) : Dev :=
  let sat := s.rd R.PWR_PMB_ERR = 0xFFFFFFFE
  let s1 := s.incSat R.PWR_PMB_ERR ⟨R.PWR_STAT, 4, 1⟩ Ev.PWR_CNT_SAT [] 1
  ((if sat then s1.setB R.PWR_STAT_cnt_ovf true else s1).setB R.PWR_STAT_pmb_err true).raise Ev.PWR_PMB_ERR [(7, addr), (8, cmd)]

/-- The valid regulators in ascending address order. -/
def Dev.regulators (s : Dev) : List Nat :=
  let ks := (List.range 8).filter fun k => s.flag (R.PWR_REG_valid k)
  (List.range 128).flatMap fun a => ks.filter fun k => s.get (R.PWR_REG_addr k) == a

/-- The PMBus transactions of a command, each of the failed ones sent three times (R453). -/
def Dev.pmbSend (failed : List Nat) (l : List (Nat × Nat × Nat)) (s : Dev) : Dev :=
  { s with pwr := { s.pwr with bus := l.flatMap fun t => if failed.contains t.1 then [t, t, t] else [t] } }

/-- VOUT_COMMAND to every regulator of rail 0, the setpoint in mV. -/
def Dev.coreSet (s : Dev) (mv : Nat) : List (Nat × Nat × Nat) :=
  (s.regulators.filter fun k => s.get (R.PWR_REG_rail k) == 0).map fun k => (s.get (R.PWR_REG_addr k), 0x21, mv)

/-- The transactions of APPLY: VOUT_MODE read from each valid regulator, then VOUT_COMMAND and OPERATION on to each. Rail 0 takes the plan's start. -/
def Dev.pmbApply (start : Nat) (s : Dev) : Dev :=
  let mode := s.regulators.map fun k => (s.get (R.PWR_REG_addr k), 0x20, 0)
  let put := s.regulators.flatMap fun k =>
    let a := s.get (R.PWR_REG_addr k)
    [(a, 0x21, if s.get (R.PWR_REG_rail k) = 0 then start else s.get (R.PWR_REG_mv k)), (a, 0x01, 0x80)]
  s.pmbSend [] (mode ++ put)

/-- Failed transactions of valid regulators, logged in order. -/
def Dev.pmbErrors (l : List (Fin 8 × BitVec 8)) (s : Dev) : Dev :=
  (s.regulators.flatMap fun k => l.filter fun e => (e.1 : Nat) == k).foldl (fun s e => s.pmbError (s.get (R.PWR_REG_addr e.1)) e.2.toNat) s

/-- PMB_ALERT_N goes low: every regulator's STATUS_WORD is read (command 79h). -/
def pwrAlert (status : List (Option (BitVec 16))) (s : Dev) : Dev :=
  s.regulators.foldl (fun s k =>
    match (status[k]?).join with
    | some w => ((s.set (R.PWR_REG_STAT_status k) w.toNat)).raise Ev.PWR_ALERT [(7, s.get (R.PWR_REG_addr k)), (16, w.toNat)]
    | none => s.pmbError (s.get (R.PWR_REG_addr k)) 0x79) ((s.pmbSend
      ((s.regulators.filter fun k => ((status[k]?).join).isNone).map fun k => s.get (R.PWR_REG_addr k))
      (s.regulators.map fun k => (s.get (R.PWR_REG_addr k), 0x79, 0))).setB R.PWR_STAT_alert true)

def execPwrAlert (status : List (Option (BitVec 16))) := act (pwrAlert status)

end Sys2Proof.Machine
end

