-- ==== Sys2Proof/Machine/Restart.lean ====
section
/-!
DEFINITION. Restarts (R380, R392, R404), safe hold (R403), ENVIRONMENT STOP (R428), and the commands that only cause one of them.
-/

namespace Sys2Proof.Machine

/-! ### Reset -/

/-- Registers that RESET_N leaves: the seal's. -/
def sealRegs : List Nat := [R.MGT_SEAL, R.MGT_SEAL_CNT]

/-- Registers that the other restarts leave too: the always-on region's. -/
def keptRegs : List Nat :=
  sealRegs ++ [R.SYS_BOOT_ATT, R.SYS_RESTARTS, R.MGT_CINCH, R.MGT_SESS, R.MGT_PRESS, R.SYS_CLK_LOL] ++
    [0, 1].flatMap fun x => [R.TDOM_CLK_SEC_LO x, R.TDOM_CLK_SEC_HI x, R.TDOM_CLK_NS x, R.TDOM_CLK_INC_FRAC x, R.TDOM_CLK_INC_INT x,
      R.TDOM_CLK_SET_LO x, R.TDOM_CLK_SET_HI x, R.TDOM_CLK_SET_NS x, R.TDOM_CLK_CTL x]

/-- The sticky bit of an S32 counter of the MGT block (Table 18-9). -/
def cntOvf (a : Nat) : Field := ⟨R.MGT_CNT_OVF, (a - R.MGT_SESS) / 4, 1⟩

/-- The device in reset: everything at its reset value but flash, the seal, the levels at the pins, and what the always-on region keeps across a
restart (R380, Table 18-9). `cause`: 0 power-on, 1 RESET_N, 2 command, 3 automatic, 4 environment, 5 trial. -/
def Dev.inReset (cause : Nat) (s : Dev) : Dev :=
  let own := decide (2 ≤ cause)
  let keys := if own then keptRegs else sealRegs
  let d : Dev := {
    regs := s.regs.filter fun e => keys.contains e.1
    flash := s.flash
    raised := if own then s.raised else []
    freeCtr := s.freeCtr
    time := { clk := s.time.clk, sysPhase := s.time.sysPhase, clock := if own then s.time.clock else [] }
    boot := { cause := cause, phaseAt := s.time.clk, autoFirst := if own then s.boot.autoFirst else 0 }
    mgt := { key := s.mgt.key, cinchEnd := if own then s.mgt.cinchEnd else 0, openedAt := if own then s.mgt.openedAt else 0,
             journal := s.mgt.journal, fedAt := s.time.clk,
             log := { head := s.mgt.log.head, pinHead := s.mgt.log.pinHead, bad := s.mgt.log.bad } } }
  let keep := [R.SYS_CLK_STAT_lol, R.SYS_CLK_STAT_cnt_ovf, R.SYS_BOOT_STAT_cnt_ovf, cntOvf R.MGT_SESS, cntOvf R.MGT_PRESS]
  let d1 := ((if own then keep else []) ++ [cntOvf R.MGT_SEAL_CNT]).foldl (fun d f => d.setB f (s.flag f)) d
  let d2 := if s.flag R.MGT_STAT_dbg ∧ cause ≠ 0 then d1.raise Ev.MGT_DBG [(1, 0)] else d1
  if cause = 1 ∧ s.flag R.MGT_CINCH_open_ then d2.raise Ev.MGT_CINCH_CLOSE [(4, 4), (32, s.msSince s.mgt.openedAt / 1000)] else d2

/-- A restart (R380), counted under R404 where its cause is automatic or a trial's. -/
def Dev.restart (cause : Nat) (s : Dev) : Dev :=
  let d := (s.inReset cause).incSat R.SYS_RESTARTS R.SYS_BOOT_STAT_cnt_ovf Ev.SYS_CNT_SAT [] 1
  if cause = 3 ∨ cause = 5 then
    let n := d.get R.SYS_BOOT_ATT_n_auto
    let fresh := n = 0 ∨ d.boot.autoFirst + 3600 * hz < d.time.clk
    let n1 := if fresh then 1 else min (n + 1) 7
    { d.set R.SYS_BOOT_ATT_n_auto n1 with boot := { d.boot with autoFirst := if fresh then d.time.clk else d.boot.autoFirst, loop := decide (4 ≤ n1) } }
  else d

/-- The reset pin, or the supplies (R380). -/
def execResetAssert (power : Bool) := act fun s => s.inReset (if power then 0 else 1)

/-! ### Quiet lanes, engines and backhaul (R403, R428) -/

/-- Every lane's transmitter and receiver off. -/
def Dev.quietLanes (s : Dev) : Dev :=
  (List.range 1024).foldl (fun s n => if s.laneState n = 0 then s else (s.laneLost n).toQuiet n) s

/-- Every engine into RESET. -/
def Dev.resetEngines (s : Dev) : Dev := (List.range 192).foldl (fun s g => s.engineReset g) s

/-- The backhaul quads disabled. -/
def Dev.disableQuads (s : Dev) : Dev :=
  let s1 := (List.range 16).foldl (fun s p => ethLinkDown (portIdx 16 (by decide) p) 0 s) s
  (List.range 4).foldl (fun s q => s.setB (R.ETH_QUAD_CTL_en q) false) s1

/-- Domains off at once, each switch counted and logged. -/
def Dev.domainsOff (l : List Nat) (cause : Nat) (s : Dev) : Dev :=
  let s2 := s.setTodo (s.pwr.todo.filter fun e => !l.contains e.1)
  l.foldl (fun s d => if s.domOn d then (s.setDomReq d false).domSwitched d false cause else s.setDomReq d false) s2

/-- Safe hold (R403). No air time runs in it, nor is a start of it pending (R22, R26). -/
def Dev.hold (cause : Nat) (s : Dev) : Dev :=
  let s0 := ((s.quietLanes.resetEngines).disableQuads).domainsOff (nums 24 16) 0
  let s1 := ({ s0 with time := { s0.time with start := none, catchUp := false } } : Dev).setB R.AIR_CTL_arm false
  let s2 := ((s1.noResid).set R.AIR_STAT_state 0).setB R.AIR_STAT_qualified false
  let s3 := (s2.toPhase 12).set R.SYS_BOOT_STAT_hold cause
  s3.raise Ev.SYS_HOLD [(4, cause)]

/-- A failure after SELECT (R391, R392): a trial restarts, a committed image is marked failed and the device restarts. -/
def Dev.startFailed (cause : Nat) (s : Dev) : Dev :=
  let b := s.get R.SYS_BOOT_STAT_bank
  if s.flag R.SYS_BOOT_STAT_trial then (s.raise Ev.SYS_TRIAL_FAIL [(1, b), (4, cause)]).restart 5
  else (s.set ⟨R.SYS_BOOT_ATT, b, 1⟩ 1).restart 3

/-! ### ENVIRONMENT STOP (R428) -/

/-- The action of a sense input: input 0 and inputs 16–39 are always guarded, and code 3 acts as 1 (Table 19-6). -/
def Dev.snsAct (s : Dev) (i : Nat) : Nat :=
  if i = 0 ∨ (16 ≤ i ∧ i < 40) then 2 else let a := s.get (R.SNS_ICFG_act i); if a = 3 then 1 else a

/-- A guarded input is above or below its limits. -/
def Dev.guardedOut (s : Dev) : Bool :=
  (List.range 48).any fun i => s.snsAct i == 2 && (s.flag (R.SNS_LAST_above i) || s.flag (R.SNS_LAST_below i))

/-- Since when every guarded quantity is within its limits, brought up to date (R429). -/
def Dev.envWatch (s : Dev) : Dev :=
  if !s.flag R.MGT_STAT_env_stop then s
  else { s with mgt := { s.mgt with envOk := if s.guardedOut then none else some (s.mgt.envOk.getD s.time.clk) } }

/-- Seconds that MGT_ENV_T shows. -/
def Dev.envSeconds (s : Dev) : Nat :=
  match s.mgt.envOk with
  | some t => min ((s.time.clk - t) / hz) 60
  | none => 0

/-- Laruri enters ENVIRONMENT STOP with a cause and the measured value. -/
def Dev.envStop (cause : Nat) (value : Int) (s : Dev) : Dev :=
  if s.flag R.MGT_STAT_env_stop then s
  else
    let s1 := (((s.quietLanes).resetEngines).disableQuads).domainsOff (nums 0 48) 4
    let s2 := ((s1.setB R.MGT_STAT_env_stop true).set R.MGT_STAT_env_cause cause).set R.MGT_ENV_T_sec 0
    let s3 := (((s2.setB R.MGT_STAT_roll false).setB R.MGT_STAT_trial false).setB R.SYS_BOOT_STAT_trial false).raise Ev.MGT_ENV_STOP [(4, cause), (32, value)]
    let s4 := ({ s3 with mgt := { s3.mgt with roll := none, envAt := s.time.clk, envOk := none, noFlash := cause == 2 } } : Dev).envWatch
    if cause ≠ 2 ∧ s4.firmware then s4.flushLog else s4

/-- A lane reference out of limits while its group is on (R85). The measured value is free. It shows as such until the restart that ends the
stop. -/
def lnkRefBad (die r : Fin 4) (s : Dev) : Dev :=
  if s.domOn (24 + 4 * (die : Nat) + r) then
    let s1 : Dev := { s.takeFree with lnk := { s.lnk with refBad := (4 * (die : Nat) + r) :: s.lnk.refBad } }
    (s1.raise Ev.LNK_REF_BAD [(2, (die : Nat)), (2, (r : Nat))]).envStop 6 (toSigned 32 (Config.freeNat s.freeCtr 0))
  else s

def execLnkRefBad (die r : Fin 4) := act (lnkRefBad die r)

/-- A window of SYSREF absent or off frequency (Table 20-5). In ENVIRONMENT STOP the excursion starts its time within limits anew (R429). -/
def sysrefBad (dev : BitVec 16) (s : Dev) : Dev :=
  let s1 : Dev := { s.setB R.SYS_CLK_STAT_sysref_ok false with pwr := { s.pwr with sysBad := some s.time.clk } }
  let s2 := s1.raise Ev.SYS_SYSREF_BAD [(32, dev.toInt)]
  if s2.flag R.MGT_STAT_env_stop then ({ s2 with mgt := { s2.mgt with envOk := none } } : Dev).envWatch else s2.envStop 5 dev.toInt

def execSysSysrefBad (dev : BitVec 16) := act (sysrefBad dev)

/-- The system PLL loses lock (R458). -/
def execSysPllUnlock := act fun s =>
  let s1 := (s.incSat R.SYS_CLK_LOL R.SYS_CLK_STAT_cnt_ovf Ev.SYS_CNT_SAT [] 1).setB R.SYS_CLK_STAT_lol true
  (s1.restart 3).raise Ev.SYS_PLL_UNLOCK []

end Sys2Proof.Machine
end

