-- ==== Sys2Proof/Machine/Sense.lean ====
section
/-!
DEFINITION. The sense converter (R432–R440): its sequencer, manual conversions, results, limits and rings.
-/

namespace Sys2Proof.Machine

/-- A write to an RWL register after boot completes changes nothing and is logged with the register's address (R10). -/
def Dev.lockedWrite (a : Nat) (s : Dev) : Dev := s.raise Ev.MGT_LOCKED_WRITE [(40, (a : Int))]

/-! ### Clocks -/

/-- The converter clock now: 80 MHz against the 983.04 MHz of elapsed time. -/
def Dev.snsClk (s : Dev) : Nat := s.time.clk * 125 / 1536

/-- The air count at the start of a converter clock. -/
def Dev.snsCount (s : Dev) (c : Nat) : Nat := ((s.time.cnt : Int) + 2 * (((c * 1536 / 125 : Nat) : Int) - s.time.clk)).toNat

/-- The first converter clock at or after the moment at which the air count reached `n`, where it has. -/
def Dev.snsClkAt (s : Dev) (n : Nat) : Option Nat :=
  if s.time.cnt < n then none else some (((s.time.clk - (s.time.cnt - n) / 2) * 125 + 1535) / 1536)

/-! ### Entries (R435, R436, R438, Table 19-2) -/

/-- The two words of an entry: of the fixed table, or of SNS_SEQ. -/
def Dev.snsEntry (s : Dev) (k : Nat) : Nat × Nat :=
  if s.sns.fixed then ((if k = 0 then 0 else 15 + k) + 15 * 2 ^ 6, 0x18) else (s.rd (R.SNS_SEQ k 0), s.rd (R.SNS_SEQ k 1))

/-- Entries of the table that runs. -/
def Dev.snsLen (s : Dev) : Nat := if s.sns.fixed then 25 else if s.sns.len = 0 then 64 else s.sns.len

def Dev.setSns (x : SnsSt) (s : Dev) : Dev := { s with sns := x }

/-- The sequencer starts at entry 0 with the values of SNS_CTL now, no earlier than the next clock. -/
def Dev.snsStart (fixed : Bool) (s : Dev) : Dev :=
  let last := max s.sns.last (s.snsClk - 1)
  s.setSns { s.sns with run := true, fixed := fixed, k := 0, last := last, loopAt := last + 1, tickAt := max s.sns.tickAt (s.time.cnt / tickTc),
                        len := s.get R.SNS_CTL_len, settle := s.get R.SNS_CTL_settle, nthr := s.get R.SNS_CTL_nthr }

/-- A write of SNS_CTL, with en at `en`. -/
def snsCtl (en : Bool) (v : Word) (s : Dev) : Dev :=
  if s.flag R.SYS_BOOT_STAT_done then s.lockedWrite R.SNS_CTL
  else
    let s1 := s.wr R.SNS_CTL (bits v.toNat 1 12 * 2 + b2n en)
    if !en then s1.setSns { s1.sns with run := false }
    else if s1.sns.run then s1
    else s1.snsStart false

def execSequencerEnable (v : Word) := act (snsCtl true v)
def execSequencerStop (v : Word) := act (snsCtl false v)

/-- The next entry: after the last one the loop ends, and what SNS_CTL holds takes effect. -/
def Dev.snsAdvance (s : Dev) : Dev :=
  if s.sns.k + 1 < s.snsLen then s.setSns { s.sns with k := s.sns.k + 1 }
  else
    let s1 := s.wr R.SNS_LOOP ((s.sns.last + 1 - s.sns.loopAt) % 2 ^ 32)
    s1.setSns { s1.sns with k := 0, loopAt := s1.sns.last + 1, len := s1.get R.SNS_CTL_len, settle := s1.get R.SNS_CTL_settle, nthr := s1.get R.SNS_CTL_nthr }

/-- Entries that name a reserved input are passed over; each is logged once. Which field is meant is free. -/
def Dev.snsSkip (n : Nat) (s : Dev) : Dev :=
  match n with
  | 0 => s
  | n + 1 =>
    let k := s.sns.k
    if (s.snsEntry k).1 % 64 < 44 then s
    else
      let s1 := s.setB R.SNS_STAT_cfg_bad true
      let s2 := if s.sns.logged.contains k then s1
        else (s1.takeFree.setSns { s1.sns with logged := k :: s1.sns.logged }).raise Ev.SNS_CFG_BAD [(6, (k : Int)), (4, ((Config.freeNat s1.freeCtr 0 % 16 : Nat) : Int))]
      s2.snsAdvance.snsSkip n

/-- The converter clock at which the delay of an entry with this word 0 ends; none while its tick has not come, and in FREE, where sense ticks do
not run (Table 2-2). -/
def Dev.snsDelayEnd (s : Dev) (w : Nat) : Option Nat :=
  let d := bits w 16 16
  if bit w 14 then (if s.airState = 0 then none else s.snsClkAt ((s.sns.tickAt + max d 1) * tickTc)).map fun c => max c (s.sns.last + 1)
  else some (s.sns.last + 1 + d)

/-- Its tick boundary passed while a manual conversion ran (R437). -/
def Dev.snsSlipped (s : Dev) (w : Nat) : Bool :=
  bit w 14 && s.sns.byMan && (match s.snsClkAt ((s.sns.tickAt + max (bits w 16 16) 1) * tickTc) with | some c => decide (c ≤ s.sns.last) | none => false)

/-- An S32 counter of the SNS block advanced. -/
def Dev.snsCount32 (a : Nat) (s : Dev) : Dev :=
  let sat := s.rd a = 0xFFFFFFFE
  let s1 := s.incSat a ⟨R.SNS_CNT_OVF, (a - R.SNS_DROP) / 4, 1⟩ Ev.SNS_CNT_SAT [] 1
  if sat then s1.setB R.SNS_STAT_cnt_ovf true else s1

/-- A manual request goes before an entry whose delay ends at `b`. -/
def Dev.manFirst (s : Dev) (b : Nat) : Bool := match s.sns.man with | some (_, r) => decide (r < b) | none => false

/-- Settling clocks before a conversion of an input. -/
def Dev.snsSettle (s : Dev) (i : Nat) : Nat := if s.sns.input = some i then 0 else s.sns.settle

def sequencerEntry (s : Dev) : Dev :=
  if !s.sns.run || s.phase == 0 then s
  else
    let s1 := s.snsSkip s.snsLen
    let (w0, w1) := s1.snsEntry s1.sns.k
    let i := w0 % 64
    match s1.snsDelayEnd w0 with
    | none => s1
    | some b =>
      let start := b + s1.snsSettle i
      let reps := bits w0 6 8 + 1
      if 44 ≤ i ∨ s1.snsClk < start ∨ s1.manFirst b then s1
      else
        let s2 := if s1.snsSlipped w0 then
            ((s1.snsCount32 R.SNS_SLIP).setB R.SNS_STAT_slip true).raise Ev.SNS_SLIP [(6, (s1.sns.k : Int))]
          else s1
        let run : SnsRun := ⟨i, reps, bit w1 3, if bit w1 4 then none else some (w1 % 8), s2.sns.k, start, s2.snsCount start / tickTc, 0⟩
        let last := start + reps - 1
        let s3 := s2.setSns { s2.sns with input := some i, byMan := false, last := last, tickAt := s2.snsCount last / tickTc, runs := s2.sns.runs ++ [run] }
        ((s3.set R.SNS_STAT_entry s3.sns.k).inc64 R.SNS_CONV reps).snsAdvance

def execSequencerEntry := act sequencerEntry

/-! ### Correction (R434) -/

/-- The mean of codes, rounded with ties away from zero. -/
def snsMean (l : List Nat) : Int := if l.isEmpty then 0 else divRound (l.sum : Nat) l.length

/-- The result of a code, or of a mean. Without factory calibration the gain is 1 and every offset 0. -/
def Dev.snsCorrect (s : Dev) (i : Nat) (c : Int) : Int :=
  let cal := s.sns.cal
  let g := if cal then s.calEff 2 i else 32768
  let o := if cal then s.calEff 3 i else 0
  let v := clampInt (divRound ((c - o) * g) 32768) 0 16383
  if 16 ≤ i ∧ i < 40 then v - 1280 + (if cal then s.calEff 1 (i - 16) else 0) else v

/-! ### Limits (R440, R438) -/

/-- The code of SNS_00 is above a level in mV, at 73.24 µV a code. -/
def aboveMv (v : Int) (mv : Nat) : Bool := decide (((mv * 100000 : Nat) : Int) < v * 7324)
def belowMv (v : Int) (mv : Nat) : Bool := decide (v * 7324 < ((mv * 100000 : Nat) : Int))

/-- Whether a result is above hi and below lo. -/
def Dev.snsOut (s : Dev) (i : Nat) (v : Int) : Bool × Bool :=
  if !s.sns.cal && !s.sns.calBad then (false, false)
  else if i = 0 then
    let mv := s.get R.AGE_VSET_mv
    if mv = 0 then (aboveMv v 825, belowMv v 725)
    else (aboveMv v (min (mv + 25) 875) || decide (s.getS (R.SNS_LIM_hi 0) < v), belowMv v (max (mv - 25) 625) || decide (v < s.getS (R.SNS_LIM_lo 0)))
  else if s.sns.calBad ∧ 16 ≤ i ∧ i < 40 then (decide (1680 < v), decide (v < -640))
  else (decide (s.getS (R.SNS_LIM_hi i) < v), decide (v < s.getS (R.SNS_LIM_lo i)))

/-- The ENVIRONMENT STOP cause of an input (Table 18-8). -/
def Dev.snsCause (s : Dev) (i : Nat) : Nat :=
  if i = 0 then 1 else if 16 ≤ i ∧ i < 40 then 3 else if s.flag (R.SNS_ICFG_cls i) then 2 else 4

/-- An input enters above or below. -/
def Dev.snsCross (i : Nat) (v : Int) (above : Bool) (s : Dev) : Dev :=
  let s1 := ((s.setB (R.SNS_LAST_above i) above).setB (R.SNS_LAST_below i) (!above)).setB R.SNS_STAT_limit true
  let a := s1.snsAct i
  if a = 0 then s1
  else
    let s2 := (s1.snsCount32 R.SNS_LIMX).raise Ev.SNS_LIMIT [(6, (i : Int)), (32, v), (1, ((b2n above : Nat) : Int)), (2, (a : Int))]
    if a = 2 then s2.envStop (s2.snsCause i) v else s2

/-- An input is within its limits again. -/
def Dev.snsWithin (i : Nat) (v : Int) (s : Dev) : Dev :=
  if s.flag (R.SNS_LAST_above i) || s.flag (R.SNS_LAST_below i) then
    let s1 := (s.setB (R.SNS_LAST_above i) false).setB (R.SNS_LAST_below i) false
    if s1.snsAct i = 0 then s1 else s1.raise Ev.SNS_RETURN [(6, (i : Int)), (32, v)]
  else s

/-- The runs of results above and below an input's limits. -/
def Dev.setOutRuns (i up dn : Nat) (s : Dev) : Dev := s.setSns { s.sns with up := tput 0 s.sns.up i up, dn := tput 0 s.sns.dn i dn }

/-- A result compared with its input's limits. -/
def Dev.snsCheck (i : Nat) (v : Int) (s : Dev) : Dev :=
  let (hi, lo) := s.snsOut i v
  let up := if hi then tget 0 s.sns.up i + 1 else 0
  let dn := if lo then tget 0 s.sns.dn i + 1 else 0
  let s1 := s.setOutRuns i up dn
  let s2 :=
    if hi then (if s1.sns.nthr < up ∧ !s1.flag (R.SNS_LAST_above i) then s1.snsCross i v true else s1)
    else if lo then (if s1.sns.nthr < dn ∧ !s1.flag (R.SNS_LAST_below i) then s1.snsCross i v false else s1)
    else s1.snsWithin i v
  s2.envWatch

/-- A result formed: shown, and checked. -/
def Dev.snsForm (i : Nat) (v : Int) (s : Dev) : Dev := (s.setS (R.SNS_LAST_value i) v).snsCheck i v

/-! ### Rings (R439) -/

/-- Records of a ring. -/
def Dev.snsRecords (s : Dev) (r : Nat) : Nat := 2 ^ min (max (s.get (R.SNS_RING_SIZE_size r)) 4) 16

/-- The record of a result (Table 19-4). -/
def Dev.snsRecord (s : Dev) (x : SnsRun) (v : Int) : Nat :=
  toBits 16 v + x.input * 2 ^ 16 + s.get (R.SNS_LAST_above x.input) * 2 ^ 22 + s.get (R.SNS_LAST_below x.input) * 2 ^ 23 +
    x.entry * 2 ^ 24 + b2n x.avg * 2 ^ 30 + x.tick % 2 ^ 32 * 2 ^ 32

/-- A record written to a ring, or dropped; a place outside Laruri memory takes nothing. -/
def Dev.snsPut (r rec : Nat) (s : Dev) : Dev :=
  let n := s.snsRecords r
  let w := s.rd64 (R.SNS_RING_WR_LO r)
  if n ≤ (w + 2 ^ 32 - s.rd (R.SNS_RING_RD r)) % 2 ^ 32 then
    (s.snsCount32 R.SNS_DROP).stick R.SNS_STAT_ovf fun d => d.raise Ev.SNS_RING_OVF [(12, (r : Int))]
  else
    let a := s.rd (R.SNS_RING_BASE r) / 8 * 8 + w % n * 8
    (if a + 8 ≤ 0x200000 then s.setLe a 8 rec else s).inc64 (R.SNS_RING_WR_LO r) 1

/-- The oldest result still to come: a code, or every code of an averaged entry, eight clocks after its last conversion start (Table 19-3). -/
def senseResult (codes : List (BitVec 14)) (s : Dev) : Dev :=
  match s.sns.runs with
  | [] => s
  | x :: rest =>
    let need := if x.avg then x.reps else 1
    let at_ := x.start + (if x.avg then x.reps - 1 else x.given) + 8
    if codes.length ≠ need ∨ s.snsClk < at_ then s
    else
      let v := s.snsCorrect x.input (snsMean (codes.map (·.toNat)))
      let left := if x.avg ∨ x.reps ≤ x.given + 1 then rest else { x with given := x.given + 1 } :: rest
      let s1 := (s.setSns { s.sns with runs := left }).snsForm x.input v
      match x.ring with
      | some r => s1.snsPut r (s1.snsRecord x v)
      | none => s1

def execSenseResult (codes : List (BitVec 14)) := act (senseResult codes)

/-! ### Manual conversions (R437) -/

def manualRequest (v : Word) (s : Dev) : Dev :=
  let i := v.toNat % 64
  if 44 ≤ i then ((s.wr R.SNS_MAN_RES 0x30000).setB R.SNS_STAT_cfg_bad true).setSns { s.sns with man := none }
  else (s.wr R.SNS_MAN_RES 0).setSns { s.sns with man := some (v.toNat % 2 ^ 15, s.snsClk) }

def execManualConversionRequest (v : Word) := act (manualRequest v)

/-- The manual conversion at the first clock in which no entry converts or settles; the command comes once its last result is formed. -/
def manualRun (codes : List (BitVec 14)) (s : Dev) : Dev :=
  match s.sns.man with
  | none => s
  | some (w, r) =>
    let i := w % 64
    let reps := bits w 6 8 + 1
    let first :=
      if !s.sns.run || s.phase == 0 then true
      else match s.snsDelayEnd (s.snsEntry s.sns.k).1 with | some b => s.manFirst b | none => true
    let start := max (s.sns.last + 1) r + s.snsSettle i
    if codes.length ≠ reps ∨ !first ∨ !s.sns.runs.isEmpty ∨ s.snsClk < start + reps + 7 then s
    else
      let s1 := (s.setSns { s.sns with man := none, input := some i, byMan := true, last := start + reps - 1 }).inc64 R.SNS_CONV reps
      let vs := if bit w 14 then [s1.snsCorrect i (snsMean (codes.map (·.toNat)))] else codes.map fun c => s1.snsCorrect i c.toNat
      let s2 := vs.foldl (fun s v => s.snsForm i v) s1
      (s2.set R.SNS_MAN_RES_value (toBits 16 (vs.getLast?.getD 0))).setB R.SNS_MAN_RES_done true

def execManualConversionRun (codes : List (BitVec 14)) := act (manualRun codes)

end Sys2Proof.Machine
end

