-- ==== Sys2Proof/Machine/Ageing.lean ====
section
/-!
DEFINITION. Ageing monitors and the margin model (R443–R449).
-/

namespace Sys2Proof.Machine

def Dev.setAge (x : AgeSt) (s : Dev) : Dev := { s with age := x }

/-! ### Measurements (R444, R445) -/

/-- The monitors of a group, the first and how many (Table 19-5). -/
def ageGroup (g : Nat) : Nat × Nat :=
  if g < 24 then (8 * g, 8)
  else
    match g with
    | 24 => (192, 64) | 25 => (256, 32) | 26 => (288, 34) | 27 => (322, 16) | 32 => (370, 14)
    | _ => (338 + 8 * (g - 28), 8)

/-- A measurement starts, unless one runs. -/
def Dev.ageStart (s : Dev) : Dev :=
  if s.age.busy.isSome then s else (s.setAge { s.age with busy := some s.time.clk }).setB R.AGE_STAT_busy true

def execAgeMeasRequest := act fun s => s.ageStart

/-- MTC's seconds. -/
def Dev.mtcSec (s : Dev) : Nat := (s.clock 1).sec

/-- 86,400 s of MTC time after the last measurement, while boot is complete. -/
def ageTimer (s : Dev) : Dev :=
  match s.age.lastSec with
  | some t => if s.flag R.SYS_BOOT_STAT_done ∧ t + 86400 ≤ s.mtcSec then s.ageStart else s
  | none => s

def execAgeMeasureTimer := act ageTimer

/-- The group of a monitor. -/
def ageGroupOf (m : Nat) : Nat := ((List.range 33).find? fun g => let (a, n) := ageGroup g; decide (a ≤ m) && decide (m < a + n)).getD 32

/-- The clock of a group's block in units of 10 kHz (Table 1-2, R447). -/
def Dev.ageBlockClock (s : Dev) (g : Nat) : Nat :=
  if g < 24 then (match s.get (R.POD_PSTAT_clk g) with | 0 => 160000 | 1 => 150000 | _ => 140000)
  else if g = 26 then 98304 else if g = 32 then 80000 else 120000

/-- D of monitor `m` in ppm as a numerator and a denominator, against its factory baseline; none where it counts zero or no setting fails (R444). -/
def Dev.monD (s : Dev) (m : Nat) (r : MonReading) : Option (Int × Nat) :=
  let base := Config.ageBaseline m (s.otp (0x9E0 + 4 * m) 4)
  match r with
  | .pair f_s f_r =>
    if m % 2 = 1 ∨ f_s.toNat = 0 ∨ f_r.toNat = 0 then none
    else some (((f_r.toNat : Int) - f_s.toNat) * 1000000 - base * f_r.toNat, f_r.toNat)
  | .replica none => none
  | .replica (some k) => if m % 2 = 0 then none else some (base * 100 - ((2 * k.toNat * s.ageBlockClock (ageGroupOf m) : Nat) : Int), 100)

/-- Each monitor's D, within what AGE_MON can show, and whether it is bad: it gives none, or reads below −2,000 ppm. How a fraction of a ppm is rounded is not given,
nor what a monitor that gives none shows: free. -/
def Dev.monReadings (s : Dev) (l : List MonReading) : List (Int × Bool) :=
  (l.zip (List.range l.length)).map fun p =>
    match s.monD p.2 p.1 with
    | none => (toSigned 21 (Config.freeNat s.freeCtr p.2), true)
    | some (n, k) =>
      let d := clampInt (n.fdiv k + (if n.fmod k = 0 then 0 else ((Config.freeNat s.freeCtr p.2 % 2 : Nat) : Int))) (-1048576) 1048575
      (d, decide (d < -2000))

/-- Each monitor shown, the bad ones logged. -/
def Dev.ageMonitors (l : List (Int × Bool)) (s : Dev) : Dev :=
  (l.zip (List.range l.length)).foldl (fun s p =>
    let s1 := (s.setS (R.AGE_MON_d p.2) p.1.1).setB (R.AGE_MON_bad p.2) p.1.2
    if p.1.2 then (s1.setB R.AGE_STAT_mon_bad true).raise Ev.AGE_MON_BAD [(9, (p.2 : Int))] else s1) s

/-- The largest D of the monitors of a group that are not bad, and the first monitor that gives it. -/
def groupD (l : List (Int × Bool)) (g : Nat) : Option (Int × Nat) :=
  let (a, n) := ageGroup g
  (nums a n).foldl (fun best m =>
    match l[m]? with
    | some r => if r.2 then best else match best with
      | some (d, k) => if d < r.1 then some (r.1, m) else some (d, k)
      | none => some (r.1, m)
    | none => best) none

/-- The largest group value, and the first group that gives it. -/
def worstGroup (ds : List (Option Int)) : Int × Nat :=
  ((ds.zip (List.range ds.length)).foldl (fun best p =>
    match p.1, best with
    | some d, some (e, g) => if e < d then some (d, p.2) else some (e, g)
    | some d, none => some (d, p.2)
    | none, b => b) (none : Option (Int × Nat))).getD (0, 0)

/-! ### The margin model (R446–R448) -/

/-- ΔV in mV for a largest D: 1 mV per 1,000 ppm in steps of 5 mV, within the budget. -/
def voltageFor (budget : Nat) (d : Int) : Nat := if d ≤ 0 then 0 else min budget (5 * ((d.toNat + 4999) / 5000))

/-- ppm that a clock code covers beyond ΔV. -/
def clockSlack (c : Nat) : Nat := match c with | 0 => 0 | 1 => 66667 | _ => 142857

/-- The clock code of the highest clock that covers D. -/
def clockFor (dv : Nat) (d : Int) : Nat :=
  if d ≤ 1000 * dv then 0 else if d ≤ 1000 * dv + 66667 then 1 else 2

/-- The limit of a group's D (R448). -/
def ageLimit (g dv budget : Nat) : Nat := if g < 24 then 1000 * dv + 142857 else 1000 * budget

/-- A pod's clock after a measurement: at once in APPLY, else at the switch of an AGEING re-placement. -/
def Dev.ageClock (atApply : Bool) (p c : Nat) (s : Dev) : Dev :=
  let cur := match s.age.clk.find? (·.1 == p) with | some (_, k) => k | none => s.get (R.POD_PSTAT_clk p)
  if c ≤ cur then s
  else if atApply then (s.set (R.POD_PSTAT_clk p) c).set (R.AGE_GRP_INFO_clk p) c
  else
    let s1 := s.raiseOf Ev.AGE_CLK_STEP 5 p [(2, (c : Int))]
    (s1.setAge { s1.age with clk := tins s1.age.clk p c }).trigger 2 0 p

/-- An exhausted group logged; an exhausted pod is a fault, any other group leaves no life. -/
def Dev.ageExhausted (g : Nat) (d : Int) (s : Dev) : Dev :=
  let s1 := ((s.setB (R.AGE_GRP_INFO_exh g) true).setB R.AGE_STAT_exhausted true).raise Ev.AGE_EXHAUSTED [(6, (g : Int)), (32, d)]
  if g < 24 then s1.trigger 1 0 g else s1.set R.AGE_LIFE_days 0

/-! ### Life (R449) -/

/-- A group's estimate in days: none before two measurements 24 h apart, or while D does not grow. -/
def Dev.groupLife (s : Dev) (g : Nat) (d : Int) (limit : Nat) : Option Nat :=
  let now := s.mtcSec
  let mine := s.age.hist.filterMap fun e => (e.2[g]?).join.map fun x => (e.1, x)
  let old := mine.any fun e => decide (e.1 + 86400 ≤ now)
  match mine.find? fun e => decide (now ≤ e.1 + 7 * 86400) with
  | none => none
  | some (t, d0) =>
    if !old ∨ d ≤ 0 ∨ d ≤ d0 ∨ now ≤ t then none
    else
      let n := d.toNat
      let m := (d - d0).toNat
      some (min (n * (now - t) * (limit ^ 4 - n ^ 4) / (4 * m * n ^ 4 * 3600 * 24)) 0xFFFE)

/-- AGE_LIFE: the least estimate. -/
def Dev.ageLife (ds : List (Option Int)) (dv budget : Nat) (s : Dev) : Dev :=
  let l := (ds.zip (List.range ds.length)).filterMap fun p => p.1.bind fun d => s.groupLife p.2 d (ageLimit p.2 dv budget)
  match l with
  | [] => s
  | a :: r => s.set R.AGE_LIFE_days (r.foldl min a)

/-! ### A measurement completes -/

/-- The readings taken and R446–R449 applied. In APPLY the clocks change at once. -/
def Dev.ageApply (atApply : Bool) (readings : List MonReading) (s : Dev) : Dev :=
  let l := s.monReadings readings
  let s1 := s.takeFree.ageMonitors l
  let gs := (List.range 33).map (groupD l)
  let s2 := (gs.zip (List.range 33)).foldl (fun s p =>
    match p.1 with
    | some (d, m) => (s.setS (R.AGE_GRP_D_d p.2) d).set (R.AGE_GRP_INFO_worst p.2) m
    | none => s) s1
  let ds := gs.map fun g => g.map (·.1)
  let (top, wg) := worstGroup ds
  let sat := s2.rd R.AGE_MEAS_CNT = 0xFFFFFFFE
  let s3 := (s2.incSat R.AGE_MEAS_CNT R.AGE_STAT_cnt_ovf Ev.AGE_CNT_SAT [] 1)
  let s4 := (if sat then s3.setB R.AGE_STAT_cnt_ovf true else s3).raise Ev.AGE_MEASURE [(32, top), (6, (wg : Int)), (16, ((s3.get R.AGE_LIFE_days : Nat) : Int))]
  let budget := s4.get R.AGE_VOFS_budget
  let dv := max (s4.get R.AGE_VOFS_ofs) (voltageFor budget top)
  let s5 := s4.set R.AGE_VOFS_ofs dv
  let s6 := (List.range 24).foldl (fun s p => match (ds[p]?).join with | some d => s.ageClock atApply p (clockFor dv d) | none => s) s5
  let s7 := s6.ageLife ds dv budget
  let s8 := (List.range 33).foldl (fun s g =>
    match (ds[g]?).join with
    | some d => if (ageLimit g dv budget : Int) < d then s.ageExhausted g d else s.setB (R.AGE_GRP_INFO_exh g) false
    | none => s) s7
  (s8.setAge { s8.age with busy := none, lastSec := some s8.mtcSec, hist := s8.age.hist ++ [(s8.mtcSec, ds)] }).setB R.AGE_STAT_busy false

/-- The measurement that runs completes, after the 2^20 SYSREF cycles of its counts. -/
def ageMeasure (l : List MonReading) (s : Dev) : Dev :=
  match s.age.busy with
  | none => s
  | some t =>
    if l.length ≠ 384 ∨ s.time.clk < t + 20615844 then s
    else let s1 := s.ageApply false l; s1.setAge { s1.age with stepAt := s.time.clk }

def execAgeMeasure (readings : List MonReading) := act (ageMeasure readings)

/-! ### Steps of VDD_CORE (R446, R453) -/

/-- Regulators of rail 0. -/
def Dev.coreRegulators (s : Dev) : List Nat := s.regulators.filter fun k => s.get (R.PWR_REG_rail k) == 0

/-- One step of 5 mV, a millisecond after the last one. A failed transaction leaves the step for the next time. -/
def ageVstep (pmb : List (Fin 8 × BitVec 8)) (s : Dev) : Dev :=
  let cur := s.get R.AGE_VSET_mv - s.age.start
  let tgt := s.get R.AGE_VOFS_ofs
  if tgt ≤ cur ∨ !s.flag R.SYS_BOOT_STAT_done ∨ s.time.clk < s.age.stepAt + 983040 then s
  else
    let bad := pmb.filter fun e => s.coreRegulators.contains e.1
    let mv := s.age.start + min (cur + 5) tgt
    let s1 := (s.setAge { s.age with stepAt := s.time.clk }).pmbSend (bad.map fun e => s.get (R.PWR_REG_addr e.1)) (s.coreSet mv)
    if !bad.isEmpty then s1.pmbErrors bad
    else (s1.set R.AGE_VSET_mv mv).raise Ev.AGE_VSTEP [(7, (cur : Int)), (7, ((min (cur + 5) tgt : Nat) : Int))]

def execAgeVstep (pmb : List (Fin 8 × BitVec 8)) := act (ageVstep pmb)

end Sys2Proof.Machine
end

