-- ==== Sys2Proof/Machine/Image.lean ====
section
/-!
DEFINITION. The Gonen image: its layout in a bank of the flash and the checks that make it valid (R388, R389, R393–R401, R441).
-/

namespace Sys2Proof.Machine

/-! ### Reading a bank -/

/-- The flash offset of a bank, and the bytes it holds (Table 17-3). -/
def bankBase (k : Nat) : Nat := if k = 0 then 0 else 0x03800000
def bankSize : Nat := 58720256

/-- A little-endian value of `n` bytes at an offset of the image in bank `k`. -/
def Dev.ib (s : Dev) (k o n : Nat) : Nat := leNat (s.fbytes (bankBase k + o) n)

/-- Word `i` of a body that starts at offset `o`. -/
def Dev.iw (s : Dev) (k o i : Nat) : Nat := s.ib k (o + 4 * i) 4

/-- Words `a` to `a + n - 1` of a body are zero. -/
def Dev.iz (s : Dev) (k o a n : Nat) : Bool := (nums a n).all fun i => s.iw k o i == 0

def Dev.imgLength (s : Dev) (k : Nat) : Nat := s.ib k 0x08 4
def Dev.imgSeq (s : Dev) (k : Nat) : Nat := s.ib k 0x10 8
def Dev.imgCommitted (s : Dev) (k : Nat) : Bool := s.ib k 0x20 4 == 0

/-- A section of an image: its header's fields, the offset of its body, and whether its last 16 header bytes are zero. -/
structure Section where
  type : Nat
  inst : Nat
  len : Nat
  crc : Nat
  sver : Nat
  flags : Nat
  at_ : Nat
  blank : Bool
deriving DecidableEq, Repr

/-- `n` sections from offset `o`; none where they do not end exactly at `stop`. -/
def Dev.walkSections (s : Dev) (k stop o n : Nat) : Option (List Section) :=
  match n with
  | 0 => if o = stop then some [] else none
  | n + 1 =>
    let len := s.ib k (o + 4) 4
    let next := o + 32 + (len + 7) / 8 * 8
    if stop < next then none
    else
      let x : Section := ⟨s.ib k o 2, s.ib k (o + 2) 2, len, s.ib k (o + 8) 4, s.ib k (o + 12) 2, s.ib k (o + 14) 2, o + 32,
        s.ib k (o + 16) 16 == 0⟩
      (s.walkSections k stop next n).map (x :: ·)

def Dev.sections (s : Dev) (k : Nat) : Option (List Section) := s.walkSections k (s.imgLength k) 256 (s.ib k 0x0C 2)

/-- The body of a section. -/
def Dev.sectionBody (s : Dev) (k : Nat) (x : Section) : List Nat := s.fbytes (bankBase k + x.at_) x.len

/-- The first section of a type. -/
def Dev.sectionOf (s : Dev) (k type : Nat) : Option Section := ((s.sections k).getD []).find? (·.type == type)

/-! ### Checks 1 to 5 (R389) -/

/-- magic, version, rev and the zero fields. -/
def Dev.check1 (s : Dev) (k : Nat) : Bool :=
  s.ib k 0 4 == 0x4E4E4F47 && s.ib k 4 2 == 1 && s.ib k 6 2 == 0 && s.ib k 0x0E 2 == 0 && s.ib k 0x18 2 == 2 && s.ib k 0x1A 6 == 0 &&
    s.ib k 0x24 28 == 0 && s.ib k 0x60 160 == 0

/-- The length and the sections that fill it. -/
def Dev.check2 (s : Dev) (k : Nat) : Bool :=
  let n := s.imgLength k
  let c := s.ib k 0x0C 2
  decide (512 ≤ n) && decide (n ≤ bankSize) && n % 8 == 0 && decide (1 ≤ c) && decide (c ≤ 255) && (s.sections k).isSome

/-- The digest (R388). -/
def Dev.check3 (s : Dev) (k : Nat) : Bool :=
  let b := bankBase k
  let body := s.fbytes b 0x20 ++ [255, 255, 255, 255] ++ s.fbytes (b + 0x24) 28 ++ List.replicate 32 0 ++ s.fbytes (b + 0x60) (s.imgLength k - 0x60)
  sha256 body == s.fbytes (b + 0x40) 32

/-- A section's CRC and the zero fields of its header. -/
def Dev.check4 (s : Dev) (k : Nat) (x : Section) : Bool :=
  crc32c (s.sectionBody k x) == x.crc && x.sver == 1 && decide (x.flags < 2) && x.blank && (x.type == 0x10 || x.inst == 0)

/-- The types that Table 17-6 knows, with how many of each an image may hold. -/
def sectionMost (type : Nat) : Option Nat :=
  match type with
  | 1 => some 1 | 2 => some 1 | 3 => some 1 | 4 => some 1 | 5 => some 1 | 0x10 => some 16 | 0x11 => some 1 | 0x20 => some 1 | 0x30 => some 1
  | 0x40 => some 1 | 0xF0 => some 255 | _ => none

/-- The types of which an image holds at least one. -/
def sectionNeeded : List Nat := [1, 2, 3, 4, 0x10, 0x11, 0x20, 0x30]

/-- A section may follow those before it. -/
def check5At (before : List Section) (x : Section) : Bool :=
  match sectionMost x.type with
  | none => x.flags % 2 == 0
  | some n => decide ((before.filter (·.type == x.type)).length < n) &&
      (x.type != 0x10 || before.all fun y => y.type != 0x10 || y.inst != x.inst)

/-! ### Check 6: contents -/

/-- The cell plan (R393). PRACH words 2 and 3 are the planner's. -/
def Dev.cellPlanOk (s : Dev) (k : Nat) (x : Section) : Bool :=
  let o := x.at_
  let nc := s.ib k o 2
  let ns := s.ib k (o + 2) 2
  let c := fun i => o + 16 + 64 * i
  let e := fun i => o + 16 + 64 * nc + 16 * i
  let cells := (List.range nc).map fun i => s.ib k (c i) 1
  let sets := (List.range ns).map fun i => s.ib k (e i) 1
  decide (1 ≤ nc) && decide (nc ≤ 256) && decide (ns ≤ 256) && s.iz k o 1 3 && x.len == 16 + 64 * nc + 16 * ns &&
    cells.eraseDups.length == nc && sets.eraseDups.length == ns &&
    ((List.range nc).all fun i =>
      let w := s.iw k (c i)
      let nl := bits (w 0) 24 7
      !bit (w 0) 31 && decide (1 ≤ nl) && decide (nl ≤ 64) && bits (w 1) 25 7 == 0 && decide (1 ≤ bits (w 7) 0 5) && bits (w 7) 14 18 == 0 &&
        decide (w 9 < 16) && bits (w 10) 26 6 == 0 && s.iz k (c i) 12 4) &&
    (List.range ns).all fun i => bits (s.iw k (e i) 0) 22 10 == 0 && s.iz k (e i) 1 3

/-- The link plan (R394). -/
def Dev.linkPlanOk (s : Dev) (k : Nat) (x : Section) : Bool :=
  let o := x.at_
  let n := s.iw k o 0 % 2048
  let t := s.iw k o 1
  decide (1 ≤ n) && decide (n ≤ 1024) && decide (100 ≤ t) && decide (t ≤ 60000) && x.len == 16 + 80 * n &&
    (List.range n).all fun i => s.iz k (o + 16 + 80 * i) 17 3

/-- The time plan (R395). -/
def Dev.timePlanOk (s : Dev) (k : Nat) (x : Section) : Bool :=
  let w := s.iw k x.at_
  let ptp := fun v => decide (24 ≤ bits v 16 8) && decide (bits v 16 8 ≤ 43) && bits v 24 8 == 0
  x.len == 512 && decide (10 ≤ w 7) && decide (w 7 ≤ 3600) && ptp (w 48) && ptp (w 49) && bits (w 50) 16 16 == 0 && s.iz k x.at_ 51 77

/-- The power plan (R396, Table 20-3). -/
def Dev.powerPlanOk (s : Dev) (k : Nat) (x : Section) : Bool :=
  let w := s.iw k x.at_
  let v := bits (w 2) 0 16
  let c := bits (w 2) 16 16
  x.len == 128 && decide (650 ≤ v) && decide (v ≤ c) && decide (c ≤ 850) && ((nums 3 8).all fun i => decide (bits (w i) 8 8 ≤ 7)) && s.iz k x.at_ 11 21

/-- User calibration (R401). -/
def Dev.userCalOk (s : Dev) (k : Nat) (x : Section) : Bool :=
  let n := s.iw k x.at_ 0
  decide (1 ≤ n) && decide (n ≤ 2048) && x.len == 16 + 8 * n &&
    (List.range n).all fun i =>
      let w := s.iw k (x.at_ + 16) (2 * i)
      bits w 14 18 == 0 && decide (bits w 4 10 < calItems (w % 16))

/-- Engine firmware (R398). -/
def Dev.engineFwOk (s : Dev) (k : Nat) (x : Section) : Bool :=
  let im := s.iw k x.at_ 0
  let dm := s.iw k x.at_ 1
  im % 8 == 0 && dm % 8 == 0 && decide (im ≤ 65536) && decide (dm ≤ 65536) && x.len == 32 + im + dm && s.iz k x.at_ 3 5

/-- Laruri firmware (R398). -/
def Dev.laruriFwOk (s : Dev) (k : Nat) (x : Section) : Bool :=
  let n := s.iw k x.at_ 1
  decide (s.iw k x.at_ 0 + n ≤ 0x200000) && x.len == 32 + n

/-- The sense sequences (R441): fields and inputs. -/
def Dev.senseFieldsOk (s : Dev) (k o : Nat) : Bool :=
  bits (s.iw k o 0) 12 20 == 0 && s.iz k o 1 15 && s.iz k o 0xC0 64 &&
    ((List.range 64).all fun i =>
      let a := s.iw k (o + 0x80) (2 * i)
      !bit a 15 && decide (a % 64 < 44) && decide (s.iw k (o + 0x80) (2 * i + 1) < 32)) &&
    (List.range 16).all fun i => let c := s.iw k (o + 0x280) (2 * i + 1); decide (c < 8) && c % 4 != 3

/-- The entries of the section's table. -/
def Dev.senseEntries (s : Dev) (k o : Nat) : List (Nat × Nat) :=
  (List.range (s.iw k o 0 % 64 + 1)).map fun i => (s.iw k (o + 0x80) (2 * i), s.iw k (o + 0x80) (2 * i + 1))

/-- The rings that the entries write: start and end of each. -/
def Dev.senseRings (s : Dev) (k o : Nat) : List Nat :=
  (List.range 8).filter fun r => (s.senseEntries k o).any fun e => !bit e.2 4 && e.2 % 8 == r

/-- The rings used lie in Laruri memory, have a size in range and do not overlap. -/
def Dev.senseRingsOk (s : Dev) (k o : Nat) : Bool :=
  let l := s.senseRings k o
  let base := fun r => s.iw k (o + 0x40) (2 * r)
  let size := fun r => s.iw k (o + 0x40) (2 * r + 1)
  let stop := fun r => base r + 8 * 2 ^ size r
  l.all fun r => decide (4 ≤ size r) && decide (size r ≤ 16) && decide (stop r ≤ 0x200000) &&
    l.all fun q => q == r || decide (stop r ≤ base q) || decide (stop q ≤ base r)

/-- First and last conversion start of each entry, in clocks from the start of the loop, and the loop's length. -/
def senseStarts (settle prev : Nat) (l : List (Nat × Nat)) (t : Nat) : List (Nat × Nat × Nat) × Nat :=
  match l with
  | [] => ([], t)
  | (a, _) :: r =>
    let d := bits a 16 16
    let i := a % 64
    let first := t + 1 + (if bit a 14 then 167 * max d 1 else d) + (if i = prev then 0 else settle)
    let last := first + bits a 6 8
    let (out, n) := senseStarts settle i r last
    ((i, first, last) :: out, n)

/-- The longest wait between two conversion starts of an input. -/
def senseGap (starts : List (Nat × Nat × Nat)) (loop i : Nat) : Option Nat :=
  match starts.filter (·.1 == i) with
  | [] => none
  | f :: r =>
    let next := r ++ [(i, f.2.1 + loop, 0)]
    some (((f :: r).zip next).foldl (fun m p => max m (p.2.2.1 - p.1.2.2)) 0)

/-- The section's guarded inputs are converted often enough, and SNS_00's limits lie in the range of VDD_CORE. -/
def Dev.senseGuardOk (s : Dev) (k o : Nat) : Bool :=
  let l := s.senseEntries k o
  let prev := match l.getLast? with | some e => e.1 % 64 | none => 0
  let (starts, loop) := senseStarts (bits (s.iw k o 0) 6 4) prev l 0
  let act := fun i => if i = 0 then 2 else if i < 16 then s.iw k (o + 0x280) (2 * i + 1) % 4 else if i < 40 then 2 else 0
  let lim := s.iw k (o + 0x280) 0
  let within := fun v => !belowMv (toSigned 16 v) 625 && !aboveMv (toSigned 16 v) 875
  within (bits lim 0 16) && within (bits lim 16 16) &&
    (List.range 40).all fun i => act i != 2 || match senseGap starts loop i with | some g => decide (g ≤ 80000) | none => false

def Dev.senseOk (s : Dev) (k : Nat) (x : Section) : Bool :=
  x.len == 1024 && s.senseFieldsOk k x.at_ && s.senseRingsOk k x.at_ && s.senseGuardOk k x.at_

/-- The placement policy (R397). -/
def Dev.policyOk (s : Dev) (k : Nat) (x : Section) : Bool := x.len == 64 && s.iz k x.at_ 2 14

/-- An address of Table 17-9. -/
def preloadable (a : Nat) : Bool :=
  a % 4 == 0 &&
    ((decide (R.ETH_QUAD_CTL 0 ≤ a) && decide (a ≤ R.ETH_QUAD_CTL 3)) || (decide (0x305000100 ≤ a) && decide (a < 0x305001100) && [0, 8, 12].contains (a % 0x100)) ||
      (decide (0x305100000 ≤ a) && decide (a < 0x305108000)) || [R.STO_CTL, R.STO_SCRUB_CFG, R.FEX_CTL, R.COD_CTL, R.TSK_CTL, R.PWR_LAUTO].contains a ||
      (decide (0x30801A200 ≤ a) && decide (a < 0x30801A600)))

/-- Register preload (R399). -/
def Dev.preloadOk (s : Dev) (k : Nat) (x : Section) : Bool :=
  let n := s.iw k x.at_ 0
  decide (1 ≤ n) && decide (n ≤ 4096) && x.len == 16 + 16 * n && (List.range n).all fun i => preloadable (s.ib k (x.at_ + 16 + 16 * i) 8)

def Dev.check6 (s : Dev) (k : Nat) (x : Section) : Bool :=
  match x.type with
  | 1 => s.cellPlanOk k x
  | 2 => s.linkPlanOk k x
  | 3 => s.timePlanOk k x
  | 4 => s.powerPlanOk k x
  | 5 => s.userCalOk k x
  | 0x10 => s.engineFwOk k x
  | 0x11 => s.laruriFwOk k x
  | 0x20 => s.senseOk k x
  | 0x30 => s.policyOk k x
  | 0x40 => s.preloadOk k x
  | _ => true

/-- The first check of R389 that the image in bank `k` fails, with the section where one is to blame. -/
def Dev.imageBad (s : Dev) (k : Nat) : Option (Nat × Option Nat) :=
  if !s.check1 k then some (1, none)
  else if !s.check2 k then some (2, none)
  else if !s.check3 k then some (3, none)
  else
    let l := (s.sections k).getD []
    let at_ := l.zip (List.range l.length)
    match at_.find? (fun p => !s.check4 k p.1), at_.find? (fun p => !check5At (l.take p.2) p.1), at_.find? (fun p => !s.check6 k p.1) with
    | some p, _, _ => some (4, some p.2)
    | none, some p, _ => some (5, some p.2)
    | none, none, b =>
      if sectionNeeded.any fun t => l.all (·.type != t) then some (5, none)
      else b.map fun p => (6, some p.2)

end Sys2Proof.Machine
end

