-- ==== Sys2Proof/Machine/Journal.lean ====
section
/-!
DEFINITION. The staging journal (R423).
-/

namespace Sys2Proof.Machine

/-- Record types: 1 STAGE, 2 STAGED, 3 TRIAL, 4 COMMIT. Records of 64 bytes fill the region from its start. -/
def journalAt (i : Nat) : Nat := 0x07000000 + i * 64
def journalSlots : Nat := 131072

/-- The CRC of a record, consumed taken as all ones. -/
def journalCrc (b : List Nat) : Nat := crc32c (b.take 20 ++ [255, 255, 255, 255] ++ (b.drop 24).take 36)

/-- A record's bytes. -/
def journalBytes (type bank seq len used : Nat) : List Nat :=
  let b := leBytes 2 type ++ leBytes 1 bank ++ leBytes 5 0 ++ leBytes 8 seq ++ leBytes 4 len ++ leBytes 4 used ++ List.replicate 36 0
  b ++ leBytes 4 (journalCrc b)

/-- A field of record `i`. -/
def Dev.jf (s : Dev) (i o n : Nat) : Nat := leNat (s.fbytes (journalAt i + o) n)

/-- Record `i` holds its CRC. -/
def Dev.journalGood (s : Dev) (i : Nat) : Bool := s.jf i 60 4 == journalCrc (s.fbytes (journalAt i) 64)

/-- The latest record of a type. -/
def Dev.journalLatest (s : Dev) (type : Nat) : Option Nat :=
  (List.range s.mgt.journal).reverse.find? fun i => s.jf i 0 2 == type && s.journalGood i

/-- A record written at the next place. -/
def Dev.journalAppend (b : List Nat) (s : Dev) : Dev :=
  let s1 := s.setFbytes (journalAt s.mgt.journal) b
  { s1 with mgt := { s1.mgt with journal := s1.mgt.journal + 1 } }

/-- The journal erased, and the records that govern written again in their order. -/
def Dev.journalPack (s : Dev) : Dev :=
  let keep := (List.range s.mgt.journal).filter fun i => [1, 2, 3, 4].any fun t => s.journalLatest t == some i
  let l := keep.map fun i => s.fbytes (journalAt i) 64
  let s1 := s.eraseFlash 0x07000000 0x800000
  l.foldl (fun s b => s.journalAppend b) { s1 with mgt := { s1.mgt with journal := 0 } }

/-- A record joins the journal. -/
def Dev.journalPut (type bank seq len : Nat) (s : Dev) : Dev :=
  let s1 := s.journalAppend (journalBytes type bank seq len 0xFFFFFFFF)
  if journalSlots ≤ s1.mgt.journal then s1.journalPack else s1

/-- The unconsumed trial record, and the bank it names (R390). -/
def Dev.trialRecord (s : Dev) : Option (Nat × Nat) :=
  match s.journalLatest 3 with
  | some i => if s.jf i 20 4 = 0xFFFFFFFF then some (i, s.jf i 2 1 % 2) else none
  | none => none

/-- The trial record programmed as consumed (R391). -/
def Dev.consumeTrial (s : Dev) : Dev := match s.trialRecord with | some (i, _) => s.setFbytes (journalAt i + 20) [0, 0, 0, 0] | none => s

/-- The STAGED record that governs for the inactive bank: no later STAGE record has opened a new staging. -/
def Dev.stagedRecord (s : Dev) : Option Nat :=
  match s.journalLatest 2 with
  | some i =>
    if s.jf i 2 1 ≠ 1 - s.get R.SYS_BOOT_STAT_bank then none
    else match s.journalLatest 1 with | some j => if i < j then none else some i | none => some i
  | none => none

/-- No STAGED record left for the inactive bank: one that stands is closed by a STAGE record (R424). -/
def Dev.closeStaged (s : Dev) : Dev :=
  match s.stagedRecord with
  | some i => s.journalPut 1 (s.jf i 2 1) (s.jf i 8 8) (s.jf i 16 4)
  | none => s

/-- MGT_STAT.staged brought up to date. -/
def Dev.showStaged (s : Dev) : Dev := s.setB R.MGT_STAT_staged s.stagedRecord.isSome

end Sys2Proof.Machine
end

