-- ==== Sys2Proof/Machine/Crossing.lean ====
section
/-!
DEFINITION. Crossings between clock domains and dies (R17, R18, R189–R194): the crossing FIFOs and the die-to-die bridges. Data that cross without
a fault arrive as they were; what a fault does to them is here.
-/

namespace Sys2Proof.Machine

/-- Samples of stream `a` that cross now are lost: uplink ones read as zero and erased, downlink ones leave as zero (R17, R193). The crossbar keeps their place: the count
at the crossing (DESIGN CHOICE, log 217). -/
def Dev.loseSample (a : Nat) (down : Bool) (s : Dev) : Dev :=
  let old := s.fex.lost.filter fun e => decide (s.time.cnt ≤ e.2.1 + 20 * halfSubTc)
  { s with fex := { s.fex with lost := (a, s.time.cnt, down) :: old } }

/-! ### Crossing FIFOs (R189–R194) -/

/-- Depth and width in bits of a FIFO by its identity; none for an instance that does not exist (Table 7-2). -/
def fifoShape (id : Nat) : Option (Nat × Nat) :=
  let i := id % 2 ^ 11
  match id / 2 ^ 12 with
  | 0 => if i < 1024 then some (64, 128) else none
  | 1 => if i < 24 then some (32, 512) else none
  | 2 => if i < 17 then some (64, 512) else none
  | 3 => if i = 0 then some (16, 64) else none
  | 4 => if i < 16 then some (64, 512) else none
  | 5 => if i = 0 then some (16, 64) else none
  | 6 => if i < 2 then some (16, 64) else none
  | 7 => if i = 0 then some (32, 64) else none
  | 8 => if i = 0 then some (32, 64) else none
  | 9 => if i = 0 then some (16, 64) else none
  | _ => none

def Dev.fifo (s : Dev) (id : Nat) : Crossing := tget {} s.sto.xf id
def Dev.setFifo (id : Nat) (x : Crossing) (s : Dev) : Dev := { s with sto := { s.sto with xf := tput {} s.sto.xf id x } }

/-- A crossing FIFO fault is counted, remembered and logged: an overflow each time, an underrun when its sticky bit rises (R192). -/
def Dev.fifoFault (id : Nat) (ended risen : Bool) (s : Dev) : Dev :=
  let s1 := s.stoCount (if ended then R.STO_XF_OVF else R.STO_XF_UNF)
  let s2 := ((s1.setB (if ended then R.STO_STAT_xf_ovf else R.STO_STAT_xf_unf) true).set R.STO_XF_LAST_id id).setB
    R.STO_XF_LAST_what ended
  if ended || risen then s2.raise (if ended then Ev.STO_XF_OVERFLOW else Ev.STO_XF_UNDERRUN) [(16, id)] else s2

/-- A write into a crossing FIFO (R192). -/
def fifoWrite (id : BitVec 16) (v : BitVec 512) (erase sync : Bool) (s : Dev) : Dev :=
  match fifoShape id.toNat with
  | none => s
  | some (depth, width) =>
    let x0 := s.fifo id.toNat
    let x := if sync then { x0 with wSeen := x0.rptr } else x0
    if (x.wptr + 2 * depth - x.wSeen) % (2 * depth) = depth then
      (s.setFifo id.toNat { x with ovf := true }).fifoFault id.toNat true (!x.ovf)
    else
      let x1 := { x with entries := x.entries ++ [(v.toNat % 2 ^ width, erase)], wptr := (x.wptr + 1) % (2 * depth) }
      s.setFifo id.toNat x1

def execFifoWrite (id : BitVec 16) (v : BitVec 512) (erase sync : Bool) := act (fifoWrite id v erase sync)

/-- A read from a crossing FIFO (R192, R193). `stream` is the antenna stream whose data the entry holds; none is a control word. Data passed on
with its erase flag set erase the symbols that they belong to; a control word that is lost is a bus error of its requester, which for every
FIFO but those of the pods is Laruri. -/
def fifoRead (id : BitVec 16) (fails : Fin 4) (stream : Option (Fin 2048)) (sync : Bool) (s : Dev) : Dev :=
  match fifoShape id.toNat with
  | none => s
  | some (depth, _) =>
    let x0 := s.fifo id.toNat
    let x := if sync then { x0 with rSeen := x0.wptr } else x0
    match x.entries with
    | e :: r =>
      if x.rptr = x.rSeen then
        (s.setFifo id.toNat { x with unf := true, lastErr := false }).fifoFault id.toNat false (!x.unf)
      else
        let n : Nat := fails
        let s1 := s.replays 3 0 (min n 2)
        let s2 := if n < 3 then s1 else (s1.stoCount R.STO_PERR_LOST).raise Ev.STO_PERR_LOST [(2, 3), (20, 0), (12, 0xFFF)]
        let x1 := { x with entries := r, last := e.1, rptr := (x.rptr + 1) % (2 * depth) }
        let s3 := s2.setFifo id.toNat { x1 with lastErase := e.2 || (n == 3 && stream.isSome), lastErr := n == 3 && stream.isNone }
        match stream with
        | some a => if e.2 || n == 3 then s3.loseSample a (bit id.toNat 11) else s3
        | none => if n = 3 ∧ id.toNat / 4096 ≠ 1 then { s3 with busErr := true } else s3
    | [] => (s.setFifo id.toNat { x with unf := true, lastErr := false }).fifoFault id.toNat false (!x.unf)

def execFifoRead (id : BitVec 16) (fails : Fin 4) (stream : Option (Fin 2048)) (sync : Bool) := act (fifoRead id fails stream sync)

/-- STO_CTL.xf_clr: every FIFO's sticky bits cleared. -/
def xfClear (s : Dev) : Dev :=
  { s with sto := { s.sto with xf := s.sto.xf.map fun e => (e.1, { e.2 with unf := false, ovf := false }) } }

def execXfClear := act xfClear

/-! ### Die bridge (R17) -/

/-- A bridge transfer: replays, and after a third failure erased stream data or a bus error. `stream` is the antenna stream whose samples cross,
with whether they go toward its lane; none is a control access of Laruri's. No exception of Table 12-6 is a bus error: it stands in the device until the
next control access, and no instruction traps on it (DESIGN CHOICE, log 216). -/
def bridgeTransfer (die : Fin 4) (stream : Option (Fin 2048 × Bool)) (fails : Fin 4) (s : Dev) : Dev :=
  let n : Nat := fails
  let s1 := s.replays 3 die (min n 2)
  let s2 := { s1 with busErr := false }
  if n < 3 then (if stream.isNone then s2 else s1)
  else
    let s3 := (s1.stoCount R.STO_PERR_LOST).raise Ev.STO_PERR_LOST [(2, 3), (20, (die : Nat)), (12, 0xFFF)]
    match stream with
    | some (a, down) => s3.loseSample a down
    | none => { s3 with busErr := true }

def execBridgeTransfer (die : Fin 4) (stream : Option (Fin 2048 × Bool)) (fails : Fin 4) := act (bridgeTransfer die stream fails)

end Sys2Proof.Machine
end

