-- ==== Sys2Proof/Machine/Registers.lean ====
section
/-!
DEFINITION. Reads and writes of the control blocks' registers (R8–R14): the access codes, and for each register with an effect of its own the
command it stands for.
-/

namespace Sys2Proof.Machine

/-! ### Places -/

/-- The index of an address in an array of registers. -/
def regIdx (base stride n a : Nat) : Option Nat :=
  if base ≤ a ∧ a < base + stride * n ∧ (a - base) % stride = 0 then some ((a - base) / stride) else none

/-- The control blocks (Table 21-2). -/
def isCtl (a : Nat) : Bool := decide (0x300000000 ≤ a) && decide (a < 0x311000000) && a % 4 == 0

/-- The plan of the image is applied: phase APPLY has set the setpoint of VDD_CORE. -/
def Dev.applied (s : Dev) : Bool := s.get R.AGE_VSET_mv != 0

/-! ### Reads (R9, R14, R48, R54) -/

/-- The low halves of 64-bit counters, of the air-time targets and of SYS_IMG_SEQ, and LNK_QUAL0: base, count and stride, count and
stride (R14; DESIGN CHOICE, log 13: masks, table words and load values are no 64-bit values in this sense). -/
def wideRows : List (Nat × Nat × Nat × Nat × Nat) :=
  [ (0x302000018, 1, 0x100000000000, 1, 4)
  , (0x302000030, 1, 0x100000000000, 1, 4)
  , (0x302000104, 16, 0x20, 1, 4)
  , (0x305000120, 16, 0x100, 1, 4)
  , (0x305000128, 16, 0x100, 1, 4)
  , (0x305000130, 16, 0x100, 1, 4)
  , (0x305000138, 16, 0x100, 1, 4)
  , (0x305000140, 16, 0x100, 1, 4)
  , (0x304000010, 1024, 0x1000, 1, 4)
  , (0x304000040, 1024, 0x1000, 1, 4)
  , (0x304000048, 1024, 0x1000, 1, 4)
  , (0x304000050, 1024, 0x1000, 1, 4)
  , (0x304000058, 1024, 0x1000, 1, 4)
  , (0x304000180, 1024, 0x1000, 1, 4)
  , (0x304000188, 1024, 0x1000, 1, 4)
  , (0x304000240, 1024, 0x1000, 1, 4)
  , (0x304000248, 1024, 0x1000, 1, 4)
  , (0x304000250, 1024, 0x1000, 1, 4)
  , (0x304000258, 1024, 0x1000, 1, 4)
  , (0x306000010, 1, 0x100000000000, 1, 4)
  , (0x307000018, 128, 0x100, 1, 4)
  , (0x307000020, 128, 0x100, 1, 4)
  , (0x307008000, 8, 0x10, 1, 4)
  , (0x307008008, 8, 0x10, 1, 4)
  , (0x308010010, 17, 0x10000, 1, 4)
  , (0x308010018, 17, 0x10000, 1, 4)
  , (0x308010020, 17, 0x10000, 1, 4)
  , (0x308010028, 17, 0x10000, 1, 4)
  , (0x309000800, 1, 0x100000000000, 1, 4)
  , (0x309000808, 1, 0x100000000000, 1, 4)
  , (0x309000810, 1, 0x100000000000, 1, 4)
  , (0x309000818, 1, 0x100000000000, 1, 4)
  , (0x309000110, 32, 0x20, 1, 4)
  , (0x30A000800, 1, 0x100000000000, 1, 4)
  , (0x30A000808, 1, 0x100000000000, 1, 4)
  , (0x30A000810, 1, 0x100000000000, 1, 4)
  , (0x30A000818, 1, 0x100000000000, 1, 4)
  , (0x30A000820, 1, 0x100000000000, 1, 4)
  , (0x30A000828, 1, 0x100000000000, 1, 4)
  , (0x30B000010, 192, 0x40, 1, 4)
  , (0x30B008004, 192, 0x20, 1, 4)
  , (0x30B00800C, 192, 0x20, 1, 4)
  , (0x30B00B000, 24, 0x10, 1, 4)
  , (0x30B00B008, 24, 0x10, 1, 4)
  , (0x30C000100, 1, 0x100000000000, 1, 4)
  , (0x30C000108, 1, 0x100000000000, 1, 4)
  , (0x30C000110, 1, 0x100000000000, 1, 4)
  , (0x30C000118, 1, 0x100000000000, 1, 4)
  , (0x30C001000, 8, 0x100, 32, 8)
  , (0x30C003008, 192, 0x10, 1, 4)
  , (0x30D000040, 1, 0x100000000000, 1, 4)
  , (0x300000110, 1, 0x100000000000, 1, 4)
  , (0x30E000020, 1, 0x100000000000, 1, 4)
  , (0x30E000028, 1, 0x100000000000, 1, 4)
  , (0x30F000018, 1, 0x100000000000, 1, 4)
  , (0x30F000108, 8, 0x20, 1, 4)
  , (0x301000018, 1, 0x100000000000, 1, 4) ]

/-- The address is the low half of a pair: a read of it latches the register after it. -/
def isWide (a : Nat) : Bool :=
  wideRows.any fun r => (RegRow.mk r.1 r.2.1 r.2.2.1 r.2.2.2.1 r.2.2.2.2 0 0 0 0).covers a

/-- The register answers from a latch: the high half of a pair, or an upper word of the FRC, of a PPS capture or of FBC or MTC. -/
def isHigh (a : Nat) : Bool :=
  isWide (a - 4) ||
    [R.TDOM_FRC_LO, R.TDOM_PPS_LO, R.TDOM_CLK_SEC_LO 0, R.TDOM_CLK_SEC_LO 1].any fun l => a == l + 4 || a == l + 8

/-- Registers that read 0: queue ports and the registers with write-only fields alone. -/
def readsZero (a : Nat) : Bool :=
  (match portPlace ((a - 0x30C100000) / 0x40) a with | .port => true | _ => false) ||
    [R.STO_RCMD, R.SNS_MAN, R.MGT_WDOG, R.AGE_CTL].contains a

/-- CAL_SEL and the values of the item it selects (Table 17-14). -/
def Dev.calRead (s : Dev) (a : Nat) : Nat :=
  let c := s.get R.CAL_SEL_class
  let i := s.get R.CAL_SEL_index
  let has := decide (i < calItems c) && s.sns.cal
  if a = R.CAL_SEL then s.rd a % 2 ^ 14 + b2n (calScale c) * 2 ^ 14 + b2n (s.calRecord c i).isSome * 2 ^ 15
  else if !has then 0
  else if a = R.CAL_FAC then toBits 32 (s.calFactory c i)
  else if a = R.CAL_USR then (if s.applied then toBits 32 (s.calUser c i) else 0)
  else toBits 32 (s.calEff c i)

/-- Seconds to the next scheduled measurement. -/
def Dev.ageNext (s : Dev) : Nat := match s.age.lastSec with | some t => t + 86400 - s.mtcSec | none => 0

/-- The value a register has now. -/
def Dev.regValue (s : Dev) (a : Nat) : Nat :=
  if readsZero a || s.portDead a then 0
  else if R.CAL_SEL ≤ a ∧ a ≤ R.CAL_EFF then s.calRead a
  else if a = R.TDOM_FRC_LO then bits s.time.frc 0 32
  else if a = R.TDOM_FRC_MID then bits s.time.frc 32 32
  else if a = R.TDOM_FRC_HI then bits s.time.frc 64 32
  else if a = R.TDOM_CLK_SEC_LO 0 ∨ a = R.TDOM_CLK_SEC_LO 1 then bits (s.clock ((a - R.TDOM_CLK_SEC_LO 0) / 0x40)).sec 0 32
  else if a = R.TDOM_CLK_SEC_HI 0 ∨ a = R.TDOM_CLK_SEC_HI 1 then bits (s.clock ((a - R.TDOM_CLK_SEC_HI 0) / 0x40)).sec 32 16
  else if a = R.TDOM_CLK_NS 0 ∨ a = R.TDOM_CLK_NS 1 then (s.clock ((a - R.TDOM_CLK_NS 0) / 0x40)).ns
  else if a = R.AIR_CTL then (if s.get R.AIR_CTL_crd_mu = 2 then s.rd a else s.rd a % 16)
  else if (regIdx (R.LNK_REF_STAT 0) 0x1000 4 a).isSome then s.refStat ((a - R.LNK_REF_STAT 0) / 0x1000)
  else if a = R.TDOM_RATE 3 then toBits 32 (satSigned 32 (s.time.hold3.rate / 2 ^ 16))
  else if (regIdx (R.TDOM_STAT 4) 0x40 4 a).isSome then setBits (s.rd a) 0 2 (s.domState ((a - R.TDOM_STAT 0) / 0x40))
  else if a = R.SNS_ICFG 0 then s.rd a / 4 * 4 + 2
  else if a = R.MGT_CINCH then s.cinchShow.rd a
  else if a = R.MGT_ENV_T then s.envSeconds
  else if a = R.AGE_NEXT then s.ageNext
  else if a = R.SYS_CLK_STAT then setBits (s.rd a) 1 1 (b2n (s.flag R.SYS_CLK_STAT_sysref_ok || s.pwr.sysBad.any fun t => decide (t + 98304 ≤ s.time.clk)))
  else if (regIdx (R.TSK_ESTAT 0) 0x10 192 a).isSome then setBits (s.rd a) 2 1 (b2n (s.eligible ((a - R.TSK_ESTAT 0) / 0x10)))
  else if 0x30C800000 ≤ a ∧ a < 0x30CA00000 then s.tdWord ((a - 0x30C800000) / 0x20) (a % 0x20 / 4)
  else s.rd a

/-- Words latched for the registers after this one. -/
def Dev.latchWords (a : Nat) (l : List Nat) (s : Dev) : Dev :=
  match l with
  | [] => s
  | v :: r => (s.latchAt a v).latchWords (a + 4) r

/-- A read of a register, with its latches; the word is the answer. A high half whose low half nothing has read answers 0 (DESIGN
CHOICE, log 13). -/
def Dev.regRead (a : Nat) (s : Dev) : Dev :=
  if !isCtl a then s.answer 0
  else if a = R.AIR_CNT_LO then airCntRead s
  else
    match regIdx (R.AIR_TRG_CAP_LO 0) 0x20 16 a, regIdx (R.TDOM_RD_LO 0) 0x40 8 a with
    | some n, _ => trgCapPop (portIdx 16 (by decide) n) s
    | none, some n => tdomRead (portIdx 8 (by decide) n) s
    | none, none =>
      let s0 := match regIdx (R.POD_EBUSY 0) 0x40 192 a with | some g => s.coreSync g | none => s
      if a = R.TDOM_FRC_LO ∨ a = R.TDOM_PPS_LO ∨ a = R.TDOM_CLK_SEC_LO 0 ∨ a = R.TDOM_CLK_SEC_LO 1 then
        (s0.latchWords (a + 4) [s0.regValue (a + 4), s0.regValue (a + 8)]).answer (s0.regValue a)
      else if isWide a then (s0.latchAt (a + 4) (s0.regValue (a + 4))).answer (s0.regValue a)
      else
        match s0.latch.find? (fun e => e.1 == a) with
        | some (_, v) => s0.answer v.toNat
        | none => s0.answer (if isHigh a then 0 else s0.regValue a)

/-- A read of the low half of a 64-bit value (R14). -/
def execLowHalfRead (a : BitVec 40) := act (Dev.regRead a.toNat)

/-! ### Writes by the access codes (Table 0-5, R10) -/

/-- The row of a register that has fields to write. -/
def rowOf (a : Nat) : Option RegRow := regRows.find? (·.covers a)

/-- The fields of a register written by their codes; RWL fields stay after boot completes, and the write is logged. -/
def Dev.plainWrite (a v : Nat) (s : Dev) : Dev :=
  match rowOf a with
  | none => s
  | some r =>
    let locked := r.rwl != 0 && s.flag R.SYS_BOOT_STAT_done
    let m := if locked then r.rw else Nat.lor r.rw r.rwl
    let old := s.rd a
    let kept := Nat.land old (0xFFFFFFFF - Nat.lor m (Nat.land r.w1c v))
    let s1 := s.wr a (Nat.lor (Nat.lor kept (Nat.land v m)) (Nat.land v r.w1s))
    if locked then s1.lockedWrite a else s1

/-! ### Writes with an effect of their own, by block -/

/-- Laruri firmware says that it runs (R382): LOAD ends. -/
def fwReady (s : Dev) : Dev :=
  let s1 := s.setB R.SYS_BOOT_CTL_fw_ready true
  if s.phase = 4 then s1.endPhase 5 else s1

def execFwReady := act fwReady

/-- The watchdog fed (R406). -/
def watchdogFeed (s : Dev) : Dev := { s with mgt := { s.mgt with fedAt := s.time.clk } }

def execWatchdogFeed (_v : Word) := act watchdogFeed

/-- SYS, PWR, MGT, SNS, AGE. -/
def Dev.writeSys (a v : Nat) (s : Dev) : Dev :=
  let w := BitVec.ofNat 32 v
  if a = R.SYS_BOOT_CTL then (if bit v 0 then fwReady s else s)
  else if a = R.PWR_REQ_LO then domainRequest false w s
  else if a = R.PWR_REQ_HI then domainRequest true w s
  else if a = R.MGT_WDOG then watchdogFeed s
  else if a = R.MGT_SEAL then (if s.flag R.MGT_SEAL_loop_open then s else s.plainWrite a v)
  else if a = R.SNS_CTL then snsCtl (bit v 0) w s
  else if a = R.SNS_MAN then manualRequest w s
  else if R.SNS_LIM 16 ≤ a ∧ a < R.SNS_LIM 40 then s
  else if R.SNS_LIM 48 ≤ a ∧ a < 0x30F001000 then s
  else if a = R.AGE_CTL then (if bit v 0 then s.ageStart else s)
  else
    let s1 := s.plainWrite a v
    match regIdx (R.SNS_ICFG 0) 0x10 48 a with
    | some i => if s1.get (R.SNS_ICFG_act i) = 3 then s1.setB R.SNS_STAT_cfg_bad true else s1
    | none => s1

/-- A write of the PLL's references: on the primary, the PLL moves to a new one within limits; the reserved code keeps the present one. -/
def Dev.hookPll (s : Dev) : Dev :=
  let was := s.time.pllPrim
  let now := s.get R.TDOM_PLL_ref
  if now = 3 ∨ was = now then s
  else
    let s1 : Dev := { s with time := { s.time with pllPrim := now, primaryOk := if s.refOk now then some s.time.clk else none } }
    if s.time.pllRef = some was ∧ s.refOk now then s1.setPllRef (some now) else s1

/-- A write of a trigger slot's register that arms nothing: a due target fires on what the slot held (R40), and an output slot that cannot
drive its pulse shows it (R42). -/
def Dev.writeTrg (n a v : Nat) (s : Dev) : Dev :=
  let s1 := (s.fireDue n).plainWrite a v
  if a = R.AIR_TRG_CTL n ∨ a = R.AIR_TRG_PER n then s1.trgCheck n else s1

/-- AIR and TDOM. Increments, load values and controls of FBC and MTC need level M (R67). -/
def Dev.writeTime (lvl : Level) (a v : Nat) (s : Dev) : Dev :=
  let w := BitVec.ofNat 32 v
  if a = R.AIR_CTL then
    let s0 := s.wr a (v % 32 / 2 * 2 + s.get R.AIR_CTL_arm)
    let s1 : Dev := if bit v 1 then s0 else { s0 with time := { s0.time with tqbD := none } }
    if bit v 0 then airStartArm s1 else airStartWithdraw s1
  else if a = R.TDOM_SEL then (s.plainWrite a v).reselect
  else if a = R.TDOM_PLL then (s.plainWrite a v).hookPll
  else if a = R.TDOM_LOAD_CTL then
    let s1 := s.plainWrite a v
    if bit v 3 then tdomLoad w s1 else s1
  else if R.TDOM_CLK_INC_FRAC 0 ≤ a ∧ a ≤ R.TDOM_CLK_CTL 1 ∧ 0x2C ≤ (a - 0x303000040) % 0x40 ∨ a = R.TDOM_CLK_CTL 0 ∨ a = R.TDOM_CLK_CTL 1 then
    let mtc := decide (R.TDOM_CLK_CTL 0 < a)
    if a = R.TDOM_CLK_INC_INT (b2n mtc) then clockIncWrite mtc w lvl s
    else if lvl ≠ .m then s.privWrite a lvl
    else if a = R.TDOM_CLK_CTL (b2n mtc) then (if bit v 0 then clockLoad mtc lvl s else s)
    else s.plainWrite a v
  else
    match regIdx (R.AIR_TRG_CTL 0) 0x20 16 (a / 0x20 * 0x20), regIdx (R.TDOM_DCTL 0) 0x40 8 (a / 0x40 * 0x40) with
    | some n, _ => if a = R.AIR_TRG_T_LO n then trgArm (portIdx 16 (by decide) n) w s else s.writeTrg n a v
    | none, some n =>
      let k := portIdx 8 (by decide) n
      if a = R.TDOM_DCTL n then (s.plainWrite a v).hookDctl n (s.rd a)
      else if a = R.TDOM_MEAS n then s.servo n w.toInt
      else if a = R.TDOM_RATE n then rateWrite k w s
      else if a = R.TDOM_ADJ n then phaseAdjust k w s
      else s.plainWrite a v
    | none, none => s.plainWrite a v


/-- LNK. -/
def Dev.writeLnk (a v : Nat) (s : Dev) : Dev :=
  let n := portIdx 1024 (by decide) ((a - 0x304000000) / 0x1000)
  let w := BitVec.ofNat 32 v
  match a % 0x1000 with
  | 0x000 => lineCfgWrite n w s
  | 0x004 =>
    let s1 := s.plainWrite a v
    if bit v 0 then coldTrainingRequest n s1 else if bit v 1 then warmRetrainRequest n s1 else s1
  | 0x100 => linkCfgWrite n false w s
  | 0x104 => linkCfgWrite n true w s
  | 0x128 => commandQueue n w s
  | 0x200 => s.writeTest n v
  | 0x204 => (s.plainWrite a v).hookTestCfg n (s.pat n)
  | 0x208 => (s.plainWrite a v).hookTestCfg n (s.pat n)
  | _ => s.plainWrite a v

/-- ETH. -/
def Dev.writeEth (a v : Nat) (s : Dev) : Dev :=
  if 0x305100000 ≤ a ∧ a < 0x305108000 then s.wr a (Nat.land v (lget 0 clsMasks (a % 0x20 / 4)))
  else if 0x305003800 ≤ a ∧ a < 0x305003C00 then s.portWrite a v
  else if s.portDead a then s
  else
    let s1 := s.plainWrite a v
    match regIdx (R.ETH_QUAD_CTL 0) 4 4 a, regIdx (R.ETH_PORT_CFG 0) 0x100 16 a with
    | some q, _ => if s.flag R.SYS_BOOT_STAT_done then s1 else s1.hookQuad q
    | none, some p => s1.set (R.ETH_PORT_CFG_max_len p) (s1.maxLen p)
    | none, none => s1

/-- STO, its ring ports, MOV. -/
def Dev.writeSto (a v : Nat) (s : Dev) : Dev :=
  if 0x306100000 ≤ a ∧ a < 0x306120000 then s.portWrite a v
  else if a = R.STO_CTL then
    let s1 := s.plainWrite a v
    let s2 := if bit v 2 then stoPeakClear s1 else s1
    if bit v 3 then xfClear s2 else s2
  else if a = R.STO_RCMD then
    let k := v % 4096
    match bits v 12 4 with
    | 1 => createRing k s
    | 2 => destroy k s
    | 3 => zeroCounts k s
    | _ => s.hookRcmd v
  else
    match regIdx (R.STO_CLS 0) 8 16 a with
    | some c => quotaWrite (portIdx 16 (by decide) c) (BitVec.ofNat 32 v) s
    | none => s.plainWrite a v

def Dev.writeMov (a v : Nat) (s : Dev) : Dev :=
  if a < 0x307008000 ∧ 0x40 ≤ a % 0x100 ∧ a % 0x100 < 0x80 then s.portWrite a v
  else
    match regIdx (R.MOV_CH_CTL 0) 0x100 128 a with
    | some c =>
      let k := portIdx 128 (by decide) c
      let s1 := if bit v 0 then channelStop k s else s
      if bit v 1 then channelClear k s1 else s1
    | none => s.plainWrite a v

/-- FEX: the clusters' queue ports and tables. -/
def Dev.writeFex (a v : Nat) (s : Dev) : Dev :=
  if 0x308010000 ≤ a ∧ a < 0x308120000 then
    let c := (a - 0x308010000) / 0x10000
    let o := a % 0x10000
    if 0x100 ≤ o ∧ o < 0x120 then s.portWrite a v
    else if 0x8000 ≤ o ∧ o < 0xA000 then
      slotDescriptorWrite (portIdx 17 (by decide) c) (portIdx 128 (by decide) ((o - 0x8000) / 0x40)) (portIdx 16 (by decide) (o % 0x40 / 4)) (BitVec.ofNat 32 v) s
    else if 0xA000 ≤ o ∧ o < 0xA100 then s.prachWrite c ((o - 0xA000) / 0x10) (o % 0x10 / 4) v
    else if 0xA200 ≤ o ∧ o < 0xA400 then s.wr a (v % 2 ^ 26)
    else if (0xA400 ≤ o ∧ o < 0xA600) ∨ 0xC000 ≤ o then s.wr a v
    else s.plainWrite a v
  else s.plainWrite a v

/-- SCA and COD. -/
def Dev.writeSca (a v : Nat) (s : Dev) : Dev :=
  if 0x309001000 ≤ a ∧ a < 0x309001800 then s.portWrite a v
  else
    match regIdx (R.SCA_HCFG 0) 0x20 32 a, regIdx (R.SCA_HCTL 0) 0x20 32 a with
    | some h, _ => harnessConfigWrite (portIdx 32 (by decide) h) (BitVec.ofNat 32 v) s
    | none, some h =>
      let k := portIdx 32 (by decide) h
      let s1 := if bit v 0 then harnessStop k s else s
      if bit v 1 then harnessClear k s1 else s1
    | none, none => s.plainWrite a v

def Dev.writeCod (a v : Nat) (s : Dev) : Dev :=
  if 0x30A001000 ≤ a ∧ a < 0x30A001800 then s.portWrite a v
  else if a = R.COD_CTL then
    let s1 := s.plainWrite a v
    if bit v 9 then harqClear s1 else s1
  else s.plainWrite a v

/-- POD: run, halt and maint of an engine. -/
def Dev.writePod (a v : Nat) (s : Dev) : Dev :=
  match regIdx (R.POD_ECTL 0) 0x40 192 a with
  | some g =>
    let s1 := if bit v 0 then s.engineRun g else s.engineReset g
    let s2 := if bit v 1 then s1.engineHalt g else s1
    if bit v 2 then s2.setB (R.CSR_IPEND_maint g) true else s2
  | none => s.plainWrite a v

/-- Every waiting-time histogram zeroed, and every peak at its current value (R356). -/
def Dev.tskCtl (v : Nat) (s : Dev) : Dev :=
  let s1 := if bit v 5 then histClear s else s
  if bit v 6 then tskPeakClear s1 else s1

/-- TSK. -/
def Dev.writeTsk (a v : Nat) (s : Dev) : Dev :=
  let w := BitVec.ofNat 32 v
  if 0x30C800000 ≤ a ∧ a < 0x30CA00000 then
    descriptorWindowWrite (BitVec.ofNat 16 ((a - 0x30C800000) / 0x20)) (portIdx 8 (by decide) (a % 0x20 / 4)) w s
  else if 0x30C100000 ≤ a ∧ a < 0x30C103040 then s.portWrite a v
  else if a = R.TSK_CTL then (s.plainWrite a v).tskCtl v
  else
    match regIdx (R.TSK_CLS 0) 8 8 a with
    | some c => reserveWrite (portIdx 8 (by decide) c) w s
    | none => s.plainWrite a v

/-- A write of a register by Laruri at a level. -/
def Dev.regWrite (lvl : Level) (a v : Nat) (s : Dev) : Dev :=
  if !isCtl a then s
  else
    match (a - 0x300000000) / 0x1000000 with
    | 0x02 => s.writeTime lvl a v
    | 0x03 => s.writeTime lvl a v
    | 0x04 => s.writeLnk a v
    | 0x05 => s.writeEth a v
    | 0x06 => s.writeSto a v
    | 0x07 => s.writeMov a v
    | 0x08 => s.writeFex a v
    | 0x09 => s.writeSca a v
    | 0x0A => s.writeCod a v
    | 0x0B => s.writePod a v
    | 0x0C => s.writeTsk a v
    | 0x0D => s.plainWrite a v
    | _ => s.writeSys a v

/-- A write of any register, at M. -/
def execRegisterWrite (a : BitVec 40) (v : Word) := act (Dev.regWrite .m a.toNat v.toNat)

end Sys2Proof.Machine
end

