-- ==== Sys2Proof/Machine/Boot.lean ====
section
/-!
DEFINITION. The start sequence from the release of reset to time lock (R380–R402): RESET, ROM, FLASH, SELECT, LOAD, APPLY and TIME.
-/

namespace Sys2Proof.Machine

/-- The sequence runs in this phase: the device is not stopped by a lockstep mismatch in ROM nor by ENVIRONMENT STOP. -/
def Dev.inPhase (s : Dev) (k : Nat) : Bool := s.phase == k && !s.boot.dead && !s.flag R.MGT_STAT_env_stop

/-! ### RESET (R380, R381) -/

/-- The sense loop begins with the fixed table at the release of reset (R438). -/
def Dev.senseRelease (s : Dev) : Dev :=
  s.setSns { s.sns with run := true, fixed := true, k := 0, last := s.snsClk - 1, loopAt := s.snsClk, tickAt := s.time.cnt / tickTc }

/-- Reset is released: the cause and the straps are recorded. A restart holds reset for 10 ms. -/
def sysReset (straps : BitVec 4) (s : Dev) : Dev :=
  let c := s.boot.cause
  if s.phase ≠ 0 ∨ s.boot.dead ∨ (2 ≤ c ∧ !s.elapsed s.boot.phaseAt 10) then s
  else
    let s0 := ((s.wr R.SYS_RST_CAUSE (2 ^ c)).wr R.SYS_STRAP straps.toNat).setB R.SYS_CLK_STAT_sys_lock true
    let s1 := ((s0.setB R.SYS_CLK_STAT_sysref_ok true).setB R.TDOM_PLL_lock true).setRefOk 0 true
    let s2 : Dev := { s1 with boot := { s1.boot with releasedAt := s1.time.clk }, mgt := { s1.mgt with fedAt := s1.time.clk } }
    let s3 := (s2.raise Ev.SYS_RESET [(6, ((2 ^ c : Nat) : Int))]).senseRelease
    let s4 := if s3.mgt.key then s3.cinchOpen 1 else s3
    if s4.boot.loop then (s4.raise Ev.SYS_RESTART_LOOP [(32, ((s4.get R.SYS_BOOT_ATT_n_auto : Nat) : Int))]).hold 8
    else s4.endPhase 1

def execSysReset (straps : BitVec 4) := act (sysReset straps)

/-! ### ROM (R400, R402) -/

/-- A factory calibration copy as read holds its CRC. -/
def otpGood (l : List Nat) : Bool := l.length == 4096 && crc32c (l.take 0xFFC) == leNat (l.drop 0xFFC)

/-- The words of a copy shown in CAL_OTP. -/
def Dev.loadOtp (l : List Nat) (s : Dev) : Dev :=
  (List.range 1024).foldl (fun s w => s.wr (R.CAL_OTP w) (leNat ((l.drop (4 * w)).take 4))) s

/-- Dies whose identity shows a revision code other than 0x0002: number and code. -/
def badRevs (l : List Nat) : List (Nat × Nat) :=
  ((List.range 5).map fun d => (d, leNat ((l.drop (0x20 + 16 * d)).take 2))).filter fun p => p.2 != 2

/-- The F fields that depend on both checks (R400): identities, the MAC, engine numbers, monitor kinds, junction limits. -/
def Dev.loadFactory (s : Dev) : Dev :=
  let st := s.otp 0 1 % 2
  let s1 := ({ s with sns := { s.sns with cal := true } } : Dev).wr R.SYS_ID (2 + st * 2 ^ 16)
  let mac := 0x020000000000 + s.otp 8 5
  let s2 := (s1.wr R.MGT_MAC_LO (mac % 2 ^ 32)).wr R.MGT_MAC_HI (mac / 2 ^ 32)
  let s3 := (List.range 193).foldl (fun s g => s.wr (R.CSR_ENGID g) (if g = 192 then 0x100 else g)) s2
  let s4 := (List.range 384).foldl (fun s m => s.set (R.AGE_MON_kind m) (m % 2)) s3
  (nums 16 24).foldl (fun s i => ((s.setS (R.SNS_LIM_hi i) 1680).setS (R.SNS_LIM_lo i) (if st = 0 then -640 else 0)).set (R.SNS_ICFG_act i) 2) s4

def romPhase (mismatch : Bool) (copy0 copy1 : List Byte) (s : Dev) : Dev :=
  if !s.inPhase 1 then s
  else if mismatch then (({ s with boot := { s.boot with dead := true }, mgt := { s.mgt with lockstep := some s.time.clk } } : Dev)).setCoreState 192 3
  else
    let c0 := copy0.map (·.toNat)
    let c1 := copy1.map (·.toNat)
    let s1 := s.set R.CAL_STAT_ok (b2n (otpGood c0) + 2 * b2n (otpGood c1))
    if !otpGood c0 ∧ !otpGood c1 then
      (({ s1.raise Ev.CAL_FACTORY_BAD [] with sns := { s1.sns with calBad := true } } : Dev)).hold 3
    else
      let l := if otpGood c0 then c0 else c1
      let s2 := (s1.setB R.CAL_STAT_copy (!otpGood c0)).loadOtp l
      let s3 := if otpGood c0 then s2 else s2.raise Ev.CAL_COPY [(1, 1)]
      match badRevs l with
      | [] => s3.loadFactory.endPhase 2
      | bad =>
        let s4 := bad.foldl (fun s p => s.raise Ev.CAL_REV_BAD [(3, (p.1 : Int)), (16, (p.2 : Int))]) s3
        (({ s4 with sns := { s4.sns with calBad := true } } : Dev)).hold 3

def execRomPhase (mismatch : Bool) (copy0 copy1 : List Byte) := act (romPhase mismatch copy0 copy1)

/-! ### FLASH (R385) -/

def flashPhase (sfdp : Bool) (mb : BitVec 16) (octal : Bool) (s : Dev) : Dev :=
  if !s.inPhase 2 then s
  else if !sfdp ∨ mb.toNat < 128 then s.hold 1
  else if octal then s.endPhase 3
  else ((s.setB R.SYS_BOOT_STAT_slow true).raise Ev.SYS_FLASH_SLOW []).endPhase 3

def execFlashPhase (sfdp : Bool) (mb : BitVec 16) (octal : Bool) := act (flashPhase sfdp mb octal)

/-! ### SELECT (R387–R392) -/

/-- A bank is marked failed. -/
def Dev.bankFailed (s : Dev) (k : Nat) : Bool := s.flag ⟨R.SYS_BOOT_ATT, k, 1⟩

/-- The banks that the straps allow. -/
def Dev.allowedBanks (s : Dev) : List Nat := match s.get R.SYS_STRAP_bank with | 1 => [0] | 2 => [1] | _ => [0, 1]

/-- The committed images not marked failed, the higher seq first, bank A on a tie. -/
def Dev.committedBanks (s : Dev) : List Nat :=
  let l := s.allowedBanks.filter fun k => s.imgCommitted k && !s.bankFailed k
  if l = [0, 1] ∧ s.imgSeq 0 < s.imgSeq 1 then [1, 0] else l

/-- The candidates in the order in which they are tried, and whether each runs on trial. -/
def Dev.candidates (s : Dev) : List (Nat × Bool) :=
  let c := s.committedBanks
  match (if s.get R.SYS_STRAP_bank = 0 then s.trialRecord else none) with
  | some (_, k) => (k, true) :: (c.filter (· != k)).map (·, false)
  | none => c.map (·, false)

/-- An invalid image is logged with the check it fails. Where no section is to blame the section item is not given: free. -/
def Dev.imageBadLog (k : Nat) (b : Nat × Option Nat) (s : Dev) : Dev :=
  match b.2 with
  | some x => s.raise Ev.SYS_IMG_BAD [(1, (k : Int)), (4, (b.1 : Int)), (8, (x : Int))]
  | none => s.takeFree.raise Ev.SYS_IMG_BAD [(1, (k : Int)), (4, (b.1 : Int)), (8, ((Config.freeNat s.freeCtr 0 : Nat) : Int))]

/-- The first candidate whose image is valid; those before it are logged. -/
def Dev.tryBanks (l : List (Nat × Bool)) (s : Dev) : Option (Nat × Bool) × Dev :=
  match l with
  | [] => (none, s)
  | c :: r => match s.imageBad c.1 with | none => (some c, s) | some b => (s.imageBadLog c.1 b).tryBanks r

/-- Laruri firmware copied into Laruri memory and started at M (R382, R398). -/
def Dev.loadLaruri (k : Nat) (s : Dev) : Dev :=
  match s.sectionOf k 0x11 with
  | none => s
  | some x =>
    let b := s.sectionBody k x
    let s1 := s.setBytes (leNat (b.take 4)) ((b.drop 32).take (leNat ((b.drop 4).take 4)))
    let s2 := (s1.setCoreState 192 1).setLvl 192 2
    s2.setCore 192 { s2.core 192 with pc := leNat ((b.drop 8).take 4) / 4 * 4, at_ := s2.time.clk, part := 0 }

/-- The image that runs. The start-up leaves no STAGED record behind it (R424). -/
def Dev.chooseImage (k : Nat) (trial : Bool) (s : Dev) : Dev :=
  let other := 1 - k
  let s1 := if !trial && s.get R.SYS_STRAP_bank == 0 && s.bankFailed other then
    s.raise Ev.SYS_FALLBACK_IMG [(1, (other : Int)), (1, (k : Int))] else s
  let s2 := s1.raise Ev.SYS_IMG_SELECT [(1, (k : Int)), (32, ((s.imgSeq k : Nat) : Int)), (1, ((b2n trial : Nat) : Int))]
  let skipped := ((s.sections k).getD []).filter fun x => (sectionMost x.type).isNone
  let s3 := skipped.foldl (fun s x => s.raise Ev.SYS_SECT_SKIP [(16, (x.type : Int)), (16, (x.inst : Int))]) s2
  let s4 := ((s3.wr64 R.SYS_IMG_SEQ_LO (s.imgSeq k)).set R.SYS_BOOT_STAT_bank k).setB R.SYS_BOOT_STAT_trial trial
  let s5 := (if s4.get R.SYS_STRAP_bank = 0 then s4.consumeTrial else s4).setB R.MGT_STAT_trial trial
  s5.closeStaged.showStaged.loadLaruri k

def selectPhase (s : Dev) : Dev :=
  if !s.inPhase 3 then s
  else if s.get R.SYS_STRAP_bank = 3 then s.hold 9
  else
    match s.tryBanks s.candidates with
    | (some (k, trial), s1) => (s1.chooseImage k trial).endPhase 4
    | (none, s1) =>
      let failed := s1.allowedBanks.any fun k => s1.imgCommitted k && s1.bankFailed k && (s1.imageBad k).isNone
      s1.hold (if failed then 10 else 2)

def execSelectPhase := act selectPhase

/-! ### LOAD (R402) -/

/-- fw_ready has not come within 1 s. -/
def loadTimeout (s : Dev) : Dev := if s.inPhase 4 && s.elapsed s.boot.phaseAt 1000 then s.startFailed 4 else s

def execLoadTimeout := act loadTimeout

/-! ### APPLY (R382, R396, R399, R401, R438, R446) -/

/-- Word `i` of the body of the running image's section of a type. -/
def Dev.planWord (s : Dev) (type i : Nat) : Nat :=
  match s.sectionOf (s.get R.SYS_BOOT_STAT_bank) type with
  | some x => s.iw (s.get R.SYS_BOOT_STAT_bank) x.at_ i
  | none => 0

/-- The power plan: regulators, domains in ascending order, start and budget. -/
def Dev.applyPower (s : Dev) : Dev :=
  let w := s.planWord 4
  let s1 := (List.range 8).foldl (fun s k => s.wr (R.PWR_REG k) (w (3 + k))) s
  let s2 := (List.range 48).foldl (fun s d =>
    let on := bit (w (d / 32)) (d % 32)
    let t := s.setDomReq d on
    if t.domOn d = on then t else t.domSwitched d on 0) s1
  let start := bits (w 2) 0 16
  let ceiling := bits (w 2) 16 16
  ((s2.pmbApply start).setAge { s2.age with start := start }).set R.AGE_VOFS_budget (min 60 (ceiling - start))

/-- VDD_CORE raised from the start to start + ΔV in steps of 5 mV. -/
def Dev.applyVdd (s : Dev) : Dev :=
  let dv := s.get R.AGE_VOFS_ofs
  let s1 := (List.range ((dv + 4) / 5)).foldl (fun s i =>
    ({ s with pwr := { s.pwr with bus := s.pwr.bus ++ s.coreSet (s.age.start + min (5 * i + 5) dv) } } : Dev).raise Ev.AGE_VSTEP
      [(7, ((5 * i : Nat) : Int)), (7, ((min (5 * i + 5) dv : Nat) : Int))]) s
  (s1.set R.AGE_VSET_mv (s.age.start + dv)).setAge { s1.age with stepAt := s1.time.clk }

/-- The mean of sixteen conversions of SNS_00 lies within the setpoint ±25 mV. -/
def Dev.vddReached (s : Dev) (codes : List (BitVec 14)) : Bool :=
  let v := s.snsCorrect 0 (snsMean (codes.map (·.toNat)))
  let mv := s.get R.AGE_VSET_mv
  !aboveMv v (mv + 25) && !belowMv v (mv - 25)

/-- One record of the user calibration. -/
def Dev.calUserRecord (w v : Nat) (s : Dev) : Dev :=
  let c := w % 16
  let i := bits w 4 10
  let x := toSigned 32 v
  let y := clampInt x (calBounds c).1 (calBounds c).2
  let s1 := s.setAge { s.age with user := tins s.age.user (c * 1024 + i) y }
  if x = y then s1
  else ((s1.incSat R.CAL_CLAMPS R.CAL_STAT_cnt_ovf Ev.AGE_CNT_SAT [] 1).setB R.CAL_STAT_clamp true).raise Ev.CAL_CLAMP
    [(4, (c : Int)), (10, (i : Int)), (32, x)]

/-- The user calibration over the factory values. -/
def Dev.applyUserCal (s : Dev) : Dev :=
  match s.sectionOf (s.get R.SYS_BOOT_STAT_bank) 5 with
  | none => (s.setB R.CAL_STAT_user false).set R.CAL_STAT_n_user 0
  | some _ =>
    let n := s.planWord 5 0
    let s1 := (List.range n).foldl (fun t i => t.calUserRecord (s.planWord 5 (4 + 2 * i)) (s.planWord 5 (5 + 2 * i))) s
    (s1.setB R.CAL_STAT_user true).set R.CAL_STAT_n_user n

/-- Every register of Table 17-9 at the value that table gives. -/
def Dev.preloadDefaults (s : Dev) : Dev :=
  let inTables := fun (a : Nat) => (decide (0x305100000 ≤ a) && decide (a < 0x305108000)) || (decide (0x30801A200 ≤ a) && decide (a < 0x30801A600))
  let s1 : Dev := { s with regs := s.regs.filter fun e => !inTables e.1 }
  let s2 := (List.range 4).foldl (fun s q => s.regWrite .m (R.ETH_QUAD_CTL q) 0x61) s1
  let s3 := (List.range 16).foldl (fun s p =>
    let d := toBits 32 (s.calEff 6 p)
    ((s.regWrite .m (R.ETH_PORT_CFG p) 9216).regWrite .m (R.ETH_TS_DLY_RX p) d).regWrite .m (R.ETH_TS_DLY_TX p) d) s2
  let s4 := ((s3.wr R.STO_CTL (regReset R.STO_CTL).toNat).wr R.STO_SCRUB_CFG (regReset R.STO_SCRUB_CFG).toNat).wr R.FEX_CTL 0
  let s5 := (List.range 8).foldl (fun s f => s.wr (clBase 0 + 0xA400 + f * 0x40 + 0x3C) 0x40000000) s4
  (((s5.set R.COD_CTL_ldpc_it 0).set R.COD_CTL_turbo_it 0).set R.TSK_CTL_hist_w 8).wr R.PWR_LAUTO 0

/-- The pairs of the preload section in list order, each mask over the present value. -/
def Dev.applyPreload (s : Dev) : Dev :=
  let w := s.planWord 0x40
  (List.range (w 0)).foldl (fun t i =>
    let a := w (4 + 4 * i) + w (5 + 4 * i) * 2 ^ 32
    let m := w (7 + 4 * i)
    t.regWrite .m a (Nat.lor (Nat.land (t.regValue a) (0xFFFFFFFF - m)) (Nat.land (w (6 + 4 * i)) m))) s.preloadDefaults

/-- The time plan (R395). -/
def Dev.applyTime (s : Dev) : Dev :=
  let w := s.planWord 3
  let s1 := [(R.TDOM_SEL, 0), (R.TDOM_PLL, 1), (R.TDOM_HOLD, 2), (R.TDOM_GNSS, 3), (R.TDOM_GNSS_DLY, 4), (R.AIR_OFS, 5)].foldl
    (fun s p => s.regWrite .m p.1 (w p.2)) s
  let s2 := s1.wr R.AIR_CTL (bits (w 6) 1 4 * 2 + s1.get R.AIR_CTL_arm)
  (List.range 8).foldl (fun s n =>
    [(R.TDOM_DCTL n, 0), (R.TDOM_SRV n, 1), (R.TDOM_LCK n, 2), (R.TDOM_STEP n, 3), (R.TDOM_UOFS n, 4)].foldl
      (fun s p => s.regWrite .m p.1 (w (8 + 5 * n + p.2))) s) s2

/-- The sense sequences replace the fixed table (R438, R441). Rings that no entry writes are not set up. -/
def Dev.applySense (s : Dev) : Dev :=
  let w := s.planWord 0x20
  let k := s.get R.SYS_BOOT_STAT_bank
  let rings := match s.sectionOf k 0x20 with | some x => s.senseRings k x.at_ | none => []
  let s1 := rings.foldl (fun s r => (s.wr (R.SNS_RING_BASE r) (w (16 + 2 * r))).wr (R.SNS_RING_SIZE r) (w (17 + 2 * r))) s
  let s2 := (List.range 64).foldl (fun s e => (s.plainWrite (R.SNS_SEQ e 0) (w (32 + 2 * e))).plainWrite (R.SNS_SEQ e 1) (w (33 + 2 * e))) s1
  let s3 := (List.range 16).foldl (fun s i => (s.plainWrite (R.SNS_LIM i) (w (160 + 2 * i))).plainWrite (R.SNS_ICFG i) (w (161 + 2 * i))) s2
  let p := w 0
  let s4 := s3.wr R.SNS_CTL (1 + (p % 64 + 1) % 64 * 2 + bits p 6 4 * 2 ^ 7 + bits p 10 2 * 2 ^ 11)
  (s4.setSns { s4.sns with run := false }).snsStart false

/-- The placement policy (R397). -/
def Dev.applyPolicy (s : Dev) : Dev := (s.plainWrite R.PLC_CTL (s.planWord 0x30 0)).plainWrite R.PLC_POLICY (s.planWord 0x30 1)


def applyPhase (pmb : List (Fin 8 × BitVec 8)) (readings : List MonReading) (codes : List (BitVec 14)) (s : Dev) : Dev :=
  if !s.inPhase 5 ∨ readings.length ≠ 384 ∨ codes.length ≠ 16 then s
  else
    let s1 := s.applyPower
    let bad := pmb.filter fun e => s1.regulators.contains (e.1 : Nat)
    let s2 := s1.pmbErrors bad
    if !bad.isEmpty then s2.startFailed 5
    else
      let s3 := (s2.ageApply true readings).applyVdd
      if !s3.vddReached codes then s3.startFailed 5
      else ((s3.applyUserCal.applyPreload).applyTime.applySense).applyPolicy.endPhase 6

def execApplyPhase (pmb : List (Fin 8 × BitVec 8)) (readings : List MonReading) (codes : List (BitVec 14)) :=
  act (applyPhase pmb readings codes)

/-! ### TIME (R383) -/

/-- Another lock_to seconds have passed in TIME. -/
def sysTimeWait (s : Dev) : Dev :=
  let t := s.planWord 3 7
  let n := s.boot.waits + 1
  if s.inPhase 6 && decide (0 < t) && s.elapsed s.boot.phaseAt (n * t * 1000) then
    ({ s with boot := { s.boot with waits := n } } : Dev).raise Ev.SYS_TIME_WAIT [(32, ((n * t : Nat) : Int))]
  else s

def execSysTimeWait := act sysTimeWait

/-- The device has run for one hour in RUN (R404). -/
def restartCountClear (s : Dev) : Dev :=
  match s.boot.runAt with
  | some t => if s.phase = 11 ∧ s.elapsed t 3600000 then ({ s with boot := { s.boot with autoFirst := 0 } } : Dev).set R.SYS_BOOT_ATT_n_auto 0 else s
  | none => s

def execRestartCountClear := act restartCountClear

end Sys2Proof.Machine
end

