-- ==== Sys2Proof/Machine/Placement.lean ====
section
/-!
DEFINITION. Re-placement (R369–R374), spares and retirement (R366), and outage frames (R377).
-/

namespace Sys2Proof.Machine

/-! ### The reference copy (R359) -/

/-- A word of the reference copy fails parity: in one copy it is repaired, in both the device restarts. -/
def Dev.refPerr (perr : Option (BitVec 24 × Bool)) (s : Dev) : Dev :=
  match perr with
  | none => s
  | some (o, both) =>
    let s1 := (s.setB R.PLC_STAT_ref_perr true).raise Ev.PLC_REF_PERR [(24, o.toNat), (1, b2n both)]
    if both then s1.restart 3 else s1

/-- Both copies of a word failed: the device restarts and the command does nothing more. -/
def refDead (perr : Option (BitVec 24 × Bool)) : Bool := match perr with | some (_, true) => true | _ => false

/-! ### Shedding (R374) -/

/-- The unit kind as Table 16-8 codes it: rings and sets share a code. -/
def PlcUnit.code (u : PlcUnit) : Nat := min u.kind 4

/-- Width of a unit's index in an event (Table 21-4). -/
def PlcUnit.width (u : PlcUnit) : Nat := if u.kind < 2 then 5 else if u.kind < 4 then 6 else if u.kind = 4 then 12 else 8

def PlcUnit.items (u : PlcUnit) : List (Nat × Int) := [(4, (u.code : Int)), (u.width, (u.index : Int))]

/-- One cell shed: its streams leave the crossbar, its pod and harness are released, and its state is SHED until reset. -/
def Dev.shedCell (c : CellRec) (s : Dev) : Dev :=
  let s1 := (nums c.asBase c.nAs).foldl (fun s a => s.setB (R.FEX_XB_LO_valid a) false) s
  let s2 : Dev := { s1 with plc := { s1.plc with shed := c.cell :: s1.plc.shed } }
  let s3 := ((s2.set (R.PLC_CELL_pod c.cell) 31).set (R.PLC_CELL_harness c.cell) 63).setB R.PLC_STAT_shed true
  let sat := s3.rd R.PLC_SHED_CNT = 0xFFFFFFFE
  let s4 := s3.incSat R.PLC_SHED_CNT R.PLC_CNT_OVF_shed_ovf Ev.PLC_CNT_SAT [] 1
  ((if sat then s4.setB R.PLC_STAT_cnt_ovf true else s4).raise Ev.PLC_SHED [(8, c.cell)]).refreshCell c

/-- Cells shed in ascending order of shed priority until the rest fits; `n` bounds how many. -/
def Dev.shedUntil (fits : Dev → Bool) (n : Nat) (s : Dev) : Dev :=
  match n with
  | 0 => s
  | n + 1 =>
    if fits s then s
    else
      match (List.range 256).findSome? fun p => s.liveCells.find? fun c => c.shed == p with
      | some c => (s.shedCell c).shedUntil fits n
      | none => s

/-! ### New units -/

/-- A harness of the same shape as `h`: a harness number not enabled and the lowest free aligned position, as number + 32 × first tile. -/
def Dev.newHarness (s : Dev) (h : Nat) : Option Nat :=
  match (List.range 32).find? (fun k => !s.flag (R.SCA_HCFG_en k)), s.freePositions (s.hTiles h).2 with
  | some k, t :: _ => some (k + 32 * t)
  | _, _ => none

/-- The unit that takes over from `u`, not among `taken`: the lowest spare. A coding unit's work goes to the others of its masks, and a
ring or set is made anew in its place. -/
def Dev.nextSpare (s : Dev) (u : PlcUnit) (taken : List Nat) : Option Nat :=
  match u.kind with
  | 0 => (List.range 24).find? fun p => p != u.index && !taken.contains p && s.podSpare p
  | 1 => (List.range 17).find? fun c => c != u.index && !taken.contains c && s.clusterSpare c
  | 2 => (s.harnessOf u.index).bind s.newHarness
  | 3 => none
  | _ => some u.index

/-- Another pod has room for the cells of pod `p` under R362. -/
def Dev.podWithRoom (s : Dev) (p : Nat) : Option Nat :=
  (List.range 24).find? fun k => k != p && s.domOn k && !s.retired ⟨0, k⟩ && !s.unitBusy ⟨0, k⟩ &&
    decide (cellLoad (s.podCells k) + cellLoad (s.podCells p) ≤ s.podCapacity k)

/-- What takes over from `u` where no spare is left. -/
def Dev.lastResort (s : Dev) (u : PlcUnit) : Option Nat := if u.kind = 0 then s.podWithRoom u.index else s.nextSpare u []

/-- The unit carries no work that has to move. -/
def Dev.unitEmpty (s : Dev) (u : PlcUnit) : Bool :=
  match u.kind with
  | 0 => s.podIdle u.index
  | 1 => !(List.range 2048).any fun a => s.flag (R.FEX_XB_LO_valid a) && s.get (R.FEX_XB_LO_cl a) == u.index
  | 2 => (s.harnessOf u.index).isNone
  | _ => false

/-- The unit that takes over from `u`, after shedding where no spare is left and shed_en is 1 (R374). -/
def Dev.relieve (u : PlcUnit) (taken : List Nat) (s : Dev) : Option Nat × Dev :=
  match s.nextSpare u taken with
  | some k => (some k, s)
  | none =>
    if 3 ≤ u.kind ∨ s.unitEmpty u ∨ !s.flag R.PLC_CTL_shed_en then (none, s)
    else
      let s1 := s.shedUntil (fun d => (d.lastResort u).isSome || d.unitEmpty u) 257
      (s1.lastResort u, s1)

/-! ### Start (R369, R374, R23) -/

/-- A faulted unit serves nothing until the switch: a cluster's streams are erased and zero (Table 16-4). Its fault is remembered. -/
def Dev.faulted (u : PlcUnit) (s : Dev) : Dev :=
  let s1 : Dev := { s with plc := { s.plc with faults := s.plc.faults ++ [(u, s.time.clk)] } }
  if u.kind = 1 then (List.range 128).foldl (fun s k => if bit (s.sd u.index k 0) 0 then s.modFslot u.index k fun x => { x with broken := true } else s) s1
  else s1

def Dev.setCurrent (r : Option Replacement) (s : Dev) : Dev := { s with plc := { s.plc with current := r } }

/-- A re-placement begins: planning and preparation. -/
def Dev.startMove (kind : Nat) (u : PlcUnit) (s : Dev) : Dev :=
  let s1 := s.raise Ev.PLC_REPLACE_START ((4, (kind : Int)) :: u.items)
  let s2 := if kind = 1 then s1.faulted u else s1
  let (k, s3) := (s2.set R.PLC_STAT_state 3 |>.set R.PLC_STAT_kind kind).relieve u []
  s3.setCurrent (some { kind := kind, old := [u], new := [k], at_ := s.time.clk })

/-- A fault joins the re-placement of faults that has not switched yet; its bound runs from this one. -/
def Dev.joinMove (r : Replacement) (u : PlcUnit) (s : Dev) : Dev :=
  let s1 := (s.raise Ev.PLC_REPLACE_START ((4, 1) :: u.items)).faulted u
  let (k, s2) := (s1.set R.PLC_STAT_state 3).relieve u (r.new.filterMap id)
  s2.setCurrent (some { r with old := r.old ++ [u], new := r.new ++ [k], at_ := s.time.clk, prepared := false })

/-- A unit being prepared faults: it is abandoned for the next spare. -/
def Dev.replaceNew (r : Replacement) (u : PlcUnit) (s : Dev) : Dev :=
  let s1 := (s.raise Ev.PLC_REPLACE_START ((4, 1) :: u.items)).faulted u
  let s2 : Dev := { s1 with plc := { s1.plc with testing := s1.plc.testing ++ [u] } }
  let fix := fun (p : PlcUnit × Option Nat) =>
    if p.1.kind = u.kind ∧ p.2 = some u.index then (s2.nextSpare p.1 (r.new.filterMap id)) else p.2
  (s2.set R.PLC_STAT_state 3).setCurrent (some { r with new := (r.old.zip r.new).map fix, at_ := s.time.clk, prepared := false })

/-- A roll goes on from the frame after the one in which a fault re-placement completed (R23). -/
def Dev.rollWaits (s : Dev) : Bool := decide (s.time.cnt / frameTc < s.plc.rollFrom)

/-- The trigger that is served next: faults before the others, each kind in order of arrival; a roll may have to wait. -/
def Dev.nextTrigger (s : Dev) : Option (Nat × PlcUnit) :=
  match s.plc.triggers.find? (·.1 == 1) with
  | some t => some t
  | none => s.plc.triggers.find? fun t => t.1 != 3 || !s.rollWaits

def replaceStart (s : Dev) : Dev :=
  match s.nextTrigger with
  | none => s
  | some (kind, u) =>
    if s.get R.PLC_STAT_state = 0 then s
    else
      let s0 : Dev := { s with plc := { s.plc with triggers := s.plc.triggers.erase (kind, u) } }
      if (kind = 1 ∨ kind = 4) ∧ !s.flag R.PLC_CTL_auto_en then s0
      else if kind = 1 ∧ (s.retired u ∨ s.plc.testing.contains u) then s0
      else
        match s.plc.current with
        | none => s0.startMove kind u
        | some r =>
          if kind ≠ 1 ∨ r.switched then s
          else if (r.old.zip r.new).any (fun p => p.1.kind == u.kind && p.2 == some u.index) then s0.replaceNew r u
          else if r.kind = 1 then (if r.old.contains u then s0 else s0.joinMove r u)
          else
            let s1 : Dev := { s0 with plc := { s0.plc with triggers := s0.plc.triggers ++ r.old.map fun o => (r.kind, o) } }
            (s1.setCurrent none).startMove kind u

def execReplaceStart := act replaceStart

/-! ### Preparation (R370–R372) -/

/-- The frame number now. -/
def Dev.frameNo (s : Dev) : Nat := s.time.cnt / frameTc

/-- Word `o / 4` of a slot descriptor as its second slot has it in the overlap: no uplink ring and no queue, so that the symbols it processes from the
delivered samples go nowhere until the switch, while its downlink rings are those that it takes up at the switch (R214: the planner sets the rings). -/
def shadowWord (o v : Nat) : Nat :=
  match o % 0x40 / 4 with
  | 4 => Nat.lor v 0xFFF
  | 5 => Nat.lor v 0xFFFF
  | 10 => Nat.lor v 0xFFF
  | 11 => Nat.lor v 0xFFFF
  | _ => v

/-- A move prepared: a cluster's tables in its successor and the crossbar entries with the switch frame; a pod's firmware; a harness. -/
def Dev.prepare (kind frame : Nat) (u : PlcUnit) (k : Nat) (s : Dev) : Dev :=
  match u.kind with
  | 0 =>
    let s1 : Dev := { s with plc := { s.plc with podFw := tput 0x10000 s.plc.podFw k (tget 0x10000 s.plc.podFw u.index)
                                                 newPods := (s.plc.newPods.filter (· != k)) ++ (if kind = 3 ∧ !(s.plc.newPods.contains u.index) then [k] else
                                                   if kind ≠ 3 ∧ s.plc.newPods.contains u.index then [k] else []) } }
    s1.loadPod k
  | 1 =>
    let t := clTables u.index
    let copy := (s.plc.ref.regs.filter fun e => decide (t.1 ≤ e.1) && decide (e.1 < t.2)).foldl (fun s e =>
      let o := e.1 - clBase u.index
      s.wr (o + clBase k) (if o < 0xA000 then shadowWord (o - 0x8000) e.2.toNat else e.2.toNat)) s
    (List.range 2048).foldl (fun s a =>
      if s.flag (R.FEX_XB_LO_valid a) && s.get (R.FEX_XB_LO_cl a) == u.index then
        (((s.set (R.FEX_XB_LO_new_cl a) k).set (R.FEX_XB_LO_new_slot a) (s.get (R.FEX_XB_LO_slot a))).setB (R.FEX_XB_LO_dual a) true).wr
          (R.FEX_XB_HI a) frame
      else s) (copy.showCluster k)
  | 2 =>
    match s.harnessOf u.index with
    | some h => ((s.wr (R.SCA_HCFG (k % 32)) (s.rd (R.SCA_HCFG h))).set (R.SCA_HCFG_tile0 (k % 32)) (k / 32)).setB (R.SCA_HCFG_en (k % 32)) true
    | none => s
  | _ => s

def preparationComplete (s : Dev) : Dev :=
  match s.plc.current with
  | none => s
  | some r =>
    if r.prepared then s
    else
      let shadow := r.kind == 2 || r.kind == 3
      let f := s.frameNo + (if shadow then 2 else 1)
      let s1 := (r.old.zip r.new).foldl (fun s p => match p.2 with | some k => s.prepare r.kind (f % 2 ^ 32) p.1 k | none => s) s
      ((s1.wr R.PLC_SW_FRAME f).set R.PLC_STAT_state (if shadow then 4 else 5)).setCurrent (some { r with prepared := true, frame := f })

def execPreparationComplete := act preparationComplete

/-! ### The switch (R371) -/

/-- The crossbar entries that move to cluster `k`, whose slots take up their rings and queues while those of the old one cease to be valid. -/
def Dev.switchCluster (c k : Nat) (s : Dev) : Dev :=
  let s1 := (List.range 2048).foldl (fun s a =>
    if s.flag (R.FEX_XB_LO_valid a) && s.flag (R.FEX_XB_LO_dual a) && s.get (R.FEX_XB_LO_cl a) == c then fexXbSwitch (portIdx 2048 (by decide) a) s else s) s
  let s2 := (List.range 128).foldl (fun s i =>
    let w := s.sd c i 0
    if bit w 0 then ([4, 5, 10, 11].foldl (fun s j => s.wr (slotAddr k i j) (s.sd c i j)) s).wr (slotAddr c i 0) (w - 1) else s) s1
  (s2.showCluster c).showCluster k

/-- The sets of harness `h` and their cells move to harness `k`. -/
def Dev.switchHarness (h k : Nat) (s : Dev) : Dev :=
  let s1 := (List.range 256).foldl (fun s j =>
    let w := s.setW j 0
    if bit w 0 && bits w 14 5 == h then s.setLe (storeBase + s.setOff j) 4 (setBits w 14 5 k) else s) s
  s1.liveCells.foldl (fun s c => if s.get (R.PLC_CELL_harness c.cell) = h then s.set (R.PLC_CELL_harness c.cell) k else s) s1

/-- Every enabled descriptor of pod `p` runs on pod `k` from now on, and so do its cells. -/
def Dev.switchPod (p k : Nat) (s : Dev) : Dev :=
  let s1 := (List.range 65536).foldl (fun s d =>
    let m := s.td d 4 0 24
    if s.tdEn d && m.testBit p then s.setTd d 4 0 24 (setBits (setBits m p 1 0) k 1 1) else s) s
  s1.plc.cells.foldl (fun s c => if s.get (R.PLC_CELL_pod c.cell) = p then s.set (R.PLC_CELL_pod c.cell) k else s) s1

/-- A coding unit leaves every queue's mask. -/
def Dev.switchCoder (u : Nat) (s : Dev) : Dev :=
  (List.range 32).foldl (fun s q => s.setBitAt (if u < 32 then R.COD_QCFG q else R.COD_QCFG2 q) (u % 32) false) s

/-- A ring made anew: created again where it was destroyed, and its readers at the first word of the switch frame. -/
def Dev.renewRing (k : Nat) (s : Dev) : Dev :=
  let s1 := if s.ringValid k then s else createRing k s
  if s1.ringValid k then (List.range (s1.ringReaders k)).foldl (fun s j => s.readerAdvance k j (s.ringW k - s.ringR k j)) s1 else s1

/-- The descriptors of a ring of descriptors in FAULT take their words from the reference copy again. -/
def Dev.renewDescs (k : Nat) (s : Dev) : Dev :=
  if !s.ringSys k then s
  else
    (List.range 65536).foldl (fun s d =>
      if s.tdState d = 5 then
        let a := s.tdAddr d 0
        let s1 := (nums a 28).foldl (fun s i => s.setByte i (tget memDefault s.plc.ref.mem i).toNat) s
        (s1.setTd d 0 0 20 (s.tdGen d)).setTdState d (if s1.tdEn d then 1 else 0)
      else s) s

/-- Every ring of a set. -/
def Dev.setRings (s : Dev) (j : Nat) : List Nat :=
  (s.setIn j false).map (·.1) ++ s.setOut j false ++ (s.setIn j true).map (·.1) ++ s.setOut j true

/-- One unit's work switched, in the order of R371 as `n` runs: 1 crossbar, 2 sets, 3 coding masks, 4 pmask, 5 rings. -/
def Dev.switchUnit (n : Nat) (u : PlcUnit) (k : Option Nat) (s : Dev) : Dev :=
  match n, u.kind, k with
  | 1, 1, some k => s.switchCluster u.index k
  | 2, 2, some k => match s.harnessOf u.index with | some h => s.switchHarness h (k % 32) | none => s
  | 3, 3, _ => s.switchCoder u.index
  | 4, 0, some k => s.switchPod u.index k
  | 5, 4, _ => if u.index < 4095 then (s.renewRing u.index).renewDescs u.index else s
  | 5, 5, _ => (s.setRings u.index).foldl (fun s k => s.renewRing k) s
  | _, _, _ => s

/-- A pod's clock takes its step (R447). -/
def Dev.takeClock (p : Nat) (s : Dev) : Dev :=
  match s.age.clk.find? (·.1 == p) with
  | some (_, c) =>
    let s1 := (nums (8 * p) 8).foldl (fun s g => s.coreSync g) s
    ({ s1 with age := { s1.age with clk := tdel s1.age.clk p } }).set (R.POD_PSTAT_clk p) c |>.set (R.AGE_GRP_INFO_clk p) c
  | none => s

/-! ### A roll (R426) -/

/-- The pod holds cells with the firmware that the roll replaces, or, going back, with the new one. -/
def Dev.rollHolds (s : Dev) (back : Bool) (p : Nat) : Bool := !(s.podCells p).isEmpty && s.plc.newPods.contains p == back

/-- The pod that the roll moves next: in ascending order, or, going back, in reverse order of the moves. -/
def Dev.rollNext (s : Dev) (r : Roll) : Option Nat :=
  if r.back then r.todo.find? (s.rollHolds true) else (List.range 24).find? (s.rollHolds false)

/-- After the last switch the roll is over: its trial begins, or the old firmware runs again. -/
def Dev.rollEnd (r : Roll) (s : Dev) : Dev :=
  let s1 := s.setB R.MGT_STAT_roll false
  if r.back then { s1 with mgt := { s1.mgt with roll := none } }
  else
    let s2 := (s1.setB R.MGT_STAT_trial true).setB R.SYS_BOOT_STAT_trial true
    { s2 with mgt := { s2.mgt with roll := some { r with ended := some s.time.clk } } }

/-- A ROLL re-placement has switched. -/
def Dev.rollSwitched (m : Replacement) (s : Dev) : Dev :=
  match s.mgt.roll with
  | none => s
  | some x =>
    let x1 := { x with moved := x.moved ++ m.new.filterMap id, last := some m.frame }
    let s1 : Dev := { s with mgt := { s.mgt with roll := some x1 } }
    if (s1.rollNext x1).isNone then s1.rollEnd x1 else s1

/-- The re-placement is complete. -/
def Dev.moveOver (s : Dev) : Dev :=
  ((((s.setCurrent none).inc64 R.PLC_REPL 1).set R.PLC_STAT_state 1).set R.PLC_STAT_kind 0).showSpare

def plcSwitch (perr : Option (BitVec 24 × Bool)) (s : Dev) : Dev :=
  match s.plc.current with
  | none => s
  | some r =>
    if !r.prepared ∨ r.switched ∨ s.frameNo < r.frame then s
    else if refDead perr then s.refPerr perr
    else
      let moves := r.old.zip r.new
      let s1 := [1, 2, 3, 4, 5].foldl (fun s n => moves.foldl (fun s p => s.switchUnit n p.1 p.2) s) (s.refPerr perr)
      let s2 := r.old.foldl (fun s u => if u.kind = 0 ∧ r.kind = 2 then s.takeClock u.index else s) s1
      let s3 := (s2.raise Ev.PLC_SWITCH [(4, r.kind), (32, r.frame)]).set R.PLC_STAT_state 5
      if r.kind = 2 ∨ r.kind = 3 then (if r.kind = 3 then s3.rollSwitched r else s3).setCurrent (some { r with switched := true })
      else
        let tests := if r.kind = 1 then r.old.filter fun u => decide (u.kind < 4) else []
        ({ s3 with plc := { s3.plc with testing := s3.plc.testing ++ tests, rollFrom := if r.kind = 1 then s3.frameNo + 1 else s3.plc.rollFrom } }).moveOver

def execPlcSwitch (perr : Option (BitVec 24 × Bool)) := act (plcSwitch perr)

/-- One frame after the switch the old units become the spares (R370). -/
def oldUnitsRelease (s : Dev) : Dev :=
  match s.plc.current with
  | some r => if r.switched ∧ r.frame + 1 ≤ s.frameNo then s.moveOver else s
  | none => s

def execOldUnitsRelease := act oldUnitsRelease

/-! ### Self-test (R366) -/

/-- A unit put back into service: a pod's firmware, a cluster's tables, a tile, a coding unit's place in the masks. -/
def Dev.putBack (u : PlcUnit) (s : Dev) : Dev :=
  match u.kind with
  | 0 => s.loadPod u.index
  | 1 =>
    ((List.range 128).foldl (fun s i => s.wr (slotAddr u.index i 0) (s.sd u.index i 0 / 2 * 2)) (s.reloadCluster u.index)).showCluster u.index
  | 2 => s.setBitAt (if u.index < 32 then R.SCA_TFAULT_LO else R.SCA_TFAULT_HI) (u.index % 32) false
  | _ =>
    let s1 := s.setBitAt (if u.index < 32 then R.COD_UFAULT_LO else R.COD_UFAULT_HI) (u.index % 32) false
    (List.range 32).foldl (fun s q =>
      let a := if u.index < 32 then R.COD_QCFG q else R.COD_QCFG2 q
      if bit (tget (regReset a) s.plc.ref.regs a).toNat (u.index % 32) then s.setBitAt a (u.index % 32) true else s) s1

/-- The old harness of a faulted tile is disabled once it is idle. -/
def Dev.dropHarness (t : Nat) (s : Dev) : Dev :=
  match s.harnessOf t with
  | some h => s.setB (R.SCA_HCFG_en h) false
  | none => s

/-- The unit has faulted before within 24 h. -/
def Dev.faultsAgain (s : Dev) (u : PlcUnit) : Bool :=
  decide (2 ≤ ((s.plc.faults.filter fun e => e.1 == u && decide (s.time.clk ≤ e.2 + 86400 * hz)).length))

/-- A unit retired; a pod's domain goes off (R366, R455). -/
def Dev.retireUnit (u : PlcUnit) (s : Dev) : Dev :=
  let s1 := ((s.markRetired u).setB R.PLC_STAT_retired true).raise Ev.PLC_RETIRED u.items
  if u.kind = 0 then ((nums (8 * u.index) 8).foldl (fun s g => s.engineReset g) (s1.setDomReq u.index false)).askDom u.index false 3 else s1

def unitSelfTest (kind : Fin 4) (index : Fin 64) (pass : Bool) (perr : Option (BitVec 24 × Bool)) (s : Dev) : Dev :=
  let u : PlcUnit := ⟨kind, index⟩
  let idle := match s.harnessOf index with | some h => (s.harness h).cur.isNone && (s.harness h).queue.isEmpty | none => true
  if !s.plc.testing.contains u ∨ (u.kind = 2 ∧ !idle) then s
  else if refDead perr then s.refPerr perr
  else
    let s0 := if u.kind = 2 then (s.refPerr perr).dropHarness u.index else s.refPerr perr
    let s1 : Dev := { s0 with plc := { s0.plc with testing := s0.plc.testing.erase u } }
    let worn := u.kind == 0 && s.flag (R.AGE_GRP_INFO_exh index)
    if pass && !worn && !s.faultsAgain u then ((s1.putBack u).raise Ev.PLC_SPARE_BACK u.items).showSpare
    else (s1.retireUnit u).showSpare

def execUnitSelfTest (kind : Fin 4) (index : Fin 64) (pass : Bool) (perr : Option (BitVec 24 × Bool)) :=
  act (unitSelfTest kind index pass perr)

/-! ### Outage (R377) -/

/-- The cell counts an outage in the frame that ends: off air or shed for a device cause in some part of it, or more than an eighth of its antennas
erased or zeroed by the device in one symbol. -/
def Dev.cellOut (s : Dev) (c : CellRec) : Bool :=
  let mine := s.plc.erased.filter fun e => decide (c.asBase ≤ e.2) && decide (e.2 < c.asBase + c.nAs)
  s.cellDown c || s.plc.outs.contains c.cell ||
    mine.any fun e => decide (c.nAs < 8 * ((mine.filter (·.1 == e.1)).map (·.2)).eraseDups.length)

/-- A frame ends. -/
def outageFrame (s : Dev) : Dev :=
  let s1 := s.plc.cells.foldl (fun s c =>
    if s.cellOut c then
      let a := R.PLC_CELL_OUT c.cell
      let sat := s.rd a = 0xFFFFFFFE
      let s2 := s.incSat a ⟨R.PLC_CELL_OVF (c.cell / 32), c.cell % 32, 1⟩ Ev.PLC_CNT_SAT [] 1
      if sat then s2.setB R.PLC_STAT_cnt_ovf true else s2
    else s) s
  { s1 with plc := { s1.plc with erased := [], outs := [] } }

def execOutageFrame := act outageFrame

end Sys2Proof.Machine
end

