-- ==== Sys2Proof/Machine/Admission.lean ====
section
/-!
DEFINITION. Admission of the plan (R361–R365, Table 16-2) and what an admitted plan leaves in the planner's tables (R358, R359).
-/

namespace Sys2Proof.Machine

/-! ### The plan (R393, R394) -/

/-- Cell record `i` of the cell plan. -/
def Dev.planCell (s : Dev) (i : Nat) : CellRec :=
  let w := fun k => s.planWord 1 (4 + 16 * i + k)
  { cell := bits (w 0) 0 8, rat := bits (w 0) 8 1, mu := bits (w 0) 9 2, ecp := bit (w 0) 11, nsc := bits (w 0) 12 12, nl := bits (w 0) 24 7,
    asBase := bits (w 1) 0 11, nAs := bits (w 1) 11 7 + 1, minAnt := bits (w 1) 18 7 + 1, set := bits (w 2) 0 8, shed := bits (w 2) 8 8,
    sdesc := bits (w 2) 16 16, ulDead := w 3, dlDead := w 4, engCyc := w 5, ulKb := bits (w 6) 0 16, dlKb := bits (w 6) 16 16,
    maxIt := bits (w 7) 0 5, cq := bits (w 7) 5 5, port := bits (w 7) 10 4, f0 := w 8 + w 9 * 2 ^ 32,
    prach := w 10 + w 11 * 2 ^ 32 + w 12 * 2 ^ 64 + w 13 * 2 ^ 96 }

def Dev.planCells (s : Dev) : List CellRec := (List.range (bits (s.planWord 1 0) 0 16)).map s.planCell

/-- The set records, which follow the cell records. -/
def Dev.planSets (s : Dev) : List SetRec :=
  let n := bits (s.planWord 1 0) 0 16
  (List.range (bits (s.planWord 1 0) 16 16)).map fun i =>
    let w := s.planWord 1 (4 + 16 * n + 4 * i)
    { set := bits w 0 8, nl := bits w 8 6 + 1, eraMax := bits w 14 7, calEn := bit w 21 }

/-- First lanes of the links that the link plan enables. -/
def Dev.planLinks (s : Dev) : List Nat :=
  ((List.range (s.planWord 2 0 % 2048)).map fun i => s.planWord 2 (4 + 20 * i) % 1024).filter fun f => s.flag (R.LNK_LINK_CFG_en f)

/-- The streams of a link. -/
def Dev.linkStreams (s : Dev) (f : Nat) : List Nat := nums (s.get (R.LNK_LINK_CFG2_str_base f)) (s.get (R.LNK_LINK_CFG_nstr f))

/-- The streams of a cell. -/
def CellRec.streams (c : CellRec) : List Nat := nums c.asBase c.nAs

/-- The plan's link that carries a stream. -/
def Dev.planLinkOf (s : Dev) (links : List Nat) (a : Nat) : Option Nat := links.find? fun f => (s.linkStreams f).contains a

/-! ### The checks of Table 16-2 -/

/-- 0x01: a cell whose stream or set the plan does not define, or one that shares a stream with another numerology. -/
def Dev.admitPlan (s : Dev) (cells : List CellRec) (sets : List SetRec) (links : List Nat) : Option Nat :=
  (cells.find? fun c => (c.set != 0xFF && sets.all fun x => x.set != c.set) || (c.streams.any fun a => (s.planLinkOf links a).isNone) ||
    cells.any fun d => (d.mu != c.mu || d.ecp != c.ecp) && c.streams.any fun a => d.streams.contains a).map (·.cell)

/-- 0x03: the link that brings more than 2,048 streams, or one whose AS index another link uses. -/
def Dev.admitStreams (s : Dev) (links : List Nat) : Option Nat :=
  links.find? fun f =>
    let before := links.takeWhile (· != f)
    decide (2048 < ((before ++ [f]).map fun g => s.get (R.LNK_LINK_CFG_nstr g)).sum) ||
      before.any fun g => (s.linkStreams g).any fun a => (s.linkStreams f).contains a

/-- 0x04: a link that breaks R126, R130 or R154. The payload of an AUTO link is known once its rate is found. -/
def Dev.admitLink (s : Dev) (links : List Nat) : Option Nat :=
  links.find? fun f => (match s.linkCfgBad f with | none => false | some c => c != 13) || (s.laneRate f != 0 && !s.linkFits f)

/-- A cell fits the FFT of its stream with some decimation, under the rules of R216. -/
def Dev.cellFits (s : Dev) (links : List Nat) (c : CellRec) : Bool :=
  (c.rat == 0 || c.mu == 0) && (!c.ecp || c.mu == 2 || c.rat == 1) &&
    c.streams.all fun a => match s.planLinkOf links a with
      | none => false
      | some f =>
        let r := s.get (R.LNK_LINK_CFG_srate f)
        (List.range 5).any fun d => fftOk r c.mu d && nscOk c.nsc (fftSize r c.mu d) (c.rat == 1)

/-- What a cluster is given keeps R215: distinct slots, 32 Gsample/s and 32 second views. -/
def Dev.clusterFits (s : Dev) (cells : List CellRec) (links : List Nat) (l : PlcLayout) (cl : Nat) : Bool :=
  let mine := l.streams.filter fun e => (e.2.1 : Nat) == cl
  let rate : Nat := (mine.map fun e => match s.planLinkOf links (e.1 : Nat) with
    | some f => srateFs (s.get (R.LNK_LINK_CFG_srate f)) | none => 0).sum
  let users := fun (a : Nat) => (cells.filter fun c => c.streams.contains a).length
  (mine.map fun e => (e.2.2 : Nat)).eraseDups.length == mine.length && decide (rate ≤ 32000000000) &&
    mine.all (fun e => decide (users (e.1 : Nat) ≤ 2)) && decide ((mine.filter fun e => users (e.1 : Nat) == 2).length ≤ 32) &&
    (cl != 16 || mine.isEmpty)

/-- 0x05: the link with which the input rate exceeds 503.32 Gsample/s, a cell that no slot fits or that is not placed, or a cluster
beyond R215, or one whose slot for a stream the rules of R216 have not let become valid in the placement `t`. -/
def Dev.admitFrontEnd (s t : Dev) (cells : List CellRec) (links : List Nat) (l : PlcLayout) : Option Nat :=
  let rate := fun f => srateFs (s.get (R.LNK_LINK_CFG_srate f)) * s.get (R.LNK_LINK_CFG_nstr f)
  let ended := links.find? fun f => decide (503316480000 < ((links.takeWhile (· != f) ++ [f]).map rate).sum)
  let placed := l.streams.map fun e => (e.1 : Nat)
  match ended, cells.find? fun c => !s.cellFits links c || c.streams.any fun a => !placed.contains a with
  | some f, _ => some f
  | none, some c => some c.cell
  | none, none =>
    if placed.eraseDups.length ≠ placed.length then some 0 else (List.range 17).find? fun cl =>
      !s.clusterFits cells links l cl || l.streams.any fun e => (e.2.1 : Nat) == cl && !bit (t.sd cl (e.2.2 : Nat) 0) 0

/-- 0x07: layers of the sets in use, and of the cells without a set. -/
def admitLayers (cells : List CellRec) (sets : List SetRec) : Option Nat :=
  let used := sets.filter fun x => cells.any fun c => c.set == x.set
  let n := (used.map (·.nl)).sum + ((cells.filter fun c => c.set == 0xFF).map (·.nl)).sum
  if 512 < n then some 0 else none

/-- 0x08: a set beyond the first two conditions of R243. -/
def admitSet (cells : List CellRec) (sets : List SetRec) : Option Nat :=
  (sets.find? fun x =>
    let mine := cells.filter fun c => c.set == x.set
    decide (128 < (mine.flatMap (·.streams)).eraseDups.length) || decide (64 < x.nl) ||
      mine.any fun c => mine.any fun d => c.mu != d.mu || c.nsc != d.nsc).map (·.set)

/-- Symbols of a cell in a half subframe (R28). -/
def CellRec.symbols (c : CellRec) : Nat := (if c.ecp then 6 else 7) * 2 ^ c.mu

/-- The antennas of the cells of a set. -/
def setAntennas (mine : List CellRec) : Nat := (mine.flatMap (·.streams)).eraseDups.length

/-- Least cycles that a harness spends on a set in a half subframe: one for each resource element of each symbol, in both directions where a link has no TDD
pattern (R245, R254). -/
def Dev.setCycles (s : Dev) (links : List Nat) (mine : List CellRec) : Nat :=
  let both := mine.any fun c => c.streams.any fun a => match s.planLinkOf links a with | some f => s.rd (R.LNK_TDD_PER f) == 0 | none => true
  match mine with
  | c :: _ => c.symbols * c.nsc * (if both then 2 else 1)
  | [] => 0

/-- 0x09: a set whose cells do not share an enabled harness of its size (R241), or a harness whose least load is beyond the last condition of R243. -/
def Dev.admitHarness (s t : Dev) (cells : List CellRec) (sets : List SetRec) (links : List Nat) : Option Nat :=
  let of_ := fun (x : SetRec) => cells.filter fun c => c.set == x.set
  let on := fun (c : CellRec) => t.get (R.PLC_CELL_harness c.cell)
  let used := sets.filter fun x => !(of_ x).isEmpty
  match used.find? fun x => (of_ x).any fun c =>
      decide (32 ≤ on c) || !t.flag (R.SCA_HCFG_en (on c)) || (of_ x).any (fun d => on d != on c) ||
        decide (32 * t.hRows (on c) < setAntennas (of_ x)) || decide (16 * t.hCols (on c) < x.nl) with
  | some x => some x.set
  | none => (List.range 32).find? fun h =>
      decide (540000 < ((used.filter fun x => (of_ x).any fun c => on c == h).map fun x => s.setCycles links (of_ x)).sum)

/-- Code blocks of a transport block of so many kbit, at the largest block size (R271). -/
def planBlocks (eutra : Bool) (kb : Nat) : Nat := let k := if eutra then 6120 else 8424; if kb = 0 then 0 else (kb * 1000 + 24 + k - 1) / k

/-- Cycles that the decoders, or the encoders, of a queue spend on its cells in a half subframe, at max_it and with every extension row (R281, R362). -/
def codeCycles (down eutra : Bool) (cells : List CellRec) (q : Nat) : Nat :=
  ((cells.filter fun c => c.cq == q && (c.rat == 1) == eutra).map fun c =>
    match down, eutra with
    | false, false => planBlocks false c.ulKb * (21 + c.maxIt * 46 * 16)
    | false, true => planBlocks true c.ulKb * (24 + c.maxIt * 400)
    | true, false => planBlocks false c.dlKb * 63
    | true, true => planBlocks true c.dlKb * 204).sum

/-- Units of a queue that do such work. -/
def Dev.codeUnits (t : Dev) (down eutra : Bool) (q : Nat) : Nat :=
  let l := match down, eutra with | false, false => nums 0 16 | false, true => nums 28 4 | true, false => nums 16 8 | true, true => nums 32 2
  (l.filter fun u => t.inMask q u).length

/-- 0x0A and 0x0B: a queue whose units less one do not do its least work in 540,000 cycles. -/
def Dev.admitCode (t : Dev) (down : Bool) (cells : List CellRec) : Option Nat :=
  (List.range 32).find? fun q => [false, true].any fun e =>
    let n := codeCycles down e cells q
    decide (n ≠ 0) && decide (540000 * (t.codeUnits down e q - 1) < n)

/-- 0x0F: a cell whose least chain of R362 is longer than its deadline: T_sym and 1 µs on the uplink, one symbol on its harness, its queue's coding, and its
declared cycles at its pod's clock. The waits beyond these are the planner's own figures. -/
def Dev.admitChain (t : Dev) (cells : List CellRec) : Option Nat :=
  (cells.find? fun c =>
    let e := c.rat == 1
    let tc := fun (n : Nat) => n * 1024 / 625
    let sca := if c.set = 0xFF then 0 else 134 + c.nsc
    let code := fun (down : Bool) => codeCycles down e cells c.cq / max 1 (t.codeUnits down e c.cq - 1)
    let f := match t.get (R.POD_PSTAT_clk (t.get (R.PLC_CELL_pod c.cell))) with | 1 => 1500 | 2 => 1400 | _ => 1600
    let own := c.engCyc * 196608 / (100 * f)
    let sym := if e ∨ c.mu = 0 then 140288 else if c.ecp then 40960 else 140288 / 2 ^ c.mu
    decide (c.ulDead < sym + 1966 + tc (sca + code false) + own) || decide (c.dlDead < tc (sca + code true) + own)).map (·.cell)

/-- The cells of a pod in a layout. -/
def layoutPod (cells : List CellRec) (l : PlcLayout) (p : Nat) : List CellRec :=
  cells.filter fun c => l.cells.any fun e => (e.1 : Nat) == c.cell && (e.2.1 : Nat) == p

/-- 0x0C: a pod whose declared load exceeds R362, or a cell that no pod runs. -/
def Dev.admitEngine (s : Dev) (cells : List CellRec) (l : PlcLayout) : Option Nat :=
  match (List.range 24).find? fun p => decide (s.podCapacity p < cellLoad (layoutPod cells l p)) with
  | some p => some p
  | none => (cells.find? fun c => l.cells.all fun e => (e.1 : Nat) != c.cell).map (·.cell)

/-- 0x10: R365 in the placement `t`. -/
def Dev.admitSpares (t : Dev) : Option Nat :=
  let shaped := (List.range 32).any fun h => t.flag (R.SCA_HCFG_en h)
  if ((List.range 24).filter t.podSpare).length < t.sparePods ∨ !t.clusterSpare 16 ∨ (shaped ∧ (t.freePositions t.largestHarness).isEmpty) then some 0
  else none

/-- Bytes of the engine firmware sections of the running image. -/
def Dev.fwBodies (s : Dev) (bank : Nat) : List (Nat × List Nat) :=
  (((s.sections bank).getD []).filter (·.type == 0x10)).map fun x => (x.inst, s.sectionBody bank x)

/-- 0x11: the firmware alone exceeds a reference copy. The rest of its size is the planner's own figure. -/
def Dev.admitRefCopy (s : Dev) : Option Nat :=
  if 256 * 4096 < ((s.fwBodies (s.get R.SYS_BOOT_STAT_bank)).map (·.2.length)).sum then some 0 else none

/-- 0x12: a lane, cluster, pod or tile that the placement `t` needs in a domain that is off, with its number. -/
def Dev.admitPower (t : Dev) (cells : List CellRec) (links : List Nat) (l : PlcLayout) : Option Nat :=
  let lanes := links.filter fun f => (t.linkLanes f).any fun n => !t.domOn (laneDom n)
  let clusters := (List.range 17).filter fun c => (c == 16 || l.streams.any fun e => (e.2.1 : Nat) == c) && !t.fexOn c
  let pods := (List.range 24).filter fun p => !(layoutPod cells l p).isEmpty && !t.domOn p
  let tiles := (List.range 64).filter fun k => (t.harnessOf k).isSome && !t.domOn (40 + k / 16)
  (lanes ++ clusters ++ pods ++ tiles).head?

/-- 0x13: a port whose declared load exceeds its rate, in either direction. -/
def Dev.admitBackhaul (s : Dev) (cells : List CellRec) : Option Nat :=
  (List.range 16).find? fun p =>
    let mine := cells.filter fun c => c.port == p
    let cap := 50000 * s.portLanes p
    decide (cap < (mine.map (·.ulKb)).sum) || decide (cap < (mine.map (·.dlKb)).sum)

/-- One check of Table 16-2 over the plan, a layout, and the placement `t` that it gives: the index of the first offender. -/
def Dev.admitCheck (s t : Dev) (l : PlcLayout) (code : Nat) : Option Nat :=
  let cells := s.planCells
  let sets := s.planSets
  let links := s.planLinks
  match code with
  | 0x01 => s.admitPlan cells sets links
  | 0x02 => if 256 < cells.length then some 256 else none
  | 0x03 => s.admitStreams links
  | 0x04 => s.admitLink links
  | 0x05 => s.admitFrontEnd t cells links l
  | 0x06 => (List.range 17).find? fun cl => !t.prachLoadOk cl
  | 0x07 => admitLayers cells sets
  | 0x08 => admitSet cells sets
  | 0x09 => s.admitHarness t cells sets links
  | 0x0A => t.admitCode false cells
  | 0x0B => t.admitCode true cells
  | 0x0C => s.admitEngine cells l
  | 0x0D => if 16304 < ((List.range 16).map s.clsQuota).sum then some 0 else none
  | 0x0E => if 16384 < s.rsvSum then some 0 else none
  | 0x0F => t.admitChain cells
  | 0x10 => t.admitSpares
  | 0x11 => s.admitRefCopy
  | 0x12 => t.admitPower cells links l
  | 0x13 => s.admitBackhaul cells
  | _ => none

/-- The checks that rest on the planner's own figures beside what the model computes of them. -/
def ownChecks : List Nat := [0x06, 0x09, 0x0A, 0x0B, 0x0F, 0x10, 0x11]

/-- The first check that fails, in the order of Table 16-2, with the index. -/
def Dev.admitFails (s t : Dev) (l : PlcLayout) : Option (Nat × Nat) :=
  (nums 1 0x13).findSome? fun k =>
    match s.admitCheck t l k, l.refuse with
    | some i, _ => some (k, i)
    | none, some (r, i) => if r.toNat = k ∧ ownChecks.contains k then some (k, i.toNat) else none
    | none, none => none

/-! ### The placement (R358, R359) -/

/-- The span of a cluster's mask and filter profiles. -/
def profileSpan (cl : Nat) : Nat × Nat := (clBase cl + 0xA200, clBase cl + 0xA600)

/-- The profiles of cluster 0 copied to another cluster. -/
def Dev.copyProfiles (cl : Nat) (s : Dev) : Dev :=
  let (lo, hi) := profileSpan cl
  let src := s.regs.filter fun e => decide ((profileSpan 0).1 ≤ e.1) && decide (e.1 < (profileSpan 0).2)
  if cl = 0 then s
  else src.foldl (fun s e => s.wr (e.1 - clBase 0 + clBase cl) e.2.toNat) { s with regs := s.regs.filter fun e => decide (e.1 < lo) || decide (hi ≤ e.1) }

/-- Registers that the reference copy holds: those of Table 16-1, the profiles and the predistortion banks. -/
def refReg (a : Nat) : Bool :=
  let within := fun (lo hi : Nat) => decide (lo ≤ a) && decide (a < hi)
  within 0x308010000 0x308120000 || within 0x308200000 0x308204000 || within 0x309000100 0x309000500 || within 0x30A000100 0x30A000300 ||
    within 0x30C000020 0x30C000060 || within 0x306000100 0x306000180 || within 0x307000000 0x307008000 || within 0x305002000 0x305003800

/-- The reference copy taken: registers, the table region of the store, engine firmware. -/
def Dev.takeRefCopy (s : Dev) : Dev :=
  let lo := storeBase + s.tableStart * 4096
  { s with plc := { s.plc with ref := {
      regs := s.regs.filter fun e => refReg e.1
      mem := s.mem.filter fun e => decide (lo ≤ e.1) && decide (e.1 < storeBase + 0x4000000)
      fw := s.fwBodies (s.get R.SYS_BOOT_STAT_bank)
      newFw := s.plc.ref.newFw } } }

/-- The steering tables of a layout. -/
def Dev.writePlacement (l : PlcLayout) (s : Dev) : Dev :=
  let s1 := l.streams.foldl (fun s e =>
    let a := (e.1 : Nat)
    ((s.set (R.FEX_XB_LO_cl a) (e.2.1 : Nat)).set (R.FEX_XB_LO_slot a) (e.2.2 : Nat)).setB (R.FEX_XB_LO_valid a) true) s
  let s2 := l.cells.foldl (fun s e => (s.set (R.PLC_CELL_pod (e.1 : Nat)) (e.2.1 : Nat)).set (R.PLC_CELL_harness (e.1 : Nat)) (e.2.2 : Nat)) s1
  let used := (List.range 17).filter fun c => c == 16 || l.streams.any fun e => (e.2.1 : Nat) == c
  let s3 := used.foldl (fun s c => s.copyProfiles c) s2
  { s3 with plc := { s3.plc with
      cells := s.planCells
      sets := s.planSets
      links := s.planLinks
      podFw := l.fw.foldl (fun t e => tput 0x10000 t (e.1 : Nat) e.2.toNat) s3.plc.podFw } }

/-- The planner tests the plan: refused, the sequence fails; admitted, it takes its tables (R361). -/
def placePhase (layout : PlcLayout) (perr : Option (BitVec 24 × Bool)) (s : Dev) : Dev :=
  if !s.inPhase 8 then s
  else if refDead perr then s.refPerr perr
  else
    let s0 := s.refPerr perr
    let t := s0.writePlacement layout
    match s0.admitFails t layout with
    | some (reason, index) =>
      let s1 := (((s0.set R.PLC_ADMIT_reason reason).setB R.PLC_ADMIT_done true).set R.PLC_ADMIT_index index).setB R.PLC_STAT_refused true
      (s1.raise Ev.PLC_REFUSED [(8, (reason : Int)), (12, (index : Int))]).startFailed 6
    | none =>
      let t1 := ((((t.set R.PLC_ADMIT_reason 0).setB R.PLC_ADMIT_done true).set R.PLC_ADMIT_index 0).set R.PLC_STAT_state 1).takeRefCopy
      let streams := (t1.plc.cells.flatMap (·.streams)).eraseDups.length
      let t2 := t1.raise Ev.PLC_ADMITTED [(32, ((t1.plc.cells.length : Nat) : Int)), (32, (streams : Int))]
      (t2.showSpare.refreshCells).endPhase 9

def execPlacePhase (layout : PlcLayout) (perr : Option (BitVec 24 × Bool)) := act (placePhase layout perr)

/-! ### LANES (R383, R384, R394) -/

/-- Words of a link record. -/
def Dev.linkRec (s : Dev) (i k : Nat) : Nat := s.planWord 2 (4 + 20 * i + k)

/-- The lanes of a link record. -/
def Dev.recLanes (s : Dev) (i : Nat) : List Nat :=
  let f := s.linkRec i 0 % 1024
  let split := f % 2 == 0 && bit (s.linkRec i 1) 5
  (List.range (2 ^ bits (s.linkRec i 2) 1 2)).map fun j => (if split then f + 2 * j else f + j) % 1024

/-- The link registers of a record's first lane, in the order of R394; LNK_LINE_CFG and LNK_QTHR aside. -/
def linkRecRegs (f : Nat) : List (Nat × Nat) :=
  [(R.LNK_LINK_CFG f, 2), (R.LNK_LINK_CFG2 f, 3), (R.LNK_STEER_CFG f, 4), (R.LNK_ASYM f, 5), (R.LNK_DL_MARGIN f, 6), (R.LNK_TDD_PER f, 8)] ++
    (List.range 8).map fun k => (R.LNK_TDD f k, 9 + k)

/-- A lane that the link plan does not name: its configuration is zero. -/
def Dev.clearLane (n : Nat) (s : Dev) : Dev :=
  let s1 := lineCfgWrite (portIdx 1024 (by decide) n) 0 s
  let s2 := if s1.linkState n = 0 then s1 else s1.linkOff n
  (linkRecRegs n).foldl (fun s e => s.plainWrite e.1 0) (s2.plainWrite (R.LNK_QTHR n) 0)

/-- The link plan written: every link's registers first, then its lanes, then what the links' configuration makes of it. -/
def Dev.writeLinkPlan (s : Dev) : Dev :=
  let n := s.planWord 2 0 % 2048
  let named := (List.range n).flatMap s.recLanes
  let s1 := ((List.range 1024).filter fun k => !named.contains k).foldl (fun s k => s.clearLane k) s
  let s2 := (List.range n).foldl (fun t i => (linkRecRegs (s.linkRec i 0 % 1024)).foldl (fun t e => t.plainWrite e.1 (s.linkRec i e.2)) t) s1
  let s3 := (List.range n).foldl (fun t i => (s.recLanes i).foldl (fun t k =>
    lineCfgWrite (portIdx 1024 (by decide) k) (BitVec.ofNat 32 (s.linkRec i 1)) (t.plainWrite (R.LNK_QTHR k) (s.linkRec i 7))) t) s2
  (List.range n).foldl (fun t i =>
    let f := s.linkRec i 0 % 1024
    if !t.flag (R.LNK_LINK_CFG_en f) then t
    else match t.linkCfgBad f with
      | some c => t.linkCfgFault f c
      | none => t.alignEnter f) s3

/-- Lanes of the link plan that are not UP. -/
def Dev.lanesDown (s : Dev) : Nat :=
  (((List.range (s.planWord 2 0 % 2048)).flatMap s.recLanes).eraseDups.filter fun k => s.laneState k != 8).length

/-- LANES writes the link plan; it ends when every lane is UP. -/
def lanesPhase (s : Dev) : Dev :=
  if !s.inPhase 7 then s
  else
    let s1 := if s.boot.lanesSet then s else let t := s.writeLinkPlan; { t with boot := { t.boot with lanesSet := true } }
    if s1.lanesDown = 0 then s1.endPhase 8 else s1

def execLanesPhase := act lanesPhase

/-- lane_to has passed with lanes not UP. -/
def sysLanesPartial (s : Dev) : Dev :=
  if s.inPhase 7 && s.boot.lanesSet && s.elapsed s.boot.phaseAt (s.planWord 2 1) && s.lanesDown != 0 then
    (s.raise Ev.SYS_LANES_PARTIAL [(32, ((s.lanesDown : Nat) : Int))]).endPhase 8
  else s

def execSysLanesPartial := act sysLanesPartial

/-! ### ENGINES and START (R384, R398, R36) -/

/-- The engines of every pod with firmware loaded, read back and started; boot completes. -/
def enginesPhase (bad : List (Fin 24 × Fin 3)) (s : Dev) : Dev :=
  if !s.inPhase 9 then s
  else
    let pods := (List.range 24).filter fun p => (s.podBody p).isSome && s.domOn p
    let fails := fun (p n : Nat) => bad.any fun e => (e.1 : Nat) == p && decide (n ≤ (e.2 : Nat))
    let s1 := pods.foldl (fun s p =>
      let t := s.loadPod p
      if fails p 1 then (t.raiseOf Ev.SYS_FW_LOAD_PERR 5 p []).loadPod p else t) s
    if pods.any fun p => fails p 2 then s1.startFailed 7
    else
      let ms := s1.msSince s1.boot.releasedAt
      let s2 := (s1.setB R.SYS_BOOT_STAT_done true).wr R.SYS_BOOT_MS ms
      let s3 := { s2 with eng := { s2.eng with lim := s2.get R.STO_SYSLIM_grain } }
      (s3.raise Ev.SYS_BOOT_DONE [(32, (ms : Int))]).endPhase 10

def execEnginesPhase (bad : List (Fin 24 × Fin 3)) := act (enginesPhase bad)

/-- The second frame boundary after now. -/
def Dev.startBoundary (s : Dev) : Nat := frameAtOrAfter (s.time.cnt + 1) + frameTc

/-- Air time armed for the second frame boundary after the arm; again after air time was in FREE (R37). -/
def startPhase (s : Dev) : Dev :=
  if (!s.inPhase 10 ∧ !s.inPhase 11) ∨ s.airState ≠ 1 ∨ s.time.start.isSome then s
  else airStartArm ((s.wr R.AIR_START_HI (s.startBoundary / 2 ^ 32)).wr R.AIR_START_LO (s.startBoundary % 2 ^ 32))

def execStartPhase := act startPhase

end Sys2Proof.Machine
end

