-- ==== Sys2Proof/Machine/Flags.lean ====
section
/-!
DEFINITION. The status conditions of vector results (R313), and the floating-point arithmetic that raises them: IEEE 754 with round
to nearest, ties to even, subnormal inputs and results flushed to zero, and one canonical NaN.
-/

namespace Sys2Proof.Machine

/-- What a result adds to VSTAT: saturated, invalid operation, overflow to infinity, flushed. -/
structure VFlags where
  sat : Bool := false
  nv : Bool := false
  of : Bool := false
  ftz : Bool := false
deriving DecidableEq, Repr

def VFlags.join (a b : VFlags) : VFlags := ⟨a.sat || b.sat, a.nv || b.nv, a.of || b.of, a.ftz || b.ftz⟩

/-- The VSTAT bits. -/
def VFlags.toNat (f : VFlags) : Nat := b2n f.sat + 2 * b2n f.nv + 4 * b2n f.of + 8 * b2n f.ftz

/-- A value saturated to `w` signed bits, as bits, and whether it was. -/
def satBits (w : Nat) (v : Int) : Nat × VFlags := (toBits w (satSigned w v), { sat := satSigned w v != v })

/-- A floating-point format: exponent bits and fraction bits. -/
structure FpFmt where
  eb : Nat
  fb : Nat
deriving DecidableEq, Repr

abbrev fp16 : FpFmt := ⟨5, 10⟩
abbrev bf16 : FpFmt := ⟨8, 7⟩
abbrev fp32 : FpFmt := ⟨8, 23⟩

def FpFmt.bias (f : FpFmt) : Int := (2 ^ (f.eb - 1) - 1 : Nat)
def FpFmt.width (f : FpFmt) : Nat := 1 + f.eb + f.fb
/-- The canonical quiet NaN. -/
def FpFmt.nan (f : FpFmt) : Nat := (2 ^ f.eb - 1) * 2 ^ f.fb + 2 ^ (f.fb - 1)
def FpFmt.inf (f : FpFmt) (neg : Bool) : Nat := (2 ^ f.eb - 1) * 2 ^ f.fb + b2n neg * 2 ^ (f.eb + f.fb)
def FpFmt.zero (f : FpFmt) (neg : Bool) : Nat := b2n neg * 2 ^ (f.eb + f.fb)

/-- A decoded number: NaN (signalling or not), infinity, or ± m × 2^e. -/
inductive Fp where
  | nan (signalling : Bool)
  | inf (neg : Bool)
  | fin (neg : Bool) (m : Nat) (e : Int)
deriving DecidableEq, Repr

/-- The number that bits stand for, a subnormal one flushed, with the flush flag. -/
def FpFmt.decode (f : FpFmt) (v : Nat) : Fp × VFlags :=
  let neg := v.testBit (f.eb + f.fb)
  let e := bits v f.fb f.eb
  let m := bits v 0 f.fb
  if e = 2 ^ f.eb - 1 then (if m = 0 then .inf neg else .nan (!m.testBit (f.fb - 1)), {})
  else if e = 0 then (.fin neg 0 0, { ftz := m != 0 })
  else (.fin neg (m + 2 ^ f.fb) ((e : Int) - f.bias - f.fb), {})

/-- m / 2^k to the nearest whole, ties to even. -/
def rneShift (m k : Nat) : Nat :=
  let q := m / 2 ^ k
  let r := m % 2 ^ k
  if 2 * r > 2 ^ k ∨ (2 * r = 2 ^ k ∧ q % 2 = 1) then q + 1 else q

/-- ± m × 2^e rounded once into a format. -/
def FpFmt.round (f : FpFmt) (neg : Bool) (m : Nat) (e : Int) : Nat × VFlags :=
  if m = 0 then (f.zero neg, {})
  else
    let emin := 1 - f.bias
    let q := max (e + (m.log2 : Int) - f.fb) (emin - f.fb)
    let r := if q ≤ e then m * 2 ^ (e - q).toNat else rneShift m (q - e).toNat
    if r < 2 ^ f.fb then (f.zero neg, { ftz := r != 0 })
    else
      let (r1, q1) := if r = 2 ^ (f.fb + 1) then (2 ^ f.fb, q + 1) else (r, q)
      let ex := q1 + f.fb + f.bias
      if ((2 ^ f.eb - 1 : Nat) : Int) ≤ ex then (f.inf neg, { of := true })
      else (b2n neg * 2 ^ (f.eb + f.fb) + ex.toNat * 2 ^ f.fb + (r1 - 2 ^ f.fb), {})

/-- The exact sum of two finite numbers; an exact zero is −0 only where both are negative. -/
def finAdd (n1 : Bool) (m1 : Nat) (e1 : Int) (n2 : Bool) (m2 : Nat) (e2 : Int) : Bool × Nat × Int :=
  let e := min e1 e2
  let a : Int := (if n1 then -1 else 1) * (m1 * 2 ^ (e1 - e).toNat : Nat)
  let b : Int := (if n2 then -1 else 1) * (m2 * 2 ^ (e2 - e).toNat : Nat)
  let s := a + b
  (if s = 0 then n1 && n2 else decide (s < 0), s.natAbs, e)

def isSnan : Fp → Bool | .nan sg => sg | _ => false
def isNan : Fp → Bool | .nan _ => true | _ => false

/-- x + y, rounded. -/
def FpFmt.sum (f : FpFmt) (x y : Fp) : Nat × VFlags :=
  if isNan x || isNan y then (f.nan, { nv := isSnan x || isSnan y })
  else
    match x, y with
    | .inf a, .inf b => if a = b then (f.inf a, {}) else (f.nan, { nv := true })
    | .inf a, _ => (f.inf a, {})
    | _, .inf b => (f.inf b, {})
    | .fin n1 m1 e1, .fin n2 m2 e2 => let (n, m, e) := finAdd n1 m1 e1 n2 m2 e2; f.round n m e
    | _, _ => (f.nan, {})

/-- The exact product, before rounding, and whether it is 0 × ∞. -/
def fpMul (x y : Fp) : Fp × Bool :=
  match x, y with
  | .nan s, .nan t => (.nan (s || t), false)
  | .nan s, _ => (.nan s, false)
  | _, .nan s => (.nan s, false)
  | .inf a, .inf b => (.inf (a != b), false)
  | .inf a, .fin b m _ => if m = 0 then (.nan false, true) else (.inf (a != b), false)
  | .fin a m _, .inf b => if m = 0 then (.nan false, true) else (.inf (a != b), false)
  | .fin a m e, .fin b n k => (.fin (a != b) (m * n) (e + k), false)

/-- An exact value rounded into a format. -/
def FpFmt.put (f : FpFmt) (x : Fp) : Nat × VFlags :=
  match x with
  | .nan s => (f.nan, { nv := s })
  | .inf n => (f.inf n, {})
  | .fin n m e => f.round n m e

def Fp.negate : Fp → Fp
  | .nan s => .nan s
  | .inf n => .inf (!n)
  | .fin n m e => .fin (!n) m e

/-- x × y, rounded. -/
def FpFmt.mul (f : FpFmt) (x y : Fp) : Nat × VFlags :=
  let (p, bad) := fpMul x y
  let (v, fl) := f.put p
  (v, { fl with nv := fl.nv || bad })

/-- x × y + z, rounded once; `open_` decides nv for 0 × ∞ + quiet NaN, which IEEE 754 leaves open. -/
def FpFmt.fma (f : FpFmt) (open_ : Bool) (x y z : Fp) : Nat × VFlags :=
  let (p, bad) := fpMul x y
  if bad then (f.nan, { nv := if isNan z then isSnan z || open_ else true })
  else f.sum p z

/-- x ÷ y, rounded. -/
def FpFmt.div (f : FpFmt) (x y : Fp) : Nat × VFlags :=
  if isNan x || isNan y then (f.nan, { nv := isSnan x || isSnan y })
  else
    match x, y with
    | .inf _, .inf _ => (f.nan, { nv := true })
    | .inf a, .fin b _ _ => (f.inf (a != b), {})
    | .fin a _ _, .inf b => (f.zero (a != b), {})
    | .fin a m e, .fin b n k =>
      if n = 0 then (if m = 0 then (f.nan, { nv := true }) else (f.inf (a != b), {}))
      else
        let q := m * 2 ^ 64 / n
        let sticky := if m * 2 ^ 64 % n = 0 then 0 else 1
        f.round (a != b) (2 * q + sticky) (e - k - 65)
    | _, _ => (f.nan, {})

/-- x < y, for numbers. -/
def fpLt (x y : Fp) : Bool :=
  match x, y with
  | .nan _, _ => false
  | _, .nan _ => false
  | .inf a, .inf b => a && !b
  | .inf a, _ => a
  | _, .inf b => !b
  | .fin n1 m1 e1, .fin n2 m2 e2 =>
    let (n, m, _) := finAdd n1 m1 e1 (!n2) m2 e2
    n && m != 0

/-- x = y, for numbers; +0 and −0 are equal. -/
def fpEq (x y : Fp) : Bool := !isNan x && !isNan y && !fpLt x y && !fpLt y x

end Sys2Proof.Machine
end

