-- ==== Sys2Proof/Machine/Matrix.lean ====
section
/-!
DEFINITION. The matrix unit's arithmetic (R333): fp32 sums of products whose order the spec leaves open, complex factors and solves, and the cint16
outputs. `ctr` is the command's free value; every open choice (the order of a sum, whether a product and an addition round once) is drawn from it (log 126).
-/

namespace Sys2Proof.Machine

/-- A complex fp32 number. -/
structure Cfp where
  re : Fp
  im : Fp
deriving DecidableEq, Repr

/-- Positive zero. -/
def fpZero : Fp := .fin false 0 0

/-- The number that a rounded fp32 result stands for. -/
def fpOut (r : Nat × VFlags) : Fp := (fp32.decode r.1).1

def fpFinite : Fp → Bool | .fin _ _ _ => true | _ => false

def Cfp.finite (z : Cfp) : Bool := fpFinite z.re && fpFinite z.im

def Cfp.conj (z : Cfp) : Cfp := ⟨z.re, z.im.negate⟩

/-- A summand of a dot product: a number, or a product not yet rounded. -/
inductive Term where
  | val (x : Fp)
  | prod (x y : Fp)
deriving DecidableEq, Repr

/-- A summand by itself. -/
def Term.value : Term → Fp
  | .val x => x
  | .prod x y => fpOut (fp32.mul x y)

/-- Two summands added: with `fused` a product and the addition round once. -/
def Term.join (fused : Bool) (s t : Term) : Fp :=
  match s, t with
  | .prod x y, u => if fused then fpOut (fp32.fma false x y u.value) else fpOut (fp32.sum (fpOut (fp32.mul x y)) u.value)
  | .val z, .prod x y => if fused then fpOut (fp32.fma false x y z) else fpOut (fp32.sum z (fpOut (fp32.mul x y)))
  | .val z, .val w => fpOut (fp32.sum z w)

/-- A sum in fp32, in an order that the spec leaves open: at each of at most `n` steps two of the summands are taken by a free choice. -/
def sumTerms (ctr seed : Nat) : Nat → List Term → Fp
  | _, [] => fpZero
  | 0, t :: _ => t.value
  | _ + 1, [t] => t.value
  | n + 1, l =>
    let c := Config.freeNat ctr (seed * 1024 + n)
    let i := c / 2 % l.length
    let r := l.eraseIdx i
    let j := c / 2 / l.length % r.length
    sumTerms ctr seed n (r.eraseIdx j ++ [.val (Term.join (c % 2 == 1) (lget (.val fpZero) l i) (lget (.val fpZero) r j))])

/-- A sum of summands; the sign of a zero sum follows the open order, so it is free. -/
def dotTerms (ctr seed : Nat) (l : List Term) : Fp :=
  match sumTerms ctr seed l.length l with
  | .fin n 0 _ => .fin (if 2 ≤ l.length then Config.freeNat ctr (seed * 1024 + 1000) % 2 == 1 else n) 0 0
  | x => x

/-- The summands of the real and the imaginary part of x × y. -/
def Cfp.times (x y : Cfp) : List Term × List Term :=
  ([.prod x.re y.re, .prod x.im.negate y.im], [.prod x.re y.im, .prod x.im y.re])

/-- Element `e` of a result: `z` plus the sum of products. -/
def dotC (ctr e : Nat) (z : Option Cfp) (l : List (Cfp × Cfp)) : Cfp :=
  let t := l.map fun p => p.1.times p.2
  let (a, b) : List Term × List Term := match z with | some z => ([.val z.re], [.val z.im]) | none => ([], [])
  ⟨dotTerms ctr (2 * e) (a ++ t.flatMap (·.1)), dotTerms ctr (2 * e + 1) (b ++ t.flatMap (·.2))⟩

/-- x / y in fp32: one division, or the product with the reciprocal, as `c` chooses. -/
def fpQuot (c : Nat) (x y : Fp) : Fp :=
  if c % 2 = 0 then fpOut (fp32.div x y) else fpOut (fp32.mul x (fpOut (fp32.div (.fin false 1 0) y)))

/-- √x in fp32 for a positive number. -/
def fpRoot (x : Fp) : Fp :=
  match x with
  | .fin _ m e =>
    let k := 60 + (e % 2).toNat
    let r := isqrt 64 (m * 2 ^ k)
    fpOut (fp32.round false (2 * r + (if r * r = m * 2 ^ k then 0 else 1)) ((e - k) / 2 - 1))
  | y => y

/-- Element `e` of a solve, t / y: by a real pivot's quotients, or by the product with the conjugate and its squared magnitude. -/
def quotC (ctr e : Nat) (t y : Cfp) : Cfp :=
  let c := Config.freeNat ctr (2 * e * 1024 + 1001)
  if fpEq y.im fpZero ∧ c / 2 % 2 = 0 then ⟨fpQuot c t.re y.re, fpQuot c t.im y.re⟩
  else
    let den := dotTerms ctr (2 ^ 16 + 2 * e) [.prod y.re y.re, .prod y.im y.im]
    let (a, b) := t.times y.conj
    ⟨fpQuot c (dotTerms ctr (2 ^ 17 + 2 * e) a) den, fpQuot c (dotTerms ctr (2 ^ 17 + 2 * e + 1) b) den⟩

/-- A matrix as its rows. -/
abbrev Mx := List (List Cfp)

def Mx.at (m : Mx) (i j : Nat) : Cfp := lget ⟨fpZero, fpZero⟩ (lget [] m i) j

/-- A matrix of `r` rows and `c` columns by its elements. -/
def Mx.of (r c : Nat) (f : Nat → Nat → Cfp) : Mx := (List.range r).map fun i => (List.range c).map (f i)

/-- The conjugate transpose of an `r` × `c` matrix. -/
def Mx.herm (m : Mx) (r c : Nat) : Mx := Mx.of c r fun i j => (m.at j i).conj

/-- A × B, `r` × `k` by `k` × `c`, plus `z` (GEMM). -/
def mxProduct (ctr r k c : Nat) (a b : Mx) (z : Option Mx) : Mx :=
  Mx.of r c fun i j => dotC ctr (i * c + j) (z.map fun m => m.at i j) ((List.range k).map fun t => (a.at i t, b.at t j))

/-- A^H A of an `r` × `n` matrix, plus `z`, else plus d × I (GRAM): one triangle is computed and the other is its conjugate. The imaginary part of the
diagonal, an exact zero, is summed or left out as a free choice says. -/
def mxGram (ctr r n : Nat) (a : Mx) (z : Option Mx) (d : Fp) : Mx :=
  Mx.of n n fun i j =>
    let p := max i j
    let q := min i j
    let base : Option Cfp := match z with
      | some m => some (if i < j then (m.at i j).conj else m.at i j)
      | none => if i = j then some ⟨d, fpZero⟩ else none
    let x := dotC ctr (p * n + q) base ((List.range r).map fun t => ((a.at t p).conj, a.at t q))
    let y : Cfp := if i = j ∧ Config.freeNat ctr (2 * p * 1024 + 1002) % 2 = 0 then ⟨x.re, (base.map (·.im)).getD fpZero⟩ else x
    if i < j then y.conj else y

/-- The element of a Hermitian operand below or on the diagonal; where the two mirrored elements do not agree, either. -/
def mxHermAt (ctr n : Nat) (a : Mx) (i j : Nat) : Cfp :=
  let x := a.at i j
  let y := (a.at j i).conj
  if fpEq x.re y.re ∧ fpEq x.im y.im ∨ Config.freeNat ctr (2 * (i * n + j) * 1024 + 1003) % 2 = 0 then x else y

/-- Column `j` of L below its pivot: the columns before it are in `cols`, each a full column of `n`. -/
def cholColumn (ctr n j : Nat) (a : Mx) (cols : List (List Cfp)) : Cfp × (Fp → List Cfp) :=
  let neg (z : Cfp) : Cfp := ⟨z.re.negate, z.im.negate⟩
  let rest (i : Nat) : Cfp := dotC ctr (i * n + j) (some (mxHermAt ctr n a i j))
    (cols.map fun c => (neg (lget ⟨fpZero, fpZero⟩ c i), (lget ⟨fpZero, fpZero⟩ c j).conj))
  (rest j, fun p => (List.range n).map fun i =>
    if i < j then ⟨fpZero, fpZero⟩ else if i = j then ⟨p, fpZero⟩
    else
      let c := Config.freeNat ctr (2 * (i * n + j) * 1024 + 1001)
      ⟨fpQuot c (rest i).re p, fpQuot c (rest i).im p⟩)

/-- The columns of L with A = L L^H, and the column whose pivot is 0 or less or NaN, where one is. -/
def cholRun (ctr n : Nat) (a : Mx) : Nat → List (List Cfp) → List (List Cfp) × Option Nat
  | 0, cols => (cols, none)
  | k + 1, cols =>
    let (t, col) := cholColumn ctr n cols.length a cols
    if fpLt fpZero t.re then cholRun ctr n a k (cols ++ [col (fpRoot t.re)]) else (cols, some cols.length)

/-- CHOL: L with a zero upper part; from a failing column on, zeros. -/
def mxChol (ctr n : Nat) (a : Mx) : Mx × Option Nat :=
  let (cols, bad) := cholRun ctr n a n []
  (Mx.of n n fun i j => lget ⟨fpZero, fpZero⟩ (lget [] cols j) i, bad)

/-- The rows of the solution of T X = B, T triangular: the rows in `order` one after another, `done` those already solved. -/
def solveRows (ctr n c : Nat) (t b : Mx) : List Nat → List (Nat × List Cfp) → List (Nat × List Cfp)
  | [], done => done
  | i :: r, done =>
    let row := (List.range c).map fun j =>
      let x := dotC ctr (i * c + j) (some (b.at i j)) (done.map fun e =>
        (⟨(t.at i e.1).re.negate, (t.at i e.1).im.negate⟩, lget ⟨fpZero, fpZero⟩ e.2 j))
      quotC ctr (i * c + j) x (t.at i i)
    solveRows ctr n c t b r (done ++ [(i, row)])

/-- TRSM: L^-1 B, or L^-H B with `up`, for an `n` × `c` right side. -/
def mxSolve (ctr n c : Nat) (up : Bool) (l b : Mx) : Mx :=
  let order := if up then (List.range n).reverse else List.range n
  let rows := solveRows ctr n c (if up then l.herm n n else l) b order []
  (List.range n).map fun i => match rows.find? (·.1 == i) with | some e => e.2 | none => []

/-- x × 2^k to the nearest whole, ties away from zero. -/
def fpWhole (x : Fp) (k : Int) : Int :=
  match x with
  | .fin neg m e =>
    let q := e + k
    let v := if 0 ≤ q then m * 2 ^ q.toNat else (m * 2 + 2 ^ (-q).toNat) / 2 ^ ((-q).toNat + 1)
    if neg then -(v : Int) else v
  | _ => 0

/-- A component of an output: a cint16 one rounded and saturated, and 0 where it is no number; with the flag of saturation. -/
def cintPart (osh : Int) (x : Fp) : Nat × Bool :=
  let v := fpWhole x osh
  (toBits 16 (satSigned 16 v), satSigned 16 v != v)

/-- The bytes of an output element, as cf32 or cint16, and whether a component saturated. -/
def Cfp.bytes (cf : Bool) (osh : Int) (z : Cfp) : List Nat × Bool :=
  if cf then (leBytes 8 ((fp32.put z.re).1 + (fp32.put z.im).1 * 2 ^ 32), false)
  else
    let (a, s) := cintPart osh z.re
    let (b, t) := cintPart osh z.im
    (leBytes 4 (a + b * 2 ^ 16), s || t)

/-- The number that a stored element stands for. -/
def elementAt (cf : Bool) (w : Nat) : Cfp :=
  let part (k : Nat) : Fp := let v := toSigned 16 (bits w k 16); .fin (decide (v < 0)) v.natAbs (-15)
  if cf then ⟨(fp32.decode (bits w 0 32)).1, (fp32.decode (bits w 32 32)).1⟩ else ⟨part 0, part 16⟩

end Sys2Proof.Machine
end

