-- ==== Sys2Proof/Machine/VectorOps.lean ====
section
/-!
DEFINITION. The vector unit as shared operations: types, groups, predicates, elements and their arithmetic (R307–R313).
-/

namespace Sys2Proof.Machine

/-! ### Types (Table 13-1) -/

/-- The width of an element type in bytes. -/
def tyBytes (t : Nat) : Nat := lget 1 [1, 2, 4, 8, 4, 8, 2, 2, 4] t
def tyBits (t : Nat) : Nat := 8 * tyBytes t
def tyInt (t : Nat) : Bool := decide (t ≤ 3)
def tyCx (t : Nat) : Bool := t == 4 || t == 5
def tyFp (t : Nat) : Bool := decide (6 ≤ t) && decide (t ≤ 8)
def tyFmt (t : Nat) : FpFmt := if t = 6 then fp16 else if t = 7 then bf16 else fp32
/-- The widened type; 9 where there is none. -/
def tyWide (t : Nat) : Nat := lget 9 [1, 2, 3, 9, 5, 9, 8, 8, 9] t
/-- Elements in one register of 1,024 bits. -/
def tyElems (t : Nat) : Nat := 128 / tyBytes t

/-! ### Registers (R307, R309, R310) -/

def Dev.vreg (s : Dev) (g r : Nat) : Nat := (tget 0 (s.core g).v r).toNat
def Dev.setVreg (g r v : Nat) (s : Dev) : Dev := s.setCore g { s.core g with v := tput 0 (s.core g).v r (BitVec.ofNat 1024 v) }

/-- A predicate register: p0 reads as all ones. -/
def Dev.preg (s : Dev) (g r : Nat) : Nat := if r = 0 then 2 ^ 128 - 1 else (tget 0 (s.core g).p r).toNat
/-- The device with a predicate register written; a write to p0 is discarded. -/
def Dev.setPreg (g r v : Nat) (s : Dev) : Dev :=
  if r = 0 then s else s.setCore g { s.core g with p := tput 0 (s.core g).p r (BitVec.ofNat 128 v) }

/-- The elements of a group of `n` registers, `w` bytes each. -/
def Dev.velems (s : Dev) (g base n w : Nat) : List Nat :=
  (List.range n).flatMap fun k => (List.range (128 / w)).map fun i => bits (s.vreg g (base + k)) (i * 8 * w) (8 * w)

/-- Elements of `w` bytes packed into one number, the first lowest. -/
def packElems (w : Nat) (l : List Nat) : Nat := l.foldr (fun v r => v % 2 ^ (8 * w) + 2 ^ (8 * w) * r) 0

/-- A group of `n` registers written with elements of `w` bytes. -/
def Dev.setVelems (g base n w : Nat) (l : List Nat) (s : Dev) : Dev :=
  (List.range n).foldl (fun s k => s.setVreg g (base + k) (packElems w ((l.drop (k * (128 / w))).take (128 / w)))) s

/-- The predicate that a governing slot names (R310). -/
def Dev.pgReg (s : Dev) (g pg : Nat) : Nat := if pg = 0 then 0 else bits (s.rd (R.CSR_VGMAP g)) (4 * pg) 4

/-- Which elements of a predicate are active, one register of `w`-byte elements. -/
def predElems (p w : Nat) : List Bool := (List.range (128 / w)).map fun i => p.testBit (i * w)

/-- Which elements of a group are active: the same predicate governs every pass. -/
def Dev.active (s : Dev) (g pg n w : Nat) : List Bool := (List.range n).flatMap fun _ => predElems (s.preg g (s.pgReg g pg)) w

/-- A predicate from element results: every bit of an element takes its result. -/
def predOf (w : Nat) (l : List Bool) : Nat := packElems 1 (((List.range 128).map fun i => b2n (lget false l (i / w)))) |> fun v => packBits v 128
where
  /-- Bytes of 0 or 1 gathered to bits. -/
  packBits (v : Nat) : Nat → Nat
    | 0 => 0
    | n + 1 => v % 2 + 2 * packBits (v / 256) n

/-- A status added to VSTAT. -/
def Dev.addVstat (g : Nat) (f : VFlags) (s : Dev) : Dev := s.wr (R.CSR_VSTAT g) (Nat.lor (s.rd (R.CSR_VSTAT g)) f.toNat)

/-- The vector unit was occupied for `n` passes. -/
def Dev.vbusy (g n : Nat) (s : Dev) : Dev := s.inc64 (R.CSR_VBUSY_LO g) n

/-! ### Arithmetic on one element -/

/-- A complex element as I and Q. -/
def elCx (t v : Nat) : Int × Int :=
  let h := tyBits t / 2
  (toSigned h v, toSigned h (v / 2 ^ h))

/-- A complex element from I and Q, each saturated. -/
def elCxPut (t : Nat) (i q : Int) : Nat × VFlags :=
  let h := tyBits t / 2
  let (a, fa) := satBits h i
  let (b, fb) := satBits h q
  (a + b * 2 ^ h, fa.join fb)

/-- The exact complex product. -/
def elCxProd (a b : Int × Int) : Int × Int := (a.1 * b.1 - a.2 * b.2, a.1 * b.2 + a.2 * b.1)

/-- A product scaled by 2^−15 or 2^−31, to nearest with ties away from zero, and saturated (R313). -/
def elCxScaled (t : Nat) (p : Int × Int) : Nat × VFlags :=
  let k := 2 ^ (tyBits t / 2 - 1)
  elCxPut t (divRound p.1 k) (divRound p.2 k)

/-- A floating-point operation on decoded operands, with the flushes of its inputs. -/
def fpIn (t : Nat) (a b : Nat) (f : FpFmt → Fp → Fp → Nat × VFlags) : Nat × VFlags :=
  let (x, fx) := (tyFmt t).decode a
  let (y, fy) := (tyFmt t).decode b
  let (v, fl) := f (tyFmt t) x y
  (v, (fl.join fx).join fy)

/-- vs1 ± vs2. -/
def elAdd (sub : Bool) (t a b : Nat) : Nat × VFlags :=
  if tyFp t then fpIn t a b fun fm x y => fm.sum x (if sub then y.negate else y)
  else if tyCx t then
    let x := elCx t a
    let y := elCx t b
    if sub then elCxPut t (x.1 - y.1) (x.2 - y.2) else elCxPut t (x.1 + y.1) (x.2 + y.2)
  else
    let w := tyBits t
    (toBits w (if sub then toSigned w a - toSigned w b else toSigned w a + toSigned w b), {})

/-- Saturating vs1 ± vs2. -/
def elAdds (sub : Bool) (t a b : Nat) : Nat × VFlags :=
  if tyCx t then elAdd sub t a b
  else
    let w := tyBits t
    satBits w (if sub then toSigned w a - toSigned w b else toSigned w a + toSigned w b)

/-- The product of VMUL. -/
def elMul (t a b : Nat) : Nat × VFlags :=
  if tyFp t then fpIn t a b fun fm x y => fm.mul x y
  else if tyCx t then elCxScaled t (elCxProd (elCx t a) (elCx t b))
  else (toBits (tyBits t) (toSigned (tyBits t) a * toSigned (tyBits t) b), {})

/-- vd ± the product; a floating-point one is fused. -/
def elMac (sub open_ : Bool) (t d a b : Nat) : Nat × VFlags :=
  if tyFp t then
    let fm := tyFmt t
    let (x, fx) := fm.decode a
    let (y, fy) := fm.decode b
    let (z, fz) := fm.decode d
    let (v, fl) := fm.fma open_ (if sub then x.negate else x) y z
    (v, ((fl.join fx).join fy).join fz)
  else
    let (p, fp) := elMul t a b
    let (v, fv) := elAdd sub t d p
    (v, fv.join fp)

/-- vd (widened) + the exact product, with vs1 conjugated where asked (VMACW, VCMACW). -/
def elMacw (conj open_ : Bool) (t d a b : Nat) : Nat × VFlags :=
  let wt := tyWide t
  if tyFp t then
    let (x, fx) := (tyFmt t).decode a
    let (y, fy) := (tyFmt t).decode b
    let (z, fz) := fp32.decode d
    let (v, fl) := fp32.fma open_ x y z
    (v, ((fl.join fx).join fy).join fz)
  else if tyCx t then
    let x := elCx t a
    let p := elCxProd (if conj then (x.1, -x.2) else x) (elCx t b)
    let z := elCx wt d
    elCxPut wt (z.1 + p.1) (z.2 + p.2)
  else (toBits (tyBits wt) (toSigned (tyBits wt) d + toSigned (tyBits t) a * toSigned (tyBits t) b), {})

/-- The lesser or greater. A NaN operand gives the other; of two equal zeros, `open_` chooses. -/
def elMinMax (max_ open_ : Bool) (t a b : Nat) : Nat × VFlags :=
  if tyFp t then
    fpIn t a b fun fm x y =>
      let nv : VFlags := { nv := isSnan x || isSnan y }
      let (v, _) :=
        if isNan x && isNan y then (fm.nan, ({} : VFlags))
        else if isNan x then fm.put y
        else if isNan y then fm.put x
        else if fpEq x y then fm.put (if open_ then x else y)
        else if fpLt x y != max_ then fm.put x
        else fm.put y
      (v, nv)
  else
    let w := tyBits t
    (if decide (toSigned w a < toSigned w b) != max_ then a else b, {})

/-- |x| or −x; integers saturate. -/
def elSign (abs_ : Bool) (t a : Nat) : Nat × VFlags :=
  if tyFp t then
    let fm := tyFmt t
    let (x, fx) := fm.decode a
    let y := if abs_ then (match x with | .fin _ m e => Fp.fin false m e | .inf _ => .inf false | n => n) else x.negate
    (match y with | .nan _ => (fm.nan, fx) | _ => ((fm.put y).1, fx))
  else
    let w := tyBits t
    let v := toSigned w a
    satBits w (if abs_ then (v.natAbs : Int) else -v)

/-- A shift of each component: kind 0 left, 1 right logical, 2 right arithmetic. -/
def elShift (kind n t a : Nat) : Nat × VFlags :=
  let w := if tyCx t then tyBits t / 2 else tyBits t
  let k := n % w
  let one (v : Nat) : Nat :=
    if kind = 0 then v * 2 ^ k % 2 ^ w else if kind = 1 then v / 2 ^ k else toBits w (toSigned w v / (2 ^ k : Nat))
  (if tyCx t then one (a % 2 ^ w) + one (a / 2 ^ w) * 2 ^ w else one a, {})

/-- VNRSR: rounded, shifted and saturated into half the width. -/
def elNarrow (n t a : Nat) : Nat × VFlags :=
  let w := tyBits t
  if tyCx t then
    let x := elCx t a
    elCxPut 4 (divRound x.1 (2 ^ n)) (divRound x.2 (2 ^ n))
  else satBits (w / 2) (divRound (toSigned w a) (2 ^ n))

/-- A floating-point value to an integer of `w` bits: ties to even, saturating, NaN to 0; `open_` decides nv for a value out of range. -/
def fpToInt (open_ : Bool) (t w a : Nat) : Nat × VFlags :=
  let (x, fx) := (tyFmt t).decode a
  match x with
  | .nan _ => (0, { nv := true })
  | .inf n => ((satBits w (if n then -(2 ^ w : Nat) else (2 ^ w : Nat))).1, { sat := true, nv := open_ })
  | .fin n m e =>
    let q := if 0 ≤ e then m * 2 ^ e.toNat else rneShift m (-e).toNat
    let (v, fv) := satBits w (if n then -(q : Int) else q)
    (v, { fv with nv := fv.sat && open_, ftz := fx.ftz })

/-- An integer of `w` bits to a floating-point value. -/
def intToFp (t w a : Nat) : Nat × VFlags :=
  let v := toSigned w a
  (tyFmt t).round (decide (v < 0)) v.natAbs 0

/-- The conversions of VCVT. -/
def cvtAllowed (t u : Nat) : Bool :=
  [(1, 6), (6, 1), (1, 7), (7, 1), (2, 8), (8, 2), (6, 8), (8, 6), (7, 8), (8, 7), (0, 1), (1, 2), (2, 3), (1, 0), (2, 1), (3, 2), (4, 5), (5, 4)].contains (t, u)

def elCvt (open_ : Bool) (t u a : Nat) : Nat × VFlags :=
  if tyFp t && tyFp u then
    let (x, fx) := (tyFmt t).decode a
    let (v, fl) := (tyFmt u).put x
    (v, fl.join fx)
  else if tyFp t then fpToInt open_ t (tyBits u) a
  else if tyFp u then intToFp u (tyBits t) a
  else if tyCx t then let x := elCx t a; elCxPut u x.1 x.2
  else satBits (tyBits u) (toSigned (tyBits t) a)

/-- The exact value m × 2^e with `y` within 2^−12 of 1/x (`root` false) or 1/√x, relative (VRECIP, VRSQRT). -/
def withinBound (root : Bool) (x y : Fp) : Bool :=
  match x, y with
  | .fin _ m e, .fin _ n k =>
    -- |x y − 1| ≤ 2^−12, or for a root (1 − 2^−12)^2 ≤ x y² ≤ (1 + 2^−12)^2
    let p := if root then m * n * n else m * n
    let s : Int := if root then e + 2 * k else e + k
    let num := if 0 ≤ s then p * 2 ^ s.toNat else p
    let den := if 0 ≤ s then 1 else 2 ^ (-s).toNat
    if root then decide (4095 * 4095 * den ≤ num * 4096 * 4096) && decide (num * 4096 * 4096 ≤ 4097 * 4097 * den)
    else decide (4095 * den ≤ num * 4096) && decide (num * 4096 ≤ 4097 * den)
  | _, _ => false

/-- 1/x or 1/√x of a finite number that is not zero: any value `c` within the bound, or the nearest one where `c` is not within it. -/
def approx (root : Bool) (fm : FpFmt) (neg : Bool) (m : Nat) (e : Int) (c : Nat) : Nat × VFlags :=
  let (y, _) := fm.decode c
  let okSign := match y with | .fin n k _ => n == neg && k != 0 | _ => false
  if okSign && withinBound root (.fin neg m e) y then (c, {})
  else if root then
    -- 2^(2j) / m with an even exponent, then its square root
    let e1 := if e % 2 = 0 then e else e - 1
    let m1 := if e % 2 = 0 then m else 2 * m
    let r := isqrt 120 (2 ^ 160 / m1)
    fm.round false (2 * r + 1) (-(e1 / 2) - 81)
  else fm.div (.fin false 1 0) (.fin neg m e)

/-- VRECIP and VRSQRT. -/
def elRecip (root : Bool) (c t a : Nat) : Nat × VFlags :=
  let fm := tyFmt t
  let (x, fx) := fm.decode a
  match x with
  | .nan sg => (fm.nan, { fx with nv := sg })
  | .inf n => if root && n then (fm.nan, { nv := true }) else (fm.zero n, {})
  | .fin n m e =>
    if m = 0 then (fm.inf n, fx)
    else if root && n then (fm.nan, { nv := true })
    else approx root fm n m e (c % 2 ^ fm.width)

/-- VMAG2. -/
def elMag2 (t a : Nat) : Nat × VFlags :=
  let x := elCx t a
  satBits (tyBits t) (x.1 * x.1 + x.2 * x.2)

/-- A comparison: 0 equal, 1 not equal, 2 less, 3 less or equal. Whether an ordered comparison of a quiet NaN is an invalid operation the spec
does not say: `open_` decides nv. -/
def elCmp (kind : Nat) (open_ : Bool) (t a b : Nat) : Bool × VFlags :=
  if tyFp t then
    let (x, fx) := (tyFmt t).decode a
    let (y, fy) := (tyFmt t).decode b
    let nan := isNan x || isNan y
    let fl : VFlags := { nv := isSnan x || isSnan y || (nan && decide (2 ≤ kind) && open_), ftz := fx.ftz || fy.ftz }
    let r := match kind with | 0 => fpEq x y | 1 => !fpEq x y | 2 => fpLt x y | _ => fpLt x y || fpEq x y
    (r, fl)
  else if tyCx t then (if kind = 0 then a == b else a != b, {})
  else
    let w := tyBits t
    let x := toSigned w a
    let y := toSigned w b
    (match kind with | 0 => x == y | 1 => x != y | 2 => decide (x < y) | _ => decide (x ≤ y), {})

/-! ### Whole groups -/

/-- The registers of a group: 1, 2, 4 or 8 (R309). -/
def groupOf (f : VecFields) : Nat := 2 ^ (f.span : Nat)

/-- The register may begin a group of `n`. -/
def groupOk (n r : Nat) : Bool := r % n == 0

/-- A vector instruction: ILLEGAL on Laruri's cores and where its fields are not allowed (R312), else its effect. -/
def Dev.vop (i : Issue) (word : Nat) (legal : Bool) (body : Dev → Dev) (s : Dev) : Dev :=
  s.issue i fun s => if decide (192 ≤ (i.core : Nat)) || !legal then s.illegal i.core word else body s

/-- Results where active, old values elsewhere, and the flags of the active ones. -/
def mergeElems (act_ : List Bool) (old : List Nat) (res : List (Nat × VFlags)) : List Nat × VFlags :=
  ((act_.zip (old.zip res)).map fun e => if e.1 then e.2.2.1 else e.2.1,
   (act_.zip res).foldl (fun f e => if e.1 then f.join e.2.2 else f) {})

/-- An element-wise instruction from vs1 and vs2 into vd of the same group: `op i old a b`. -/
def Dev.vmap (g : Nat) (f : VecFields) (useC : Bool) (passes : Nat) (op : Nat → Nat → Nat → Nat → Nat × VFlags) (s : Dev) : Dev :=
  let n := groupOf f
  let w := tyBytes f.ty
  let old := s.velems g f.a n w
  let x := s.velems g f.b n w
  let y := if useC then s.velems g f.c n w else x
  let res := (List.range old.length).map fun k => op k (lget 0 old k) (lget 0 x k) (lget 0 y k)
  let (l, fl) := mergeElems (s.active g f.pg n w) old res
  ((((s.setVelems g f.a n w l).addVstat g fl).takeFree).vbusy g passes).retire g

/-- An element-wise instruction whose destination elements have another width: `n2` registers of `w2`-byte elements. -/
def Dev.vconv (g : Nat) (f : VecFields) (n2 w2 : Nat) (op : Nat → Nat → Nat → Nat → Nat × VFlags) (s : Dev) : Dev :=
  let n := groupOf f
  let w := tyBytes f.ty
  let x := s.velems g f.b n w
  let y := s.velems g f.c n w
  let old := s.velems g f.a n2 w2
  let res := (List.range x.length).map fun k => op k (lget 0 old k) (lget 0 x k) (lget 0 y k)
  let (l, fl) := mergeElems (s.active g f.pg n w) old res
  ((((s.setVelems g f.a n2 w2 l).addVstat g fl).takeFree).vbusy g n).retire g

end Sys2Proof.Machine
end

