-- ==== Sys2Proof/Machine/Coprocessor.lean ====
section
/-!
DEFINITION. The coprocessors: issue, tags, confirmation, and what the matrix, bit and sort units compute (R322–R336).
-/

namespace Sys2Proof.Machine

/-! ### Descriptors (Tables 14-5 to 14-8) -/

def mxM (d : List Nat) : Nat := bits (dw d 0) 0 6 + 1
def mxN (d : List Nat) : Nat := bits (dw d 0) 6 6 + 1
def mxK (d : List Nat) : Nat := bits (dw d 0) 12 6 + 1
/-- Bytes of an element of A (18), B (19) or C (20). -/
def mxEl (d : List Nat) (i : Nat) : Nat := if bit (dw d 0) i then 8 else 4

/-- One operand range: data-memory offset, bytes, element size, whether it is read, whether it is written. -/
structure CopRange where
  off : Nat
  len : Nat
  el : Nat
  rd : Bool
  wr : Bool
deriving DecidableEq, Repr

/-- The bytes that C spans, with its row stride. -/
def mxSpan (d : List Nat) (rows cols : Nat) : Nat :=
  let st := bits (dw d 2) 24 8
  ((rows - 1) * (if st = 0 then cols else st) + cols) * mxEl d 20

/-- The rows and columns of C. -/
def mxShape (op : Nat) (d : List Nat) : Nat × Nat :=
  match op with | 1 => (mxN d, mxN d) | 2 => (mxN d, mxK d) | 3 => (mxM d, mxN d) | _ => (mxN d, mxN d)

/-- The ranges that a command names, lowest-numbered first. -/
def copRanges (slot op : Nat) (d : List Nat) : List CopRange :=
  let a := bits (dw d 1) 0 16
  let b := bits (dw d 1) 16 16
  let len := bits (dw d 2) 0 20
  match slot with
  | 0 =>
    let (r, c) := mxShape op d
    let out : CopRange := ⟨bits (dw d 2) 0 16, mxSpan d r c, mxEl d 20, bit (dw d 0) 24 && decide (3 ≤ op), true⟩
    let cells := match op with | 1 => (mxN d * mxN d, 0) | 2 => (mxN d * mxN d, mxN d * mxK d) | 3 => (mxM d * mxK d, mxK d * mxN d) | _ => (mxM d * mxN d, 0)
    let ra : CopRange := ⟨a, cells.1 * mxEl d 18, mxEl d 18, true, false⟩
    let rb : CopRange := ⟨b, cells.2 * mxEl d 19, mxEl d 19, true, false⟩
    if op = 2 ∨ op = 3 then [ra, rb, out] else [ra, out]
  | 1 =>
    let n := (len + 7) / 8
    let src : CopRange := ⟨a, n, 1, true, false⟩
    let dst : CopRange := ⟨b, n, 1, false, true⟩
    if op = 1 then [src] else if op = 2 ∧ bit (dw d 0) 31 then [dst] else [src, dst]
  | _ =>
    let n := bits (dw d 0) 0 12 + 1
    let e := if op = 1 then 8 else 16
    [⟨a, n * e, e, true, false⟩, ⟨b, (bits (dw d 0) 12 6 + 1) * 8, 8, false, true⟩]

/-- Two ranges share a byte. -/
def CopRange.meets (x y : CopRange) : Bool := decide (x.off < y.off + y.len) && decide (y.off < x.off + x.len)

/-- An output may stand in the place of this input: CHOL's A, TRSM's B, GOLD's source. -/
def mayCoincide (slot op i : Nat) : Bool := (slot == 0 && ((op == 1 && i == 0) || (op == 2 && i == 1))) || (slot == 1 && op == 2 && i == 0)

/-- A reserved op, or a field reserved, out of range or not zero where it must be (R328 step 3). -/
def copMalformed (slot op : Nat) (d : List Nat) : Bool :=
  let len := bits (dw d 2) 0 20
  let tail (k : Nat) : Bool := (d.drop k).any fun w => w != 0
  match slot with
  | 0 => op == 0 || decide (4 < op) || bits (dw d 0) 25 7 != 0 || tail 3
  | 1 =>
    op == 0 || decide (3 < op) || len == 0 || decide (524288 < len) || bits (dw d 2) 20 12 != 0 ||
      (match op with
        | 1 => decide (6 ≤ bits (dw d 0) 0 3) || bits (dw d 0) 3 29 != 0 || bits (dw d 1) 16 16 != 0 || tail 3
        | 2 => tail 4
        | _ => bits (dw d 0) 0 12 == 0 || bits (dw d 0) 13 19 != 0 || tail 3) ||
      (match copRanges 1 op d with
        | [x, y] => x.meets y && !(op == 2 && x.off == y.off)
        | _ => false)
  | _ => op == 0 || decide (2 < op) || bits (dw d 0) 19 13 != 0 || tail 3

/-- A range is refused: misaligned, out of data memory, without permission, or in an overlap that the op does not permit. -/
def Dev.rangeBad (s : Dev) (g slot op : Nat) (l : List CopRange) (i : Nat) (r : CopRange) : Bool :=
  r.off % r.el != 0 || decide (65536 < r.off + r.len) ||
    !s.mpuOk g (0x10000 + r.off) r.len ((if r.rd then [0] else []) ++ (if r.wr then [1] else [])) ||
    (slot != 1 && l.zipIdx.any fun e =>
      e.2 != i && (r.wr || e.1.wr) && r.meets e.1 &&
        !(mayCoincide slot op (min i e.2) && r.off == e.1.off && r.len == e.1.len))

/-- The checks of R328 after the descriptor is read: the exception, if any. -/
def Dev.copCheck (s : Dev) (g slot op off word : Nat) (d : List Nat) : Option Exc :=
  if copMalformed slot op d then some { code := 0x1A, addr := some (0x10000 + off), insn := some word }
  else
    let l := copRanges slot op d
    match l.zipIdx.find? fun e => s.rangeBad g slot op l e.2 e.1 with
    | some e => some { code := 0x18, addr := some (0x10000 + e.1.off), insn := some word }
    | none => none

/-! ### Issue (R324–R328) -/

/-- A COP instruction: unused fields, then the slot, then its enable (R294, R323). -/
def Dev.copOp (i : Issue) (word : Nat) (unusedZero : Bool) (slot : Nat) (body : Dev → Dev) (s : Dev) : Dev :=
  s.issue i fun s =>
    let g : Nat := i.core
    if !unusedZero then s.illegal g word
    else if slot = 3 ∨ 192 ≤ g then s.trap g { code := 0x0D, insn := some word }
    else if !(s.get (R.CSR_COP_EN_en g)).testBit (3 * slot + s.lvl g) then s.trap g { code := 0x0C, insn := some word }
    else body s

def Dev.freeTag (s : Dev) (g slot : Nat) : Option Nat := (List.range 16).find? fun t => !(s.cops g).any fun c => c.slot == slot && c.tag == t

/-- A checked command takes the lowest free tag, or stalls; with every tag held by an unread result, COP_TAG (R326). -/
def Dev.copAccept (g rd slot op : Nat) (keep : Bool) (d : List Nat) (arg : Nat) (insn : Option Nat) (s : Dev) : Dev :=
  match s.freeTag g slot with
  | some t =>
    let c : CopCmd := { slot := slot, tag := t, op := op, keep := keep, d := d, arg := arg, rd := rd }
    (((s.setCore g { s.core g with wait := .none }).setCoreState g 1).setCops g (s.cops g ++ [c])).inc64 (R.POD_CPCMD g) 1
  | none =>
    if ((s.cops g).filter fun c => c.slot == slot).all fun c => c.done && c.keep then
      ((s.setCore g { s.core g with wait := .none }).setCoreState g 1).trap g { code := 0x1B, insn := insn }
    else (s.setCore g { s.core g with wait := .cpi rd slot op keep d arg }).setCoreState g 6

def execCpi (i : Issue) (f : CopFields) (desc : Fin 4) := act <| fun s =>
  let word := wordCop 0x2C f
  s.copOp i word true f.slot fun s =>
    let g : Nat := i.core
    let off := (s.x g f.rs1).toNat
    let a := 0x10000 + off
    if off % 32 ≠ 0 ∨ 65536 < off + 32 ∨ !s.mpuOk g a 32 [0] then s.trap g { code := 0x18, addr := some (a % 2 ^ 40), insn := some word }
    else
      let s1 := s.podReplays g 1 (min (desc : Nat) 2)
      if (desc : Nat) = 3 then
        (s1.raiseOf Ev.POD_DMEM_PERR 8 g [(40, a)]).trap g { code := 0x19, addr := some a, insn := some word }
      else
        let d := (List.range 8).map fun k => s1.le (ownBase g + a + 4 * k) 4
        match s1.copCheck g f.slot f.op.toNat off word d with
        | some x => s1.trap g x
        | none => s1.copAccept g f.rd f.slot f.op.toNat f.keep d (s1.x g f.rs2).toNat (some word)

/-- A stalled CPI is tried again when a tag has freed. -/
def Dev.copRetry (g : Nat) (s : Dev) : Dev :=
  match (s.core g).wait with
  | .cpi rd slot op keep d arg => (s.coreSync g).copAccept g rd slot op keep d arg none
  | _ => s

/-- What waits on a command or a tag goes on. -/
def Dev.copNews (g : Nat) (s : Dev) : Dev := (((s.copRetry g).endWait g)).takeHalt g

/-- A result is read and its tag freed. -/
def Dev.copRead (g rd slot tag : Nat) (s : Dev) : Dev :=
  match (s.cops g).find? (fun c => c.slot == slot && c.tag == tag && c.done) with
  | some c =>
    let s1 := s.setCops g ((s.cops g).filter fun x => !(x.slot == slot && x.tag == tag))
    (((s1.setCore g { s1.core g with wait := .none }).setX g rd (BitVec.ofNat 64 (c.result.getD 0))).retire g)
  | none => s

def execCpr (i : Issue) (f : CopFields) := act <| fun s =>
  let word := wordCop 0x2D f
  s.copOp i word ((f.rs2 : Nat) == 0 && !f.keep && f.op == 0) f.slot fun s =>
    let g : Nat := i.core
    let t := (s.x g f.rs1).toNat % 16
    match (s.cops g).find? (fun c => c.slot == (f.slot : Nat) && c.tag == t) with
    | none => s.trap g { code := 0x1B, insn := some word }
    | some c =>
      if !c.keep || c.squashed then s.trap g { code := 0x1B, insn := some word }
      else if c.done then s.copRead g f.rd f.slot t
      else s.setCore g { s.core g with wait := .cpr f.rd f.slot t }

def execCpsync (i : Issue) (f : CopFields) := act <| fun s =>
  s.copOp i (wordCop 0x2E f) ((f.rd : Nat) == 0 && (f.rs1 : Nat) == 0 && (f.rs2 : Nat) == 0 && !f.keep && f.op == 0) f.slot fun s =>
    (s.setCore i.core { s.core i.core with wait := .cpsync f.slot }).endWait i.core

def execCopConfirm (g : Fin 192) := act fun s => if s.coreState g = 1 then (s.coreSync g).copConfirm g else s

/-- A squashed command's unit has drained: its tag is free again (R330). -/
def execSquashDrainDone (g : Fin 192) (slot : Fin 3) (tag : Fin 16) := act fun s =>
  match (s.cops g).find? (fun c => c.slot == (slot : Nat) && c.tag == (tag : Nat) && c.squashed) with
  | none => s
  | some c =>
    let s1 := s.setCops g ((s.cops g).filter (· != c))
    let p := (g : Nat) / 8
    let s2 : Dev := if (slot : Nat) = 2 ∧ c.started ∧ tget none s1.eng.sxuRun p = some (g : Nat) then
        { s1 with eng := { s1.eng with sxuRun := tput none s1.eng.sxuRun p none } } else s1
    s2.copNews g

/-! ### Running a command (R327, R329, R332) -/

/-- The command that a slot's unit works on: the oldest that is not over; a squashed one holds the unit until it has drained. -/
def Dev.copHead (s : Dev) (g slot : Nat) : Option CopCmd := (s.cops g).find? fun c => c.slot == slot && !c.done

/-- The commit buffer of a slot in bytes (Table 14-1). -/
def commitSize (slot : Nat) : Nat := if slot = 0 then 2048 else 512

/-- The head command of a slot computes its writes and its result, where its op is `op`; a speculative one whose writes would overfill the commit
buffer waits for CONFIRM. -/
def Dev.copRun (g slot op : Nat) (fails : Fin 4) (f : CopCmd → Dev → List (Nat × Nat) × Nat × Nat) (s : Dev) : Dev :=
  match s.copHead g slot with
  | none => s
  | some c =>
    if c.op ≠ op ∨ c.squashed ∨ c.result.isSome ∨ (slot = 2 ∧ !c.started) then s
    else
      let s1 := s.podReplays g 1 (min (fails : Nat) 2)
      let r := f c s1
      let (w, st, v) :=
        if (fails : Nat) = 3 then (r.1.zipIdx.map fun e => (e.1.1, Config.freeNat s.freeCtr e.2 % 256), 2, 0) else r
      if !c.confirmed && decide (commitSize slot < w.length) then s
      else
        let c1 := { c with started := true, writes := w, result := some (st + v % 2 ^ 32 * 2 ^ 32) }
        (s1.setCops g ((s1.cops g).map fun x => if x = c then c1 else x)).takeFree

/-- A command ends: its writes arrive, its status is counted, and its tag frees or holds the result. -/
def copCommandComplete (g : Fin 192) (slot : Fin 3) (s : Dev) : Dev :=
  match s.copHead g slot with
  | none => s
  | some c =>
    match c.result with
    | none => s
    | some r =>
      if !c.confirmed || c.squashed then s
      else
        let st := r % 256
        let s1 := s.copWrites g c.writes
        let l := if c.keep then (s1.cops g).map (fun x => if x = c then { c with done := true, writes := [] } else x) else (s1.cops g).filter (· != c)
        let s2 := s1.setCops g l
        let s3 := if st = 0 then s2 else
          (s2.podCount (R.POD_CPERR g) ⟨R.POD_CPCNT_OVF g, 0, 1⟩ (R.POD_CPSTAT_cnt_ovf g) g).stick (R.POD_CPSTAT_err g)
            fun s => s.raiseOf Ev.POD_CP_ERR 8 (g : Nat) [(7, c.slot), (8, c.op), (4, st)]
        let s4 := if st = 2 then s3.raiseOf Ev.POD_CP_PERR 8 (g : Nat) [(7, c.slot), (8, c.op)] else s3
        let p := (g : Nat) / 8
        let s5 : Dev := if (slot : Nat) = 2 then
            let n := bits (dw c.d 0) 0 12 + 1
            let k := bits (dw c.d 0) 12 6 + 1
            let t := 32 + (if c.op = 1 then (n + 15) / 16 else (n + 7) / 8) + k
            ({ s4 with eng := { s4.eng with sxuRun := tput none s4.eng.sxuRun p none } }.inc64 (R.POD_SXU_CMD p) 1).inc64 (R.POD_SXU_BUSY p) t
          else s4
        let s6 := match (s5.core g).wait with
          | .cpr rd sl t => if sl = c.slot ∧ t = c.tag then (s5.coreSync g).copRead g rd sl t else s5
          | _ => s5
        s6.copNews g

def execCopCommandComplete (g : Fin 192) (slot : Fin 3) := act (copCommandComplete g slot)

/-! ### MXU (R333) -/

/-- A packed matrix in an engine's data memory, as its numbers: `r` rows of `c` elements, a row every `stride`. -/
def Dev.matrix (s : Dev) (g off r c stride : Nat) (cf : Bool) : Mx :=
  let e := if cf then 8 else 4
  Mx.of r c fun i j => elementAt cf (s.le (ownBase g + 0x10000 + off + (i * stride + j) * e) e)

/-- The elements between the rows of C. -/
def mxStride (op : Nat) (d : List Nat) : Nat := if bits (dw d 2) 24 8 = 0 then (mxShape op d).2 else bits (dw d 2) 24 8

/-- A matrix command's result, and CHOL's failing column (Table 14-6). -/
def Dev.mxResult (s : Dev) (g op : Nat) (c : CopCmd) : Mx × Option Nat :=
  let d := c.d
  let m := mxM d
  let n := mxN d
  let k := mxK d
  let ctr := s.freeCtr
  let a := bits (dw d 1) 0 16
  let b := bits (dw d 1) 16 16
  let fa := bit (dw d 0) 18
  let fb := bit (dw d 0) 19
  let ah := bit (dw d 0) 21
  let bh := bit (dw d 0) 22
  let (r, w) := mxShape op d
  let z : Option Mx := if bit (dw d 0) 24 then some (s.matrix g (bits (dw d 2) 0 16) r w (mxStride op d) (bit (dw d 0) 20)) else none
  /- op(X) of `r` × `c`, stored as its conjugate transpose with `h`. -/
  let operand (off r c : Nat) (cf h : Bool) : Mx := if h then (s.matrix g off c r r cf).herm c r else s.matrix g off r c c cf
  match op with
  | 1 => mxChol ctr n (s.matrix g a n n n fa)
  | 2 => (mxSolve ctr n k (bit (dw d 0) 23) (s.matrix g a n n n fa) (operand b n k fb bh), none)
  | 3 => (mxProduct ctr m k n (operand a m k fa ah) (operand b k n fb bh) z, none)
  | _ => (mxGram ctr m n (s.matrix g a m n n fa) z (fp32.decode (c.arg % 2 ^ 32)).1, none)

/-- A matrix command: its output bytes in order, its status and its value (Table 14-4). Where an output is no number and another saturates, either status. -/
def mxRun (op : Nat) (g : Fin 192) (fails : Fin 4) (s : Dev) : Dev :=
  s.copRun g 0 op fails fun c s =>
    let (x, bad) := s.mxResult g op c
    let cf := bit (dw c.d 0) 20
    let e := mxEl c.d 20
    let base := bits (dw c.d 2) 0 16
    let out := x.map fun row => row.map fun z => z.bytes cf (toSigned 8 (bits (dw c.d 2) 16 8))
    let nan := x.any fun row => row.any fun z => !z.finite
    let sat := out.any fun row => row.any (·.2)
    let w := out.zipIdx.flatMap fun row => row.1.zipIdx.flatMap fun z => z.1.1.zipIdx.map fun b =>
      (base + (row.2 * mxStride op c.d + z.2) * e + b.2, b.1)
    match bad with
    | some k => (w, 1, k)
    | none => (w, if nan && (!sat || Config.freeNat s.freeCtr 1 % 2 == 0) then 4 else if sat then 3 else 0, 0)

def execChol (g : Fin 192) (_st _col : Unit) (fails : Fin 4) := act (mxRun 1 g fails)
def execTrsm (g : Fin 192) (_st _col : Unit) (fails : Fin 4) := act (mxRun 2 g fails)
def execGemm (g : Fin 192) (_st _col : Unit) (fails : Fin 4) := act (mxRun 3 g fails)
def execGram (g : Fin 192) (_st _col : Unit) (fails : Fin 4) := act (mxRun 4 g fails)

/-! ### BXU (R334) -/

/-- A bit string of `n` bits at a data-memory offset: bit j in byte j div 8, at bit 7 − (j mod 8). -/
def Dev.bitString (s : Dev) (g off n : Nat) : List Bool :=
  (List.range n).map fun j => (s.byte (ownBase g + 0x10000 + off + j / 8)).testBit (7 - j % 8)

/-- The bytes that a bit string leaves at an offset; bits past its end keep what they held. -/
def Dev.bitWrites (s : Dev) (g off : Nat) (l : List Bool) : List (Nat × Nat) :=
  (List.range ((l.length + 7) / 8)).map fun k =>
    let old := s.byte (ownBase g + 0x10000 + off + k)
    (off + k, (List.range 8).foldl (fun v b =>
      let j := 8 * k + 7 - b
      v + 2 ^ b * b2n (if j < l.length then lget false l j else old.testBit b)) 0)

/-- The CRCs of TS 38.212 clause 5.1: width and generator. -/
def crcPoly (p : Nat) : Nat × Nat := lget (24, 0) [(24, 0x864CFB), (24, 0x800063), (24, 0xB2B117), (16, 0x1021), (11, 0x621), (6, 0x21)] p

def execCrc (g : Fin 192) (fails : Fin 4) := act fun s => s.copRun g 1 1 fails fun c s =>
  let (w, p) := crcPoly (bits (dw c.d 0) 0 3)
  ([], 0, crcBits w p 0 (s.bitString g (bits (dw c.d 1) 0 16) (bits (dw c.d 2) 0 20)))

def execGold (g : Fin 192) (fails : Fin 4) := act fun s => s.copRun g 1 2 fails fun c s =>
  let n := bits (dw c.d 2) 0 20
  let gen := bit (dw c.d 0) 31
  let src := s.bitString g (bits (dw c.d 1) 0 16) n
  let l := (List.range n).map fun j => (gold (bits (dw c.d 0) 0 31) (dw c.d 3 + j)) != (!gen && lget false src j)
  (s.bitWrites g (bits (dw c.d 1) 16 16) l, 0, 0)

/-- The input positions in the order in which ILV reads them. -/
def ilvOrder (r n : Nat) : List Nat :=
  let c := (n + r - 1) / r
  (List.range c).flatMap fun j => ((List.range r).map fun i => i * c + j).filter fun k => decide (k < n)

def execIlv (g : Fin 192) (fails : Fin 4) := act fun s => s.copRun g 1 3 fails fun c s =>
  let n := bits (dw c.d 2) 0 20
  let src := s.bitString g (bits (dw c.d 1) 0 16) n
  let o := ilvOrder (bits (dw c.d 0) 0 12) n
  let l := if bit (dw c.d 0) 12 then (List.range n).map fun k => lget false src (o.idxOf k) else o.map (lget false src)
  (s.bitWrites g (bits (dw c.d 1) 16 16) l, 0, 0)

/-! ### SXU (R335, R336) -/

/-- fp32 bits as a number, subnormal ones as they are. -/
def fpRaw (v : Nat) : Fp :=
  match fp32.decode v with
  | (.fin n 0 _, { ftz := true, .. }) => .fin n (bits v 0 23) (-149)
  | (x, _) => x

/-- The pod's shared sort unit takes the next engine's command, in round robin from the one after the last served. -/
def execSxuCommandStart (pod : Fin 24) := act fun s =>
  let p : Nat := pod
  if (tget none s.eng.sxuRun p).isSome then s
  else
    let last := tget 7 s.eng.sxuLast p
    match ((List.range 8).map fun k => 8 * p + (last + 1 + k) % 8).find? (fun g => match s.copHead g 2 with | some c => !c.squashed && !c.started | none => false) with
    | none => s
    | some g =>
      let s1 := s.setCops g (match s.copHead g 2 with | some c => (s.cops g).map fun x => if x = c then { c with started := true } else x | none => s.cops g)
      { s1 with eng := { s1.eng with sxuRun := tput none s1.eng.sxuRun p (some g), sxuLast := tput 7 s1.eng.sxuLast p (g % 8) } }

/-- The k greatest of (key bits, order key, id), descending, the lower index first among equals. -/
def topK (k : Nat) (lt : Fp → Fp → Bool) (l : List (Nat × Fp × Nat)) : List (Nat × Fp × Nat) :=
  (l.foldl (fun acc x => ins x acc) []).take k
where
  /-- Insertion before the first entry that is less. -/
  ins (x : Nat × Fp × Nat) : List (Nat × Fp × Nat) → List (Nat × Fp × Nat)
    | [] => [x]
    | y :: r => if lt y.2.1 x.2.1 then x :: y :: r else y :: ins x r

/-- The output entries of a selection. -/
def sxOut (c : CopCmd) (l : List (Nat × Fp × Nat)) : List (Nat × Nat) × Nat × Nat :=
  let r := topK (bits (dw c.d 0) 12 6 + 1) fpLt (l.filter fun e => !isNan e.2.1)
  let dst := bits (dw c.d 1) 16 16
  (r.zipIdx.flatMap fun e => (leBytes 8 (e.1.1 + e.1.2.2 * 2 ^ 32)).zipIdx.map fun b => (dst + 8 * e.2 + b.2, b.1), 0, r.length)

def execTopk (g : Fin 192) (fails : Fin 4) := act fun s => s.copRun g 2 1 fails fun c s =>
  let src := ownBase g + 0x10000 + bits (dw c.d 1) 0 16
  sxOut c ((List.range (bits (dw c.d 0) 0 12 + 1)).map fun i =>
    let key := s.le (src + 8 * i) 4
    (key, if bit (dw c.d 0) 18 then fpRaw key else .fin false key 0, s.le (src + 8 * i + 4) 2))

def execPftopk (g : Fin 192) (fails : Fin 4) := act fun s => s.copRun g 2 2 fails fun c s =>
  let src := ownBase g + 0x10000 + bits (dw c.d 1) 0 16
  let tmin := (fp32.decode (dw c.d 2)).1
  sxOut c ((List.range (bits (dw c.d 0) 0 12 + 1)).map fun i =>
    let r := (fp32.decode (s.le (src + 16 * i) 4)).1
    let t := (fp32.decode (s.le (src + 16 * i + 4) 4)).1
    let m := if isNan t || isNan tmin then .nan false else if fpLt t tmin then tmin else t
    let key := (fp32.div r m).1
    (key, (fp32.decode key).1, s.le (src + 16 * i + 8) 2))

end Sys2Proof.Machine
end

