-- ==== Sys2Proof/Machine/EngineScalar.lean ====
section
/-!
DEFINITION. The arithmetic, immediate and branch instructions of the cores (R292, Tables 12-3 and 12-4).
-/

namespace Sys2Proof.Machine

/-! ### Values -/

/-- The low 32 bits, sign-extended (R292, W forms). -/
def sextW (v : BitVec 64) : BitVec 64 := (v.truncate 32).signExtend 64

/-- A truth value as a register value. -/
def ofBool (b : Bool) : BitVec 64 := if b then 1 else 0

/-- A number saturated to signed 64 bits. -/
def sat64 (v : Int) : BitVec 64 := BitVec.ofInt 64 (satSigned 64 v)

def clz (v : BitVec 64) : BitVec 64 := if v = 0 then 64 else BitVec.ofNat 64 (63 - v.toNat.log2)
def ctz (v : BitVec 64) : BitVec 64 := if v = 0 then 64 else BitVec.ofNat 64 (v &&& -v).toNat.log2
def popc (v : BitVec 64) : BitVec 64 := BitVec.ofNat 64 (popBits 64 v.toNat)

/-- The high 64 bits of an exact product. -/
def high64 (p : Int) : BitVec 64 := BitVec.ofInt 64 (p / (2 ^ 64 : Nat))

/-- The amount of a shift: the low six bits (R292). -/
def amt (v : BitVec 64) : Nat := v.toNat % 64

/-- DIV and its exceptional cases (R292). -/
def divS (a b : BitVec 64) : BitVec 64 :=
  if b = 0 then (if a.toInt < 0 then BitVec.ofInt 64 (-(2 ^ 63)) else BitVec.ofNat 64 (2 ^ 63 - 1))
  else sat64 (a.toInt.tdiv b.toInt)

def divU (a b : BitVec 64) : BitVec 64 := if b = 0 then BitVec.ofNat 64 (2 ^ 64 - 1) else a / b
def remS (a b : BitVec 64) : BitVec 64 := if b = 0 then 0 else BitVec.ofInt 64 (a.toInt.tmod b.toInt)
def remU (a b : BitVec 64) : BitVec 64 := if b = 0 then 0 else a % b

/-- DIV or REM of −2^63 by −1 (R292). -/
def divOverflow (a b : BitVec 64) : Bool := a.toInt == -(2 ^ 63) && b.toInt == -1

/-! ### Forms -/

/-- Format OP: s[rd] takes a value of s[rs1] and s[rs2]. -/
def aluOp (f : BitVec 64 → BitVec 64 → BitVec 64) (i : Issue) (rd rs1 rs2 : Fin 32) (s : Dev) : Dev :=
  s.issue i fun s => (s.setX i.core rd (f (s.x i.core rs1) (s.x i.core rs2))).retire i.core

/-- Format OP with one operand: rs2 must be zero (R291). -/
def aluUnary (func : Nat) (f : BitVec 64 → BitVec 64) (i : Issue) (rd rs1 rs2 : Fin 32) (s : Dev) : Dev :=
  s.issue i fun s =>
    if (rs2 : Nat) ≠ 0 then s.illegal i.core (wordOp 0 rd rs1 rs2 func)
    else (s.setX i.core rd (f (s.x i.core rs1))).retire i.core

/-- A division: the sticky bits dz and, for the signed forms, dov (R292). -/
def divOp (signed : Bool) (f : BitVec 64 → BitVec 64 → BitVec 64) (i : Issue) (rd rs1 rs2 : Fin 32) (s : Dev) : Dev :=
  s.issue i fun s =>
    let a := s.x i.core rs1
    let b := s.x i.core rs2
    let s1 := if b = 0 then s.setB (R.CSR_SSTAT_dz i.core) true else s
    let s2 := if signed && divOverflow a b then s1.setB (R.CSR_SSTAT_dov i.core) true else s1
    (s2.setX i.core rd (f a b)).retire i.core

/-- Format IMM. -/
def immOp (f : BitVec 64 → BitVec 16 → BitVec 64) (i : Issue) (rd rs1 : Fin 32) (imm : BitVec 16) (s : Dev) : Dev :=
  s.issue i fun s => (s.setX i.core rd (f (s.x i.core rs1) imm)).retire i.core

/-- A shift by an immediate: imm[15:6] must be zero (R291, R292). -/
def immShift (major : Nat) (f : BitVec 64 → Nat → BitVec 64) (i : Issue) (rd rs1 : Fin 32) (imm : BitVec 16) (s : Dev) : Dev :=
  s.issue i fun s =>
    if 64 ≤ imm.toNat then s.illegal i.core (wordImm major rd rs1 imm)
    else (s.setX i.core rd (f (s.x i.core rs1) imm.toNat)).retire i.core

/-- CPIs accepted past a branch whose prediction failed: each took its slot's lowest free tag and is squashed (R330). -/
def Dev.wrongPath (g : Nat) (l : List (Fin 3)) (s : Dev) : Dev :=
  match l with
  | [] => s
  | k :: r =>
    match (List.range 16).find? (fun t => !(s.cops g).any fun c => c.slot == (k : Nat) && c.tag == t) with
    | none => s.wrongPath g r
    | some t =>
      let c : CopCmd := { slot := k, tag := t, op := 0, keep := false, d := [], arg := 0, rd := 0, squashed := true }
      ((((s.setCops g (s.cops g ++ [c])).inc64 (R.POD_CPCMD g) 1)).inc64 (R.POD_CPSQ g) 1).wrongPath g r

/-- A compare branch: backward branches are predicted taken, forward ones not (Table 12-7). -/
def branchOp (major : Nat) (cond : BitVec 64 → BitVec 64 → Bool) (i : Issue) (rs1 rs2 : Fin 32) (off : BitVec 16) (wrong : List (Fin 3))
    (s : Dev) : Dev :=
  s.issue i fun s =>
    let g : Nat := i.core
    let taken := cond (s.x g rs1) (s.x g rs2)
    let s1 := if taken = off.msb ∨ 192 ≤ g then s else s.wrongPath g wrong
    if taken then s1.jump g (wordImm major rs1 rs2 off) (branchTarget (s.pc g) off) s1 else s1.retire g

/-! ### ALU (Table 12-4, major 0x00) -/

def execAdd (i : Issue) (rd rs1 rs2 : Fin 32) := act (aluOp (fun a b => a + b) i rd rs1 rs2)
def execSub (i : Issue) (rd rs1 rs2 : Fin 32) := act (aluOp (fun a b => a - b) i rd rs1 rs2)
def execAnd (i : Issue) (rd rs1 rs2 : Fin 32) := act (aluOp (fun a b => a &&& b) i rd rs1 rs2)
def execOr (i : Issue) (rd rs1 rs2 : Fin 32) := act (aluOp (fun a b => a ||| b) i rd rs1 rs2)
def execXor (i : Issue) (rd rs1 rs2 : Fin 32) := act (aluOp (fun a b => a ^^^ b) i rd rs1 rs2)
def execSll (i : Issue) (rd rs1 rs2 : Fin 32) := act (aluOp (fun a b => a <<< amt b) i rd rs1 rs2)
def execSrl (i : Issue) (rd rs1 rs2 : Fin 32) := act (aluOp (fun a b => a >>> amt b) i rd rs1 rs2)
def execSra (i : Issue) (rd rs1 rs2 : Fin 32) := act (aluOp (fun a b => a.sshiftRight (amt b)) i rd rs1 rs2)
def execSlt (i : Issue) (rd rs1 rs2 : Fin 32) := act (aluOp (fun a b => ofBool (a.slt b)) i rd rs1 rs2)
def execSltu (i : Issue) (rd rs1 rs2 : Fin 32) := act (aluOp (fun a b => ofBool (a.ult b)) i rd rs1 rs2)
def execMin (i : Issue) (rd rs1 rs2 : Fin 32) := act (aluOp (fun a b => if a.slt b then a else b) i rd rs1 rs2)
def execMax (i : Issue) (rd rs1 rs2 : Fin 32) := act (aluOp (fun a b => if a.slt b then b else a) i rd rs1 rs2)
def execMinu (i : Issue) (rd rs1 rs2 : Fin 32) := act (aluOp (fun a b => if a.ult b then a else b) i rd rs1 rs2)
def execMaxu (i : Issue) (rd rs1 rs2 : Fin 32) := act (aluOp (fun a b => if a.ult b then b else a) i rd rs1 rs2)
def execClz (i : Issue) (rd rs1 rs2 : Fin 32) := act (aluUnary 14 clz i rd rs1 rs2)
def execCtz (i : Issue) (rd rs1 rs2 : Fin 32) := act (aluUnary 15 ctz i rd rs1 rs2)
def execPopc (i : Issue) (rd rs1 rs2 : Fin 32) := act (aluUnary 16 popc i rd rs1 rs2)
def execAddw (i : Issue) (rd rs1 rs2 : Fin 32) := act (aluOp (fun a b => sextW (a + b)) i rd rs1 rs2)
def execSubw (i : Issue) (rd rs1 rs2 : Fin 32) := act (aluOp (fun a b => sextW (a - b)) i rd rs1 rs2)
def execSllw (i : Issue) (rd rs1 rs2 : Fin 32) := act (aluOp (fun a b => sextW (a <<< (b.toNat % 32))) i rd rs1 rs2)
def execSrlw (i : Issue) (rd rs1 rs2 : Fin 32) :=
  act (aluOp (fun a b => ((a.truncate 32 : BitVec 32) >>> (b.toNat % 32)).signExtend 64) i rd rs1 rs2)
def execSraw (i : Issue) (rd rs1 rs2 : Fin 32) :=
  act (aluOp (fun a b => ((a.truncate 32 : BitVec 32).sshiftRight (b.toNat % 32)).signExtend 64) i rd rs1 rs2)
def execAdds (i : Issue) (rd rs1 rs2 : Fin 32) := act (aluOp (fun a b => sat64 (a.toInt + b.toInt)) i rd rs1 rs2)
def execSubs (i : Issue) (rd rs1 rs2 : Fin 32) := act (aluOp (fun a b => sat64 (a.toInt - b.toInt)) i rd rs1 rs2)
def execAndn (i : Issue) (rd rs1 rs2 : Fin 32) := act (aluOp (fun a b => a &&& ~~~b) i rd rs1 rs2)
def execOrn (i : Issue) (rd rs1 rs2 : Fin 32) := act (aluOp (fun a b => a ||| ~~~b) i rd rs1 rs2)

/-! ### Multiply and divide (major 0x01) -/

def execMul (i : Issue) (rd rs1 rs2 : Fin 32) := act (aluOp (fun a b => a * b) i rd rs1 rs2)
def execMulh (i : Issue) (rd rs1 rs2 : Fin 32) := act (aluOp (fun a b => high64 (a.toInt * b.toInt)) i rd rs1 rs2)
def execMulhu (i : Issue) (rd rs1 rs2 : Fin 32) := act (aluOp (fun a b => high64 ((a.toNat * b.toNat : Nat) : Int)) i rd rs1 rs2)
def execMulhsu (i : Issue) (rd rs1 rs2 : Fin 32) := act (aluOp (fun a b => high64 (a.toInt * (b.toNat : Int))) i rd rs1 rs2)
def execMulw (i : Issue) (rd rs1 rs2 : Fin 32) := act (aluOp (fun a b => sextW (a * b)) i rd rs1 rs2)
def execDiv (i : Issue) (rd rs1 rs2 : Fin 32) := act (divOp true divS i rd rs1 rs2)
def execDivu (i : Issue) (rd rs1 rs2 : Fin 32) := act (divOp false divU i rd rs1 rs2)
def execRem (i : Issue) (rd rs1 rs2 : Fin 32) := act (divOp true remS i rd rs1 rs2)
def execRemu (i : Issue) (rd rs1 rs2 : Fin 32) := act (divOp false remU i rd rs1 rs2)

/-! ### Immediates (majors 0x04–0x0E) -/

def execAddi (i : Issue) (rd rs1 : Fin 32) (imm : BitVec 16) := act (immOp (fun a m => a + sext16 m) i rd rs1 imm)
def execAndi (i : Issue) (rd rs1 : Fin 32) (imm : BitVec 16) := act (immOp (fun a m => a &&& zext16 m) i rd rs1 imm)
def execOri (i : Issue) (rd rs1 : Fin 32) (imm : BitVec 16) := act (immOp (fun a m => a ||| zext16 m) i rd rs1 imm)
def execXori (i : Issue) (rd rs1 : Fin 32) (imm : BitVec 16) := act (immOp (fun a m => a ^^^ zext16 m) i rd rs1 imm)
def execSlti (i : Issue) (rd rs1 : Fin 32) (imm : BitVec 16) := act (immOp (fun a m => ofBool (a.slt (sext16 m))) i rd rs1 imm)
def execSltiu (i : Issue) (rd rs1 : Fin 32) (imm : BitVec 16) := act (immOp (fun a m => ofBool (a.ult (sext16 m))) i rd rs1 imm)
def execSlli (i : Issue) (rd rs1 : Fin 32) (imm : BitVec 16) := act (immShift 0x0A (fun a n => a <<< n) i rd rs1 imm)
def execSrli (i : Issue) (rd rs1 : Fin 32) (imm : BitVec 16) := act (immShift 0x0B (fun a n => a >>> n) i rd rs1 imm)
def execSrai (i : Issue) (rd rs1 : Fin 32) (imm : BitVec 16) := act (immShift 0x0C (fun a n => a.sshiftRight n) i rd rs1 imm)

/-- LUI: rs1 must be zero (R292). -/
def execLui (i : Issue) (rd rs1 : Fin 32) (imm : BitVec 16) := act fun s => s.issue i fun s =>
  if (rs1 : Nat) ≠ 0 then s.illegal i.core (wordImm 0x0D rd rs1 imm)
  else (s.setX i.core rd (sext16 imm <<< 16)).retire i.core

def execAddih (i : Issue) (rd rs1 : Fin 32) (imm : BitVec 16) := act (immOp (fun a m => a + (sext16 m <<< 32)) i rd rs1 imm)

/-! ### Branches (majors 0x20–0x27) -/

def execBeq (i : Issue) (rs1 rs2 : Fin 32) (off : BitVec 16) (wrong : List (Fin 3)) := act (branchOp 0x20 (fun a b => a == b) i rs1 rs2 off wrong)
def execBne (i : Issue) (rs1 rs2 : Fin 32) (off : BitVec 16) (wrong : List (Fin 3)) := act (branchOp 0x21 (fun a b => a != b) i rs1 rs2 off wrong)
def execBlt (i : Issue) (rs1 rs2 : Fin 32) (off : BitVec 16) (wrong : List (Fin 3)) := act (branchOp 0x22 (fun a b => a.slt b) i rs1 rs2 off wrong)
def execBge (i : Issue) (rs1 rs2 : Fin 32) (off : BitVec 16) (wrong : List (Fin 3)) := act (branchOp 0x23 (fun a b => !a.slt b) i rs1 rs2 off wrong)
def execBltu (i : Issue) (rs1 rs2 : Fin 32) (off : BitVec 16) (wrong : List (Fin 3)) := act (branchOp 0x24 (fun a b => a.ult b) i rs1 rs2 off wrong)
def execBgeu (i : Issue) (rs1 rs2 : Fin 32) (off : BitVec 16) (wrong : List (Fin 3)) := act (branchOp 0x25 (fun a b => !a.ult b) i rs1 rs2 off wrong)

/-- JAL: [20:16] is unused and must be zero. -/
def execJal (i : Issue) (rd r2 : Fin 32) (off : BitVec 16) := act fun s => s.issue i fun s =>
  let g : Nat := i.core
  let w := wordImm 0x26 rd r2 off
  if (r2 : Nat) ≠ 0 then s.illegal g w
  else s.jump g w (branchTarget (s.pc g) off) (s.setX g rd (BitVec.ofNat 64 (s.pc g + 4)))

def execJalr (i : Issue) (rd rs1 : Fin 32) (off : BitVec 16) := act fun s => s.issue i fun s =>
  let g : Nat := i.core
  s.jump g (wordImm 0x27 rd rs1 off) (s.x g rs1 + 4 * sext16 off) (s.setX g rd (BitVec.ofNat 64 (s.pc g + 4)))

end Sys2Proof.Machine
end

