-- ==== Sys2Proof/Machine/EngineVector.lean ====
section
/-!
DEFINITION. The vector instructions (R307–R321, Tables 13-3 and 13-4).
-/

namespace Sys2Proof.Machine

/-! ### Element-wise instructions -/

/-- The open bit of element `k` of the instruction. -/
def Dev.openBit (s : Dev) (k : Nat) : Bool := Config.freeNat s.freeCtr k % 2 == 1

/-- vd, vs1, vs2 of one type and group. -/
def vec3 (major fn : Nat) (types : Nat → Bool) (passes : Nat → Nat) (op : Dev → Nat → Nat → Nat → Nat → Nat × VFlags) (i : Issue)
    (f : VecFields) (s : Dev) : Dev :=
  let n := groupOf f
  s.vop i (wordVec major fn f) (decide ((f.ty : Nat) ≤ 8) && types f.ty && groupOk n f.a && groupOk n f.b && groupOk n f.c) fun s =>
    s.vmap i.core f true (passes n) (op s)

/-- vd, vs1, with [15:11] zero. -/
def vec2 (major fn : Nat) (types : Nat → Bool) (passes : Nat → Nat) (op : Dev → Nat → Nat → Nat × VFlags) (i : Issue) (f : VecFields) (s : Dev) : Dev :=
  let n := groupOf f
  s.vop i (wordVec major fn f) (decide ((f.ty : Nat) ≤ 8) && types f.ty && groupOk n f.a && groupOk n f.b && (f.c : Nat) == 0) fun s =>
    s.vmap i.core f false (passes n) fun k _ a _ => op s k a

/-- vd, vs1 and a scalar s[rs2]. -/
def vecShift (fn kind : Nat) (i : Issue) (f : VecFields) (s : Dev) : Dev :=
  let n := groupOf f
  s.vop i (wordVec 0x34 fn f) (decide ((f.ty : Nat) ≤ 5) && groupOk n f.a && groupOk n f.b) fun s =>
    let k := (s.x i.core f.c).toNat % 64
    s.vmap i.core f false n fun _ _ a _ => elShift kind k f.ty a

def anyType (_ : Nat) : Bool := true
def intFp (t : Nat) : Bool := tyInt t || tyFp t
def intCx (t : Nat) : Bool := tyInt t || tyCx t

def execVadd (i : Issue) (f : VecFields) := act <| vec3 0x30 0 anyType id (fun _ _ _ a b => elAdd false f.ty a b) i f
def execVsub (i : Issue) (f : VecFields) := act <| vec3 0x30 1 anyType id (fun _ _ _ a b => elAdd true f.ty a b) i f
def execVmul (i : Issue) (f : VecFields) := act <| vec3 0x30 2 anyType id (fun _ _ _ a b => elMul f.ty a b) i f
def execVmulh (i : Issue) (f : VecFields) := act <| vec3 0x30 3 tyInt id (fun _ _ _ a b =>
  (toBits (tyBits f.ty) (toSigned (tyBits f.ty) a * toSigned (tyBits f.ty) b / (2 ^ tyBits f.ty : Nat)), {})) i f
def execVmac (i : Issue) (f : VecFields) := act <| vec3 0x31 0 anyType id (fun s k d a b => elMac false (s.openBit k) f.ty d a b) i f
def execVmsc (i : Issue) (f : VecFields) := act <| vec3 0x31 1 anyType id (fun s k d a b => elMac true (s.openBit k) f.ty d a b) i f
def execVmin (i : Issue) (f : VecFields) := act <| vec3 0x32 0 intFp id (fun s k _ a b => elMinMax false (s.openBit k) f.ty a b) i f
def execVmax (i : Issue) (f : VecFields) := act <| vec3 0x32 1 intFp id (fun s k _ a b => elMinMax true (s.openBit k) f.ty a b) i f
def execVabs (i : Issue) (f : VecFields) := act <| vec2 0x32 2 intFp id (fun _ _ a => elSign true f.ty a) i f
def execVneg (i : Issue) (f : VecFields) := act <| vec2 0x32 3 intFp id (fun _ _ a => elSign false f.ty a) i f
def execVand (i : Issue) (f : VecFields) := act <| vec3 0x33 0 anyType id (fun _ _ _ a b => (Nat.land a b, {})) i f
def execVor (i : Issue) (f : VecFields) := act <| vec3 0x33 1 anyType id (fun _ _ _ a b => (Nat.lor a b, {})) i f
def execVxor (i : Issue) (f : VecFields) := act <| vec3 0x33 2 anyType id (fun _ _ _ a b => (Nat.xor a b, {})) i f
def execVandn (i : Issue) (f : VecFields) := act <| vec3 0x33 3 anyType id (fun _ _ _ a b => (a - Nat.land a b, {})) i f
def execVsll (i : Issue) (f : VecFields) := act (vecShift 0 0 i f)
def execVsrl (i : Issue) (f : VecFields) := act (vecShift 1 1 i f)
def execVsra (i : Issue) (f : VecFields) := act (vecShift 2 2 i f)
def execVadds (i : Issue) (f : VecFields) := act <| vec3 0x35 0 intCx id (fun _ _ _ a b => elAdds false f.ty a b) i f
def execVsubs (i : Issue) (f : VecFields) := act <| vec3 0x35 1 intCx id (fun _ _ _ a b => elAdds true f.ty a b) i f
def execVconj (i : Issue) (f : VecFields) := act <| vec2 0x35 2 tyCx id (fun _ _ a => elCxPut f.ty (elCx f.ty a).1 (-(elCx f.ty a).2)) i f
def execVcjmul (i : Issue) (f : VecFields) := act <| vec3 0x35 3 tyCx id (fun _ _ _ a b =>
  elCxScaled f.ty (elCxProd ((elCx f.ty a).1, -(elCx f.ty a).2) (elCx f.ty b))) i f
def execVrecip (i : Issue) (f : VecFields) := act <| vec2 0x36 1 tyFp (2 * ·) (fun s k a => elRecip false (Config.freeNat s.freeCtr k) f.ty a) i f
def execVrsqrt (i : Issue) (f : VecFields) := act <| vec2 0x36 2 tyFp (2 * ·) (fun s k a => elRecip true (Config.freeNat s.freeCtr k) f.ty a) i f
def execVmag2 (i : Issue) (f : VecFields) := act <| vec2 0x36 3 tyCx id (fun _ _ a => elMag2 f.ty a) i f

/-- Accumulation into the widened type: the destination group has twice the registers (R309). -/
def vecMacw (fn : Nat) (conj : Bool) (types : Nat → Bool) (i : Issue) (f : VecFields) (s : Dev) : Dev :=
  let n := groupOf f
  s.vop i (wordVec 0x31 fn f) (decide ((f.ty : Nat) ≤ 8) && types f.ty && tyWide f.ty != 9 && decide (n ≤ 4) && groupOk (2 * n) f.a &&
      groupOk n f.b && groupOk n f.c) fun s =>
    s.vconv i.core f (2 * n) (2 * tyBytes f.ty) fun k d a b => elMacw conj (s.openBit k) f.ty d a b

def execVmacw (i : Issue) (f : VecFields) := act (vecMacw 2 false anyType i f)
def execVcmacw (i : Issue) (f : VecFields) := act (vecMacw 3 true (· == 4) i f)

/-- VNRSR: half the registers (R309). -/
def execVnrsr (i : Issue) (f : VecFields) := act fun s =>
  let n := groupOf f
  s.vop i (wordVec 0x34 3 f) (((f.ty : Nat) == 1 || (f.ty : Nat) == 2 || (f.ty : Nat) == 3 || (f.ty : Nat) == 5) && decide (2 ≤ n) &&
      groupOk (n / 2) f.a && groupOk n f.b) fun s =>
    let k := (s.x i.core f.c).toNat % 64
    s.vconv i.core f (n / 2) (tyBytes f.ty / 2) fun _ _ a _ => elNarrow k f.ty a

/-- VCVT: the destination type stands in [14:11], and [15] is zero. -/
def execVcvt (i : Issue) (f : VecFields) := act fun s =>
  let n := groupOf f
  let u : Nat := f.c
  let m := n * tyBytes u / tyBytes f.ty
  s.vop i (wordVec 0x36 0 f) (decide ((f.ty : Nat) ≤ 8) && cvtAllowed f.ty u && n * tyBytes u % tyBytes f.ty == 0 && decide (1 ≤ m) &&
      decide (m ≤ 8) && groupOk m f.a && groupOk n f.b) fun s =>
    s.vconv i.core f m (tyBytes u) fun k _ a _ => elCvt (s.openBit k) f.ty u a

/-! ### Comparisons -/

/-- A comparison into pd; span must be 0, and inactive elements read as clear. -/
def vecCmp (fn : Nat) (i : Issue) (f : VecFields) (s : Dev) : Dev :=
  s.vop i (wordVec 0x37 fn f) (decide ((f.ty : Nat) ≤ 8) && (intFp f.ty || (tyCx f.ty && decide (fn ≤ 1))) && (f.span : Nat) == 0 &&
      decide ((f.a : Nat) < 16)) fun s =>
    let g : Nat := i.core
    let w := tyBytes f.ty
    let x := s.velems g f.b 1 w
    let y := s.velems g f.c 1 w
    let on := s.active g f.pg 1 w
    let r := (List.range x.length).map fun k => elCmp fn (s.openBit k) f.ty (lget 0 x k) (lget 0 y k)
    let fl := (on.zip r).foldl (fun a e => if e.1 then a.join e.2.2 else a) ({} : VFlags)
    ((((s.setPreg g f.a (predOf w ((on.zip r).map fun e => e.1 && e.2.1))).addVstat g fl).takeFree).vbusy g 1).retire g

def execVcmpeq (i : Issue) (f : VecFields) := act (vecCmp 0 i f)
def execVcmpne (i : Issue) (f : VecFields) := act (vecCmp 1 i f)
def execVcmplt (i : Issue) (f : VecFields) := act (vecCmp 2 i f)
def execVcmple (i : Issue) (f : VecFields) := act (vecCmp 3 i f)

/-! ### Predicate instructions (R311; format VP) -/

/-- A predicate instruction: [6:4] zero, and what `legal` asks. -/
def predOp (fn : Nat) (legal : Bool) (i : Issue) (f : VecFields) (body : Dev → Dev) (s : Dev) : Dev :=
  s.vop i (wordPred fn f) ((f.pg : Nat) == 0 && legal) fun s => ((body s).vbusy i.core 1).retire i.core

def execPrange (i : Issue) (f : VecFields) := act <| predOp 0 (decide ((f.ty : Nat) ≤ 8) && decide ((f.a : Nat) < 16)) i f fun s =>
  let w := tyBytes f.ty
  let a := (s.x i.core f.b).toNat
  let b := (s.x i.core f.c).toNat
  s.setPreg i.core f.a (predOf w ((List.range (128 / w)).map fun k => decide (a + k < b)))

/-- Predicate logic on all bits; type must be 0. -/
def predLogic (fn : Nat) (op : Nat → Nat → Nat) (i : Issue) (f : VecFields) : Dev → Dev :=
  predOp fn ((f.ty : Nat) == 0 && decide ((f.a : Nat) < 16) && decide ((f.b : Nat) < 16) && decide ((f.c : Nat) < 16)) i f fun s =>
    s.setPreg i.core f.a (op (s.preg i.core f.b) (s.preg i.core f.c))

def execPand (i : Issue) (f : VecFields) := act (predLogic 1 (fun a b => Nat.land a b) i f)
def execPor (i : Issue) (f : VecFields) := act (predLogic 2 (fun a b => Nat.lor a b) i f)
def execPxor (i : Issue) (f : VecFields) := act (predLogic 3 (fun a b => Nat.xor a b) i f)
def execPandn (i : Issue) (f : VecFields) := act (predLogic 4 (fun a b => a - Nat.land a b) i f)

def execPnot (i : Issue) (f : VecFields) := act <| predOp 5 ((f.ty : Nat) == 0 && decide ((f.a : Nat) < 16) && decide ((f.b : Nat) < 16) && (f.c : Nat) == 0) i f fun s =>
  s.setPreg i.core f.a (2 ^ 128 - 1 - s.preg i.core f.b)

def execPcnt (i : Issue) (f : VecFields) := act <| predOp 6 (decide ((f.ty : Nat) ≤ 8) && decide ((f.b : Nat) < 16) && (f.c : Nat) == 0) i f fun s =>
  s.setX i.core f.a (BitVec.ofNat 64 ((predElems (s.preg i.core f.b) (tyBytes f.ty)).filter (fun b => b)).length)

def execPfirst (i : Issue) (f : VecFields) := act <| predOp 7 (decide ((f.ty : Nat) ≤ 8) && decide ((f.b : Nat) < 16) && (f.c : Nat) == 0) i f fun s =>
  let l := predElems (s.preg i.core f.b) (tyBytes f.ty)
  s.setX i.core f.a (BitVec.ofNat 64 ((l.idxOf true)))

/-! ### Reductions, moves and permutations -/

/-- Pairs of a list added, until one is left; `n` bounds the depth. -/
def sumTree (n : Nat) (l : List (Nat × VFlags)) : Nat × VFlags :=
  match n with
  | 0 => lget (0, {}) l 0
  | n + 1 => sumTree n (pairs l)
where
  /-- Neighbours added as fp32. -/
  pairs : List (Nat × VFlags) → List (Nat × VFlags)
    | a :: b :: r =>
      let (v, f) := fpIn 8 a.1 b.1 fun fm x y => fm.sum x y
      (v, (f.join a.2).join b.2) :: pairs r
    | l => l

def execVredadd (i : Issue) (f : VecFields) := act fun s =>
  let n := groupOf f
  s.vop i (wordVec 0x3B 0 f) (decide ((f.ty : Nat) ≤ 8) && groupOk n f.b && (f.c : Nat) == 0) fun s =>
    let g : Nat := i.core
    let t : Nat := f.ty
    let w := tyBytes t
    let on := s.active g f.pg n w
    let x := s.velems g f.b n w
    let vals := ((on.zip x).filter (fun e => e.1)).map (fun e => e.2)
    let (v, fl) : BitVec 64 × VFlags :=
      if tyInt t then (BitVec.ofInt 64 ((vals.map (toSigned (tyBits t))).foldl (· + ·) 0), {})
      else if tyCx t then
        let (a, fa) := satBits 32 ((vals.map fun v => (elCx t v).1).foldl (· + ·) 0)
        let (b, fb) := satBits 32 ((vals.map fun v => (elCx t v).2).foldl (· + ·) 0)
        (BitVec.ofNat 64 (a + b * 2 ^ 32), fa.join fb)
      else
        let leaves := (on.zip x).map fun e => if e.1 then elCvt false t 8 e.2 else (0, {})
        let r := sumTree 10 leaves
        (BitVec.ofNat 64 r.1, r.2)
    (((s.setX g f.a v).addVstat g fl).vbusy g n).retire g

def execVredmax (i : Issue) (f : VecFields) := act fun s =>
  let n := groupOf f
  s.vop i (wordVec 0x3B 1 f) (intFp f.ty && groupOk n f.b && (f.c : Nat) == 0) fun s =>
    let g : Nat := i.core
    let t : Nat := f.ty
    let w := tyBytes t
    let vals := (((s.active g f.pg n w).zip (s.velems g f.b n w)).filter (fun e => e.1)).map (fun e => e.2)
    let none_ := if tyFp t then (tyFmt t).inf true else 2 ^ (tyBits t - 1)
    let (v, fl) := match vals with
      | [] => (none_, ({} : VFlags))
      | a :: r => (r.zipIdx).foldl (fun acc e => let (v, f) := elMinMax true (s.openBit e.2) t acc.1 e.1; (v, acc.2.join f))
          (if tyFp t then elMinMax true false t a none_ else (a, {}))
    ((((s.setX g f.a (BitVec.ofInt 64 (toSigned (tyBits t) v))).addVstat g fl).takeFree).vbusy g n).retire g

def execVmovs (i : Issue) (f : VecFields) := act fun s =>
  let n := groupOf f
  s.vop i (wordVec 0x3B 2 f) (decide ((f.ty : Nat) ≤ 8) && groupOk n f.b && (f.pg : Nat) == 0) fun s =>
    let g : Nat := i.core
    let x := s.velems g f.b n (tyBytes f.ty)
    let v := lget 0 x ((s.x g f.c).toNat % x.length)
    ((s.setX g f.a (if tyInt f.ty then BitVec.ofInt 64 (toSigned (tyBits f.ty) v) else BitVec.ofNat 64 v)).vbusy g n).retire g

def execVins (i : Issue) (f : VecFields) := act fun s =>
  let n := groupOf f
  s.vop i (wordVec 0x3B 3 f) (decide ((f.ty : Nat) ≤ 8) && groupOk n f.a && (f.pg : Nat) == 0) fun s =>
    let g : Nat := i.core
    let w := tyBytes f.ty
    let d := s.velems g f.a n w
    ((s.setVelems g f.a n w (lset d ((s.x g f.c).toNat % d.length) ((s.x g f.b).toNat % 2 ^ (8 * w)))).vbusy g n).retire g

def execVperm (i : Issue) (f : VecFields) := act fun s =>
  let n := groupOf f
  s.vop i (wordVec 0x3C 0 f) (intCx f.ty && groupOk n f.a && groupOk n f.b && groupOk n f.c) fun s =>
    let x := s.velems i.core f.b n (tyBytes f.ty)
    s.vmap i.core f true (n * n) fun _ _ _ b => (lget 0 x (b % x.length), {})

def execVslide (i : Issue) (f : VecFields) := act fun s =>
  let n := groupOf f
  s.vop i (wordVec 0x3C 1 f) (decide ((f.ty : Nat) ≤ 8) && groupOk n f.a && groupOk n f.b) fun s =>
    let x := s.velems i.core f.b n (tyBytes f.ty)
    let d := (s.x i.core f.c).toInt
    s.vmap i.core f false (n * n) fun k _ _ _ =>
      (if 0 ≤ (k : Int) + d ∧ (k : Int) + d < x.length then lget 0 x ((k : Int) + d).toNat else 0, {})

/-- VSEL writes every element: vs1 where active, else vs2. -/
def execVsel (i : Issue) (f : VecFields) := act fun s =>
  let n := groupOf f
  s.vop i (wordVec 0x3C 2 f) (decide ((f.ty : Nat) ≤ 8) && groupOk n f.a && groupOk n f.b && groupOk n f.c) fun s =>
    let g : Nat := i.core
    let w := tyBytes f.ty
    let l := ((s.active g f.pg n w).zip ((s.velems g f.b n w).zip (s.velems g f.c n w))).map fun e => if e.1 then e.2.1 else e.2.2
    ((s.setVelems g f.a n w l).vbusy g n).retire g

def execVsplat (i : Issue) (f : VecFields) := act fun s =>
  let n := groupOf f
  s.vop i (wordVec 0x3C 3 f) (decide ((f.ty : Nat) ≤ 8) && groupOk n f.a && (f.c : Nat) == 0) fun s =>
    let v := (s.x i.core f.b).toNat % 2 ^ tyBits f.ty
    s.vmap i.core { f with b := f.a } false n fun _ _ _ _ => (v, {})

def execVbits (i : Issue) (f : VecFields) := act fun s =>
  s.vop i (wordVec 0x3D 0 f) ((f.ty : Nat) == 0 && (f.b : Nat) == 0 && (f.c : Nat) == 0 && (f.pg : Nat) == 0 && (f.span : Nat) == 0) fun s =>
    ((s.setX i.core f.a 1024).vbusy i.core 1).retire i.core

def execVcnt (i : Issue) (f : VecFields) := act fun s =>
  s.vop i (wordVec 0x3D 1 f) (decide ((f.ty : Nat) ≤ 8) && (f.b : Nat) == 0 && (f.c : Nat) == 0 && (f.pg : Nat) == 0 && (f.span : Nat) == 0) fun s =>
    ((s.setX i.core f.a (BitVec.ofNat 64 (tyElems f.ty))).vbusy i.core 1).retire i.core

/-! ### Memory (R315–R318) -/

/-- The fault of one element, if any: misaligned, register space, or refused (R317). `cover` are the words that the instruction covers whole. -/
def Dev.elemFault (s : Dev) (g : Nat) (store : Bool) (w a : Nat) (covered : Bool) : Option Nat :=
  if a % w ≠ 0 then some 0x10
  else if 0x300000000 ≤ a ∧ a < 0x400000000 then some 0x13
  else if store then
    match s.place g a with
    | .dmem => if s.mpuOk g a w [1] then none else some 0x12
    | .pool => if s.mpuOk g a w [1] && covered then none else some 0x12
    | _ => some 0x12
  else if s.loadOk g a w then none else some 0x11

/-- A trap that reports element `k`. -/
def Dev.elemTrap (g word code k a : Nat) (s : Dev) : Dev := s.trap g { code := code, addr := some (a % 2 ^ 40), elem := some k, insn := some word }

/-- Where an element's bytes stand in Laruri's map. -/
def localAddr (g a : Nat) : Nat := if a < storeBase then ownBase g + a else a

/-- The element at `a` fails parity after its replays: the device after it, and whether it reads as PERR rather than ERASED. -/
def Dev.elemParity (g a : Nat) (s : Dev) : Bool × Dev :=
  if a < storeBase then (true, (s.podReplays g 1 2).raiseOf Ev.POD_DMEM_PERR 8 g [(40, a)])
  else
    let line := (a - storeBase) / 64
    let s1 := storeRead (BitVec.ofNat 20 line) (portIdx 8 (by decide) (a / 8)) 0 0 3 none s
    (s1.sto.readStatus == 2, s1)

/-- The value of an element: zero from a poisoned line. -/
def Dev.elemLoad (s : Dev) (g w a : Nat) : Nat × Bool :=
  if storeBase ≤ a ∧ s.poisoned (a - storeBase) then (0, true) else (s.le (localAddr g a) w, false)

/-- The passes of a memory instruction in the vector unit (Table 13-6): registers for contiguous data memory, an eighth of the active elements of
each register for the others, and one per line of the sample store. -/
def memPasses (contig : Bool) (n e : Nat) (els : List (Nat × Nat)) : Nat :=
  if els.any (fun x => decide (storeBase ≤ x.2)) then ((els.map fun x => x.2 / 64).eraseDups).length
  else if contig then n
  else ((List.range n).map fun k => ((els.filter fun x => x.1 / e == k).length + 7) / 8).sum

/-- A vector load: the checks of every active element, parity, then the whole group. -/
def Dev.vload (g word : Nat) (contig : Bool) (n w : Nat) (addr : Nat → Nat) (on : List Bool) (bad : Option (Fin 1024))
    (put : (Nat → Option Nat) → Dev → Dev) (s : Dev) : Dev :=
  let els := ((List.range on.length).filter fun k => lget false on k).map fun k => (k, addr k)
  match els.find? (fun e => (s.elemFault g false w e.2 true).isSome) with
  | some e => s.elemTrap g word ((s.elemFault g false w e.2 true).getD 0) e.1 e.2
  | none =>
    let (perr, s1) := match bad with
      | some k => if lget false on k then s.elemParity g (addr k) else (false, s)
      | none => (false, s)
    if perr then s1.elemTrap g word 0x14 ((bad.map fun k => (k : Nat)).getD 0) (addr ((bad.map fun k => (k : Nat)).getD 0))
    else
      let vals := els.map fun e => (e.1, s1.elemLoad g w e.2)
      let s2 := put (fun k => (vals.find? fun e => e.1 == k).map fun e => e.2.1) s1
      let s3 := if vals.any (fun e => e.2.2) then s2.setB (R.CSR_LDSTAT_erased g) true else s2
      (s3.vbusy g (memPasses contig n (128 / w) els)).retire g

/-- The 8-byte word of the sample store at `a` is covered whole by these elements. -/
def wordCovered (w : Nat) (els : List (Nat × Nat)) (a : Nat) : Bool :=
  (List.range 8).all fun b => els.any fun e => decide (e.2 ≤ a / 8 * 8 + b) && decide (a / 8 * 8 + b < e.2 + w)

/-- The lines that these store writes touch, each with the words they cover; a line written whole loses its poison (R168). -/
def Dev.clearLines (w : Nat) (els : List (Nat × Nat)) (s : Dev) : Dev :=
  (((els.filter fun e => decide (storeBase ≤ e.2)).map fun e => (e.2 - storeBase) / 64).eraseDups).foldl (fun s l =>
    if (List.range 8).all (fun j => wordCovered w els (storeBase + l * 64 + j * 8)) then s.setPoison (l * 64) false else s) s

/-- A vector store or scatter: every check first, then the writes in ascending element order (R316). -/
def Dev.vstore (g word : Nat) (contig : Bool) (n w : Nat) (addr : Nat → Nat) (on : List Bool) (val : Nat → Nat) (s : Dev) : Dev :=
  let els := ((List.range on.length).filter fun k => lget false on k).map fun k => (k, addr k)
  let cov (a : Nat) : Bool := decide (w = 8) || wordCovered w els a
  match els.find? (fun e => (s.elemFault g true w e.2 (cov e.2)).isSome) with
  | some e => s.elemTrap g word ((s.elemFault g true w e.2 (cov e.2)).getD 0) e.1 e.2
  | none =>
    let s1 := els.foldl (fun s e => s.setLe (localAddr g e.2) w (val e.1)) s
    ((s1.clearLines w els).vbusy g (memPasses contig n (128 / w) els)).retire g

/-- Element addresses: base + i × stride, modulo 2^64. -/
def strided (base stride : BitVec 64) (i : Nat) : Nat := (base + stride * BitVec.ofNat 64 i).toNat

/-- Element addresses: base + the signed offset of `w` bytes in element i. -/
def indexed (base : BitVec 64) (w : Nat) (l : List Nat) (i : Nat) : Nat := (base + BitVec.ofInt 64 (toSigned (8 * w) (lget 0 l i))).toNat

/-- A load into the group of vd; inactive elements keep their old values. -/
def vecLoad (word : Nat) (contig : Bool) (i : Issue) (f : VecFields) (bad : Option (Fin 1024)) (addr : Dev → Nat → Nat) (s : Dev) : Dev :=
  let g : Nat := i.core
  let n := groupOf f
  let w := tyBytes f.ty
  let old := s.velems g f.a n w
  s.vload g word contig n w (addr s) (s.active g f.pg n w) bad fun v s => s.setVelems g f.a n w ((List.range old.length).map fun k => (v k).getD (lget 0 old k))

/-- A store of the group of vt. -/
def vecStore (word : Nat) (contig : Bool) (i : Issue) (f : VecFields) (addr : Dev → Nat → Nat) (s : Dev) : Dev :=
  let g : Nat := i.core
  let n := groupOf f
  let w := tyBytes f.ty
  let l := s.velems g f.a n w
  s.vstore g word contig n w (addr s) (s.active g f.pg n w) (lget 0 l)

def contigLegal (f : VecFields) : Bool := decide ((f.ty : Nat) ≤ 8) && groupOk (groupOf f) f.a && (f.c : Nat) == 0
def strideLegal (f : VecFields) : Bool := decide ((f.ty : Nat) ≤ 8) && groupOk (groupOf f) f.a
def indexLegal (f : VecFields) : Bool :=
  ((f.ty : Nat) == 2 || (f.ty : Nat) == 3 || (f.ty : Nat) == 4 || (f.ty : Nat) == 5 || (f.ty : Nat) == 8) && groupOk (groupOf f) f.a && groupOk (groupOf f) f.c

def execVld (i : Issue) (f : VecFields) (bad : Option (Fin 1024)) := act fun s =>
  s.vop i (wordVec 0x38 0 f) (contigLegal f) <|
    vecLoad (wordVec 0x38 0 f) true i f bad fun s k => strided (s.x i.core f.b) (BitVec.ofNat 64 (tyBytes f.ty)) k
def execVst (i : Issue) (f : VecFields) := act fun s =>
  s.vop i (wordVec 0x38 1 f) (contigLegal f) <|
    vecStore (wordVec 0x38 1 f) true i f fun s k => strided (s.x i.core f.b) (BitVec.ofNat 64 (tyBytes f.ty)) k
def execVlds (i : Issue) (f : VecFields) (bad : Option (Fin 1024)) := act fun s =>
  s.vop i (wordVec 0x38 2 f) (strideLegal f) <|
    vecLoad (wordVec 0x38 2 f) false i f bad fun s k => strided (s.x i.core f.b) (s.x i.core f.c) k
def execVsts (i : Issue) (f : VecFields) := act fun s =>
  s.vop i (wordVec 0x38 3 f) (strideLegal f) <|
    vecStore (wordVec 0x38 3 f) false i f fun s k => strided (s.x i.core f.b) (s.x i.core f.c) k
def execVgather (i : Issue) (f : VecFields) (bad : Option (Fin 1024)) := act fun s =>
  s.vop i (wordVec 0x39 0 f) (indexLegal f) <|
    vecLoad (wordVec 0x39 0 f) false i f bad fun s => indexed (s.x i.core f.b) (tyBytes f.ty) (s.velems i.core f.c (groupOf f) (tyBytes f.ty))
def execVscatter (i : Issue) (f : VecFields) := act fun s =>
  s.vop i (wordVec 0x39 1 f) (indexLegal f) <|
    vecStore (wordVec 0x39 1 f) false i f fun s => indexed (s.x i.core f.b) (tyBytes f.ty) (s.velems i.core f.c (groupOf f) (tyBytes f.ty))

/-- VPLD and VPST: type, span, pg and [15:11] zero; 16 bytes. -/
def predMemLegal (f : VecFields) : Bool :=
  (f.ty : Nat) == 0 && (f.span : Nat) == 0 && (f.pg : Nat) == 0 && (f.c : Nat) == 0 && decide ((f.a : Nat) < 16)

def execVpld (i : Issue) (f : VecFields) (bad : Option (Fin 1024)) := act fun s =>
  s.vop i (wordVec 0x39 2 f) (predMemLegal f) fun s =>
    s.vload i.core (wordVec 0x39 2 f) true 1 1 (strided (s.x i.core f.b) 1) (List.replicate 16 true) bad fun v s =>
      s.setPreg i.core f.a (packElems 1 ((List.range 16).map fun k => (v k).getD 0))
def execVpst (i : Issue) (f : VecFields) := act fun s =>
  s.vop i (wordVec 0x39 3 f) (predMemLegal f) fun s =>
    s.vstore i.core (wordVec 0x39 3 f) true 1 1 (strided (s.x i.core f.b) 1) (List.replicate 16 true) fun k => bits (s.preg i.core f.a) (8 * k) 8

end Sys2Proof.Machine
end

