-- ==== Sys2Proof/Machine/EngineMem.lean ====
section
/-!
DEFINITION. The loads, stores and AMOs of the cores (R286–R290, R292, R302).
-/

namespace Sys2Proof.Machine

/-! ### Loads -/

/-- A word of a control block or port at an address, in `n` bytes; a doubleword reads the low word first. -/
def Dev.ctlLoad (a n : Nat) (s : Dev) : Nat × Dev :=
  let s1 := s.regRead (a / 4 * 4)
  if n = 8 then
    let s2 := s1.regRead (a / 4 * 4 + 4)
    (s1.rdata + s2.rdata * 2 ^ 32, s2)
  else (s1.rdata / 2 ^ (8 * (a % 4)) % 2 ^ (8 * n), s1)

/-- A word of the sample store that a core reads; `mem` of its three reads fail. The value, and whether it reads ERASED or PERR (R288). -/
def Dev.poolLoad (a n : Nat) (mem : Fin 4) (s : Dev) : Nat × Nat × Dev :=
  let o := a - storeBase
  let s1 := storeRead (BitVec.ofNat 20 (o / 64)) (portIdx 8 (by decide) (o / 8)) 0 0 mem none s
  if s1.sto.readStatus = 0 then (s1.le a n, 0, s1) else (0, s1.sto.readStatus, s1)

/-- A load checked and made, then `k` on its value (R288, R294, R302). -/
def Dev.loadThen (g w a n code : Nat) (ok : Bool) (mem : Fin 4) (k : Nat → Dev → Dev) (s : Dev) : Dev :=
  let at_ := some (a % 2 ^ 40)
  if a % n ≠ 0 then s.trap g { code := 2, addr := at_, insn := some w }
  else if !ok then s.trap g { code := code, addr := at_, insn := some w }
  else
    match s.place g a with
    | .imem =>
      let s1 := s.podReplays g 0 (min (mem : Nat) 2)
      if (mem : Nat) < 3 then k (s1.le (ownBase g + a) n) s1
      else ((s1.setB (R.POD_ESTAT_fault g) true).raiseOf Ev.POD_IMEM_PERR 8 g [(40, a)]).stopCore g 5 |>.podFault g
    | .dmem =>
      let s1 := s.podReplays g 1 (min (mem : Nat) 2)
      if (mem : Nat) < 3 then k (s1.le (ownBase g + a) n) s1
      else (s1.raiseOf Ev.POD_DMEM_PERR 8 g [(40, a)]).trap g { code := 0x0A, addr := at_, insn := some w }
    | .pool | .table | .sys =>
      let (v, st, s1) := s.poolLoad a n mem
      if st = 2 then s1.trap g { code := 0x0A, addr := at_, insn := some w }
      else k v (if st = 1 then s1.setB (R.CSR_LDSTAT_erased g) true else s1)
    | .portStat => let (v, s1) := s.ctlLoad a n; k v s1
    | .ctl => let (v, s1) := s.ctlLoad a n; k v s1
    | _ => k (s.le a n) s

/-- The address s[rs1] + sext(off16). -/
def Dev.memAddr (s : Dev) (g rs1 : Nat) (off : BitVec 16) : Nat := (s.x g rs1 + sext16 off).toNat

/-- A load of `n` bytes, sign- or zero-extended. -/
def loadOp (major n : Nat) (signed : Bool) (i : Issue) (rd rs1 : Fin 32) (off : BitVec 16) (mem : Fin 4) (s : Dev) : Dev :=
  s.issue i fun s =>
    let g : Nat := i.core
    let a := s.memAddr g rs1 off
    s.loadThen g (wordImm major rd rs1 off) a n 3 (s.loadOk g a n) mem fun v s =>
      (s.setX g rd (if signed then BitVec.ofInt 64 (toSigned (8 * n) v) else BitVec.ofNat 64 v)).retire g

def execLb (i : Issue) (rd rs1 : Fin 32) (off : BitVec 16) (mem : Fin 4) := act (loadOp 0x10 1 true i rd rs1 off mem)
def execLh (i : Issue) (rd rs1 : Fin 32) (off : BitVec 16) (mem : Fin 4) := act (loadOp 0x11 2 true i rd rs1 off mem)
def execLw (i : Issue) (rd rs1 : Fin 32) (off : BitVec 16) (mem : Fin 4) := act (loadOp 0x12 4 true i rd rs1 off mem)
def execLd (i : Issue) (rd rs1 : Fin 32) (off : BitVec 16) (mem : Fin 4) := act (loadOp 0x13 8 true i rd rs1 off mem)
def execLbu (i : Issue) (rd rs1 : Fin 32) (off : BitVec 16) (mem : Fin 4) := act (loadOp 0x14 1 false i rd rs1 off mem)
def execLhu (i : Issue) (rd rs1 : Fin 32) (off : BitVec 16) (mem : Fin 4) := act (loadOp 0x15 2 false i rd rs1 off mem)
def execLwu (i : Issue) (rd rs1 : Fin 32) (off : BitVec 16) (mem : Fin 4) := act (loadOp 0x16 4 false i rd rs1 off mem)

/-! ### Stores -/

/-- A word of the sample store written whole, `mem` of the attempts at its bank failing. -/
def Dev.poolStore (a v : Nat) (mem : Fin 4) (s : Dev) : Dev :=
  let o := a - storeBase
  storeWrite (BitVec.ofNat 20 (o / 64)) (BitVec.ofNat 8 (2 ^ (o / 8 % 8))) (Vector.replicate 8 (BitVec.ofNat 64 v)) false
    ⟨Fin.ofNat 8 (o / 8), mem⟩ s

/-- The level of a core's register writes. -/
def coreLevel (l : Nat) : Level := if l = 2 then .m else .s

/-- Laruri writes a control block: words low first; of a narrower store the bits outside its bytes are free. -/
def Dev.ctlStore (g a n v : Nat) (s : Dev) : Dev :=
  let lv := coreLevel (s.lvl g)
  if n = 8 then (s.regWrite lv a (v % 2 ^ 32)).regWrite lv (a + 4) (v / 2 ^ 32)
  else if n = 4 then s.regWrite lv a v
  else s.takeFree.regWrite lv (a / 4 * 4) (setBits (Config.freeNat s.freeCtr 0 % 2 ^ 32) (8 * (a % 4)) (8 * n) v)

/-- A store of `n` bytes checked and made (R288, R290, R294). -/
def storeOp (major n : Nat) (i : Issue) (rt rs1 : Fin 32) (off : BitVec 16) (mem : Fin 4) (s : Dev) : Dev :=
  s.issue i fun s =>
    let g : Nat := i.core
    let a := s.memAddr g rs1 off
    let v := (s.x g rt).toNat % 2 ^ (8 * n)
    let w := wordImm major rt rs1 off
    if a % n ≠ 0 then s.trap g { code := 2, addr := some (a % 2 ^ 40), insn := some w }
    else if !s.storeOk g a n then s.trap g { code := 4, addr := some (a % 2 ^ 40), insn := some w }
    else
      match s.place g a with
      | .imem | .dmem => (s.setLe (ownBase g + a) n v).retire g
      | .pool | .table | .sys => (s.poolStore a v mem).retire g
      | .port | .portStat => if s.portStoreFull a n then s.stallStore g a n v true else (s.portStore a n v).retire g
      | .engMem =>
        let o := a - 0x200000000
        let e := o / 0x100000 * 8 + o % 0x100000 / 0x20000
        (if o % 0x20000 < 0x10000 then s.imemWrite e (o % 0x20000) n v else s.setLe a n v).retire g
      | .ctl => if s.portStoreFull a n then s.stallStore g a n v true else (s.ctlStore g a n v).retire g
      | _ => (s.setLe a n v).retire g

def execSb (i : Issue) (rt rs1 : Fin 32) (off : BitVec 16) (mem : Fin 4) := act (storeOp 0x18 1 i rt rs1 off mem)
def execSh (i : Issue) (rt rs1 : Fin 32) (off : BitVec 16) (mem : Fin 4) := act (storeOp 0x19 2 i rt rs1 off mem)
def execSw (i : Issue) (rt rs1 : Fin 32) (off : BitVec 16) (mem : Fin 4) := act (storeOp 0x1A 4 i rt rs1 off mem)
def execSd (i : Issue) (rt rs1 : Fin 32) (off : BitVec 16) (mem : Fin 4) := act (storeOp 0x1B 8 i rt rs1 off mem)

/-! ### AMOs -/

/-- The doubleword that an AMO leaves. -/
def Dev.amoStore (g a v : Nat) (s : Dev) : Dev :=
  match s.place g a with
  | .dmem => s.setLe (ownBase g + a) 8 v
  | .pool | .table | .sys => s.poolStore a v 0
  | .engMem =>
    let o := a - 0x200000000
    if o % 0x20000 < 0x10000 then s.imemWrite (o / 0x100000 * 8 + o % 0x100000 / 0x20000) (o % 0x20000) 8 v else s.setLe a 8 v
  | _ => s.setLe a 8 v

/-- An AMO: the old value goes to s[rd], and `f` gives the new one from the old one, s[rs2] and s[rd]; none writes nothing. -/
def amoOp (func : Nat) (f : BitVec 64 → BitVec 64 → BitVec 64 → Option (BitVec 64)) (i : Issue) (rd rs1 rs2 : Fin 32) (mem : Fin 4) (s : Dev) : Dev :=
  s.issue i fun s =>
    let g : Nat := i.core
    let a := (s.x g rs1).toNat
    s.loadThen g (wordOp 0x1C rd rs1 rs2 func) a 8 5 (s.amoOk g a) mem fun old s =>
      let o := BitVec.ofNat 64 old
      let s1 := match f o (s.x g rs2) (s.x g rd) with
        | some v => s.amoStore g a v.toNat
        | none => s
      (s1.setX g rd o).retire g

def execAmoSwap (i : Issue) (rd rs1 rs2 : Fin 32) (mem : Fin 4) := act (amoOp 0 (fun _ b _ => some b) i rd rs1 rs2 mem)
def execAmoAdd (i : Issue) (rd rs1 rs2 : Fin 32) (mem : Fin 4) := act (amoOp 1 (fun o b _ => some (o + b)) i rd rs1 rs2 mem)
def execAmoAnd (i : Issue) (rd rs1 rs2 : Fin 32) (mem : Fin 4) := act (amoOp 2 (fun o b _ => some (o &&& b)) i rd rs1 rs2 mem)
def execAmoOr (i : Issue) (rd rs1 rs2 : Fin 32) (mem : Fin 4) := act (amoOp 3 (fun o b _ => some (o ||| b)) i rd rs1 rs2 mem)
def execAmoMin (i : Issue) (rd rs1 rs2 : Fin 32) (mem : Fin 4) := act (amoOp 4 (fun o b _ => some (if o.slt b then o else b)) i rd rs1 rs2 mem)
def execAmoMax (i : Issue) (rd rs1 rs2 : Fin 32) (mem : Fin 4) := act (amoOp 5 (fun o b _ => some (if b.slt o then o else b)) i rd rs1 rs2 mem)
def execAmoMinu (i : Issue) (rd rs1 rs2 : Fin 32) (mem : Fin 4) := act (amoOp 6 (fun o b _ => some (if o.ult b then o else b)) i rd rs1 rs2 mem)
def execAmoMaxu (i : Issue) (rd rs1 rs2 : Fin 32) (mem : Fin 4) := act (amoOp 7 (fun o b _ => some (if b.ult o then o else b)) i rd rs1 rs2 mem)
def execAmoCas (i : Issue) (rd rs1 rs2 : Fin 32) (mem : Fin 4) := act (amoOp 8 (fun o b d => if o = d then some b else none) i rd rs1 rs2 mem)

end Sys2Proof.Machine
end

