-- ==== Sys2Proof/Machine/Management.lean ====
section
/-!
DEFINITION. Laruri management (R406–R418, R430): the cores' faults, presence, messages, and the commands of class T.
-/

namespace Sys2Proof.Machine

/-! ### The controller (R402, R406, R407) -/

/-- Laruri's cores disagree: before LOAD completes the device stops for good, afterwards the watchdog restarts it. -/
def lockstepMismatch (s : Dev) : Dev :=
  if s.phase = 0 ∨ s.boot.dead ∨ s.mgt.lockstep.isSome then s
  else
    let s1 : Dev := { s with mgt := { s.mgt with lockstep := some s.time.clk } }
    let s2 := s1.setCoreState 192 3
    if s.flag R.SYS_BOOT_CTL_fw_ready then s2 else { s2 with boot := { s2.boot with dead := true } }

def execLockstepMismatch := act lockstepMismatch

/-- The watchdog restarts the device: 1 s after both cores halted, or unfed for 1 s, which is logged. That event's code is not given: free. -/
def mgtWdogExp (s : Dev) : Dev :=
  if s.boot.dead then s
  else
    match s.mgt.lockstep with
    | some t => if s.elapsed t 1000 then s.restart 3 else s
    | none =>
      if s.firmware && s.elapsed s.mgt.fedAt 1000 then
        let s1 := (s.takeFree.raise (Config.freeNat s.freeCtr 0 % 2 ^ 16) [])
        let s2 : Dev := { s1 with raised := s1.raised.dropLast ++ (s1.raised.drop (s1.raised.length - 1)).map fun e => { e with noCode := true } }
        s2.restart 3
      else s

def execMgtWdogExp := act mgtWdogExp

/-- A word of Laruri memory fails its third read. -/
def mgtLmemPerr (addr : Fin 0x200000) (s : Dev) : Dev :=
  if s.phase = 0 ∨ s.boot.dead then s else (s.raise Ev.MGT_LMEM_PERR [(40, ((addr : Nat) : Int))]).restart 3

def execMgtLmemPerr (addr : Fin 0x200000) := act (mgtLmemPerr addr)

/-! ### Presence (R408, R409, R411) -/

/-- Messages sent by the command before are gone. -/
def Dev.quietTx (s : Dev) : Dev := { s with mgt := { s.mgt with tx := [] } }

/-- The cinch timer is held by reset: power-on and RESET_N. -/
def Dev.pinReset (s : Dev) : Bool := s.phase == 0 && decide (s.boot.cause < 2)

/-- A press. -/
def press (s : Dev) : Dev := if s.pinReset then s else (s.mgtCount R.MGT_PRESS).cinchOpen 0

def execPress := act press

/-- PRES_N held low for more than 10 s. -/
def mgtPresStuck (s : Dev) : Dev :=
  if s.pinReset then s else (s.setB R.MGT_CINCH_pres_stuck true).raise Ev.MGT_PRES_STUCK []

def execMgtPresStuck := act mgtPresStuck

/-- KEY_N goes low. -/
def keyAssert (s : Dev) : Dev :=
  let s1 : Dev := { s with mgt := { s.mgt with key := true } }
  if s.pinReset then s1 else s1.cinchOpen 1

def execKeyAssert := act keyAssert

/-- KEY_N goes high: the timer runs down from 1,800 s. -/
def keyRelease (s : Dev) : Dev :=
  if !s.mgt.key then s
  else
    let s1 : Dev := { s with mgt := { s.mgt with key := false, cinchEnd := if s.flag R.MGT_CINCH_open_ then s.time.clk + 1800 * hz else s.mgt.cinchEnd } }
    s1.cinchShow

def execKeyRelease := act keyRelease

/-- The timer reaches zero. -/
def cinchExpire (s : Dev) : Dev :=
  if s.flag R.MGT_CINCH_open_ && !s.mgt.key && decide (s.mgt.cinchEnd ≤ s.time.clk) then s.quietTx.cinchClose 2 else s

def execCinchExpire := act cinchExpire

/-- The seal loop found open. -/
def mgtSealOpen (s : Dev) : Dev :=
  if s.flag R.MGT_SEAL_loop_open then s
  else (((s.setB R.MGT_SEAL_loop_open true).setB R.MGT_SEAL_opened true).mgtCount R.MGT_SEAL_CNT).raise Ev.MGT_SEAL_OPEN []

def execMgtSealOpen := act mgtSealOpen

/-- The seal loop found closed. -/
def execSealLoopClose := act fun s => s.setB R.MGT_SEAL_loop_open false

/-! ### Messages (R412–R414) -/

/-- The device answers: through its firmware, or in HOLD through the ROM. -/
def Dev.serving (s : Dev) : Bool := !s.boot.dead && s.mgt.lockstep.isNone && (s.flag R.SYS_BOOT_CTL_fw_ready || s.phase == 12)

/-- The ROM recovery service answers (R430). -/
def Dev.romServes (s : Dev) : Bool := !s.flag R.SYS_BOOT_CTL_fw_ready

/-- Commands of Table 18-4, and those of the ROM. -/
def knownCmds : List Nat := [1, 2, 3, 4, 5, 6, 7, 0x10, 0x11, 0x12, 0x13, 0x20, 0x21, 0x22, 0x23, 0x24, 0x25, 0x26]
def romCmds : List Nat := [1, 3, 4, 7, 0x10, 0x11, 0x12, 0x21, 0x26]

/-- Class T. -/
def isTelemetry (cmd : Nat) : Bool := decide (cmd < 0x10)

/-- The device's MAC address. -/
def Dev.mac (s : Dev) : Nat := s.rd R.MGT_MAC_LO + s.rd R.MGT_MAC_HI * 2 ^ 32

/-- The octets of a frame on the management port whose Ethernet payload is `len` octets: two addresses, tags, ethertype and FCS beside it. -/
def mgtFrameLen (tags len : Nat) : Nat := 18 + 4 * tags + len

/-- The management port takes in a frame of 64–1,522 octets and stamps it in MTC at 8 ns (R80). -/
def Dev.mgtFrame (via : MgtVia) (len : Nat) (s : Dev) : Dev :=
  match via with
  | .console _ => s
  | .port _ _ _ tags =>
    let c := s.clock 1
    if s.phase = 0 ∨ mgtFrameLen tags len < 64 ∨ 1522 < mgtFrameLen tags len then s
    else { s with mgt := { s.mgt with stamp := some (c.sec, c.ns / 8 * 8) } }

/-- The source of a message of `len` octets that the device takes in; none where it is dropped. -/
def Dev.msgSource (s : Dev) (via : MgtVia) (len cmd : Nat) : Option MgtSource :=
  match via with
  | .console ok => if ok then some .console else none
  | .port src dst etype tags =>
    if etype = 0x88B5 ∧ (dst.toNat = s.mac ∨ (dst.toNat = 2 ^ 48 - 1 ∧ cmd = 1)) ∧ (tags : Nat) ≤ 1 ∧
        64 ≤ mgtFrameLen tags len ∧ mgtFrameLen tags len ≤ 1522 then some (.mac src.toNat) else none

/-- The source heard now comes first; of more than 8 the one heard longest ago goes. -/
def Dev.hear (src : MgtSource) (s : Dev) : Nat × List Kept × Dev :=
  let old := s.mgt.sources.find? (·.1 == src)
  let rest := s.mgt.sources.filter (·.1 != src)
  let others := if old.isNone then rest.take 7 else rest
  let free := ((List.range 8).find? fun n => others.all fun e => e.2.1 != n).getD 0
  let entry := old.getD (src, if src = .console then 15 else free, [])
  (entry.2.1, entry.2.2, { s with mgt := { s.mgt with sources := entry :: others } })

/-- A message, from its header on: a frame's payload with its padding, or what a console frame holds. -/
def messageReceive (via : MgtVia) (msg : List Byte) (s0 : Dev) : Dev :=
  let b := msg.map (·.toNat)
  let s := s0.quietTx.mgtFrame via b.length
  let cmd := leNat ((b.drop 2).take 2)
  match (if s0.serving then s0.msgSource via b.length cmd else none) with
  | none => s
  | some src =>
    if b.length < 16 ∨ lget 0 b 0 ≠ 1 ∨ lget 0 b 1 ≠ 0 then s.mgtCount R.MGT_MSG_BAD
    else
      let tag := leNat ((b.drop 4).take 4)
      let len := leNat ((b.drop 8).take 2)
      let target := leNat ((b.drop 12).take 4)
      let s1 := s.inc64 R.MGT_RX_MSG 1
      if target ≠ 0 ∧ target ≠ s.otp 8 4 then s1
      else
        let (slot, kept, s2) := s1.hear src
        match kept.find? fun k => k.cmd == cmd && k.tag == tag && decide (s.time.clk ≤ k.at_ + 60 * hz) with
        | some k => { s2 with mgt := { s2.mgt with tx := [(src, k.msg)] } }
        | none =>
          let r : MgtReq := { src := src, slot := slot, cmd := cmd, tag := tag, body := (b.drop 16).take len }
          if !(if s.romServes then romCmds else knownCmds).contains cmd then s2.respond r 2 []
          else if 1484 < len ∨ b.length < 16 + len ∨ (src = .console ∧ b.length ≠ 16 + len) then s2.respond r 3 []
          else if isTelemetry cmd then { s2 with mgt := { s2.mgt with tq := s2.mgt.tq ++ [r] } }
          else if 16 ≤ s2.mgt.sq.length then s2.respond r 4 []
          else { s2 with mgt := { s2.mgt with sq := s2.mgt.sq ++ [r] } }

def execMessageReceive (via : MgtVia) (msg : List Byte) := act (messageReceive via msg)

/-! ### Serving a request -/

/-- What a command answers: status, body, and the device after it. -/
abbrev Reply := Nat × List Nat × Dev

/-- A little-endian field of a body. -/
def fld (b : List Nat) (o n : Nat) : Nat := leNat ((b.drop o).take n)

/-- The oldest T request served, where it is this command with a body of `len` bytes. -/
def serveT (cmd len : Nat) (f : MgtReq → Dev → Reply) (s0 : Dev) : Dev :=
  let s := s0.quietTx
  match s.mgt.tq with
  | r :: q =>
    if r.cmd ≠ cmd ∨ !s.serving then s
    else
      let s1 : Dev := { s with mgt := { s.mgt with tq := q } }
      if r.body.length ≠ len then s1.respond r 3 []
      else let (st, body, s2) := f r s1; s2.respond r st body
  | [] => s

/-- An executed P command logged. -/
def Dev.logCmd (r : MgtReq) (st : Nat) (s : Dev) : Dev :=
  if isPresence r.cmd then s.raise Ev.MGT_CMD [(16, (r.cmd : Int)), (4, (st : Int)), (4, (r.slot : Int))] else s

/-- The oldest S or P request served, where it is this command and no re-placement holds it (R23). A P command needs the cinch; under
ENVIRONMENT STOP only LOG_CLEAR and SEAL_CLEAR run (R410, R429). -/
def serveS (cmd : Nat) (len : Nat → Bool) (f : MgtReq → Dev → Reply) (s0 : Dev) : Dev :=
  let s := s0.quietTx
  match s.mgt.sq with
  | r :: q =>
    if r.cmd ≠ cmd ∨ !s.serving ∨ s.plc.current.isSome then s
    else
      let s1 : Dev := { s with mgt := { s.mgt with sq := q } }
      let finish := fun (st : Nat) (body : List Nat) (s : Dev) => (s.logCmd r st).respond r st body
      if isPresence cmd && !s1.cinch then s1.refuse r
      else if s1.flag R.MGT_STAT_env_stop && cmd != 0x23 && cmd != 0x25 then finish 6 [] s1
      else if !len r.body.length then finish 3 [] s1
      else let (st, body, s2) := f r s1; finish st body s2
  | [] => s

/-! ### Commands of class T (Table 18-4) -/

def discover (_ : MgtReq) (s : Dev) : Reply :=
  (0, leBytes 8 (s.otp 8 8) ++ [s.otp 0 1, s.get R.SYS_BOOT_STAT_bank, s.phase, 0] ++ leBytes 8 (s.rd64 R.SYS_IMG_SEQ_LO), s)

def execDiscover := act (serveT 1 0 discover)

/-- An address that READ reaches: control blocks, Laruri memory, the sample store (R415). -/
def readable (a : Nat) : Bool :=
  a % 4 == 0 && (isCtl a || decide (a < 0x200000) || (decide (storeBase ≤ a) && decide (a < storeBase + 0x4000000)))

/-- One word read. A word of the store that fails parity is free. -/
def Dev.mgtWord (a : Nat) (s : Dev) : Nat × Dev :=
  if isCtl a then let t := s.regRead a; (t.rdata, t)
  else if a < 0x200000 then (s.le a 4, s)
  else
    let (v, st, t) := s.poolLoad a 4 0
    if st = 2 then (Config.freeNat t.freeCtr 0 % 2 ^ 32, t.takeFree) else (v, t)

/-- Words read in ascending address order. -/
def Dev.mgtWords (a n : Nat) (s : Dev) : List Nat × Dev :=
  (List.range n).foldl (fun (p : List Nat × Dev) i => let (v, t) := p.2.mgtWord (a + 4 * i); (p.1 ++ leBytes 4 v, t)) ([], s)

def mgtRead (r : MgtReq) (s : Dev) : Reply :=
  let a := fld r.body 0 8
  let n := fld r.body 8 2
  if n < 1 ∨ 256 < n then (3, [], s)
  else if (List.range n).any fun i => !readable (a + 4 * i) then (5, [], s)
  else let (b, t) := s.mgtWords a n; (0, b, t)

def execRead := act (serveT 2 10 mgtRead)

/-- The hottest diode of a die, core die first. -/
def Dev.hottest (s : Dev) (die : Nat) : Int :=
  let l := if die = 0 then nums 16 12 else nums (28 + 3 * (die - 1)) 3
  (l.map fun i => s.getS (R.SNS_LAST_value i)).foldl max (-32768)

/-- The telemetry record (Table 18-5); under the ROM with its boot fields only. The power is not otherwise given, nor how VDD_CORE is rounded
to 1 mV: free. -/
def Dev.telemetryRecord (s : Dev) : List Nat × Dev :=
  let full := !s.romServes
  let only := fun (v : Nat) => if full then v else 0
  let c := s.clock 1
  let count := fun (p : Nat → Bool) => (s.plc.cells.filter fun c => p (s.get (R.PLC_CELL_state c.cell))).length
  let lanes := ((List.range 1024).filter fun n => s.laneState n == 8).length
  let links := ((List.range 1024).filter fun f => s.flag (R.LNK_LINK_CFG_en f) && s.linkOf f == f && s.linkState f == 3).length
  let mv := (max (s.getS (R.SNS_LAST_value 0)) 0).toNat * 7324 / 100000 + Config.freeNat s.freeCtr 0 % 2
  let flags := b2n (s.flag R.MGT_STAT_env_stop) + b2n (s.flag R.MGT_SEAL_opened) * 2 + b2n (s.flag R.MGT_SEAL_loop_open) * 4 +
    b2n (s.flag R.MGT_STAT_dbg) * 8 + b2n (s.flag R.MGT_STAT_staged) * 16 + b2n (s.flag R.MGT_STAT_trial) * 32 + b2n (s.flag R.MGT_STAT_roll) * 64
  let cinch := (if s.flag R.MGT_CINCH_open_ then s.cinchLeft else 0) + b2n s.mgt.key * 2 ^ 14 + b2n (s.flag R.MGT_CINCH_open_) * 2 ^ 15
  (leBytes 8 s.time.cnt ++ leBytes 6 c.sec ++ leBytes 4 (c.ns + b2n (s.flag (R.TDOM_CLK_CTL_valid 1)) * 2 ^ 31) ++
    [s.phase, s.rd R.AIR_STAT % 64] ++ leBytes 2 cinch ++ [flags, s.get R.MGT_STAT_env_cause] ++
    leBytes 2 (only (count fun k => k == 1 || k == 2)) ++ leBytes 2 (only (count fun k => k == 3 || k == 4)) ++
    leBytes 2 (only lanes) ++ leBytes 2 (only links) ++ leBytes 2 mv ++ leBytes 2 (only (Config.freeNat s.freeCtr 1 % 2 ^ 16)) ++
    ((List.range 5).flatMap fun d => leBytes 2 (toBits 16 (s.hottest d))) ++ leBytes 2 (only (s.get R.AGE_LIFE_days)) ++
    leBytes 4 (only (s.rd R.PLC_STAT)) ++ leBytes 8 (s.rd64 R.SYS_IMG_SEQ_LO) ++ List.replicate 68 0, s.takeFree)

def telemetry (_ : MgtReq) (s : Dev) : Reply := let (b, t) := s.telemetryRecord; (0, b, t)

def execTelemetry := act (serveT 3 0 telemetry)

/-- Entries that LOG_READ serves, newest first: those on chip, then, but for the ROM, those of the flash. -/
def Dev.logEntries (s : Dev) (pinned : Bool) : List (List Nat) :=
  let chip := (s.chipLog.filter fun r => !pinned || r.pinned).map (·.bytes)
  let l := if s.romServes then chip else chip ++ s.flashLog pinned
  if pinned then l else l.take 65536

def logRead (r : MgtReq) (s : Dev) : Reply :=
  let n := fld r.body 4 2
  let area := fld r.body 6 1
  if n < 1 ∨ 32 < n ∨ 1 < area then (3, [], s)
  else (0, (((s.logEntries (area == 1)).drop (fld r.body 0 4)).take n).flatten, s)

def execLogRead := act (serveT 4 7 logRead)

/-- Bytes of a notes section of the running image; those beyond its end are not there. -/
def notesRead (r : MgtReq) (s : Dev) : Reply :=
  let k := s.get R.SYS_BOOT_STAT_bank
  let n := fld r.body 6 2
  if n < 1 ∨ 1024 < n then (3, [], s)
  else
    match ((s.sections k).getD [])[fld r.body 0 2]? with
    | some x => if x.type = 0xF0 then (0, ((s.sectionBody k x).drop (fld r.body 2 4)).take n, s) else (3, [], s)
    | none => (3, [], s)

def execNotesRead := act (serveT 5 8 notesRead)

/-- A subscription set or renewed; a fifth is refused. -/
def subscribe (r : MgtReq) (s : Dev) : Reply :=
  let period := fld r.body 8 2
  let live := s.mgt.subs.filter fun x => !s.lapsed x
  let x : Subscription := { src := r.src, mask := fld r.body 0 8, period := period, at_ := s.time.clk, last := s.time.clk }
  if 3600 < period then (3, [], s)
  else if live.any fun y => y.src == r.src then
    (0, [], { s with mgt := { s.mgt with subs := live.map fun y => if y.src = r.src then { x with sec := y.sec, sent := y.sent } else y } })
  else if 4 ≤ live.length then (4, [], s)
  else (0, [], { s with mgt := { s.mgt with subs := live ++ [x] } })

def execSubscribe := act (serveT 6 10 subscribe)

/-- The cinch closed by command while KEY_N is high. -/
def cinchCloseCmd (_ : MgtReq) (s : Dev) : Reply := if s.mgt.key then (6, [], s) else (0, [], s.cinchClose 3)

def execCinchClose := act (serveT 7 0 cinchCloseCmd)

/-! ### Subscriptions (R418) -/

/-- A subscription's period has elapsed: a telemetry record goes out. -/
def subscriptionPeriod (k : Fin 4) (s0 : Dev) : Dev :=
  let s := s0.quietTx
  match s.mgt.subs[(k : Nat)]? with
  | some x =>
    if x.period = 0 ∨ s.lapsed x ∨ !s.elapsed x.last (x.period * 1000) ∨ !s.serving then s
    else
      let (b, t) := s.telemetryRecord
      ({ t with mgt := { t.mgt with subs := t.mgt.subs.set k { x with last := x.last + x.period * hz } } } : Dev).notify k b
  | none => s

def execSubscriptionPeriod (k : Fin 4) := act (subscriptionPeriod k)

/-- A subscription lapses. -/
def subscriptionLapse (k : Fin 4) (s : Dev) : Dev :=
  match s.mgt.subs[(k : Nat)]? with
  | some x => if s.lapsed x then { s with mgt := { s.mgt with subs := s.mgt.subs.eraseIdx k } } else s
  | none => s

def execSubscriptionLapse (k : Fin 4) := act (subscriptionLapse k)

end Sys2Proof.Machine
end

