-- ==== Sys2Proof/Machine/Update.lean ====
section
/-!
DEFINITION. Laruri's commands of classes S and P, activation, rolls, trials and commits, and the end of ENVIRONMENT STOP (R415, R416,
R422–R430).
-/

namespace Sys2Proof.Machine

/-! ### Staging (R424, R430) -/

def Dev.setStaging (x : Option Staging) (s : Dev) : Dev := { s with mgt := { s.mgt with staging := x } }

/-- Staging abandoned. -/
def Dev.abandon (s : Dev) : Dev :=
  match s.mgt.staging with
  | some x => if x.active then (s.setStaging (some { x with active := false })).raise Ev.MGT_STAGE [(4, 2), (32, (x.seq : Int))] else s
  | none => s

/-- Another source has staged within the last 300 s. -/
def Dev.stagingHeld (s : Dev) (src : MgtSource) : Bool :=
  match s.mgt.staging with
  | some x => x.src != src && decide (s.time.clk < x.at_ + 300 * hz)
  | none => false

def stageBegin (err : Bool) (r : MgtReq) (s : Dev) : Reply :=
  let rom := s.romServes
  let seq := if rom then fld r.body 0 8 % 2 ^ 62 else fld r.body 0 8
  let bank := if rom then fld r.body 0 8 / 2 ^ 62 else 1 - s.get R.SYS_BOOT_STAT_bank
  let len := fld r.body 8 4
  if rom ∧ !s.cinch then (1, [], (s.mgtCount R.MGT_REFUSED).raise Ev.MGT_REFUSED [(16, (r.cmd : Int)), (4, (r.slot : Int))])
  else if 1 < bank then (3, [], s)
  else if s.flag R.MGT_STAT_trial ∨ s.mgt.roll.isSome ∨ bankSize < len then (6, [], s)
  else if s.stagingHeld r.src then (4, [], s)
  else if err then (8, [], s.abandon)
  else
    let s1 := (s.abandon).journalPut 1 bank seq len
    let s2 := s1.setStaging (some { src := r.src, bank := bank, seq := seq, length := len, at_ := s.time.clk, rom := rom })
    (0, [], (s2.raise Ev.MGT_STAGE [(4, 0), (32, (seq : Int))]).showStaged)

def execStageBegin (err : Bool) := act (serveS 0x10 (· == 12) (stageBegin err))

/-- The sectors that a write of `n` bytes at offset `o` reaches first. -/
def sectorsFrom (o n : Nat) : List Nat := (nums ((o + 65535) / 65536) ((o + n + 65535) / 65536 - (o + 65535) / 65536))

/-- What a failed write leaves in the flash is not given: free. -/
def Dev.flashFails (a n : Nat) (s : Dev) : Dev := s.takeFree.setFbytes a ((List.range n).map fun i => Config.freeNat s.freeCtr i % 256)

def stageData (err : Bool) (r : MgtReq) (s : Dev) : Reply :=
  match s.mgt.staging with
  | none => (6, [], s)
  | some x =>
    let o := fld r.body 0 4
    let data := r.body.drop 4
    let moved := fun (y : Staging) (s : Dev) => s.setStaging (some { y with at_ := s.time.clk })
    if !x.active then (6, [], s)
    else if x.src ≠ r.src then (4, [], s)
    else if x.last = some o then (0, [], moved x s)
    else if o ≠ x.got then (6, [], s)
    else if x.length < o + data.length then (3, [], s)
    else
      let a := bankBase x.bank + o
      let s1 := (sectorsFrom o data.length).foldl (fun s k => s.eraseFlash (bankBase x.bank + k * 65536) 65536) s
      if err then (8, [], s1.flashFails a data.length)
      else (0, [], moved { x with got := o + data.length, last := some o } (s1.setFbytes a data))

def execStageData (err : Bool) := act (serveS 0x11 (fun n => decide (5 ≤ n) && decide (n ≤ 1028)) (stageData err))

def stageEnd (err : Bool) (r : MgtReq) (s : Dev) : Reply :=
  match s.mgt.staging with
  | none => (6, [], s)
  | some x =>
    if !x.active then (6, [], s)
    else if x.src ≠ r.src then (4, [], s)
    else if x.got ≠ x.length then (6, [], s)
    else
      let s1 := s.setStaging (some { x with at_ := s.time.clk })
      match s1.imageBad x.bank with
      | some b => (7, [b.1], s1.imageBadLog x.bank b)
      | none =>
        if err then (8, [], s1)
        else
          let s2 := s1.journalPut 2 x.bank x.seq x.length
          let s3 := if x.rom then s2.setFbytes (bankBase x.bank + 0x20) [0, 0, 0, 0] else s2
          let s4 := s3.setStaging (some { x with at_ := s.time.clk, active := false })
          (0, [], (s4.raise Ev.MGT_STAGE [(4, 1), (32, (x.seq : Int))]).showStaged)

def execStageEnd (err : Bool) := act (serveS 0x12 (· == 0) (stageEnd err))

/-- STAGE_ABORT ends the staging and leaves no STAGED record. -/
def stageAbort (r : MgtReq) (s : Dev) : Reply :=
  if s.stagingHeld r.src ∧ (s.mgt.staging.any fun x => x.active) then (4, [], s)
  else
    (0, [], s.abandon.closeStaged.showStaged)

def execStageAbort := act (serveS 0x13 (· == 0) stageAbort)

/-! ### Commit (R427) -/

/-- The image of a bank committed: it becomes the running one. -/
def Dev.commit (k : Nat) (s : Dev) : Dev :=
  let seq := s.imgSeq k
  let s1 := (s.setFbytes (bankBase k + 0x20) [0, 0, 0, 0]).journalPut 4 k seq (s.imgLength k)
  let s2 := ((s1.setB R.SYS_BOOT_ATT_a_failed false).setB R.SYS_BOOT_ATT_b_failed false).set R.SYS_BOOT_STAT_bank k
  let s3 := ((s2.wr64 R.SYS_IMG_SEQ_LO seq).setB R.SYS_BOOT_STAT_trial false).setB R.MGT_STAT_trial false
  (s3.raise Ev.MGT_COMMIT [(1, (k : Int)), (32, (seq : Int))]).showStaged

/-- Pods that hold no cells are loaded with the firmware that the roll, or the roll back, brings. -/
def Dev.loadIdle (back : Bool) (s : Dev) : Dev :=
  ((List.range 24).filter fun p => s.podSpare p && s.plc.newPods.contains p == back).foldl (fun s p =>
    let l := s.plc.newPods.filter (· != p)
    ({ s with plc := { s.plc with newPods := if back then l else l ++ [p] } } : Dev).loadPod p) s

/-- The old firmware leaves the reference copy. -/
def Dev.releaseOldFw (s : Dev) : Dev := { s with plc := { s.plc with ref := { s.plc.ref with fw := s.plc.ref.newFw, newFw := [] }, newPods := [] } }

/-- A trial that meets its criteria is committed: 600 s in RUN, or 600 s after the last switch of a roll. -/
def mgtCommit (s : Dev) : Dev :=
  if s.flag R.MGT_STAT_env_stop then s
  else
    match s.mgt.roll with
    | some r =>
      match r.ended with
      | some t =>
        if r.back ∨ !s.elapsed t 600000 then s
        else
          let s1 := (s.loadIdle false).releaseOldFw
          ({ s1 with mgt := { s1.mgt with roll := none } } : Dev).commit (1 - s.get R.SYS_BOOT_STAT_bank)
      | none => s
    | none =>
      match s.boot.runAt with
      | some t => if s.flag R.SYS_BOOT_STAT_trial ∧ s.phase = 11 ∧ s.elapsed t 600000 then s.commit (s.get R.SYS_BOOT_STAT_bank) else s
      | none => s

def execMgtCommit := act mgtCommit

/-! ### Activation (R425, R426) -/

/-- How a section is compared. -/
def Section.key (x : Section) : Nat × Nat × Nat × Nat := (x.type, x.inst, x.len, x.crc)

/-- Types of the sections of one list that the other lacks. -/
def lacking (l m : List (Nat × Nat × Nat × Nat)) : List Nat := (m.foldl (fun (l : List _) k => l.erase k) l).map (·.1)

/-- Types of the sections in which the images of two banks differ. -/
def Dev.differing (s : Dev) (a b : Nat) : List Nat :=
  let l := ((s.sections a).getD []).map (·.key)
  let m := ((s.sections b).getD []).map (·.key)
  lacking l m ++ lacking m l

/-- The kind of an activation: 0 notes, 1 roll, 2 restart. -/
def activationKind (types : List Nat) : Nat :=
  if types.all (· == 0xF0) then 0 else if types.all fun t => t == 0xF0 || t == 0x10 then 1 else 2

/-- Both firmware sets fit a reference copy. -/
def Dev.bothFit (s : Dev) (k : Nat) : Bool :=
  decide (((s.plc.ref.fw ++ s.fwBodies k).map (·.2.length)).sum ≤ 256 * 4096)

/-- A roll begins: its first re-placement at once. -/
def Dev.startRoll (k : Nat) (s : Dev) : Dev :=
  let r : Roll := { todo := [], seq := s.imgSeq k }
  let s1 : Dev := { s with mgt := { s.mgt with roll := some r },
                           plc := { s.plc with ref := { s.plc.ref with newFw := s.fwBodies k }, newPods := [] } }
  match s1.rollNext r with
  | some p => (s1.setB R.MGT_STAT_roll true).trigger 3 0 p
  | none => s1.rollEnd r

/-- An activation carried out. -/
def activate (err : Bool) (_ : MgtReq) (s : Dev) : Reply :=
  let k := 1 - s.get R.SYS_BOOT_STAT_bank
  let seq := s.imgSeq k
  if s.stagedRecord.isNone ∨ seq ≤ s.rd64 R.SYS_IMG_SEQ_LO ∨ s.mgt.roll.isSome then (6, [], s)
  else
    let kind := activationKind (s.differing k (s.get R.SYS_BOOT_STAT_bank))
    let log := fun (s : Dev) => s.raise Ev.MGT_ACTIVATE [(4, (kind : Int)), (32, (seq : Int))]
    if kind = 1 ∧ !s.bothFit k then (6, [], s)
    else if err ∧ kind ≠ 1 then (8, [], s)
    else if kind = 0 then (0, [0], (log s).commit k)
    else if kind = 1 then (0, [1], (log s).startRoll k)
    else
      let s1 := (log s).journalPut 3 k seq (s.imgLength k)
      (0, [2], { s1 with mgt := { s1.mgt with restartAt := some s.time.clk } })

def execActivate (err : Bool) := act (serveS 0x20 (· == 0) (activate err))

/-- 100 frames after the previous switch the next pod's re-placement starts; after a fault re-placement, not before the frame boundary that follows it (R23). -/
def rollStep (s : Dev) : Dev :=
  match s.mgt.roll with
  | none => s
  | some r =>
    let due := match r.last with | none => true | some f => decide (f + 100 ≤ s.frameNo)
    if r.ended.isSome ∨ s.plc.current.isSome ∨ !s.plc.triggers.isEmpty ∨ !due ∨ s.rollWaits then s
    else
      match s.rollNext r with
      | some p => (s.loadIdle r.back).trigger 3 0 p
      | none => s.rollEnd r

def execRollStep := act rollStep

/-! ### Restart (R424, R425) -/

def restartCmd (_ : MgtReq) (s : Dev) : Reply := (0, [], { s with mgt := { s.mgt with restartAt := some s.time.clk } })

def execRestart := act (serveS 0x21 (· == 0) restartCmd)

/-- 100 ms after the response the device restarts. -/
def delayedRestart (s : Dev) : Dev :=
  match s.mgt.restartAt with
  | some t => if s.elapsed t 100 then s.restart 2 else s
  | none => s

def execDelayedRestart := act delayedRestart

/-! ### WRITE (R415, R416) -/

/-- A register that WRITE may not reach: planner, calibration, start-up, management, FBC and MTC; an engine's run and halt while debug is locked. -/
def Dev.writeBarred (s : Dev) (a m : Nat) : Bool :=
  let b := (a - 0x300000000) / 0x1000000
  !isCtl a || b == 0x0D || b == 0x0E || (b == 0 && decide (0x300000100 ≤ a)) || decide (0x310800000 ≤ a) ||
    (decide (0x303000060 ≤ a) && decide (a < 0x3030000E0)) ||
    (!s.flag R.MGT_STAT_dbg && (regIdx (R.POD_ECTL 0) 0x40 192 a).isSome && m % 4 != 0)

def mgtWrite (r : MgtReq) (s : Dev) : Reply :=
  let a := fld r.body 0 8
  let v := fld r.body 8 4
  let m := fld r.body 12 4
  if s.writeBarred a m then (5, [], s)
  else
    let s1 := s.regRead a
    let old := s1.rdata
    (0, leBytes 4 old, s1.regWrite .m a (Nat.lor (Nat.land old (0xFFFFFFFF - m)) (Nat.land v m)))

def execWrite := act (serveS 0x22 (· == 16) mgtWrite)

/-! ### LOG_CLEAR (R422) -/

/-- An entry's event, from its bytes. -/
def entryEvent (b : List Nat) : LogEvent :=
  let ns := fld b 14 4
  { code := fld b 18 2, src := fld b 20 2, data := fld b 22 8, air := fld b 0 8, sec := fld b 8 6, ns := ns % 2 ^ 30, valid := bit ns 31 }

/-- The entry of the current session's opening, where it has been written. -/
def Dev.openEntry (s : Dev) : Option LogEvent :=
  let isOpen := fun (e : LogEvent) => e.code == Ev.MGT_CINCH_OPEN
  if !s.flag R.MGT_CINCH_open_ ∨ s.raised.any isOpen then none
  else
    match s.chipLog.find? fun r => isOpen r.ev with
    | some r => some r.ev
    | none => ((s.flashLog true ++ s.flashLog false).map entryEvent).find? isOpen

/-- LOG_CLEAR; without the flash's supply nothing can be erased, and it ends with FLASH. -/
def logClear (r : MgtReq) (s : Dev) : Reply :=
  let all := fld r.body 0 1
  if 1 < all then (3, [], s)
  else if s.mgt.noFlash then (8, [], s)
  else
    let e := s.openEntry
    let s1 := (s.eraseFlash (ringAt 0) (ringSectors * 65536)).setLog { s.mgt.log with waiting := [], pinned := [], head := 0, bad := [] }
    let s2 := if all = 1 then (s1.eraseFlash (pinAt 0) (pinSlots * 32)).setLog { s1.mgt.log with pinHead := 0 } else s1
    let s3 := s2.raise Ev.MGT_LOG_CLEAR [(1, (all : Int))]
    (0, [], match e with | some x => { s3 with raised := s3.raised ++ [x] } | none => s3)

def execLogClear := act (serveS 0x23 (· == 1) logClear)

/-! ### Debug, seal, failed marks (R411, R416, R392) -/

def debugUnlock (_ : MgtReq) (s : Dev) : Reply :=
  (0, [], if s.flag R.MGT_STAT_dbg then s else (s.setB R.MGT_STAT_dbg true).raise Ev.MGT_DBG [(1, 1)])

def execDebugUnlock := act (serveS 0x24 (· == 0) debugUnlock)

def sealClear (_ : MgtReq) (s : Dev) : Reply :=
  if s.flag R.MGT_SEAL_loop_open then (6, [], s) else (0, [], (s.setB R.MGT_SEAL_opened false).raise Ev.MGT_SEAL_CLEAR [])

def execSealClear := act (serveS 0x25 (· == 0) sealClear)

def attClear (_ : MgtReq) (s : Dev) : Reply :=
  (0, [], (s.setB R.SYS_BOOT_ATT_a_failed false).setB R.SYS_BOOT_ATT_b_failed false)

def execAttClear := act (serveS 0x26 (· == 0) attClear)

/-! ### The end of ENVIRONMENT STOP (R429) -/

/-- Every quantity has been within its limits for 60 s: the device restarts from the committed image, whatever trial was written. -/
def mgtEnvClear (s : Dev) : Dev :=
  if s.flag R.MGT_STAT_env_stop && s.envSeconds == 60 then
    let s1 := s.raise Ev.MGT_ENV_CLEAR [(32, (((s.time.clk - s.mgt.envAt) / hz : Nat) : Int))]
    let s2 := if s1.firmware then s1.flushLog else s1
    s2.consumeTrial.restart 4
  else s

def execMgtEnvClear := act mgtEnvClear

end Sys2Proof.Machine
end

