-- ==== Sys2Proof/Machine/Dispatch.lean ====
section
/-!
DEFINITION. One arm per command: exec names the command's meaning.
-/

namespace Sys2Proof.Machine

/-- The effect of a command on everything but the queue of waiting commands. -/
def exec (i : Instr) (s : State) : Host.Outcome State Fault Refusal :=
  match i with
  | .registerWrite a v => Sys2Proof.Machine.execRegisterWrite a v s
  | .lowHalfRead a => Sys2Proof.Machine.execLowHalfRead a s
  | .bridgeTransfer die stream fails => Sys2Proof.Machine.execBridgeTransfer die stream fails s
  | .timeLock => Sys2Proof.Machine.execTimeLock s
  | .catchUpComplete => Sys2Proof.Machine.execCatchUpComplete s
  | .airStartArm => Sys2Proof.Machine.execAirStartArm s
  | .airStartWithdraw => Sys2Proof.Machine.execAirStartWithdraw s
  | .airRun => Sys2Proof.Machine.execAirRun s
  | .airFallbackEnter pll => Sys2Proof.Machine.execAirFallbackEnter pll s
  | .airUnqualified => Sys2Proof.Machine.execAirUnqualified s
  | .mainPathFailUnlocked pll => Sys2Proof.Machine.execMainPathFailUnlocked pll s
  | .trgArm n lo => Sys2Proof.Machine.execTrgArm n lo s
  | .trgOutputFire n => Sys2Proof.Machine.execTrgOutputFire n s
  | .trgPulseEnd n => Sys2Proof.Machine.execTrgPulseEnd n s
  | .trgCapture n odd => Sys2Proof.Machine.execTrgCapture n odd s
  | .trgCapPop n => Sys2Proof.Machine.execTrgCapPop n s
  | .tqbSnapshot viol => Sys2Proof.Machine.execTqbSnapshot viol s
  | .tqbWordRead sel viol => Sys2Proof.Machine.execTqbWordRead sel viol s
  | .airCntRead => Sys2Proof.Machine.execAirCntRead s
  | .frcRestart => Sys2Proof.Machine.execFrcRestart s
  | .tdomRead n => Sys2Proof.Machine.execTdomRead n s
  | .servoUpdate n e => Sys2Proof.Machine.execServoUpdate n e s
  | .tdomTimeout n => Sys2Proof.Machine.execTdomTimeout n s
  | .rateWrite n r => Sys2Proof.Machine.execRateWrite n r s
  | .phaseAdjust n adj => Sys2Proof.Machine.execPhaseAdjust n adj s
  | .tdomLoad v => Sys2Proof.Machine.execTdomLoad v s
  | .tdomSwitch n ok => Sys2Proof.Machine.execTdomSwitch n ok s
  | .wtrExpire => Sys2Proof.Machine.execWtrExpire s
  | .td3Reanchor => Sys2Proof.Machine.execTd3Reanchor s
  | .td3RateRecord => Sys2Proof.Machine.execTd3RateRecord s
  | .tdomHoldLimit => Sys2Proof.Machine.execTdomHoldLimit s
  | .holdoverCellsReturn => Sys2Proof.Machine.execHoldoverCellsReturn s
  | .tdomRefLoss r => Sys2Proof.Machine.execTdomRefLoss r s
  | .pllRevert => Sys2Proof.Machine.execPllRevert s
  | .pllHoldExit r => Sys2Proof.Machine.execPllHoldExit r s
  | .ppsCapture x0 => Sys2Proof.Machine.execPpsCapture x0 s
  | .todMessage sec ok => Sys2Proof.Machine.execTodMessage sec ok s
  | .clockIncWrite mtc v lvl => Sys2Proof.Machine.execClockIncWrite mtc v lvl s
  | .clockLoad mtc lvl => Sys2Proof.Machine.execClockLoad mtc lvl s
  | .fbcDiffMeasure => Sys2Proof.Machine.execFbcDiffMeasure s
  | .ethLinkUp p => Sys2Proof.Machine.execEthLinkUp p s
  | .ethLinkDown p cause => Sys2Proof.Machine.execEthLinkDown p cause s
  | .ethFrameReceive p frame fcs lost x0 => Sys2Proof.Machine.execEthFrameReceive p frame fcs lost x0 s
  | .ethPauseReceive p pfc quanta => Sys2Proof.Machine.execEthPauseReceive p pfc quanta s
  | .txqDoorbell x0 n => Sys2Proof.Machine.execTxqDoorbell x0 n s
  | .ethFrameSend p lost => Sys2Proof.Machine.execEthFrameSend p lost s
  | .ethFrameLaunch q lost => Sys2Proof.Machine.execEthFrameLaunch q lost s
  | .lineCfgWrite n v => Sys2Proof.Machine.execLineCfgWrite n v s
  | .coldTrainingRequest n => Sys2Proof.Machine.execColdTrainingRequest n s
  | .warmRetrainRequest n => Sys2Proof.Machine.execWarmRetrainRequest n s
  | .lnkRefBad die r => Sys2Proof.Machine.execLnkRefBad die r s
  | .signalDetect n => Sys2Proof.Machine.execSignalDetect n s
  | .searcherGrant die => Sys2Proof.Machine.execSearcherGrant die s
  | .searcherResult n rate rev => Sys2Proof.Machine.execSearcherResult n rate rev s
  | .syncAcquired n rev => Sys2Proof.Machine.execSyncAcquired n rev s
  | .lnkAcqTimeout n => Sys2Proof.Machine.execLnkAcqTimeout n s
  | .trainingBlockReceive n hdr grid => Sys2Proof.Machine.execTrainingBlockReceive n hdr grid s
  | .p2Start n => Sys2Proof.Machine.execP2Start n s
  | .p3Start n erle rl far => Sys2Proof.Machine.execP3Start n erle rl far s
  | .trainingTimeout n => Sys2Proof.Machine.execTrainingTimeout n s
  | .lnkLol n => Sys2Proof.Machine.execLnkLol n s
  | .codewordDecode n hard dec iters => Sys2Proof.Machine.execCodewordDecode n hard dec iters s
  | .qualityInterval n snr cap ctle enh => Sys2Proof.Machine.execQualityInterval n snr cap ctle enh s
  | .linkFrameReceive n head at_ => Sys2Proof.Machine.execLinkFrameReceive n head at_ s
  | .lnkLinkUp n => Sys2Proof.Machine.execLnkLinkUp n s
  | .linkCfgWrite n cfg2 v => Sys2Proof.Machine.execLinkCfgWrite n cfg2 v s
  | .linkFrameSend n at_ => Sys2Proof.Machine.execLinkFrameSend n at_ s
  | .commandQueue n hi => Sys2Proof.Machine.execCommandQueue n hi s
  | .commandExpire n => Sys2Proof.Machine.execCommandExpire n s
  | .tddAutoQueue n => Sys2Proof.Machine.execTddAutoQueue n s
  | .steerUpdate n => Sys2Proof.Machine.execSteerUpdate n s
  | .steerHold n => Sys2Proof.Machine.execSteerHold n s
  | .dozeEntry n => Sys2Proof.Machine.execDozeEntry n s
  | .dozeExit n => Sys2Proof.Machine.execDozeExit n s
  | .deepEntry n => Sys2Proof.Machine.execDeepEntry n s
  | .deepExitStart n => Sys2Proof.Machine.execDeepExitStart n s
  | .lnkWakeFail n => Sys2Proof.Machine.execLnkWakeFail n s
  | .testLoopWrite n loop => Sys2Proof.Machine.execTestLoopWrite n loop s
  | .genEnWrite n on => Sys2Proof.Machine.execGenEnWrite n on s
  | .chkEnWrite n on => Sys2Proof.Machine.execChkEnWrite n on s
  | .injEnWrite n on => Sys2Proof.Machine.execInjEnWrite n on s
  | .injOne n => Sys2Proof.Machine.execInjOne n s
  | .testClr n => Sys2Proof.Machine.execTestClr n s
  | .testApply n => Sys2Proof.Machine.execTestApply n s
  | .feLoopTarget n => Sys2Proof.Machine.execFeLoopTarget n s
  | .injection n => Sys2Proof.Machine.execInjection n s
  | .lnkChkSync n => Sys2Proof.Machine.execLnkChkSync n s
  | .lnkChkLoss n => Sys2Proof.Machine.execLnkChkLoss n s
  | .storeRead line word req arr ret reader => Sys2Proof.Machine.execStoreRead line word req arr ret reader s
  | .storeWrite line mask words erase fails => Sys2Proof.Machine.execStoreWrite line mask words erase fails s
  | .stoRegenDone k j => Sys2Proof.Machine.execStoRegenDone k j s
  | .create k => Sys2Proof.Machine.execCreate k s
  | .destroy k => Sys2Proof.Machine.execDestroy k s
  | .zeroCounts k => Sys2Proof.Machine.execZeroCounts k s
  | .quotaWrite c v => Sys2Proof.Machine.execQuotaWrite c v s
  | .ringWrite k v erase => Sys2Proof.Machine.execRingWrite k v erase s
  | .stalledWriteResume k => Sys2Proof.Machine.execStalledWriteResume k s
  | .rpAdv k j n => Sys2Proof.Machine.execRpAdv k j n s
  | .mark k j => Sys2Proof.Machine.execMark k j s
  | .unmark k j => Sys2Proof.Machine.execUnmark k j s
  | .rewind k j => Sys2Proof.Machine.execRewind k j s
  | .scrubRequest b => Sys2Proof.Machine.execScrubRequest b s
  | .scrubSlot b err => Sys2Proof.Machine.execScrubSlot b err s
  | .scrubForced b err => Sys2Proof.Machine.execScrubForced b err s
  | .stoPeakClear => Sys2Proof.Machine.execStoPeakClear s
  | .xfClear => Sys2Proof.Machine.execXfClear s
  | .fifoWrite id v erase sync => Sys2Proof.Machine.execFifoWrite id v erase sync s
  | .fifoRead id fails stream sync => Sys2Proof.Machine.execFifoRead id fails stream sync s
  | .descriptorPost c v => Sys2Proof.Machine.execDescriptorPost c v s
  | .descriptorStart c => Sys2Proof.Machine.execDescriptorStart c s
  | .timedStart c slip => Sys2Proof.Machine.execTimedStart c slip s
  | .burstStart u => Sys2Proof.Machine.execBurstStart u s
  | .halfEvent c => Sys2Proof.Machine.execHalfEvent c s
  | .descriptorComplete c => Sys2Proof.Machine.execDescriptorComplete c s
  | .linkedFetch c fails => Sys2Proof.Machine.execLinkedFetch c fails s
  | .channelStop c => Sys2Proof.Machine.execChannelStop c s
  | .channelClear c => Sys2Proof.Machine.execChannelClear c s
  | .fexXbSwitch a => Sys2Proof.Machine.execFexXbSwitch a s
  | .slotDescriptorWrite cl slot w v => Sys2Proof.Machine.execSlotDescriptorWrite cl slot w v s
  | .ulSymbol cl slot second par => Sys2Proof.Machine.execUlSymbol cl slot second par s
  | .ulSymbolEvent cl => Sys2Proof.Machine.execUlSymbolEvent cl s
  | .dlSymbol cl slot second par => Sys2Proof.Machine.execDlSymbol cl slot second par s
  | .maskCheck cl slot ended => Sys2Proof.Machine.execMaskCheck cl slot ended s
  | .fexCommandPost cl v => Sys2Proof.Machine.execFexCommandPost cl v s
  | .fexNop cl => Sys2Proof.Machine.execFexNop cl s
  | .loadDpd cl => Sys2Proof.Machine.execLoadDpd cl s
  | .dpdBankSwap cl slot => Sys2Proof.Machine.execDpdBankSwap cl slot s
  | .obs cl evm gain phase => Sys2Proof.Machine.execObs cl evm gain phase s
  | .capture cl => Sys2Proof.Machine.execCapture cl s
  | .inject cl => Sys2Proof.Machine.execInject cl s
  | .prachOccasion cl j fdm tOcc prof => Sys2Proof.Machine.execPrachOccasion cl j fdm tOcc prof s
  | .prachProfileReceive cl j => Sys2Proof.Machine.execPrachProfileReceive cl j s
  | .qualityRecord cl slot second rssi nf inSat => Sys2Proof.Machine.execQualityRecord cl slot second rssi nf inSat s
  | .harnessConfigWrite h v => Sys2Proof.Machine.execHarnessConfigWrite h v s
  | .scaJobPost h v => Sys2Proof.Machine.execScaJobPost h v s
  | .scaJobStart h perr => Sys2Proof.Machine.execScaJobStart h perr s
  | .uplinkCombine h refetch lost fault => Sys2Proof.Machine.execUplinkCombine h refetch lost fault s
  | .downlinkPrecode h refetch lost fault => Sys2Proof.Machine.execDownlinkPrecode h refetch lost fault s
  | .calSwap h => Sys2Proof.Machine.execCalSwap h s
  | .scaJobComplete h => Sys2Proof.Machine.execScaJobComplete h s
  | .scaShort h => Sys2Proof.Machine.execScaShort h s
  | .harnessStop h => Sys2Proof.Machine.execHarnessStop h s
  | .harnessClear h => Sys2Proof.Machine.execHarnessClear h s
  | .codJobPost q v => Sys2Proof.Machine.execCodJobPost q v s
  | .codDispatch u dirBad => Sys2Proof.Machine.execCodDispatch u dirBad s
  | .codNop q => Sys2Proof.Machine.execCodNop q s
  | .demap u par => Sys2Proof.Machine.execDemap u par s
  | .codShort u => Sys2Proof.Machine.execCodShort u s
  | .decodeLdpc u par recBad pass iters => Sys2Proof.Machine.execDecodeLdpc u par recBad pass iters s
  | .decodeTurbo u par recBad pass iters => Sys2Proof.Machine.execDecodeTurbo u par recBad pass iters s
  | .decodePolar u par pass => Sys2Proof.Machine.execDecodePolar u par pass s
  | .encodeLdpc u par => Sys2Proof.Machine.execEncodeLdpc u par s
  | .encodeTurbo u par => Sys2Proof.Machine.execEncodeTurbo u par s
  | .encodePolar u par => Sys2Proof.Machine.execEncodePolar u par s
  | .encodeTbcc u par => Sys2Proof.Machine.execEncodeTbcc u par s
  | .map u par => Sys2Proof.Machine.execMap u par s
  | .harqRel q => Sys2Proof.Machine.execHarqRel q s
  | .codeBlockComplete u tb => Sys2Proof.Machine.execCodeBlockComplete u tb s
  | .codJobComplete q => Sys2Proof.Machine.execCodJobComplete q s
  | .harqClear => Sys2Proof.Machine.execHarqClear s
  | .add x0 rd rs1 rs2 => Sys2Proof.Machine.execAdd x0 rd rs1 rs2 s
  | .sub x0 rd rs1 rs2 => Sys2Proof.Machine.execSub x0 rd rs1 rs2 s
  | .and x0 rd rs1 rs2 => Sys2Proof.Machine.execAnd x0 rd rs1 rs2 s
  | .or x0 rd rs1 rs2 => Sys2Proof.Machine.execOr x0 rd rs1 rs2 s
  | .xor x0 rd rs1 rs2 => Sys2Proof.Machine.execXor x0 rd rs1 rs2 s
  | .sll x0 rd rs1 rs2 => Sys2Proof.Machine.execSll x0 rd rs1 rs2 s
  | .srl x0 rd rs1 rs2 => Sys2Proof.Machine.execSrl x0 rd rs1 rs2 s
  | .sra x0 rd rs1 rs2 => Sys2Proof.Machine.execSra x0 rd rs1 rs2 s
  | .slt x0 rd rs1 rs2 => Sys2Proof.Machine.execSlt x0 rd rs1 rs2 s
  | .sltu x0 rd rs1 rs2 => Sys2Proof.Machine.execSltu x0 rd rs1 rs2 s
  | .min x0 rd rs1 rs2 => Sys2Proof.Machine.execMin x0 rd rs1 rs2 s
  | .max x0 rd rs1 rs2 => Sys2Proof.Machine.execMax x0 rd rs1 rs2 s
  | .minu x0 rd rs1 rs2 => Sys2Proof.Machine.execMinu x0 rd rs1 rs2 s
  | .maxu x0 rd rs1 rs2 => Sys2Proof.Machine.execMaxu x0 rd rs1 rs2 s
  | .clz x0 rd rs1 rs2 => Sys2Proof.Machine.execClz x0 rd rs1 rs2 s
  | .ctz x0 rd rs1 rs2 => Sys2Proof.Machine.execCtz x0 rd rs1 rs2 s
  | .popc x0 rd rs1 rs2 => Sys2Proof.Machine.execPopc x0 rd rs1 rs2 s
  | .addw x0 rd rs1 rs2 => Sys2Proof.Machine.execAddw x0 rd rs1 rs2 s
  | .subw x0 rd rs1 rs2 => Sys2Proof.Machine.execSubw x0 rd rs1 rs2 s
  | .sllw x0 rd rs1 rs2 => Sys2Proof.Machine.execSllw x0 rd rs1 rs2 s
  | .srlw x0 rd rs1 rs2 => Sys2Proof.Machine.execSrlw x0 rd rs1 rs2 s
  | .sraw x0 rd rs1 rs2 => Sys2Proof.Machine.execSraw x0 rd rs1 rs2 s
  | .adds x0 rd rs1 rs2 => Sys2Proof.Machine.execAdds x0 rd rs1 rs2 s
  | .subs x0 rd rs1 rs2 => Sys2Proof.Machine.execSubs x0 rd rs1 rs2 s
  | .andn x0 rd rs1 rs2 => Sys2Proof.Machine.execAndn x0 rd rs1 rs2 s
  | .orn x0 rd rs1 rs2 => Sys2Proof.Machine.execOrn x0 rd rs1 rs2 s
  | .mul x0 rd rs1 rs2 => Sys2Proof.Machine.execMul x0 rd rs1 rs2 s
  | .mulh x0 rd rs1 rs2 => Sys2Proof.Machine.execMulh x0 rd rs1 rs2 s
  | .mulhu x0 rd rs1 rs2 => Sys2Proof.Machine.execMulhu x0 rd rs1 rs2 s
  | .mulhsu x0 rd rs1 rs2 => Sys2Proof.Machine.execMulhsu x0 rd rs1 rs2 s
  | .mulw x0 rd rs1 rs2 => Sys2Proof.Machine.execMulw x0 rd rs1 rs2 s
  | .div x0 rd rs1 rs2 => Sys2Proof.Machine.execDiv x0 rd rs1 rs2 s
  | .divu x0 rd rs1 rs2 => Sys2Proof.Machine.execDivu x0 rd rs1 rs2 s
  | .rem x0 rd rs1 rs2 => Sys2Proof.Machine.execRem x0 rd rs1 rs2 s
  | .remu x0 rd rs1 rs2 => Sys2Proof.Machine.execRemu x0 rd rs1 rs2 s
  | .amoSwap x0 rd rs1 rs2 mem => Sys2Proof.Machine.execAmoSwap x0 rd rs1 rs2 mem s
  | .amoAdd x0 rd rs1 rs2 mem => Sys2Proof.Machine.execAmoAdd x0 rd rs1 rs2 mem s
  | .amoAnd x0 rd rs1 rs2 mem => Sys2Proof.Machine.execAmoAnd x0 rd rs1 rs2 mem s
  | .amoOr x0 rd rs1 rs2 mem => Sys2Proof.Machine.execAmoOr x0 rd rs1 rs2 mem s
  | .amoMin x0 rd rs1 rs2 mem => Sys2Proof.Machine.execAmoMin x0 rd rs1 rs2 mem s
  | .amoMax x0 rd rs1 rs2 mem => Sys2Proof.Machine.execAmoMax x0 rd rs1 rs2 mem s
  | .amoMinu x0 rd rs1 rs2 mem => Sys2Proof.Machine.execAmoMinu x0 rd rs1 rs2 mem s
  | .amoMaxu x0 rd rs1 rs2 mem => Sys2Proof.Machine.execAmoMaxu x0 rd rs1 rs2 mem s
  | .amoCas x0 rd rs1 rs2 mem => Sys2Proof.Machine.execAmoCas x0 rd rs1 rs2 mem s
  | .addi x0 rd rs1 imm => Sys2Proof.Machine.execAddi x0 rd rs1 imm s
  | .andi x0 rd rs1 imm => Sys2Proof.Machine.execAndi x0 rd rs1 imm s
  | .ori x0 rd rs1 imm => Sys2Proof.Machine.execOri x0 rd rs1 imm s
  | .xori x0 rd rs1 imm => Sys2Proof.Machine.execXori x0 rd rs1 imm s
  | .slti x0 rd rs1 imm => Sys2Proof.Machine.execSlti x0 rd rs1 imm s
  | .sltiu x0 rd rs1 imm => Sys2Proof.Machine.execSltiu x0 rd rs1 imm s
  | .slli x0 rd rs1 imm => Sys2Proof.Machine.execSlli x0 rd rs1 imm s
  | .srli x0 rd rs1 imm => Sys2Proof.Machine.execSrli x0 rd rs1 imm s
  | .srai x0 rd rs1 imm => Sys2Proof.Machine.execSrai x0 rd rs1 imm s
  | .lui x0 rd rs1 imm => Sys2Proof.Machine.execLui x0 rd rs1 imm s
  | .addih x0 rd rs1 imm => Sys2Proof.Machine.execAddih x0 rd rs1 imm s
  | .lb x0 rd rs1 off mem => Sys2Proof.Machine.execLb x0 rd rs1 off mem s
  | .lh x0 rd rs1 off mem => Sys2Proof.Machine.execLh x0 rd rs1 off mem s
  | .lw x0 rd rs1 off mem => Sys2Proof.Machine.execLw x0 rd rs1 off mem s
  | .ld x0 rd rs1 off mem => Sys2Proof.Machine.execLd x0 rd rs1 off mem s
  | .lbu x0 rd rs1 off mem => Sys2Proof.Machine.execLbu x0 rd rs1 off mem s
  | .lhu x0 rd rs1 off mem => Sys2Proof.Machine.execLhu x0 rd rs1 off mem s
  | .lwu x0 rd rs1 off mem => Sys2Proof.Machine.execLwu x0 rd rs1 off mem s
  | .sb x0 rt rs1 off mem => Sys2Proof.Machine.execSb x0 rt rs1 off mem s
  | .sh x0 rt rs1 off mem => Sys2Proof.Machine.execSh x0 rt rs1 off mem s
  | .sw x0 rt rs1 off mem => Sys2Proof.Machine.execSw x0 rt rs1 off mem s
  | .sd x0 rt rs1 off mem => Sys2Proof.Machine.execSd x0 rt rs1 off mem s
  | .beq x0 rs1 rs2 off wrong => Sys2Proof.Machine.execBeq x0 rs1 rs2 off wrong s
  | .bne x0 rs1 rs2 off wrong => Sys2Proof.Machine.execBne x0 rs1 rs2 off wrong s
  | .blt x0 rs1 rs2 off wrong => Sys2Proof.Machine.execBlt x0 rs1 rs2 off wrong s
  | .bge x0 rs1 rs2 off wrong => Sys2Proof.Machine.execBge x0 rs1 rs2 off wrong s
  | .bltu x0 rs1 rs2 off wrong => Sys2Proof.Machine.execBltu x0 rs1 rs2 off wrong s
  | .bgeu x0 rs1 rs2 off wrong => Sys2Proof.Machine.execBgeu x0 rs1 rs2 off wrong s
  | .jal x0 rd r2 off => Sys2Proof.Machine.execJal x0 rd r2 off s
  | .jalr x0 rd rs1 off => Sys2Proof.Machine.execJalr x0 rd rs1 off s
  | .csrr x0 rd rs1 imm => Sys2Proof.Machine.execCsrr x0 rd rs1 imm s
  | .csrw x0 rd rs1 imm => Sys2Proof.Machine.execCsrw x0 rd rs1 imm s
  | .csrs x0 rd rs1 imm => Sys2Proof.Machine.execCsrs x0 rd rs1 imm s
  | .csrc x0 rd rs1 imm => Sys2Proof.Machine.execCsrc x0 rd rs1 imm s
  | .ecall x0 rd rs1 imm => Sys2Proof.Machine.execEcall x0 rd rs1 imm s
  | .eret x0 rd rs1 imm => Sys2Proof.Machine.execEret x0 rd rs1 imm s
  | .fence x0 rd rs1 imm => Sys2Proof.Machine.execFence x0 rd rs1 imm s
  | .wfe x0 rd rs1 imm => Sys2Proof.Machine.execWfe x0 rd rs1 imm s
  | .wfeWake g => Sys2Proof.Machine.execWfeWake g s
  | .tnext x0 rd rs1 imm => Sys2Proof.Machine.execTnext x0 rd rs1 imm s
  | .tnextWake g => Sys2Proof.Machine.execTnextWake g s
  | .trun x0 rd rs1 imm => Sys2Proof.Machine.execTrun x0 rd rs1 imm s
  | .tend x0 rd rs1 imm => Sys2Proof.Machine.execTend x0 rd rs1 imm s
  | .tchk x0 rd rs1 imm => Sys2Proof.Machine.execTchk x0 rd rs1 imm s
  | .ebreak x0 rd rs1 imm => Sys2Proof.Machine.execEbreak x0 rd rs1 imm s
  | .fenceI x0 rd rs1 imm => Sys2Proof.Machine.execFenceI x0 rd rs1 imm s
  | .qstallRelease g => Sys2Proof.Machine.execQstallRelease g s
  | .alarmArm g v => Sys2Proof.Machine.execAlarmArm g v s
  | .alarmExpire g => Sys2Proof.Machine.execAlarmExpire g s
  | .alarmInterrupt g => Sys2Proof.Machine.execAlarmInterrupt g s
  | .maintInterrupt g => Sys2Proof.Machine.execMaintInterrupt g s
  | .taskLimit g => Sys2Proof.Machine.execTaskLimit g s
  | .engineRun g => Sys2Proof.Machine.execEngineRun g s
  | .engineReset g => Sys2Proof.Machine.execEngineReset g s
  | .engineHalt g => Sys2Proof.Machine.execEngineHalt g s
  | .maintRequest g => Sys2Proof.Machine.execMaintRequest g s
  | .engineImemWrite g k v => Sys2Proof.Machine.execEngineImemWrite g k v s
  | .vadd x0 f => Sys2Proof.Machine.execVadd x0 f s
  | .vsub x0 f => Sys2Proof.Machine.execVsub x0 f s
  | .vmul x0 f => Sys2Proof.Machine.execVmul x0 f s
  | .vmulh x0 f => Sys2Proof.Machine.execVmulh x0 f s
  | .vmac x0 f => Sys2Proof.Machine.execVmac x0 f s
  | .vmsc x0 f => Sys2Proof.Machine.execVmsc x0 f s
  | .vmacw x0 f => Sys2Proof.Machine.execVmacw x0 f s
  | .vcmacw x0 f => Sys2Proof.Machine.execVcmacw x0 f s
  | .vmin x0 f => Sys2Proof.Machine.execVmin x0 f s
  | .vmax x0 f => Sys2Proof.Machine.execVmax x0 f s
  | .vabs x0 f => Sys2Proof.Machine.execVabs x0 f s
  | .vneg x0 f => Sys2Proof.Machine.execVneg x0 f s
  | .vand x0 f => Sys2Proof.Machine.execVand x0 f s
  | .vor x0 f => Sys2Proof.Machine.execVor x0 f s
  | .vxor x0 f => Sys2Proof.Machine.execVxor x0 f s
  | .vandn x0 f => Sys2Proof.Machine.execVandn x0 f s
  | .vsll x0 f => Sys2Proof.Machine.execVsll x0 f s
  | .vsrl x0 f => Sys2Proof.Machine.execVsrl x0 f s
  | .vsra x0 f => Sys2Proof.Machine.execVsra x0 f s
  | .vnrsr x0 f => Sys2Proof.Machine.execVnrsr x0 f s
  | .vadds x0 f => Sys2Proof.Machine.execVadds x0 f s
  | .vsubs x0 f => Sys2Proof.Machine.execVsubs x0 f s
  | .vconj x0 f => Sys2Proof.Machine.execVconj x0 f s
  | .vcjmul x0 f => Sys2Proof.Machine.execVcjmul x0 f s
  | .vcvt x0 f => Sys2Proof.Machine.execVcvt x0 f s
  | .vrecip x0 f => Sys2Proof.Machine.execVrecip x0 f s
  | .vrsqrt x0 f => Sys2Proof.Machine.execVrsqrt x0 f s
  | .vmag2 x0 f => Sys2Proof.Machine.execVmag2 x0 f s
  | .vcmpeq x0 f => Sys2Proof.Machine.execVcmpeq x0 f s
  | .vcmpne x0 f => Sys2Proof.Machine.execVcmpne x0 f s
  | .vcmplt x0 f => Sys2Proof.Machine.execVcmplt x0 f s
  | .vcmple x0 f => Sys2Proof.Machine.execVcmple x0 f s
  | .vld x0 f bad => Sys2Proof.Machine.execVld x0 f bad s
  | .vst x0 f => Sys2Proof.Machine.execVst x0 f s
  | .vlds x0 f bad => Sys2Proof.Machine.execVlds x0 f bad s
  | .vsts x0 f => Sys2Proof.Machine.execVsts x0 f s
  | .vgather x0 f bad => Sys2Proof.Machine.execVgather x0 f bad s
  | .vscatter x0 f => Sys2Proof.Machine.execVscatter x0 f s
  | .vpld x0 f bad => Sys2Proof.Machine.execVpld x0 f bad s
  | .vpst x0 f => Sys2Proof.Machine.execVpst x0 f s
  | .prange x0 f => Sys2Proof.Machine.execPrange x0 f s
  | .pand x0 f => Sys2Proof.Machine.execPand x0 f s
  | .por x0 f => Sys2Proof.Machine.execPor x0 f s
  | .pxor x0 f => Sys2Proof.Machine.execPxor x0 f s
  | .pandn x0 f => Sys2Proof.Machine.execPandn x0 f s
  | .pnot x0 f => Sys2Proof.Machine.execPnot x0 f s
  | .pcnt x0 f => Sys2Proof.Machine.execPcnt x0 f s
  | .pfirst x0 f => Sys2Proof.Machine.execPfirst x0 f s
  | .vredadd x0 f => Sys2Proof.Machine.execVredadd x0 f s
  | .vredmax x0 f => Sys2Proof.Machine.execVredmax x0 f s
  | .vmovs x0 f => Sys2Proof.Machine.execVmovs x0 f s
  | .vins x0 f => Sys2Proof.Machine.execVins x0 f s
  | .vperm x0 f => Sys2Proof.Machine.execVperm x0 f s
  | .vslide x0 f => Sys2Proof.Machine.execVslide x0 f s
  | .vsel x0 f => Sys2Proof.Machine.execVsel x0 f s
  | .vsplat x0 f => Sys2Proof.Machine.execVsplat x0 f s
  | .vbits x0 f => Sys2Proof.Machine.execVbits x0 f s
  | .vcnt x0 f => Sys2Proof.Machine.execVcnt x0 f s
  | .cpi x0 f desc => Sys2Proof.Machine.execCpi x0 f desc s
  | .cpr x0 f => Sys2Proof.Machine.execCpr x0 f s
  | .cpsync x0 f => Sys2Proof.Machine.execCpsync x0 f s
  | .copConfirm g => Sys2Proof.Machine.execCopConfirm g s
  | .squashDrainDone g slot tag => Sys2Proof.Machine.execSquashDrainDone g slot tag s
  | .chol g st col fails => Sys2Proof.Machine.execChol g st col fails s
  | .trsm g st col fails => Sys2Proof.Machine.execTrsm g st col fails s
  | .gemm g st col fails => Sys2Proof.Machine.execGemm g st col fails s
  | .gram g st col fails => Sys2Proof.Machine.execGram g st col fails s
  | .crc g fails => Sys2Proof.Machine.execCrc g fails s
  | .gold g fails => Sys2Proof.Machine.execGold g fails s
  | .ilv g fails => Sys2Proof.Machine.execIlv g fails s
  | .sxuCommandStart pod => Sys2Proof.Machine.execSxuCommandStart pod s
  | .topk g fails => Sys2Proof.Machine.execTopk g fails s
  | .pftopk g fails => Sys2Proof.Machine.execPftopk g fails s
  | .copCommandComplete g slot => Sys2Proof.Machine.execCopCommandComplete g slot s
  | .eventAccept cls perr lost => Sys2Proof.Machine.execEventAccept cls perr lost s
  | .eventPost g v => Sys2Proof.Machine.execEventPost g v s
  | .timedEventEnter g v => Sys2Proof.Machine.execTimedEventEnter g v s
  | .delayRelease => Sys2Proof.Machine.execDelayRelease s
  | .taskCancel g v => Sys2Proof.Machine.execTaskCancel g v s
  | .slotFill perr lost => Sys2Proof.Machine.execSlotFill perr lost s
  | .deadlineDrop => Sys2Proof.Machine.execDeadlineDrop s
  | .descriptorWindowWrite d k v => Sys2Proof.Machine.execDescriptorWindowWrite d k v s
  | .reserveWrite c v => Sys2Proof.Machine.execReserveWrite c v s
  | .histClear => Sys2Proof.Machine.execHistClear s
  | .tskPeakClear => Sys2Proof.Machine.execTskPeakClear s
  | .loadUpdate => Sys2Proof.Machine.execLoadUpdate s
  | .replaceStart => Sys2Proof.Machine.execReplaceStart s
  | .preparationComplete => Sys2Proof.Machine.execPreparationComplete s
  | .plcSwitch perr => Sys2Proof.Machine.execPlcSwitch perr s
  | .oldUnitsRelease => Sys2Proof.Machine.execOldUnitsRelease s
  | .unitSelfTest kind index pass perr => Sys2Proof.Machine.execUnitSelfTest kind index pass perr s
  | .outageFrame => Sys2Proof.Machine.execOutageFrame s
  | .sysReset straps => Sys2Proof.Machine.execSysReset straps s
  | .romPhase mismatch copy0 copy1 => Sys2Proof.Machine.execRomPhase mismatch copy0 copy1 s
  | .flashPhase sfdp mb octal => Sys2Proof.Machine.execFlashPhase sfdp mb octal s
  | .selectPhase => Sys2Proof.Machine.execSelectPhase s
  | .fwReady => Sys2Proof.Machine.execFwReady s
  | .loadTimeout => Sys2Proof.Machine.execLoadTimeout s
  | .applyPhase pmb readings codes => Sys2Proof.Machine.execApplyPhase pmb readings codes s
  | .sysTimeWait => Sys2Proof.Machine.execSysTimeWait s
  | .lanesPhase => Sys2Proof.Machine.execLanesPhase s
  | .sysLanesPartial => Sys2Proof.Machine.execSysLanesPartial s
  | .placePhase layout perr => Sys2Proof.Machine.execPlacePhase layout perr s
  | .enginesPhase bad => Sys2Proof.Machine.execEnginesPhase bad s
  | .startPhase => Sys2Proof.Machine.execStartPhase s
  | .lockstepMismatch => Sys2Proof.Machine.execLockstepMismatch s
  | .watchdogFeed v => Sys2Proof.Machine.execWatchdogFeed v s
  | .mgtWdogExp => Sys2Proof.Machine.execMgtWdogExp s
  | .mgtLmemPerr addr => Sys2Proof.Machine.execMgtLmemPerr addr s
  | .press => Sys2Proof.Machine.execPress s
  | .mgtPresStuck => Sys2Proof.Machine.execMgtPresStuck s
  | .keyAssert => Sys2Proof.Machine.execKeyAssert s
  | .keyRelease => Sys2Proof.Machine.execKeyRelease s
  | .cinchExpire => Sys2Proof.Machine.execCinchExpire s
  | .mgtSealOpen => Sys2Proof.Machine.execMgtSealOpen s
  | .messageReceive via msg => Sys2Proof.Machine.execMessageReceive via msg s
  | .discover => Sys2Proof.Machine.execDiscover s
  | .read => Sys2Proof.Machine.execRead s
  | .telemetry => Sys2Proof.Machine.execTelemetry s
  | .logRead => Sys2Proof.Machine.execLogRead s
  | .notesRead => Sys2Proof.Machine.execNotesRead s
  | .subscribe => Sys2Proof.Machine.execSubscribe s
  | .cinchClose => Sys2Proof.Machine.execCinchClose s
  | .stageBegin err => Sys2Proof.Machine.execStageBegin err s
  | .stageData err => Sys2Proof.Machine.execStageData err s
  | .stageEnd err => Sys2Proof.Machine.execStageEnd err s
  | .stageAbort => Sys2Proof.Machine.execStageAbort s
  | .activate err => Sys2Proof.Machine.execActivate err s
  | .restart => Sys2Proof.Machine.execRestart s
  | .delayedRestart => Sys2Proof.Machine.execDelayedRestart s
  | .write => Sys2Proof.Machine.execWrite s
  | .logClear => Sys2Proof.Machine.execLogClear s
  | .debugUnlock => Sys2Proof.Machine.execDebugUnlock s
  | .sealClear => Sys2Proof.Machine.execSealClear s
  | .attClear => Sys2Proof.Machine.execAttClear s
  | .subscriptionPeriod k => Sys2Proof.Machine.execSubscriptionPeriod k s
  | .subscriptionLapse k => Sys2Proof.Machine.execSubscriptionLapse k s
  | .logEntry => Sys2Proof.Machine.execLogEntry s
  | .logFlush err => Sys2Proof.Machine.execLogFlush err s
  | .rollStep => Sys2Proof.Machine.execRollStep s
  | .mgtCommit => Sys2Proof.Machine.execMgtCommit s
  | .mgtEnvClear => Sys2Proof.Machine.execMgtEnvClear s
  | .sequencerEnable v => Sys2Proof.Machine.execSequencerEnable v s
  | .sequencerStop v => Sys2Proof.Machine.execSequencerStop v s
  | .sequencerEntry => Sys2Proof.Machine.execSequencerEntry s
  | .senseResult codes => Sys2Proof.Machine.execSenseResult codes s
  | .manualConversionRequest v => Sys2Proof.Machine.execManualConversionRequest v s
  | .manualConversionRun codes => Sys2Proof.Machine.execManualConversionRun codes s
  | .ageMeasRequest => Sys2Proof.Machine.execAgeMeasRequest s
  | .ageMeasureTimer => Sys2Proof.Machine.execAgeMeasureTimer s
  | .ageMeasure readings => Sys2Proof.Machine.execAgeMeasure readings s
  | .ageVstep pmb => Sys2Proof.Machine.execAgeVstep pmb s
  | .pwrAlert status => Sys2Proof.Machine.execPwrAlert status s
  | .domainRequest hi v => Sys2Proof.Machine.execDomainRequest hi v s
  | .pwrDom d => Sys2Proof.Machine.execPwrDom d s
  | .laneGroupAutoOff g => Sys2Proof.Machine.execLaneGroupAutoOff g s
  | .sysPllUnlock => Sys2Proof.Machine.execSysPllUnlock s
  | .sysSysrefBad dev => Sys2Proof.Machine.execSysSysrefBad dev s
  | .tddCommandTarget n => Sys2Proof.Machine.execTddCommandTarget n s
  | .coefficientFreezeStart n => Sys2Proof.Machine.execCoefficientFreezeStart n s
  | .coefficientFreezeEnd n => Sys2Proof.Machine.execCoefficientFreezeEnd n s
  | .residualSlewDone => Sys2Proof.Machine.execResidualSlewDone s
  | .restartCountClear => Sys2Proof.Machine.execRestartCountClear s
  | .sealLoopClose => Sys2Proof.Machine.execSealLoopClose s
  | .resetAssert power => Sys2Proof.Machine.execResetAssert power s

end Sys2Proof.Machine
end

