-- ==== Sys2Proof/Machine/Step.lean ====
section
/-!
DEFINITION. One step: the command at the front of the queue, or, on an empty queue, one cycle of the time base.
-/

namespace Sys2Proof.Machine

/-- One cycle of the time base passes (DESIGN CHOICE, log 2), and with it what depends on elapsed time alone (R58). -/
def idle (s : State) : Host.Outcome State Fault Refusal := act (fun d => d.tickBase.todExpire) s

/-- A step: exec of the front command with the queue's rest. -/
def step (s : State) : Host.Outcome State Fault Refusal :=
  match s.pending with
  | [] => idle s
  | c :: r => exec c { s with pending := r }

/-- The command that a word spells put at the front of the queue; no word spells one. -/
def State.withFetchWord (s : State) (nbits w : Nat) : State :=
  match decodeTableWord nbits w with
  | some c => { s with pending := c :: s.pending }
  | none => s

end Sys2Proof.Machine
end

