-- ==== Sys2Proof/Safety.lean ====
section
/-!
DEFINITION. What a claim may ask of a run: the canonical forms that every step keeps, what a command does, and what it leaves alone.
-/

namespace Sys2Proof.Machine

/-- The registers, the memories and the flash are in their canonical forms: keys strictly rising, nothing listed that reads as its default. -/
def Dev.canonical (s : Dev) : Bool :=
  twf regReset s.regs && Memory.wf s.mem && twf (fun _ => flashDefault) s.flash

/-- The invariant of every state that a step leaves. -/
def State.Inv (s : State) : Prop := s.dev.canonical = true

/-- The command answers a next state with the queue as it was, and the device after it has property `P`. -/
def Does (c : Instr) (s : Dev) (P : Dev → Prop) : Prop :=
  ∀ q : List Instr, ∃ t : Dev, exec c { pending := q, dev := s } = .next { pending := q, dev := t } ∧ P t

/-- Every byte of memory reads as before. -/
def SameMem (s t : Dev) : Prop := ∀ a, t.byte a = s.byte a

/-- Every byte of flash reads as before. -/
def SameFlash (s t : Dev) : Prop := ∀ a, t.fbyte a = s.fbyte a

/-- Every register but those listed reads as before. -/
def SameRegs (keep : List Nat) (s t : Dev) : Prop := ∀ a, a ∉ keep → t.rd a = s.rd a

/-- The registers that count every frame that port `p` accepts: its corrected FEC codewords, its frames and its octets. -/
def rxRegs (p : Nat) : List Nat :=
  [R.ETH_FEC_CORR p, R.ETH_FEC_CORR p + 4, R.ETH_RX_FRM p, R.ETH_RX_FRM p + 4, R.ETH_RX_OCT p, R.ETH_RX_OCT p + 4]

/-- The part of an event that its table gives: its code, its src field and its packed items. -/
def evShow (e : LogEvent) : Nat × Nat × Nat := (e.code, e.src, e.data)

/-- Exactly these events are raised, in this order: for each, its code, its src field and its items with their widths. -/
def Raises (s t : Dev) (l : List (Nat × Nat × List (Nat × Int))) : Prop :=
  t.raised.map evShow = s.raised.map evShow ++ l.map (fun e => (e.1, e.2.1, packItems e.2.2))

/-- Memory and flash read as before, and every other part but the registers is as it was once `back` gives back what may change. -/
def Only (back : Dev → Dev → Dev) (s t : Dev) : Prop :=
  SameMem s t ∧ SameFlash s t ∧ back s { t with regs := s.regs, mem := s.mem, flash := s.flash } = s

/-- What an update of the registers and the events may change. -/
def regsEvents (s t : Dev) : Dev := { t with raised := s.raised }

/-- What an update of the registers alone may change. -/
def regsOnly (_s t : Dev) : Dev := t

/-- Every register of the blocks below PLC reads as before, but for those of the blocks listed (Table 21-2: bits 39 to 24 of the address). -/
def SameBlocks (blocks : List Nat) (s t : Dev) : Prop :=
  ∀ a, a < 0x30D000000 → a / 2 ^ 24 ∉ blocks → t.rd a = s.rd a

/-- What a change of a lane's or a link's state may change: the links, the cells that see it, the events they post, and the log. -/
def linkParts (s t : Dev) : Dev := { t with lnk := s.lnk, plc := s.plc, tsk := s.tsk, raised := s.raised }

/-- The same, with a value left open taken. -/
def linkPartsFree (s t : Dev) : Dev := { t with lnk := s.lnk, plc := s.plc, tsk := s.tsk, raised := s.raised, freeCtr := s.freeCtr }

/-! ### Cores -/

/-- A core runs this instruction next: it is in RUN and waits for nothing, no CPI of its is unretired, and its word can be fetched. -/
def Dev.runs (s : Dev) (i : Issue) : Prop :=
  s.coreState i.core = 1 ∧ (s.core i.core).wait = .none ∧ (∀ c ∈ s.cops i.core, c.confirmed = true ∨ c.squashed = true) ∧
    s.fetchOk i.core (s.pc i.core) = true ∧ (i.fails : Nat) < 3

/-- The counters in which every instruction of a core may count: cycles, instructions, busy cycles, and memory re-reads. -/
def issueRegs (g : Nat) : List Nat :=
  [R.CSR_CYCLE_LO g, R.CSR_CYCLE_HI g, R.CSR_INSTRET_LO g, R.CSR_INSTRET_HI g, R.POD_EBUSY g, R.POD_EBUSY_HI g, R.POD_EPERR g, R.POD_ECNT_OVF g,
    R.POD_ESTAT g]

/-- What an instruction may change beside the registers: the cores, and the events raised. -/
def engParts (s t : Dev) : Dev := { t with eng := s.eng, raised := s.raised }

/-- Core `g` has retired an instruction: one more in INSTRET; its level, its run state, its commands, and every other core, are as before. -/
def RetiredCore (g : Nat) (s t : Dev) : Prop :=
  t.rd64 (R.CSR_INSTRET_LO g) = (s.rd64 (R.CSR_INSTRET_LO g) + 1) % 2 ^ 64 ∧ t.coreState g = s.coreState g ∧ t.lvl g = s.lvl g ∧
    (t.core g).wait = .none ∧ t.cops g = s.cops g ∧ ∀ k, k ≠ g → t.core k = s.core k

/-- The same, with the vector and predicate registers as before. -/
def Retired (g : Nat) (s t : Dev) : Prop :=
  RetiredCore g s t ∧ (t.core g).v = (s.core g).v ∧ (t.core g).p = (s.core g).p

/-- Where in Laruri's map the bytes stand that core `g` sees at `a` in a memory: its own, Laruri's, or the sample store. -/
def Dev.homeAddr (s : Dev) (g a : Nat) : Option Nat :=
  match s.place g a with
  | .imem => some (ownBase g + a)
  | .dmem => some (ownBase g + a)
  | .lmem => some a
  | .rom => some a
  | .pool => some a
  | .table => some a
  | .sys => some a
  | _ => none

/-- A read at `a` gives what is stored: no third failure of a core's memory, and in the sample store none at all and no poisoned line. -/
def Dev.whole (s : Dev) (a : Nat) (fails : Fin 4) : Prop :=
  (fails : Nat) < 3 ∧ (storeBase ≤ a → fails = 0 ∧ s.poisoned (a - storeBase) = false)

/-- VSTAT of core `g` loses nothing, and gains the conditions of its active elements among the first `m`, and no others. -/
def Accrues (g m : Nat) (on : List Bool) (cond : Nat → VFlags) (s t : Dev) : Prop :=
  ∀ b, (t.rd (R.CSR_VSTAT g)).testBit b = ((s.rd (R.CSR_VSTAT g)).testBit b || (List.range m).any fun k => lget false on k && (cond k).toNat.testBit b)

/-- What a vector instruction may change beside the registers: the cores, the events raised, and the count of values left open. -/
def vecParts (s t : Dev) : Dev := { t with eng := s.eng, raised := s.raised, freeCtr := s.freeCtr }

/-- The counters in which a vector instruction may count. -/
def vecRegs (g : Nat) : List Nat := R.CSR_VSTAT g :: R.CSR_VBUSY_LO g :: R.CSR_VBUSY_HI g :: issueRegs g

/-- Of core `g`'s vector registers the group of `n` from `base` holds elements `el` of `w` bytes, and every other one is as before. -/
def SetsV (g base n w : Nat) (el : Nat → Nat) (s t : Dev) : Prop :=
  (∀ k, k < n * (128 / w) → lget 0 (t.velems g base n w) k = el k % 2 ^ (8 * w)) ∧
    ∀ r, (r < base ∨ base + n ≤ r) → t.vreg g r = s.vreg g r

/-- Of core `g`'s predicate registers only `pd` changes, and p0 never: bit `b` becomes `bit b`. -/
def SetsP (g pd : Nat) (bit : Nat → Bool) (s t : Dev) : Prop :=
  (pd ≠ 0 → ∀ b, b < 128 → (t.preg g pd).testBit b = bit b) ∧ ∀ r, (r ≠ pd ∨ r = 0) → t.preg g r = s.preg g r

/-- Of core `g`'s scalar registers only `rd` changes, to `v`; s0 stays zero. -/
def SetsX (g rd : Nat) (v : BitVec 64) (s t : Dev) : Prop := ∀ r, t.x g r = if r = rd ∧ rd ≠ 0 then v else s.x g r

/-- Core `g` has taken an exception or interrupt to S, `cause` in CAUSE_S (R295). -/
def EnteredS (g cause : Nat) (s t : Dev) : Prop :=
  t.rd (R.CSR_CAUSE_S g) = cause ∧ t.get (R.CSR_EPC_S_pc g) = s.pc g % 2 ^ 16 ∧ t.get (R.CSR_STATUS_spl g) = s.lvl g ∧
    t.flag (R.CSR_STATUS_spie g) = s.flag (R.CSR_STATUS_sie g) ∧ t.flag (R.CSR_STATUS_sie g) = false ∧ t.lvl g = 1 ∧
    t.pc g = s.get (R.CSR_TVEC_S_pc g)

/-- Core `g` has taken an exception or interrupt to M, `cause` in CAUSE_M (R295). -/
def EnteredM (g cause : Nat) (s t : Dev) : Prop :=
  t.rd (R.CSR_CAUSE_M g) = cause ∧ t.get (R.CSR_EPC_M_pc g) = s.pc g % 2 ^ 16 ∧ t.get (R.CSR_STATUS_mpl g) = s.lvl g ∧
    t.flag (R.CSR_STATUS_mpie g) = s.flag (R.CSR_STATUS_mie g) ∧ t.flag (R.CSR_STATUS_mie g) = false ∧ t.flag (R.CSR_STATUS_mtrap g) = true ∧
    t.lvl g = 2 ∧ t.pc g = s.get (R.CSR_TVEC_M_pc g)

/-- Core `g` has taken exception `code`: from T to S, from S or M to M; at M while mtrap = 1 it stands in DFAULT. No scalar register changes (R294, R295). -/
def Trapped (g code : Nat) (s t : Dev) : Prop :=
  (s.lvl g = 0 → EnteredS g code s t) ∧
    (s.lvl g ≠ 0 → ¬(s.lvl g = 2 ∧ s.flag (R.CSR_STATUS_mtrap g) = true) → EnteredM g code s t) ∧
    (s.lvl g = 2 → s.flag (R.CSR_STATUS_mtrap g) = true → t.coreState g = 4) ∧
    t.get ⟨estat g, 5, 6⟩ = code ∧ (∀ r, t.x g r = s.x g r) ∧ SameFlash s t

/-- The registers that show core `g`'s coprocessor commands (Tables 14-10 and 14-11). -/
def copRegs (g : Nat) : List Nat := [R.CSR_CP_INUSE g, R.CSR_CP_INUSE2 g, R.CSR_CP_DONE g, R.CSR_CP_DONE2 g, R.POD_CPSTAT g]

/-- Core `g` runs nothing that waits, and no halt is asked of it: nothing of it is left to go on when a command or a tag is over. -/
def Dev.idleWait (s : Dev) (g : Nat) : Prop := (s.core g).wait = .none ∧ (s.core g).haltReq = false

/-- Core `g`'s pc, scalar, vector and predicate registers are as before, and so is every other core. -/
def SameCore (g : Nat) (s t : Dev) : Prop :=
  t.pc g = s.pc g ∧ (∀ r, t.x g r = s.x g r) ∧ (t.core g).v = (s.core g).v ∧ (t.core g).p = (s.core g).p ∧ t.coreState g = s.coreState g ∧
    t.lvl g = s.lvl g ∧ ∀ k, k ≠ g → t.core k = s.core k

/-- What the scheduler may change beside the registers and its descriptors: its own part, and the events raised. -/
def tskParts (s t : Dev) : Dev := { t with tsk := s.tsk, raised := s.raised }

/-- The registers of one of the scheduler's S32 counters (Table 15-7). -/
def tskCountRegs (a : Nat) : List Nat := [a, R.TSK_CNT_OVF, R.TSK_STAT]

/-- The registers that show the ready lists of a class and a priority. -/
def readyRegs (cls pri : Nat) : List Nat := [R.TSK_DEPTH, R.TSK_CLS_HELD cls, R.TSK_RDY pri]

/-- Of memory only these words of descriptor `d` may read otherwise, and every other part but the scheduler's is as before. -/
def OnlyTd (d : Nat) (words : List Nat) (s t : Dev) : Prop :=
  (∀ a, (∀ k ∈ words, a < s.tdAddr d k ∨ s.tdAddr d k + 4 ≤ a) → t.byte a = s.byte a) ∧ SameFlash s t ∧
    tskParts s { t with regs := s.regs, mem := s.mem, flash := s.flash } = s

/-- A counter that stops at its greatest value counts one more (R13). -/
def CountsOne (a : Nat) (s t : Dev) : Prop := t.rd a = min (s.rd a + 1) 0xFFFFFFFF

/-- Every class input but `cls` is as before. -/
def OtherInputs (cls : Nat) (s t : Dev) : Prop := ∀ k, k ≠ cls → t.input k = s.input k

/-- The activation that leaves the lists of descriptor `d` completes with status `st`: the descriptor is IDLE, or OFF where it is disabled,
and its next descriptor gets the completion (R351). -/
def Completed (d st : Nat) (s t : Dev) : Prop :=
  t.rd64 R.TSK_DONE = (s.rd64 R.TSK_DONE + 1) % 2 ^ 64 ∧ t.tdState d = (if s.tdEn d then 1 else 0) ∧ t.tdGen d = s.tdGen d ∧ OtherInputs 7 s t ∧
    t.input 7 = if s.td d 5 0 16 = 0xFFFF then s.input 7 else
      s.input 7 ++ [{ desc := s.td d 5 0 16, payload := (d + st * 2 ^ 16 + s.tdGen d % 256 * 2 ^ 24) % 2 ^ 32 }]

/-- Beside others, this event is raised. -/
def Logs (s t : Dev) (e : Nat × Nat × List (Nat × Int)) : Prop :=
  ∃ l m, t.raised.map evShow = s.raised.map evShow ++ l ++ (e.1, e.2.1, packItems e.2.2) :: m

/-- What the planner may change beside the registers: its own part, and the events raised. -/
def plcParts (s t : Dev) : Dev := { t with plc := s.plc, raised := s.raised }

/-- What the start sequence may change beside the registers: its own part, and the events raised. -/
def bootParts (s t : Dev) : Dev := { t with boot := s.boot, raised := s.raised }

/-- What management may change beside the registers: its own part, the events raised, and the count of values left open. -/
def mgtParts (s t : Dev) : Dev := { t with mgt := s.mgt, raised := s.raised, freeCtr := s.freeCtr }

/-- What the sense converter may change beside the registers: its own part, and the events raised. -/
def snsParts (s t : Dev) : Dev := { t with sns := s.sns, raised := s.raised }

/-- What the ageing monitors may change beside the registers: their own part, the planner's triggers, and the events raised. -/
def ageParts (s t : Dev) : Dev := { t with age := s.age, plc := s.plc, raised := s.raised }

/-- As `ageParts`, with the power management's bus and sequence left out too. -/
def agePwrParts (s t : Dev) : Dev := { ageParts s t with pwr := s.pwr }

/-- The device stands in reset after a restart of this cause: it is counted, flash is as before, the registers of the always-on region are kept, and
every other register and all of memory stand at their reset values; an automatic or trial restart counts in n_auto (R380, R404). -/
def Restarted (cause : Nat) (s t : Dev) : Prop :=
  t.boot.cause = cause ∧ t.phase = 0 ∧ CountsOne R.SYS_RESTARTS s t ∧ SameFlash s t ∧ (∀ a, t.byte a = 0) ∧
    (∀ a, a ∉ keptRegs → a ∉ [R.SYS_CLK_STAT, R.SYS_BOOT_STAT] → t.rd a = (regReset a).toNat) ∧
    (∀ a ∈ keptRegs, a ∉ [R.SYS_RESTARTS, R.SYS_BOOT_ATT] → t.rd a = s.rd a) ∧
    ((cause = 3 ∨ cause = 5) → t.get R.SYS_BOOT_ATT_n_auto =
      if s.get R.SYS_BOOT_ATT_n_auto = 0 ∨ s.boot.autoFirst + 3600 * hz < s.time.clk then 1 else min (s.get R.SYS_BOOT_ATT_n_auto + 1) 7) ∧
    ((cause ≠ 3 ∧ cause ≠ 5) → t.rd R.SYS_BOOT_ATT = s.rd R.SYS_BOOT_ATT)

/-- The device has entered safe hold with this cause: HOLD, every domain of the lanes off, air time FREE (R403). -/
def Held (cause : Nat) (s t : Dev) : Prop :=
  t.phase = 12 ∧ t.get R.SYS_BOOT_STAT_hold = cause ∧ t.get R.AIR_STAT_state = 0 ∧ (∀ d, 24 ≤ d → d < 40 → t.domOn d = false) ∧
    (∀ q, q < 4 → t.flag (R.ETH_QUAD_CTL_en q) = false) ∧ Logs s t (Ev.SYS_HOLD, 0xFFFF, [(4, (cause : Int))])

/-- The start sequence has failed with this cause: a trial is logged and restarts, a committed image is marked failed and the device restarts (R391, R392). -/
def StartFails (cause : Nat) (s t : Dev) : Prop :=
  (s.flag R.SYS_BOOT_STAT_trial = true → Restarted 5 s t ∧
      Logs s t (Ev.SYS_TRIAL_FAIL, 0xFFFF, [(1, (s.get R.SYS_BOOT_STAT_bank : Int)), (4, (cause : Int))])) ∧
    (s.flag R.SYS_BOOT_STAT_trial = false → Restarted 3 s t ∧ t.bankFailed (s.get R.SYS_BOOT_STAT_bank) = true)

/-- Laruri stands in ENVIRONMENT STOP with this cause: every domain off, every engine in RESET, the backhaul off, no roll (R428). -/
def EnvStopped (cause : Nat) (t : Dev) : Prop :=
  t.flag R.MGT_STAT_env_stop = true ∧ t.get R.MGT_STAT_env_cause = cause ∧ (∀ d, d < 48 → t.domOn d = false) ∧ (∀ g, g < 192 → t.coreState g = 0) ∧
    (∀ q, q < 4 → t.flag (R.ETH_QUAD_CTL_en q) = false) ∧ t.mgt.roll = none

/-- A message from the device answers request `r`: it goes to its source with its cmd and tag, this status and this body (Table 18-2). -/
def Answers (r : MgtReq) (status : Nat) (body : List Nat) (x : MgtSource × List Nat) : Prop :=
  x.1 = r.src ∧ ∃ target, target < 2 ^ 32 ∧ x.2 = mgtHeader 1 r.cmd r.tag body.length status target ++ body

/-- The one message sent answers `r`, and is kept for its source (R414). -/
def Responds (r : MgtReq) (status : Nat) (body : List Nat) (s t : Dev) : Prop :=
  ∃ x, t.mgt.tx = [x] ∧ Answers r status body x ∧ t.mgt.sources = s.mgt.sources.map fun e =>
    if e.1 = r.src then (e.1, e.2.1, keepLast e.2.2 { cmd := r.cmd, tag := r.tag, at_ := s.time.clk, msg := x.2 }) else e

/-- The oldest T request is this command, and the device serves it. -/
def TakesT (s : Dev) (cmd : Nat) (r : MgtReq) (q : List MgtReq) : Prop := s.mgt.tq = r :: q ∧ r.cmd = cmd ∧ s.serving = true

/-- The oldest S or P request is this command, the device serves it, and no re-placement holds it back (R23). -/
def TakesS (s : Dev) (cmd : Nat) (r : MgtReq) (q : List MgtReq) : Prop :=
  s.mgt.sq = r :: q ∧ r.cmd = cmd ∧ s.serving = true ∧ s.plc.current = none

/-- It runs: the cinch is open where it needs presence, and no ENVIRONMENT STOP holds (R410, R429). -/
def RunsS (s : Dev) (cmd : Nat) (r : MgtReq) (q : List MgtReq) : Prop :=
  TakesS s cmd r q ∧ (isPresence cmd = true → s.cinch = true) ∧ s.flag R.MGT_STAT_env_stop = false

/-- Nothing of management changes but that the messages of the command before are gone. -/
def OnlyQuiet (s t : Dev) : Prop := t.mgt = { s.mgt with tx := [] } ∧ SameRegs [] s t ∧ Only mgtParts s t

/-- Of management's own part only the messages, the kept responses and the T queue change. -/
def ServedT (q : List MgtReq) (s t : Dev) : Prop := t.mgt = { s.mgt with tx := t.mgt.tx, sources := t.mgt.sources, tq := q }

/-- Of management's own part only the messages, the kept responses and the S and P queue change. -/
def ServedS (q : List MgtReq) (s t : Dev) : Prop := t.mgt = { s.mgt with tx := t.mgt.tx, sources := t.mgt.sources, sq := q }

/-- The registers of one of management's S32 counters (Table 18-9). -/
def mgtCountRegs (a : Nat) : List Nat := [a, R.MGT_CNT_OVF, R.MGT_STAT]

/-- A P command executed is logged with its status (Table 18-10). -/
def LogsCmd (r : MgtReq) (status : Nat) (s t : Dev) : Prop :=
  Logs s t (Ev.MGT_CMD, 0xFFFF, [(16, (r.cmd : Int)), (4, (status : Int)), (4, (r.slot : Int))])

/-- The journal gains a record at its next place, unconsumed, and no other byte of flash changes (R423). -/
def JournalGains (type bank seq len : Nat) (s t : Dev) : Prop :=
  t.mgt.journal = s.mgt.journal + 1 ∧ t.fbytes (journalAt s.mgt.journal) 64 = journalBytes type bank seq len 0xFFFFFFFF ∧
    ∀ a, (a < journalAt s.mgt.journal ∨ journalAt s.mgt.journal + 64 ≤ a) → t.fbyte a = s.fbyte a

/-- The image of bank `k` is committed: its committed field is programmed, a COMMIT record is written, the failed marks are clear, and the bank is
the running one (R427). -/
def Committed (k : Nat) (s t : Dev) : Prop :=
  t.fbytes (bankBase k + 0x20) 4 = [0, 0, 0, 0] ∧ t.mgt.journal = s.mgt.journal + 1 ∧
    t.fbytes (journalAt s.mgt.journal) 64 = journalBytes 4 k (s.imgSeq k) (s.imgLength k) 0xFFFFFFFF ∧
    (∀ a, (a < bankBase k + 0x20 ∨ bankBase k + 0x24 ≤ a) → (a < journalAt s.mgt.journal ∨ journalAt s.mgt.journal + 64 ≤ a) → t.fbyte a = s.fbyte a) ∧
    t.get R.SYS_BOOT_STAT_bank = k ∧ t.rd64 R.SYS_IMG_SEQ_LO = s.imgSeq k ∧ t.flag R.SYS_BOOT_STAT_trial = false ∧ t.flag R.MGT_STAT_trial = false ∧
    t.flag R.SYS_BOOT_ATT_a_failed = false ∧ t.flag R.SYS_BOOT_ATT_b_failed = false ∧
    Logs s t (Ev.MGT_COMMIT, 0xFFFF, [(1, (k : Int)), (32, (s.imgSeq k : Int))]) ∧ SameMem s t ∧
    SameRegs [R.SYS_BOOT_ATT, R.SYS_BOOT_STAT, R.SYS_IMG_SEQ_LO, hiOf R.SYS_IMG_SEQ_LO, R.MGT_STAT] s t

/-- Memory below the sample store reads as before. -/
def SameLow (s t : Dev) : Prop := ∀ a, a < storeBase → t.byte a = s.byte a

/-- A step is safe: it answers a next state, in canonical form. -/
def Safe (s : State) : Prop := ∃ t, step s = .next t ∧ t.Inv

end Sys2Proof.Machine
end

