-- ==== Sys2Proof/Certificates/Slice0/Obligations.lean ====
section
/-!
DEFINITION. The statements about the NXS1024 model: what each command does, what it leaves alone, and what every step keeps.
-/

open Sys2Proof Sys2Proof.Machine

/-- A step takes the command at the front of the queue and runs it with the queue's rest; no command faults or is refused. -/
def Obligations.StepRunsFront : Prop :=
  ∀ (c : Instr) (r : List Instr) (d : Dev), step { pending := c :: r, dev := d } = exec c { pending := r, dev := d } ∧
    ∃ t : Dev, exec c { pending := r, dev := d } = .next { pending := r, dev := t }

/-- The canonical form of the registers, memory and flash is kept by every step. -/
def Obligations.StepKeepsInv : Prop := ∀ s t : State, s.Inv → step s = .next t → t.Inv

/-- After reset: canonical form, an empty queue, air time FREE at 0, no event. -/
def Obligations.ResetState : Prop :=
  State.reset.Inv ∧ State.reset.pending = [] ∧ State.reset.dev.airState = 0 ∧ State.reset.dev.time.cnt = 0 ∧ State.reset.dev.raised = []

/-- On an empty queue one cycle of the time base passes (DESIGN CHOICE, log 2). -/
def Obligations.IdleIsOneCycle : Prop :=
  (∀ s : Dev, s.time.cnt + 2 < 2 ^ 64 → (∀ a, s.time.todAt = some a → (s.time.clk + 1) * 1000 < a * 1000 + 3000 * hz) → ∃ t : Dev, step { pending := [], dev := s } = .next { pending := [], dev := t } ∧
    t.time.clk = s.time.clk + 1 ∧
    t.time.frc = (if s.time.frcRun then (s.time.frc + 65536) % 2 ^ 96 else s.time.frc) ∧
    s.time.cnt ≤ t.time.cnt ∧
    SameRegs [R.TDOM_RESID, R.TDOM_SLEW, R.TDOM_SW_STAT, R.TDOM_CLK_CTL 0, R.TDOM_CLK_CTL 1] s t ∧
    Only (fun s t => { t with time := s.time }) s t) ∧
  (∀ (s : Dev) (a : Nat), s.time.cnt + 2 < 2 ^ 64 → s.time.todAt = some a → a * 1000 + 3000 * hz ≤ (s.time.clk + 1) * 1000 → ∃ t : Dev,
    step { pending := [], dev := s } = .next { pending := [], dev := t } ∧ t.flag (R.TDOM_DCTL_src_ok 2) = false ∧ t.time.todAt = none ∧
    t.time.clk = s.time.clk + 1 ∧ s.time.cnt ≤ t.time.cnt ∧ SameMem s t ∧ SameFlash s t)

/-- REGISTER_WRITE by the access codes (R9, R10, R11), shown on the PLC block, whose registers have no effect of their own.
Completes: registerWrite. -/
def Obligations.RegisterWriteCodes : Prop :=
  (∀ (s : Dev) (a : BitVec 40) (v : Word) (r : RegRow), a.toNat / 2 ^ 24 = 0x30D → a.toNat % 4 = 0 → rowOf a.toNat = some r →
    (r.rwl = 0 ∨ s.flag R.SYS_BOOT_STAT_done = false) →
    Does (.registerWrite a v) s fun t =>
      (∀ b, b < 32 → (t.rd a.toNat).testBit b =
        if r.rw.testBit b || r.rwl.testBit b then v.getLsbD b
        else if r.w1s.testBit b && v.getLsbD b then true
        else if r.w1c.testBit b && v.getLsbD b then false
        else (s.rd a.toNat).testBit b) ∧
      SameRegs [a.toNat] s t ∧ Only regsOnly s t) ∧
  (∀ (s : Dev) (a : BitVec 40) (v : Word) (r : RegRow), a.toNat / 2 ^ 24 = 0x30D → a.toNat % 4 = 0 → rowOf a.toNat = some r →
    r.rwl ≠ 0 → s.flag R.SYS_BOOT_STAT_done = true →
    Does (.registerWrite a v) s fun t =>
      (∀ b, b < 32 → r.rwl.testBit b = true → r.rw.testBit b = false → r.w1s.testBit b = false → r.w1c.testBit b = false →
        (t.rd a.toNat).testBit b = (s.rd a.toNat).testBit b) ∧
      Raises s t [(Ev.MGT_LOCKED_WRITE, 0xFFFF, [(40, (a.toNat : Int))])] ∧ SameRegs [a.toNat] s t ∧ Only regsEvents s t) ∧
  (∀ (s : Dev) (a : BitVec 40) (v : Word), (isCtl a.toNat = false ∨ (a.toNat / 2 ^ 24 = 0x30D ∧ rowOf a.toNat = none)) →
    Does (.registerWrite a v) s fun t => SameRegs [] s t ∧ Only regsOnly s t)

/-- LOW_HALF_READ (R14): the low half is answered, the high half is latched, and a read of the high half answers the latch.
Completes: lowHalfRead. -/
def Obligations.LowHalfLatches : Prop :=
  (∀ (s : Dev) (a : BitVec 40), isWide a.toNat = true →
    Does (.lowHalfRead a) s fun t => t.rdata = (if t.portDead a.toNat then 0 else t.rd a.toNat) ∧
      t.readLatched (a.toNat + 4) = (if t.portDead (a.toNat + 4) then 0 else t.rd (a.toNat + 4)) ∧ SameMem s t ∧ SameFlash s t) ∧
  (∀ (s : Dev) (a : BitVec 40), isWide a.toNat = true → (a.toNat < 0x30B000000 ∨ 0x30D000000 ≤ a.toNat) →
    Does (.lowHalfRead a) s fun t =>
      t.rdata = (if s.portDead a.toNat then 0 else s.rd a.toNat) ∧
      t.readLatched (a.toNat + 4) = (if s.portDead (a.toNat + 4) then 0 else s.rd (a.toNat + 4)) ∧ SameRegs [] s t ∧
      Only (fun s t => { t with rdata := s.rdata, latch := s.latch }) s t) ∧
  (∀ (s : Dev) (a : BitVec 40) (w : Word), isHigh a.toNat = true → s.latch.find? (fun e => e.1 == a.toNat) = some (a.toNat, w) →
    Does (.lowHalfRead a) s fun t => t.rdata = w.toNat ∧ SameRegs [] s t ∧ Only (fun s t => { t with rdata := s.rdata }) s t) ∧
  (∀ s : Dev, s.time.cnt < 2 ^ 64 → Does (.lowHalfRead (BitVec.ofNat 40 R.AIR_CNT_LO)) s fun t => t.rdata + t.rd R.AIR_CNT_HI * 2 ^ 32 = s.time.cnt) ∧
  (∀ (s : Dev) (n : Fin 16) (c : Nat) (r : List Nat), (s.trg n).caps = c :: r → c < 2 ^ 64 →
    Does (.lowHalfRead (BitVec.ofNat 40 (R.AIR_TRG_CAP_LO n))) s fun t => t.rdata + t.rd (R.AIR_TRG_CAP_HI n) * 2 ^ 32 = c ∧ (t.trg n).caps = r) ∧
  (∀ (s : Dev) (a : Nat), a ∈ [R.TDOM_FRC_LO, R.TDOM_PPS_LO, R.TDOM_CLK_SEC_LO 0, R.TDOM_CLK_SEC_LO 1] → s.regValue a < 2 ^ 32 →
    s.regValue (a + 4) < 2 ^ 32 → s.regValue (a + 8) < 2 ^ 32 →
    Does (.lowHalfRead (BitVec.ofNat 40 a)) s fun t => t.rdata = s.regValue a ∧ t.readLatched (a + 4) = s.regValue (a + 4) ∧
      t.readLatched (a + 8) = s.regValue (a + 8) ∧ SameRegs [] s t ∧ Only (fun s t => { t with rdata := s.rdata, latch := s.latch }) s t)

/-- TIME_LOCK, CATCH_UP_COMPLETE, AIR_FALLBACK_ENTER, AIR_UNQUALIFIED, MAIN_PATH_FAIL_UNLOCKED, AIR_START_ARM, AIR_START_WITHDRAW, AIR_RUN (R35–R37, R474).
Completes: timeLock, catchUpComplete, airStartArm, airStartWithdraw, airRun, airFallbackEnter, airUnqualified, mainPathFailUnlocked. -/
def Obligations.AirStatesAndStart : Prop :=
  ((∀ s : Dev, s.airState = 0 → s.time.catchUp = false → s.time.hold = false → s.time.frcRun = true → 6 ≤ s.phase → s.phase ≤ 11 →
    s.reselect.time.cnt ≤ s.reselect.lockTarget →
    Does .timeLock s fun t => t.airState = 1 ∧ t.time.cnt = s.reselect.lockTarget ∧ t.time.catchUp = false ∧
      (∀ n, n < 16 → t.flag (R.AIR_TRG_STAT_armed n) = false) ∧ SameMem s t ∧ SameFlash s t) ∧
  (∀ s : Dev, s.airState = 0 → s.time.catchUp = false → s.time.hold = false → s.time.frcRun = true → 6 ≤ s.phase → s.phase ≤ 11 →
    s.reselect.lockTarget < s.reselect.time.cnt →
    Does .timeLock s fun t => t.airState = 0 ∧ t.time.cnt = s.time.cnt ∧ t.time.catchUp = true ∧ SameMem s t ∧ SameFlash s t) ∧
  (∀ s : Dev, (s.airState ≠ 0 ∨ s.time.catchUp = true ∨ s.time.hold = true ∨ s.time.frcRun = false ∨ s.phase < 6 ∨ 11 < s.phase) → Does .timeLock s fun t => SameRegs [] s t ∧ Only regsOnly s t) ∧
  (∀ s : Dev, s.airState = 0 → s.time.catchUp = true → s.time.cnt ≤ s.lockTarget →
    Does .catchUpComplete s fun t => t.airState = 1 ∧ t.time.cnt = s.lockTarget ∧ t.time.catchUp = false ∧ SameMem s t ∧ SameFlash s t) ∧
  (∀ (s : Dev) (pll : Bool), s.airState = 2 →
    Does (.airFallbackEnter pll) s fun t => t.airState = 3 ∧ t.flag R.AIR_STAT_fbc = s.flag (R.TDOM_CLK_CTL_valid 0) ∧ t.time.frcRun = false ∧
      t.time.fallbackAt = s.time.clk ∧ t.time.cnt = s.time.cnt ∧ (pll = true → t.flag R.TDOM_PLL_lock = false) ∧
      (s.rd R.AIR_FBC_CNT < 0xFFFFFFFE → t.rd R.AIR_FBC_CNT = s.rd R.AIR_FBC_CNT + 1 ∧
        Raises s t [(Ev.AIR_FALLBACK_ENTER, 0xFFFF, [(4, (b2n pll : Nat))])]) ∧
      SameRegs [R.AIR_STAT, R.TDOM_PLL, R.AIR_FBC_CNT, R.AIR_CNT_OVF] s t ∧ Only (fun s t => { t with time := s.time, raised := s.raised }) s t) ∧
  (∀ s : Dev, s.airState = 3 → s.elapsed s.time.fallbackAt 60000 = true →
    Does .airUnqualified s fun t => t.airState = 0 ∧ t.flag R.AIR_STAT_qualified = t.qualified t.src ∧ t.time.start = none ∧ t.time.cnt = s.time.cnt ∧
      SameMem s t ∧ SameFlash s t) ∧
  (∀ (s : Dev) (pll : Bool), s.airState = 1 →
    Does (.mainPathFailUnlocked pll) s fun t => t.airState = 0 ∧ t.flag R.AIR_STAT_qualified = t.qualified t.src ∧ t.time.start = none ∧
      t.flag R.AIR_STAT_fbc = s.flag (R.TDOM_CLK_CTL_valid 0) ∧ t.time.frcRun = false ∧ t.time.cnt = s.time.cnt ∧ SameMem s t ∧ SameFlash s t) ∧
  (∀ (s : Dev) (pll : Bool), s.airState = 0 → s.flag R.AIR_STAT_fbc = false →
    Does (.mainPathFailUnlocked pll) s fun t => t.time.hold = true ∧ t.time.catchUp = false ∧ t.time.frcRun = false ∧ t.time.cnt = s.time.cnt ∧
      SameRegs [R.TDOM_PLL] s t ∧ Only (fun s t => { t with time := s.time }) s t)) ∧
  ((∀ a : Nat, frameAtOrAfter a % frameTc = 0 ∧ a ≤ frameAtOrAfter a ∧ frameAtOrAfter a < a + frameTc) ∧
  (∀ s : Dev, s.airState = 1 → 10 ≤ s.phase → s.phase ≤ 11 → s.time.start = none → s.time.cnt + frameTc ≤ frameAtOrAfter s.startTarget →
    Does .airStartArm s fun t => t.flag R.AIR_CTL_arm = true ∧ t.time.start = some (frameAtOrAfter s.startTarget, s.startTarget) ∧
      Raises s t [] ∧ SameRegs [R.AIR_CTL] s t ∧ Only (fun s t => { t with time := { t.time with start := s.time.start } }) s t) ∧
  (∀ s : Dev, s.time.start = none → (s.airState ≠ 1 ∨ (10 ≤ s.phase ∧ s.phase ≤ 11 ∧ frameAtOrAfter s.startTarget < s.time.cnt + frameTc)) →
    Does .airStartArm s fun t => t.flag R.AIR_CTL_arm = false ∧ t.time.start = none ∧
      Raises s t [(Ev.AIR_START_LATE, 0xFFFF, [(48, (s.startTarget : Nat))])] ∧ SameRegs [R.AIR_CTL] s t ∧
      Only (fun s t => { t with raised := s.raised, time := { t.time with start := s.time.start } }) s t) ∧
  (∀ s : Dev, s.time.start.isSome = true → Does .airStartArm s fun t => SameRegs [] s t ∧ Only regsOnly s t) ∧
  (∀ s : Dev, s.time.start = none → s.airState = 1 → (s.phase < 10 ∨ 11 < s.phase) →
    Does .airStartArm s fun t => t.flag R.AIR_CTL_arm = false ∧ SameRegs [R.AIR_CTL] s t ∧ Only regsOnly s t) ∧
  (∀ s : Dev, Does .airStartWithdraw s fun t => t.flag R.AIR_CTL_arm = false ∧ t.time.start = none ∧ SameRegs [R.AIR_CTL] s t ∧
      Only (fun s t => { t with time := { t.time with start := s.time.start } }) s t) ∧
  (∀ (s : Dev) (b a : Nat), s.time.start = some (b, a) → s.airState = 1 → b ≤ s.time.cnt →
    Does .airRun s fun t => t.airState = 2 ∧ t.flag R.AIR_CTL_arm = false ∧ t.time.start = none ∧ t.time.cnt = s.time.cnt ∧
      SameMem s t ∧ SameFlash s t))

/-- TRG_ARM, TRG_OUTPUT_FIRE, TRG_PULSE_END, TRG_CAPTURE, TRG_CAP_POP, TQB_SNAPSHOT, TQB_WORD_READ, AIR_CNT_READ (R39–R43, R45, R47, R48).
Completes: trgArm, trgOutputFire, trgPulseEnd, trgCapture, trgCapPop, tqbSnapshot, tqbWordRead, airCntRead. -/
def Obligations.TriggersAndTimeQuery : Prop :=
  ((∀ (s : Dev) (n : Fin 16) (lo : Word), s.trgDue n = false → s.time.cnt + 256 ≤ lo.toNat + s.rd (R.AIR_TRG_T_HI n) * 2 ^ 32 →
    Does (.trgArm n lo) s fun t => t.flag (R.AIR_TRG_STAT_armed n) = true ∧ (t.trg n).target = lo.toNat + s.rd (R.AIR_TRG_T_HI n) * 2 ^ 32 ∧
      (s.trgOut n = true → s.trgBad n = true → t.flag (R.AIR_TRG_STAT_cfg_err n) = true) ∧
      (∀ m : Nat, m ≠ n → t.trg m = s.trg m) ∧ Raises s t [] ∧ SameRegs [R.AIR_TRG_T_LO n, R.AIR_TRG_STAT n] s t ∧
      Only (fun s t => { t with time := { t.time with trg := s.time.trg } }) s t) ∧
  (∀ (s : Dev) (n : Fin 16) (lo : Word), s.trgDue n = true → s.trgAllowed n = true → s.trgBad n = false →
    s.time.cnt + 256 ≤ lo.toNat + s.rd (R.AIR_TRG_T_HI n) * 2 ^ 32 →
    Does (.trgArm n lo) s fun t => (t.trg n).active = true ∧ (t.trg n).pulseEnd = some ((s.trg n).target + s.trgWidth n) ∧
      t.flag (R.AIR_TRG_STAT_armed n) = true ∧ (t.trg n).target = lo.toNat + s.rd (R.AIR_TRG_T_HI n) * 2 ^ 32 ∧
      (∀ m : Nat, m ≠ n → t.trg m = s.trg m) ∧ SameRegs [R.AIR_TRG_T_LO n, R.AIR_TRG_STAT n] s t ∧
      Only (fun s t => { t with time := { t.time with trg := s.time.trg } }) s t) ∧
  (∀ (s : Dev) (n : Fin 16) (lo : Word), s.trgDue n = false → lo.toNat + s.rd (R.AIR_TRG_T_HI n) * 2 ^ 32 < s.time.cnt + 256 →
    Does (.trgArm n lo) s fun t => t.flag (R.AIR_TRG_STAT_armed n) = false ∧ t.flag (R.AIR_TRG_STAT_late n) = true ∧
      Raises s t [(Ev.AIR_TRG_LATE, 0xFFFF, [(5, ((n : Nat) : Int)), (48, ((lo.toNat + s.rd (R.AIR_TRG_T_HI n) * 2 ^ 32 : Nat) : Int))])] ∧
      SameRegs [R.AIR_TRG_T_LO n, R.AIR_TRG_STAT n] s t ∧ Only regsEvents s t) ∧
  (∀ (s : Dev) (n : Fin 16), s.flag (R.AIR_TRG_CTL_en n) = true → s.flag (R.AIR_TRG_CTL_dir n) = false →
    s.flag (R.AIR_TRG_STAT_armed n) = true → (s.trg n).target ≤ s.time.cnt → s.trgAllowed n = true → s.trgWidth n ≠ 0 →
    (s.rd (R.AIR_TRG_PER n) = 0 ∨ s.trgWidth n < s.rd (R.AIR_TRG_PER n)) →
    (∀ m : Nat, m < n → s.trgDue m = true → (s.trg m).target ≠ (s.trg n).target) →
    Does (.trgOutputFire n) s fun t => (t.trg n).active = true ∧ (t.trg n).pulseEnd = some ((s.trg n).target + s.trgWidth n) ∧
      (s.rd (R.AIR_TRG_PER n) = 0 → t.flag (R.AIR_TRG_STAT_armed n) = false) ∧
      (s.rd (R.AIR_TRG_PER n) ≠ 0 → t.flag (R.AIR_TRG_STAT_armed n) = true ∧ (t.trg n).target = (s.trg n).target + s.rd (R.AIR_TRG_PER n)) ∧
      (∀ m : Nat, m ≠ n → t.trg m = s.trg m) ∧ SameRegs [R.AIR_TRG_STAT n] s t ∧
      Only (fun s t => { t with time := { t.time with trg := s.time.trg } }) s t) ∧
  (∀ (s : Dev) (n : Fin 16), s.flag (R.AIR_TRG_CTL_en n) = true → s.flag (R.AIR_TRG_CTL_dir n) = false →
    s.flag (R.AIR_TRG_STAT_armed n) = true → (s.trg n).target ≤ s.time.cnt → s.trgAllowed n = true →
    (s.trgWidth n = 0 ∨ (s.rd (R.AIR_TRG_PER n) ≠ 0 ∧ s.rd (R.AIR_TRG_PER n) ≤ s.trgWidth n)) →
    (∀ m : Nat, m < n → s.trgDue m = true → (s.trg m).target ≠ (s.trg n).target) →
    Does (.trgOutputFire n) s fun t => t.flag (R.AIR_TRG_STAT_cfg_err n) = true ∧ (t.trg n).active = (s.trg n).active ∧
      SameRegs [R.AIR_TRG_STAT n] s t ∧ Only (fun s t => { t with time := { t.time with trg := s.time.trg } }) s t) ∧
  (∀ (s : Dev) (n : Fin 16) (m : Nat), m < n → s.trgDue n = true → s.trgDue m = true → (s.trg m).target = (s.trg n).target →
    (∀ k : Nat, (k = m ∨ k = n) → s.trgAllowed k = true ∧ s.trgBad k = false) →
    Does (.trgOutputFire n) s fun t => ∀ k : Nat, (k = m ∨ k = n) → (t.trg k).active = true ∧ (t.trg k).pulseEnd = some ((s.trg k).target + s.trgWidth k)) ∧
  (∀ (s : Dev) (n : Fin 16), s.trgDue n = true → s.trgAllowed n = false → (∀ m : Nat, m < n → s.trgDue m = true → (s.trg m).target ≠ (s.trg n).target) →
    Does (.trgOutputFire n) s fun t => (t.trg n).active = (s.trg n).active ∧ t.flag (R.AIR_TRG_STAT_late n) = true ∧
      Raises s t [(Ev.AIR_TRG_LATE, 0xFFFF, [(5, ((n : Nat) : Int)), (48, (((s.trg n).target : Nat) : Int))])] ∧ SameRegs [R.AIR_TRG_STAT n] s t) ∧
  (∀ (s : Dev) (n : Fin 16) (e : Nat), (s.trg n).pulseEnd = some e → e ≤ s.time.cnt →
    Does (.trgPulseEnd n) s fun t => (t.trg n).active = false ∧ (t.trg n).pulseEnd = none ∧ (∀ m : Nat, m ≠ n → t.trg m = s.trg m) ∧
      SameRegs [] s t ∧ Only (fun s t => { t with time := { t.time with trg := s.time.trg } }) s t) ∧
  (∀ (s : Dev) (n : Fin 16) (odd : Bool), s.flag (R.AIR_TRG_CTL_en n) = true → s.flag (R.AIR_TRG_CTL_dir n) = true → s.trgAllowed n = true →
    (s.trg n).caps.length < 4 →
    Does (.trgCapture n odd) s fun t => (t.trg n).caps = (s.trg n).caps ++ [s.time.cnt + b2n odd] ∧
      t.get (R.AIR_TRG_STAT_cap_cnt n) = (s.trg n).caps.length + 1 ∧ SameRegs [R.AIR_TRG_STAT n] s t ∧
      Only (fun s t => { t with time := { t.time with trg := s.time.trg } }) s t) ∧
  (∀ (s : Dev) (n : Fin 16) (odd : Bool), s.flag (R.AIR_TRG_CTL_en n) = true → s.flag (R.AIR_TRG_CTL_dir n) = true → s.trgAllowed n = true →
    4 ≤ (s.trg n).caps.length → s.rd (R.AIR_TRG_DROP n) < 0xFFFFFFFE →
    Does (.trgCapture n odd) s fun t => t.rd (R.AIR_TRG_DROP n) = s.rd (R.AIR_TRG_DROP n) + 1 ∧ t.flag (R.AIR_TRG_STAT_cap_ovf n) = true ∧
      Raises s t (if s.flag (R.AIR_TRG_STAT_cap_ovf n) then [] else [(Ev.AIR_TRG_DROP, 0xFFFF, [(5, ((n : Nat) : Int))])]) ∧
      SameRegs [R.AIR_TRG_STAT n, R.AIR_TRG_DROP n] s t ∧ Only regsEvents s t) ∧
  (∀ (s : Dev) (n : Fin 16) (c : Nat) (r : List Nat), (s.trg n).caps = c :: r → c < 2 ^ 64 → r.length < 8 →
    Does (.trgCapPop n) s fun t => t.rdata + t.rd (R.AIR_TRG_CAP_HI n) * 2 ^ 32 = c ∧ (t.trg n).caps = r ∧
      t.get (R.AIR_TRG_STAT_cap_cnt n) = r.length ∧ SameRegs [R.AIR_TRG_STAT n, R.AIR_TRG_CAP_HI n] s t ∧
      Only (fun s t => { t with rdata := s.rdata, time := { t.time with trg := s.time.trg } }) s t) ∧
  (∀ (s : Dev) (n : Fin 16), (s.trg n).caps = [] →
    Does (.trgCapPop n) s fun t => t.rdata = 0xFFFFFFFF ∧ t.rd (R.AIR_TRG_CAP_HI n) = 0xFFFFFFFF ∧ SameRegs [R.AIR_TRG_CAP_HI n] s t ∧
      Only (fun s t => { t with rdata := s.rdata }) s t)) ∧
  ((∀ (s : Dev) (viol : Bool), s.flag R.AIR_CTL_tqb_en = true → s.tqbCount ≤ s.time.cnt → s.time.cnt < 2 ^ 64 →
    Does (.tqbSnapshot viol) s fun t => s.tqbCount ≤ t.tqbCount ∧ t.tqbCount ≤ s.time.cnt ∧ s.time.cnt ≤ t.tqbCount + 4 ∧
      (∃ e, e ∈ s.tqbInstants ∧ t.time.tqb = s.tqbWords e.1 e.2.1 e.2.2) ∧
      (viol = false → t.time.tqbD = some (t.tqbCount % 2 ^ 16)) ∧ t.rd64 R.AIR_TQB_CNT_LO = (s.rd64 R.AIR_TQB_CNT_LO + 1) % 2 ^ 64 ∧
      SameRegs [R.AIR_TQB_CNT_LO, R.AIR_TQB_CNT_LO + 4] s t ∧
      Only (fun s t => { t with freeCtr := s.freeCtr, time := { t.time with tqb := s.time.tqb, tqbD := s.time.tqbD } }) s t) ∧
  (∀ (s : Dev) (sel : BitVec 4), s.flag R.AIR_CTL_tqb_en = true →
    Does (.tqbWordRead sel false) s fun t => t.time.tqbD = some (lget 0 s.time.tqb sel.toNat) ∧ SameRegs [] s t ∧
      Only (fun s t => { t with time := { t.time with tqbD := s.time.tqbD } }) s t) ∧
  (∀ (s : Dev) (sel : BitVec 4), s.flag R.AIR_CTL_tqb_en = true →
    Does (.tqbWordRead sel true) s fun t => t.time.tqb = s.time.tqb ∧ SameRegs [] s t ∧
      Only (fun s t => { t with freeCtr := s.freeCtr, time := { t.time with tqbD := s.time.tqbD } }) s t) ∧
  (∀ (s : Dev) (sel : BitVec 4) (viol : Bool), s.flag R.AIR_CTL_tqb_en = false →
    Does (.tqbWordRead sel viol) s (fun t => t.time.tqbD = none ∧ t.time.tqb = s.time.tqb) ∧
    Does (.tqbSnapshot viol) s (fun t => t.time.tqbD = none ∧ t.time.tqb = s.time.tqb)) ∧
  (∀ s : Dev, s.time.cnt < 2 ^ 64 →
    Does .airCntRead s fun t => t.rdata + t.rd R.AIR_CNT_HI * 2 ^ 32 = s.time.cnt ∧
      t.get R.AIR_CRD_sfn = s.time.cnt / frameTc % 1024 ∧ t.get R.AIR_CRD_hfn = s.time.cnt / frameTc / 1024 % 1024 ∧
      SameRegs [R.AIR_CNT_LO, R.AIR_CNT_HI, R.AIR_CRD, R.AIR_CRD_OFS] s t ∧ Only (fun s t => { t with rdata := s.rdata }) s t))

/-- FRC_RESTART, TDOM_READ, TD3_REANCHOR and TD3_RATE_RECORD (R51–R54, R61).
Completes: frcRestart, tdomRead, td3Reanchor, td3RateRecord. -/
def Obligations.DomainTime : Prop :=
  (∀ s : Dev, s.time.frcRun = false →
    Does .frcRestart s fun t => t.time.frc = 0 ∧ t.time.frcRun = true ∧ t.time.hold = false ∧ t.flag R.TDOM_PLL_lock = true ∧
      (∀ n, n < 8 → (n ≠ 3 ∨ (s.airFollows = false ∧ (s.airState = 3 → s.src = 3))) → s.flag (R.TDOM_DCTL_en n) = true →
        t.get (R.TDOM_STAT_state n) = 1 ∧ (t.domain n).fa = 0 ∧ (t.domain n).ta = s.clockT 0 % 2 ^ 96) ∧
      t.time.cnt = s.time.cnt ∧ SameMem s t ∧ SameFlash s t) ∧
  (∀ s : Dev, s.time.frcRun = true → Does .frcRestart s fun t => SameRegs [] s t ∧ Only regsOnly s t) ∧
  (∀ (s : Dev) (n : Fin 8),
    Does (.tdomRead n) s fun t => ((t.rdata + t.rd (R.TDOM_RD_MID n) * 2 ^ 32 + t.rd (R.TDOM_RD_HI n) * 2 ^ 64 : Nat) : Int) = s.domT n ∧
      SameRegs [R.TDOM_RD_LO n, R.TDOM_RD_MID n, R.TDOM_RD_HI n] s t ∧ Only (fun s t => { t with rdata := s.rdata }) s t) ∧
  (∀ s : Dev, s.airFollows = true → s.src ≠ 3 →
    Does .td3Reanchor s fun t => t.domOwn 3 = s.airView % 2 ^ 96 ∧ (∀ n, n ≠ 3 → t.domain n = s.domain n) ∧ SameRegs [] s t ∧
      Only (fun s t => { t with time := { t.time with dom := s.time.dom } }) s t) ∧
  (∀ (s : Dev) (v : Int) (f : Nat), s.airFollows = true → s.src ≠ 3 → s.time.hold3.last = some (v, f) → f + hz * 65536 ≤ s.time.frc →
    Does .td3RateRecord s fun t => t.time.hold3.last = some (s.airView, s.time.frc) ∧
      t.time.hold3.records.getLast? = some ((s.airView - v) * 3072 * 2 ^ 56 / (((s.time.frc : Int) - f) * 3125) - 2 ^ 56) ∧
      t.time.hold3.records.length ≤ max 16 (s.get R.TDOM_HOLD_avg) ∧ SameRegs [] s t ∧
      Only (fun s t => { t with time := { t.time with hold3 := s.time.hold3 } }) s t) ∧
  (∀ (s : Dev) (v : Int) (f : Nat), s.time.hold3.last = some (v, f) → s.time.frc < f + hz * 65536 →
    Does .td3RateRecord s fun t => SameRegs [] s t ∧ Only regsOnly s t) ∧
  (∀ s : Dev, s.airFollows = true → s.src ≠ 3 → s.time.hold3.last = none →
    Does .td3RateRecord s fun t => t.time.hold3 = { s.time.hold3 with last := some (s.airView, s.time.frc) } ∧ SameRegs [] s t ∧
      Only (fun s t => { t with time := { t.time with hold3 := s.time.hold3 } }) s t)

/-- SERVO_UPDATE, TDOM_TIMEOUT, RATE_WRITE, PHASE_ADJUST, TDOM_LOAD (R53, R56–R58, R475).
Completes: servoUpdate, tdomTimeout, rateWrite, phaseAdjust, tdomLoad. -/
def Obligations.DomainServo : Prop :=
  (∀ (s : Dev) (n : Fin 8) (e : Word), (n.val = 3 ∨ s.follows n = true ∨ s.flag (R.TDOM_DCTL_en n) = false ∨ s.flag (R.TDOM_DCTL_servo_en n) = false) →
    Does (.servoUpdate n e) s fun t => SameRegs [] s t ∧ Only regsOnly s t) ∧
  (∀ (s : Dev) (n : Fin 8) (e : Word), n.val ≠ 3 → s.follows n = false → s.flag (R.TDOM_DCTL_en n) = true → s.flag (R.TDOM_DCTL_servo_en n) = true →
    s.get (R.TDOM_STAT_state n) = 1 → s.flag (R.TDOM_SRV_step_ok n) = true → s.rd (R.TDOM_STEP n) * 256 ≤ e.toInt.natAbs → s.airSource n = false →
    Does (.servoUpdate n e) s fun t => t.domOwn n = (s.domOwn n - e.toInt * 256) % 2 ^ 96 ∧ (t.domain n).integ = 0 ∧
      t.rd (R.TDOM_LAST n) = e.toNat ∧
      (∃ l, t.raised.map evShow = s.raised.map evShow ++ (Ev.TDOM_STEP, 0xFFFF, packItems [(3, ((n : Nat) : Int)), (32, satSigned 32 (-e.toInt))]) :: l) ∧
      SameMem s t ∧ SameFlash s t) ∧
  (∀ (s : Dev) (n : Fin 8) (e : Word), n.val ≠ 3 → s.follows n = false → s.flag (R.TDOM_DCTL_en n) = true → s.flag (R.TDOM_DCTL_servo_en n) = true →
    s.get (R.TDOM_STAT_state n) = 2 →
    Does (.servoUpdate n e) s fun t => t.domOwn n = s.domOwn n ∧ t.rd (R.TDOM_LAST n) = e.toNat ∧ (t.domain n).lastMeas = s.time.clk ∧
      (t.domain n).integ = clampInt ((s.domain n).integ + e.toInt * pow2 (38 - s.logIntv n - s.get (R.TDOM_SRV_ki n)))
        (-(s.get (R.TDOM_SRV_fmax n) * 2 ^ 46 : Nat)) (s.get (R.TDOM_SRV_fmax n) * 2 ^ 46 : Nat) ∧
      SameMem s t ∧ SameFlash s t) ∧
  (∀ (s : Dev) (n : Fin 8), n.val ≠ 3 → s.follows n = false → (s.get (R.TDOM_STAT_state n) = 1 ∨ s.get (R.TDOM_STAT_state n) = 2) →
    (((if s.get (R.TDOM_LCK_meas_to n) = 0 then 256 else s.get (R.TDOM_LCK_meas_to n)) * hz : Nat) : Int) * pow2 (s.logIntv n + 8) ≤
      ((s.time.clk - (s.domain n).lastMeas : Nat) : Int) * 256 → s.rd (R.TDOM_TOUT n) < 0xFFFFFFFF →
    Does (.tdomTimeout n) s fun t => t.get (R.TDOM_STAT_state n) = 3 ∧ t.rd (R.TDOM_TOUT n) = s.rd (R.TDOM_TOUT n) + 1 ∧
      Logs s t (Ev.TDOM_TIMEOUT, 0xFFFF, [(3, ((n : Nat) : Int))]) ∧ SameMem s t ∧ SameFlash s t) ∧
  (∀ (s : Dev) (n : Fin 8), (n.val = 3 ∨ s.follows n = true) → Does (.tdomTimeout n) s fun t => SameRegs [] s t ∧ Only regsOnly s t) ∧
  (∀ (s : Dev) (n : Fin 8) (r : Word), s.flag (R.TDOM_DCTL_servo_en n) = false →
    Does (.rateWrite n r) s fun t => t.rd (R.TDOM_RATE n) = r.toNat ∧ t.domOwn n = s.domOwn n ∧ (∀ m : Nat, m ≠ n → t.domain m = s.domain m) ∧
      SameRegs [R.TDOM_RATE n] s t ∧ Only (fun s t => { t with time := { t.time with dom := s.time.dom, hold3 := s.time.hold3 } }) s t) ∧
  (∀ (s : Dev) (n : Fin 8) (r : Word), s.flag (R.TDOM_DCTL_servo_en n) = true →
    Does (.rateWrite n r) s fun t => SameRegs [] s t ∧ Only regsOnly s t) ∧
  (∀ (s : Dev) (n : Fin 8) (adj : Word), s.get (R.TDOM_STAT_state n) = 1 → s.flag (R.TDOM_SRV_step_ok n) = true → s.airSource n = false →
    Does (.phaseAdjust n adj) s fun t => t.domOwn n = (s.domOwn n + adj.toInt * 256) % 2 ^ 96 ∧ (∀ m : Nat, m ≠ n → t.domain m = s.domain m) ∧
      Raises s t [(Ev.TDOM_STEP, 0xFFFF, [(3, ((n : Nat) : Int)), (32, adj.toInt)])] ∧ SameRegs [] s t ∧
      Only (fun s t => { t with raised := s.raised, time := { t.time with dom := s.time.dom } }) s t) ∧
  (∀ (s : Dev) (n : Fin 8) (adj : Word), (s.get (R.TDOM_STAT_state n) ≠ 1 ∨ s.flag (R.TDOM_SRV_step_ok n) = false ∨ s.airSource n = true) →
    Does (.phaseAdjust n adj) s fun t => SameRegs [] s t ∧ Only regsOnly s t) ∧
  (∀ (s : Dev) (v : Word) (n : Nat), n = v.toNat % 8 → s.get (R.TDOM_STAT_state n) ≤ 1 → s.airSource n = false → n ≠ 3 → s.follows n = false →
    Does (.tdomLoad v) s fun t => t.domOwn n = s.loadTime ∧ t.getS (R.TDOM_RATE_r n) = s.getS (R.TDOM_RATE_r n) ∧
      Raises s t [(Ev.TDOM_STEP, 0xFFFF, [(3, (n : Int)), (32, satSigned 32 ((s.loadTime - s.domOwn n) / 256))])] ∧
      SameRegs [R.TDOM_LOAD_CTL] s t ∧ Only (fun s t => { t with raised := s.raised, time := { t.time with dom := s.time.dom } }) s t) ∧
  (∀ (s : Dev) (v : Word) (n : Nat), n = v.toNat % 8 → (2 ≤ s.get (R.TDOM_STAT_state n) ∨ s.airSource n = true ∨ n = 3 ∨ s.follows n = true) →
    Does (.tdomLoad v) s fun t => t.flag R.TDOM_LOAD_CTL_load_ref = true ∧ t.domOwn n = s.domOwn n ∧ SameRegs [R.TDOM_LOAD_CTL] s t ∧ Only regsOnly s t)

/-- TDOM_SWITCH, WTR_EXPIRE, RESIDUAL_SLEW_DONE, TDOM_HOLD_LIMIT, HOLDOVER_CELLS_RETURN (R59, R60, R62).
Completes: tdomSwitch, wtrExpire, tdomHoldLimit, holdoverCellsReturn, residualSlewDone. -/
def Obligations.SourceSelection : Prop :=
  (∀ (s b : Dev) (c : Instr), ((∃ (n : Fin 8) (ok : Bool), c = .tdomSwitch n ok ∧ b = s.setB (R.TDOM_DCTL_src_ok n) ok) ∨ (c = .wtrExpire ∧ b = s) ∨
      (c = .residualSlewDone ∧ s.time.resid = 0 ∧ s.time.slew = 0 ∧ b = s.setB R.TDOM_SW_STAT_slewing false)) →
    (s.airState = 3 → Does c s fun t => t.src = s.src) ∧
    (s.airState ≠ 3 → s.flag R.TDOM_SEL_forced = true → Does c s fun t => t.src = s.get R.TDOM_SEL_fdom) ∧
    (s.airState ≠ 3 → s.flag R.TDOM_SEL_forced = false → s.priorities.find? b.requalify.qualified = none → Does c s fun t => t.src = 3) ∧
    (s.airState ≠ 3 → s.flag R.TDOM_SEL_forced = false → ∀ f, s.priorities.find? b.requalify.qualified = some f →
      (s.src = 3 ∨ b.requalify.qualified s.src = false ∨ s.priorities.contains s.src = false) → Does c s fun t => t.src = f) ∧
    (s.airState ≠ 3 → s.flag R.TDOM_SEL_forced = false → b.requalify.qualified s.src = true → s.src ≠ 3 → s.priorities.contains s.src = true →
      s.get R.TDOM_SEL_wtr = 0 → Does c s fun t => t.src = s.src) ∧
    (s.airState ≠ 3 → s.airFollows = true → s.flag R.AIR_STAT_fbc = false → b.requalify.choose ≠ 3 →
      Does c s fun t => t.airView = s.airView) ∧
    Does c s fun t => SameMem s t ∧ SameFlash s t ∧ t.time.cnt = s.time.cnt) ∧
  (∀ (s : Dev) (n : Fin 8) (ok : Bool), Does (.tdomSwitch n ok) s fun t => t.flag (R.TDOM_DCTL_src_ok n) = ok) ∧
  (∀ s : Dev, s.airFollows = true → s.src = 3 → s.get R.TDOM_HOLD_lim ≠ 0 → s.time.holdLim = false →
    s.elapsed s.time.hold3.since (s.get R.TDOM_HOLD_lim * 10000) = true →
    Does .tdomHoldLimit s fun t => t.time.holdLim = true ∧ t.time.offAir = s.flag R.TDOM_HOLD_off_air ∧ SameMem s t ∧ SameFlash s t) ∧
  (∀ s : Dev, s.time.offAir = true → s.qualified s.src = true → s.resid16.natAbs < s.get (R.TDOM_LCK_lock_thr s.src) * 2 ^ 16 →
    Does .holdoverCellsReturn s fun t => t.time.offAir = false ∧ t.time.holdLim = false ∧ SameMem s t ∧ SameFlash s t)

/-- TDOM_REF_LOSS, PLL_REVERT, PLL_HOLD_EXIT, PPS_CAPTURE, TOD_MESSAGE, CLOCK_INC_WRITE, CLOCK_LOAD, FBC_DIFF_MEASURE (R63–R68).
Completes: tdomRefLoss, pllRevert, pllHoldExit, ppsCapture, todMessage, clockIncWrite, clockLoad, fbcDiffMeasure. -/
def Obligations.ReferencesAndClocks : Prop :=
  (∀ (s : Dev) (r : Fin 3) (o : Nat), s.time.pllRef = some r.val → o = (if r.val = s.primary then s.get R.TDOM_PLL_ref2 else s.primary) →
    Does (.tdomRefLoss r) s fun t => bit (t.get R.TDOM_PLL_ref_ok) r = false ∧
      ((s.setRefOk r false).refOk o = true → t.time.pllRef = some o ∧ t.flag R.TDOM_PLL_hold = false ∧
        Raises s t [(Ev.TDOM_REF_LOSS, 0xFFFF, [(2, ((r : Nat) : Int))])]) ∧
      ((s.setRefOk r false).refOk o = false → t.time.pllRef = none ∧ t.flag R.TDOM_PLL_hold = true ∧
        Raises s t [(Ev.TDOM_REF_LOSS, 0xFFFF, [(2, ((r : Nat) : Int))]), (Ev.TDOM_PLL_HOLD, 0xFFFF, [])]) ∧
      SameRegs [R.TDOM_PLL] s t ∧
      Only (fun s t => { t with raised := s.raised, time := { t.time with pllRef := s.time.pllRef, primaryOk := s.time.primaryOk } }) s t) ∧
  (∀ (s : Dev) (r : Fin 3), s.time.pllRef ≠ some r.val →
    Does (.tdomRefLoss r) s fun t => t.time.pllRef = s.time.pllRef ∧ bit (t.get R.TDOM_PLL_ref_ok) r = false ∧ SameRegs [R.TDOM_PLL] s t ∧
      Only (fun s t => { t with time := { t.time with primaryOk := s.time.primaryOk } }) s t) ∧
  (∀ (s : Dev) (t0 : Nat), s.time.primaryOk = some t0 → s.flag R.TDOM_PLL_revert = true → s.time.pllRef.isSome = true →
    s.refOk s.primary = true → s.elapsed t0 10000 = true →
    Does .pllRevert s fun t => t.time.pllRef = some s.primary ∧ t.flag R.TDOM_PLL_hold = false ∧ SameRegs [R.TDOM_PLL] s t ∧
      Only (fun s t => { t with time := { t.time with pllRef := s.time.pllRef } }) s t) ∧
  (∀ (s : Dev) (r : Fin 3), s.time.pllRef = none → r.val = s.primary →
    Does (.pllHoldExit r) s fun t => t.time.pllRef = some r.val ∧ t.flag R.TDOM_PLL_hold = false ∧
      t.time.primaryOk = (if s.refOk r then s.time.primaryOk else some s.time.clk) ∧
      bit (t.get R.TDOM_PLL_ref_ok) r = true ∧ SameRegs [R.TDOM_PLL] s t ∧
      Only (fun s t => { t with time := { t.time with pllRef := s.time.pllRef, primaryOk := s.time.primaryOk } }) s t) ∧
  (∀ (s : Dev) (i : Fin 16), s.flag R.TDOM_GNSS_en = true → (∀ t0, s.time.ppsLast = some t0 → s.elapsed t0 900 = true) → s.time.frc + i.val * 4096 < 2 ^ 96 →
    Does (.ppsCapture i) s fun t => t.rd R.TDOM_PPS_LO + t.rd R.TDOM_PPS_MID * 2 ^ 32 + t.rd R.TDOM_PPS_HI * 2 ^ 64 = s.time.frc + i.val * 4096 ∧
      t.time.ppsEdge = some (s.time.clk, s.time.frc + i.val * 4096) ∧ SameRegs [R.TDOM_PPS_LO, R.TDOM_PPS_MID, R.TDOM_PPS_HI] s t ∧
      Only (fun s t => { t with time := { t.time with ppsEdge := s.time.ppsEdge, ppsLast := s.time.ppsLast } }) s t) ∧
  (∀ (s : Dev) (i : Fin 16) (t0 : Nat), s.flag R.TDOM_GNSS_en = true → s.time.ppsLast = some t0 → s.elapsed t0 900 = false → s.rd R.TDOM_PPS_EXTRA < 0xFFFFFFFE →
    Does (.ppsCapture i) s fun t => t.rd R.TDOM_PPS_EXTRA = s.rd R.TDOM_PPS_EXTRA + 1 ∧ t.flag R.TDOM_GNSS_extra_ovf = true ∧
      SameRegs [R.TDOM_PPS_EXTRA, R.TDOM_GNSS] s t ∧ Only regsEvents s t) ∧
  (∀ (s : Dev) (sec : BitVec 48) (ok : Bool) (t0 f : Nat), s.time.ppsEdge = some (t0, f) → (s.elapsed t0 500 = false ∨ s.time.clk = t0 + hz / 2) →
    Does (.todMessage sec ok) s fun t => t.time.ppsEdge = none ∧ t.flag (R.TDOM_DCTL_src_ok 2) = ok ∧ SameMem s t ∧ SameFlash s t) ∧
  (∀ (s : Dev) (mtc : Bool) (v : Word), 19 * 2 ^ 32 ≤ v.toNat % 256 * 2 ^ 32 + s.rd (R.TDOM_CLK_INC_FRAC (b2n mtc)) →
    v.toNat % 256 * 2 ^ 32 + s.rd (R.TDOM_CLK_INC_FRAC (b2n mtc)) ≤ 21 * 2 ^ 32 →
    Does (.clockIncWrite mtc v .m) s fun t => (t.clock (b2n mtc)).pendInc = some (v.toNat % 256, s.rd (R.TDOM_CLK_INC_FRAC (b2n mtc))) ∧
      t.rd (R.TDOM_CLK_INC_INT (b2n mtc)) = v.toNat % 256 ∧ t.clock (1 - b2n mtc) = s.clock (1 - b2n mtc) ∧ Raises s t [] ∧
      SameRegs [R.TDOM_CLK_INC_INT (b2n mtc)] s t ∧ Only (fun s t => { t with time := { t.time with clock := s.time.clock } }) s t) ∧
  (∀ (s : Dev) (mtc : Bool) (v : Word), (v.toNat % 256 * 2 ^ 32 + s.rd (R.TDOM_CLK_INC_FRAC (b2n mtc)) < 19 * 2 ^ 32 ∨
      21 * 2 ^ 32 < v.toNat % 256 * 2 ^ 32 + s.rd (R.TDOM_CLK_INC_FRAC (b2n mtc))) →
    Does (.clockIncWrite mtc v .m) s fun t => t.raised.map (·.code) = s.raised.map (·.code) ++ [Ev.TDOM_INC_RANGE] ∧ SameRegs [] s t ∧ Only regsEvents s t) ∧
  (∀ (s : Dev) (mtc : Bool) (v : Word) (lvl : Level), lvl ≠ .m →
    Does (.clockIncWrite mtc v lvl) s (fun t => Raises s t [(Ev.TDOM_PRIV_WRITE, 0xFFFF,
      [(40, ((R.TDOM_CLK_INC_INT (b2n mtc) : Nat) : Int)), (4, ((Level.code lvl : Nat) : Int))])] ∧ SameRegs [] s t ∧ Only regsEvents s t) ∧
    Does (.clockLoad mtc lvl) s (fun t => Raises s t [(Ev.TDOM_PRIV_WRITE, 0xFFFF,
      [(40, ((R.TDOM_CLK_CTL (b2n mtc) : Nat) : Int)), (4, ((Level.code lvl : Nat) : Int))])] ∧ SameRegs [] s t ∧ Only regsEvents s t)) ∧
  (∀ (s : Dev) (mtc : Bool), (mtc = true ∨ s.flag R.AIR_STAT_fbc = false) →
    Does (.clockLoad mtc .m) s fun t => (t.clock (b2n mtc)).pendLoad =
        some (s.rd (R.TDOM_CLK_SET_LO (b2n mtc)) + s.get (R.TDOM_CLK_SET_HI_sec (b2n mtc)) * 2 ^ 32, s.get (R.TDOM_CLK_SET_NS_ns (b2n mtc))) ∧
      t.clock (1 - b2n mtc) = s.clock (1 - b2n mtc) ∧ SameRegs [] s t ∧ Only (fun s t => { t with time := { t.time with clock := s.time.clock } }) s t) ∧
  (∀ s : Dev, Does .fbcDiffMeasure s fun t =>
      (∀ x, x < 2 → t.getS (R.TDOM_CLK_DIFF_diff x) = satSigned 32 ((s.airView - s.clockT x) / 256)) ∧
      SameRegs [R.TDOM_CLK_DIFF 0, R.TDOM_CLK_DIFF 1] s t ∧ Only regsOnly s t)

/-- ETH_LINK_UP, ETH_LINK_DOWN, ETH_FRAME_RECEIVE, ETH_PAUSE_RECEIVE (R70–R74, R79).
Completes: ethLinkUp, ethLinkDown, ethFrameReceive, ethPauseReceive. -/
def Obligations.EthernetReceive : Prop :=
  (∀ (s : Dev) (p : Fin 16), s.portLanes p ≠ 0 → s.flag (R.ETH_PORT_STAT_link p) = false →
    Does (.ethLinkUp p) s fun t => t.flag (R.ETH_PORT_STAT_link p) = true ∧ t.flag (R.ETH_PORT_STAT_align p) = true ∧
      t.flag (R.ETH_PORT_STAT_fec_lock p) = true ∧ t.flag (R.ETH_PORT_STAT_lf p) = false ∧ t.flag (R.ETH_PORT_STAT_rf p) = false ∧
      Raises s t [(Ev.ETH_LINK_UP, p, [(4, ((p : Nat) : Int))])] ∧ SameRegs [R.ETH_PORT_STAT p] s t ∧ Only regsEvents s t) ∧
  (∀ (s : Dev) (p : Fin 16), s.portLanes p = 0 → Does (.ethLinkUp p) s fun t => SameRegs [] s t ∧ Only regsOnly s t) ∧
  (∀ (s : Dev) (p : Fin 16) (cause : BitVec 4), s.flag (R.ETH_PORT_STAT_link p) = true →
    Does (.ethLinkDown p cause) s fun t => t.flag (R.ETH_PORT_STAT_link p) = false ∧ t.flag (R.ETH_PORT_STAT_align p) = false ∧
      t.flag (R.ETH_PORT_STAT_fec_lock p) = false ∧ t.flag (R.ETH_PORT_STAT_lf p) = true ∧
      Raises s t [(Ev.ETH_LINK_DOWN, p, [(4, ((p : Nat) : Int)), (4, (cause.toNat : Int))])] ∧
      SameRegs [R.ETH_PORT_STAT p] s t ∧ Only regsEvents s t) ∧
  (∀ (s : Dev) (p : Fin 16) (frame : List Byte) (fcs : EthFec) (x : Fin 16), s.flag (R.ETH_PORT_STAT_link p) = true → fcs.unc = 0 →
    s.rd (R.ETH_RX_FCS p) < 0xFFFFFFFE →
    Does (.ethFrameReceive p frame fcs true x) s fun t => t.rd (R.ETH_RX_FCS p) = s.rd (R.ETH_RX_FCS p) + 1 ∧
      t.rd64 (R.ETH_FEC_CORR p) = (s.rd64 (R.ETH_FEC_CORR p) + fcs.corr.toNat) % 2 ^ 64 ∧
      Raises s t [(Ev.ETH_PARITY, p, [(4, ((p : Nat) : Int)), (1, 0)])] ∧
      SameRegs [R.ETH_RX_FCS p, R.ETH_FEC_CORR p, R.ETH_FEC_CORR p + 4] s t ∧ Only regsEvents s t) ∧
  (∀ (s : Dev) (p : Fin 16) (frame : List Byte) (fcs : EthFec) (x : Fin 16), s.flag (R.ETH_PORT_STAT_link p) = true → fcs.unc = 0 →
    (fcs.good = false ∨ frame.length < 64 ∨ s.maxLen p < frame.length) → s.rd (R.ETH_RX_FCS p) < 0xFFFFFFFE →
    Does (.ethFrameReceive p frame fcs false x) s fun t => t.rd (R.ETH_RX_FCS p) = s.rd (R.ETH_RX_FCS p) + 1 ∧
      t.rd64 (R.ETH_FEC_CORR p) = (s.rd64 (R.ETH_FEC_CORR p) + fcs.corr.toNat) % 2 ^ 64 ∧
      SameRegs [R.ETH_RX_FCS p, R.ETH_FEC_CORR p, R.ETH_FEC_CORR p + 4] s t ∧ Only regsOnly s t) ∧
  (∀ (s : Dev) (p : Fin 16) (frame : List Byte) (fcs : EthFec) (x : Fin 16), s.flag (R.ETH_PORT_STAT_link p) = true → fcs.unc ≠ 0 →
    s.rd (R.ETH_RX_FCS p) < 0xFFFFFFFE → s.rd (R.ETH_FEC_UNC p) + fcs.unc.toNat < 0xFFFFFFFF →
    Does (.ethFrameReceive p frame fcs false x) s fun t => t.rd (R.ETH_FEC_UNC p) = s.rd (R.ETH_FEC_UNC p) + fcs.unc.toNat ∧
      t.rd (R.ETH_RX_FCS p) = s.rd (R.ETH_RX_FCS p) + 1 ∧ t.flag (R.ETH_PORT_STAT_fec_unc p) = true ∧
      Raises s t (if s.flag (R.ETH_PORT_STAT_fec_unc p) then [] else [(Ev.ETH_FEC_UNCORR, p, [(4, ((p : Nat) : Int))])]) ∧
      SameRegs [R.ETH_RX_FCS p, R.ETH_FEC_CORR p, R.ETH_FEC_CORR p + 4, R.ETH_FEC_UNC p, R.ETH_PORT_STAT p] s t ∧ Only regsEvents s t) ∧
  (∀ (s : Dev) (p : Fin 16) (frame : List Byte) (fcs : EthFec) (lost : Bool) (x : Fin 16), s.flag (R.ETH_PORT_STAT_link p) = false →
    Does (.ethFrameReceive p frame fcs lost x) s fun t => SameRegs [] s t ∧ Only regsOnly s t) ∧
  (∀ (s : Dev) (p : Fin 16) (frame : List Byte) (fcs : EthFec) (x : Fin 16) (f : List Nat) (hit : Option Nat), f = frame.map (·.toNat) →
    s.flag (R.ETH_PORT_STAT_link p) = true → fcs.good = true → fcs.unc = 0 → overTagged f = false → 64 ≤ frame.length → frame.length ≤ s.maxLen p →
    hit = (List.range 1024).find? (fun k => s.clsMatch k p f (l2View f) (l3View f (l2View f))) →
    (hit = none → s.rd (R.ETH_CLS_MISS p) < 0xFFFFFFFE →
      Does (.ethFrameReceive p frame fcs false x) s fun t => t.rd (R.ETH_CLS_MISS p) = s.rd (R.ETH_CLS_MISS p) + 1 ∧
        t.rd64 (R.ETH_RX_FRM p) = (s.rd64 (R.ETH_RX_FRM p) + 1) % 2 ^ 64 ∧
        t.rd64 (R.ETH_RX_OCT p) = (s.rd64 (R.ETH_RX_OCT p) + frame.length) % 2 ^ 64 ∧
        SameRegs (R.ETH_CLS_MISS p :: rxRegs p) s t ∧ Only regsOnly s t) ∧
    (∀ k, hit = some k → bits (s.clsWord k 0) 6 2 = 1 →
      Does (.ethFrameReceive p frame fcs false x) s fun t => t.rd64 (R.ETH_RX_FRM p) = (s.rd64 (R.ETH_RX_FRM p) + 1) % 2 ^ 64 ∧
        ((l2View f).etype = 0x88F7 → ∃ ts, t.eth.timing = s.eth.timing ++ [(ts, (p : Nat), f)]) ∧
        ((l2View f).etype ≠ 0x88F7 → (l2View f).etype ≠ 0x8809 → t.eth.timing = s.eth.timing) ∧
        SameRegs (rxRegs p) s t ∧
        Only (fun s t => { t with eth := { t.eth with timing := s.eth.timing } }) s t) ∧
    (∀ k, hit = some k → bits (s.clsWord k 0) 6 2 = 2 →
      Does (.ethFrameReceive p frame fcs false x) s fun t =>
        SameRegs (rxRegs p) s t ∧ Only regsOnly s t) ∧
    (∀ k, hit = some k → bits (s.clsWord k 0) 6 2 = 3 →
      Does (.ethFrameReceive p frame fcs false x) s fun t => t.eth.clsLogged.contains k = true ∧
        t.raised.map (·.code) = s.raised.map (·.code) ++ (if s.eth.clsLogged.contains k then [] else [Ev.ETH_CLS_BAD]) ∧
        SameRegs (rxRegs p) s t ∧
        Only (fun s t => { t with raised := s.raised, eth := { t.eth with clsLogged := s.eth.clsLogged } }) s t) ∧
    (∀ k i q n off, hit = some k → bits (s.clsWord k 0) 6 2 = 0 → i = bits (s.clsWord k 0) 8 8 → q = s.get (R.ETH_RXQ_CFG_ring i) →
      n = (frame.length + 79) / 64 * 8 → off = s.ringHead q * 4096 + s.ringW q % 512 * 8 →
      s.flag (R.ETH_RXQ_CFG_en i) = true → s.ringValid q = true → s.ringStalled q = [] → s.ringW q + n ≤ s.ringOldest q + s.ringCap q →
      0 < s.ringW q % 512 → s.ringW q % 512 + n ≤ 512 → s.ringW q + n < 2 ^ 64 → (∀ j, j < 2 → tget 0 s.fex.debt (q * 2 + j) = 0) → 80 ≤ s.ringHead q →
      Does (.ethFrameReceive p frame fcs false x) s fun t => t.ringW q = s.ringW q + n ∧
        (∃ ts : Int, t.sword off + t.sword (off + 8) * 2 ^ 64 = rxHeader ts frame.length p k (l3View f (l2View f)).l3ok (l4ok f (l3View f (l2View f))) (l2View f).tagged) ∧
        (∀ j, j < 8 * n - 16 → t.byte (storeBase + off + 16 + j) = lget 0 f j) ∧
        tget 0 t.eth.rxCount i = (if max 1 (s.get (R.ETH_RXQ_CFG_coal i)) ≤ tget 0 s.eth.rxCount i + 1 then 0 else tget 0 s.eth.rxCount i + 1) ∧
        t.rd (R.ETH_RXQ_DROP p) = s.rd (R.ETH_RXQ_DROP p) ∧
        (∀ a, (a < storeBase + q * 64 ∨ storeBase + q * 64 + 64 ≤ a) → (a < storeBase + off ∨ storeBase + off + 8 * n ≤ a) → t.byte a = s.byte a) ∧ SameFlash s t) ∧
    (∀ k, hit = some k → bits (s.clsWord k 0) 6 2 = 0 → (s.flag (R.ETH_RXQ_CFG_en (bits (s.clsWord k 0) 8 8)) = false ∨
        s.roomWords (s.get (R.ETH_RXQ_CFG_ring (bits (s.clsWord k 0) 8 8))) < (frame.length + 79) / 64 * 8) →
      s.rd (R.ETH_RXQ_DROP p) < 0xFFFFFFFE →
      Does (.ethFrameReceive p frame fcs false x) s fun t => t.rd (R.ETH_RXQ_DROP p) = s.rd (R.ETH_RXQ_DROP p) + 1 ∧
        t.raised.map (·.code) = s.raised.map (·.code) ++ [Ev.ETH_RXQ_DROP] ∧
        SameRegs (R.ETH_RXQ_DROP p :: rxRegs p) s t ∧ Only regsEvents s t)) ∧
  (∀ (s : Dev) (p : Fin 16) (quanta : BitVec 16), s.flag (R.ETH_PORT_STAT_link p) = true →
    Does (.ethPauseReceive p none quanta) s fun t => (∀ c, c < 8 → tget 0 (t.port p).paused c =
        s.time.clk + quanta.toNat * 512 * 98304 / (10000000 * max 1 (s.portLanes p))) ∧
      (s.rd (R.ETH_PAUSE_RX p) < 0xFFFFFFFE → t.rd (R.ETH_PAUSE_RX p) = s.rd (R.ETH_PAUSE_RX p) + 1) ∧ SameMem s t ∧ SameFlash s t) ∧
  (∀ (s : Dev) (p : Fin 16) (m : BitVec 8) (quanta : BitVec 16), s.flag (R.ETH_PORT_STAT_link p) = true →
    Does (.ethPauseReceive p (some m) quanta) s fun t => (∀ c, c < 8 → tget 0 (t.port p).paused c =
        if s.flag (R.ETH_PORT_CFG_pfc_en p) && bit m.toNat c && bit (s.get (R.ETH_PORT_CFG_pfc_pri p)) c then
          s.time.clk + quanta.toNat * 512 * 98304 / (10000000 * max 1 (s.portLanes p))
        else tget 0 (s.port p).paused c) ∧
      SameRegs [] s t ∧ Only (fun s t => { t with eth := { t.eth with port := s.eth.port } }) s t)

/-- TXQ_DOORBELL, ETH_FRAME_SEND, ETH_FRAME_LAUNCH (R75–R79).
Completes: txqDoorbell, ethFrameSend, ethFrameLaunch. -/
def Obligations.EthernetTransmit : Prop :=
  (∀ (s : Dev) (i : Fin 256) (n : BitVec 16),
    Does (.txqDoorbell i n) s fun t => (t.txq i).posted = (s.txq i).posted + n.toNat ∧
      (n ≠ 0 → (s.txq i).posts = [] → (t.txq i).headAt = s.time.cnt) ∧ ((s.txq i).posts ≠ [] → (t.txq i).headAt = (s.txq i).headAt) ∧ (∀ j : Nat, j ≠ i → t.txq j = s.txq j) ∧
      SameRegs [] s t ∧ Only (fun s t => { t with eth := { t.eth with txq := s.eth.txq } }) s t) ∧
  (∀ (s : Dev) (p : Fin 16) (lost : Bool), (s.flag (R.ETH_PORT_STAT_link p) = false ∨ s.time.cnt < (s.port p).busyUntil) →
    Does (.ethFrameSend p lost) s fun t => SameRegs [] s t ∧ Only regsOnly s t) ∧
  (∀ (s : Dev) (p : Fin 16) (i : Nat) (lost : Bool), s.flag (R.ETH_PORT_STAT_link p) = true → (s.port p).busyUntil ≤ s.time.cnt →
    (s.portQueues p).find? (fun i => s.txBad p (s.txHead i)) = some i →
    Does (.ethFrameSend p lost) s fun t => (t.txq i).posted = (s.txq i).posted - 1 ∧ t.port p = s.port p ∧
      (s.rd (R.ETH_TX_BAD p) < 0xFFFFFFFE → t.rd (R.ETH_TX_BAD p) = s.rd (R.ETH_TX_BAD p) + 1) ∧
      (∃ l, t.raised.map (·.code) = s.raised.map (·.code) ++ l ∧ Ev.ETH_TX_BAD ∈ l) ∧
      (∀ c off, c = s.get (R.ETH_TXQ_CFG_cring i) → off = s.ringHead c * 4096 + s.ringW c % 512 * 8 → (s.txHead i).ts = true → s.ringValid c = true →
        s.ringStalled c = [] → s.ringW c + 2 ≤ s.ringOldest c + s.ringCap c → 0 < s.ringW c % 512 → s.ringW c % 512 + 2 ≤ 512 → s.ringW c + 2 < 2 ^ 64 →
        (∀ j, j < 2 → tget 0 s.fex.debt (c * 2 + j) = 0) → 80 ≤ s.ringHead c → c ≠ s.get (R.ETH_TXQ_CFG_dring i) →
        t.ringW c = s.ringW c + 2 ∧ t.sword off % 2 ^ 32 = (s.txHead i).seq % 2 ^ 32 ∧ t.sword (off + 8) / 2 ^ 48 % 16 = 3) ∧ SameFlash s t) ∧
  (∀ (s : Dev) (p : Fin 16) (i : Nat) (lost : Bool), s.flag (R.ETH_PORT_STAT_link p) = true → (s.port p).busyUntil ≤ s.time.cnt →
    (s.portQueues p).find? (fun i => s.txBad p (s.txHead i)) = none → winner s ((s.portQueues p).filter (s.txReady p)) = some i →
    Does (.ethFrameSend p lost) s fun t => (t.port p).busyUntil = s.time.cnt + s.wireTc p (s.txHead i).len ∧
      ((s.txHead i).oneStep = false → (t.port p).sent = some (txChecksums (s.txHead i) (s.storeBytes (s.txHead i).addr (s.txHead i).len), lost)) ∧
      t.rd64 (R.ETH_TX_FRM p) = (s.rd64 (R.ETH_TX_FRM p) + 1) % 2 ^ 64 ∧
      t.rd64 (R.ETH_TX_OCT p) = (s.rd64 (R.ETH_TX_OCT p) + ((s.txHead i).len + 4)) % 2 ^ 64 ∧
      (t.txq i).posted = (s.txq i).posted - 1 ∧ SameFlash s t) ∧
  (∀ (s : Dev) (q : Fin 256) (lost : Bool) (p : Nat), p = s.get (R.ETH_TXQ_CFG_port q) → 0 < (s.txq q).posted → s.flag (R.ETH_TXQ_CFG_en q) = true →
    s.flag (R.ETH_PORT_STAT_link p) = true → s.txBad p (s.txHead q) = false → (s.txHead q).launch ≠ 0 →
    ((s.txHead q).launch < (s.txq q).headAt + tickTc →
      Does (.ethFrameLaunch q lost) s fun t => (t.txq q).posted = (s.txq q).posted - 1 ∧ t.port p = s.port p ∧
        t.flag (R.ETH_PORT_STAT_tx_late p) = true ∧ (s.rd (R.ETH_TX_LATE p) < 0xFFFFFFFE → t.rd (R.ETH_TX_LATE p) = s.rd (R.ETH_TX_LATE p) + 1) ∧
        SameFlash s t) ∧
    ((s.txq q).headAt + tickTc ≤ (s.txHead q).launch → 2 ≤ s.airState → s.classPaused p (s.get (R.ETH_TXQ_CFG_tc q)) = false → (s.txHead q).launch ≤ s.time.cnt →
      (s.port p).busyUntil ≤ (s.txHead q).launch →
      Does (.ethFrameLaunch q lost) s fun t => (t.port p).busyUntil = (s.txHead q).launch + s.wireTc p (s.txHead q).len ∧
        t.rd64 (R.ETH_TX_FRM p) = (s.rd64 (R.ETH_TX_FRM p) + 1) % 2 ^ 64 ∧ (t.txq q).posted = (s.txq q).posted - 1 ∧ SameFlash s t) ∧
    ((s.txq q).headAt + tickTc ≤ (s.txHead q).launch → 2 ≤ s.airState → s.classPaused p (s.get (R.ETH_TXQ_CFG_tc q)) = false → (s.txHead q).launch ≤ s.time.cnt →
      (s.txHead q).launch < (s.port p).busyUntil →
      Does (.ethFrameLaunch q lost) s fun t => (t.port p).busyUntil = (s.port p).busyUntil + s.wireTc p (s.txHead q).len ∧
        t.flag (R.ETH_PORT_STAT_tx_slip p) = true ∧ (t.txq q).posted = (s.txq q).posted - 1 ∧ SameFlash s t))

/-- STORE_READ, STORE_WRITE, STO_REGEN_DONE (R168, R169, R182–R184).
Completes: storeRead, storeWrite, stoRegenDone. -/
def Obligations.StoreLines : Prop :=
  (∀ (s : Dev) (line : BitVec 20) (word : Fin 8), s.poisoned (line.toNat * 64) = false →
    Does (.storeRead line word 0 0 0 none) s fun t => t.sto.readLine = s.lineOf line.toNat ∧ t.sto.readStatus = 0 ∧ SameRegs [] s t ∧
      Only (fun s t => { t with sto := { t.sto with readLine := s.sto.readLine, readStatus := s.sto.readStatus } }) s t) ∧
  (∀ (s : Dev) (line : BitVec 20) (word : Fin 8) (reader : Option (Fin 4096 × Fin 2 × Fin 9)), s.poisoned (line.toNat * 64) = false →
    (∀ k j n, reader = some (k, j, n) → s.ringValid k = true) →
    Does (.storeRead line word 0 0 0 reader) s fun t => t.sto.readLine = s.lineOf line.toNat ∧ t.sto.readStatus = 0 ∧ SameFlash s t) ∧
  (∀ (s : Dev) (line : BitVec 20) (word : Fin 8) (reader : Option (Fin 4096 × Fin 2 × Fin 9)), s.poisoned (line.toNat * 64) = true →
    Does (.storeRead line word 0 0 0 reader) s fun t => t.sto.readLine = List.replicate 8 0 ∧ t.sto.readStatus = 1 ∧ SameFlash s t) ∧
  (∀ (s : Dev) (line : BitVec 20) (word : Fin 8), s.poisoned (line.toNat * 64) = false → s.rd R.STO_PERR_XFER < 0xFFFFFFFE →
    Does (.storeRead line word 1 0 0 none) s fun t => t.sto.readLine = s.lineOf line.toNat ∧ t.sto.readStatus = 0 ∧
      t.rd R.STO_PERR_XFER = s.rd R.STO_PERR_XFER + 1 ∧
      Raises s t [(Ev.STO_PERR_REPLAY, 0xFFFF, [(2, 0), (20, (line.toNat : Int))])] ∧
      SameRegs [R.STO_STAT, R.STO_PERR_XFER, R.STO_PERR_ADDR] s t ∧ SameMem s t ∧ SameFlash s t) ∧
  (∀ (s : Dev) (line : BitVec 20) (word : Fin 8), s.poisoned (line.toNat * 64) = false → 5120 ≤ line.toNat → line.toNat < 2 ^ 20 →
    s.rd R.STO_PERR_STORED < 0xFFFFFFFE → s.rd R.STO_ERASED < 0xFFFFFFFE →
    Does (.storeRead line word 0 2 0 none) s fun t => t.poisoned (line.toNat * 64) = true ∧ t.sto.readLine = List.replicate 8 0 ∧
      t.sto.readStatus ≠ 0 ∧ (s.lineRing line.toNat = none → t.sto.readStatus = 2) ∧
      (∀ k, s.lineRing line.toNat = some k → s.ringKind k ≠ 0 → t.sto.readStatus = 2) ∧
      (∀ k, s.lineRing line.toNat = some k → s.ringKind k = 0 → t.sto.readStatus = 1) ∧
      t.rd R.STO_PERR_STORED = s.rd R.STO_PERR_STORED + 1 ∧ (∃ l, t.raised.map (·.code) = s.raised.map (·.code) ++ Ev.STO_PERR_STORED :: l) ∧
      SameMem s t ∧ SameFlash s t) ∧
  (∀ (s : Dev) (line : BitVec 20) (mask : BitVec 8) (words : Vector (BitVec 64) 8) (erase : Bool) (hop : WriteHop), mask ≠ 0 → hop.fails = 0 →
    Does (.storeWrite line mask words erase hop) s fun t =>
      (∀ i : Fin 8, mask.toNat.testBit i = true → t.sword (line.toNat * 64 + i * 8) = (words.get i).toNat) ∧
      (∀ a, (∀ i : Fin 8, mask.toNat.testBit i = true →
          a < storeBase + line.toNat * 64 + i * 8 ∨ storeBase + line.toNat * 64 + i * 8 + 8 ≤ a) → t.byte a = s.byte a) ∧
      t.poisoned (line.toNat * 64) = (if mask = 0xFF then erase else s.poisoned (line.toNat * 64)) ∧
      SameRegs [] s t ∧ SameFlash s t) ∧
  (∀ (s : Dev) (line : BitVec 20) (mask : BitVec 8) (words : Vector (BitVec 64) 8) (erase : Bool) (hop : WriteHop), mask ≠ 0 → hop.fails = 3 →
    s.rd R.STO_PERR_LOST < 0xFFFFFFFE → s.rd R.STO_PERR_XFER < 0xFFFFFFFC →
    Does (.storeWrite line mask words erase hop) s fun t => t.poisoned (line.toNat * 64) = true ∧
      t.rd R.STO_PERR_LOST = s.rd R.STO_PERR_LOST + 1 ∧ t.rd R.STO_PERR_XFER = s.rd R.STO_PERR_XFER + 2 ∧
      t.get R.STO_PERR_ADDR_line = line.toNat ∧ t.get R.STO_PERR_ADDR_word = hop.word ∧ SameFlash s t) ∧
  (∀ (s : Dev) (line : BitVec 20) (words : Vector (BitVec 64) 8) (erase : Bool) (hop : WriteHop),
    Does (.storeWrite line 0 words erase hop) s fun t => SameRegs [] s t ∧ Only regsOnly s t) ∧
  (∀ (s : Dev) (k : Fin 4096) (u : RegenUnit) (r : RegenReq) (src : Nat), s.sto.regen.find? (fun r => r.ring == (k : Nat)) = some r →
    s.ringValid k = true → src = s.ringSrc k → src ≠ 0xFFF → s.hasReader src u.reader = true → s.rewindStatus src u.reader = 0 →
    s.regenFits k u r = true →
    Does (.stoRegenDone k u) s fun t => t.sto.regen = s.sto.regen.erase r ∧
      (s.rd R.STO_REGEN < 0xFFFFFFFE → t.rd R.STO_REGEN = s.rd R.STO_REGEN + 1) ∧
      (∃ l, t.raised.map evShow = s.raised.map evShow ++ l ++ [(Ev.STO_REGEN_DONE, 0xFFFF, packItems [(12, ((k : Nat) : Int)), (32, (r.words : Int))])]) ∧
      (∀ (l : Vector (BitVec 64) 8) (e : Bool) (off : Nat), u.lines = [(l, e)] → off = s.ringOff k u.at_.toNat → 80 * 4096 ≤ off → off < 2 ^ 26 →
        src ≠ k → s.ringHeld src ≤ s.ringBase src → (∀ i : Fin 8, t.sword (off + i * 8) = (l.get i).toNat) ∧ t.poisoned off = e ∧
          (∀ a, (a < storeBase + src * 64 ∨ storeBase + src * 64 + 64 ≤ a) → (a < storeBase + off ∨ storeBase + off + 64 ≤ a) →
            t.byte a = s.byte a)) ∧ SameFlash s t) ∧
  (∀ (s : Dev) (k : Fin 4096) (u : RegenUnit) (r : RegenReq) (src : Nat), s.sto.regen.find? (fun r => r.ring == (k : Nat)) = some r →
    s.ringValid k = true → src = s.ringSrc k → (src = 0xFFF ∨ s.hasReader src u.reader = false ∨ s.rewindStatus src u.reader ≠ 0) →
    Does (.stoRegenDone k u) s fun t => t.poisoned (r.line * 64) = s.poisoned (r.line * 64) ∧ t.sto.regen = s.sto.regen.erase r ∧
      (s.rd R.STO_ERASED < 0xFFFFFFFE → t.rd R.STO_ERASED = s.rd R.STO_ERASED + 1) ∧
      (src = 0xFFF ∨ s.ringHeld src ≤ s.ringBase src → SameMem s t) ∧ SameFlash s t)

/-- CREATE, DESTROY, ZERO_COUNTS, QUOTA_WRITE, STO_PEAK_CLEAR (R171, R174, R178).
Completes: create, destroy, zeroCounts, quotaWrite, stoPeakClear. -/
def Obligations.RingCommands : Prop :=
  (∀ (s : Dev) (k : Fin 4096), s.createResult k = 0 →
    Does (.create k) s fun t => t.ringValid k = true ∧ t.ringHeld k = s.ringBase k ∧ t.ringW k = 0 ∧ t.ringR k 0 = 0 ∧ t.ringR k 1 = 0 ∧
      t.get R.STO_RCMD_STAT_result = 0 ∧ Raises s t [] ∧ SameFlash s t) ∧
  (∀ (s : Dev) (k : Fin 4096), s.createResult k ≠ 0 →
    Does (.create k) s fun t => t.get R.STO_RCMD_STAT_result = s.createResult k ∧
      Raises s t [(Ev.STO_CMD_BAD, 0xFFFF, [(12, ((k : Nat) : Int)), (4, 1), (3, (s.createResult k : Int))])] ∧
      SameRegs [R.STO_RCMD_STAT] s t ∧ Only regsEvents s t) ∧
  (∀ (s : Dev) (k : Fin 4096), s.ringValid k = true →
    Does (.destroy k) s fun t => t.ringValid k = false ∧ t.ringHeld k = 0 ∧ t.ringStalled k = [] ∧ t.get R.STO_RCMD_STAT_result = 0 ∧ SameFlash s t) ∧
  (∀ (s : Dev) (k : Fin 4096), s.ringValid k = false →
    Does (.destroy k) s (fun t => t.get R.STO_RCMD_STAT_result = 3 ∧ SameRegs [R.STO_RCMD_STAT] s t ∧ Only regsEvents s t) ∧
    Does (.zeroCounts k) s (fun t => t.get R.STO_RCMD_STAT_result = 3 ∧ SameRegs [R.STO_RCMD_STAT] s t ∧ Only regsEvents s t)) ∧
  (∀ (s : Dev) (k : Fin 4096), s.ringValid k = true →
    Does (.zeroCounts k) s fun t => t.rw k 13 = 0 ∧ t.rw k 14 = 0 ∧ (∀ j, j < 2 → t.ringLost k j = false ∧ t.ringOvr k j = false) ∧
      t.get R.STO_RCMD_STAT_result = 0 ∧ SameFlash s t) ∧
  (∀ (s b : Dev) (c : Fin 16) (v : Word), b = s.wr (R.STO_CLS c) (v.toNat &&& 0x3FFFBFFF) →
    (b.partQuota (b.clsTbl c) ≤ b.partSize (b.clsTbl c) → b.partOwed (b.clsTbl c) ≤ b.partFree (b.clsTbl c) →
      Does (.quotaWrite c v) s fun t => t.rd (R.STO_CLS c) = v.toNat &&& 0x3FFFBFFF ∧ SameRegs [R.STO_CLS c] s t ∧ Only regsOnly s t) ∧
    ((b.partSize (b.clsTbl c) < b.partQuota (b.clsTbl c) ∨
        ((s.clsQuota c < b.clsQuota c ∨ s.clsTbl c ≠ b.clsTbl c) ∧ b.partFree (b.clsTbl c) < b.partOwed (b.clsTbl c))) →
      Does (.quotaWrite c v) s fun t => t.rd (R.STO_CLS c) = s.rd (R.STO_CLS c) ∧ t.flag R.STO_STAT_quota_bad = true ∧
        t.raised.map (·.code) = s.raised.map (·.code) ++ [Ev.STO_QUOTA_BAD] ∧ SameRegs [R.STO_STAT] s t ∧ Only regsEvents s t)) ∧
  (∀ s : Dev, Does .stoPeakClear s fun t => (∀ c, c < 16 → t.get (R.STO_CLS_HELD_peak c) = s.clsHeld c ∧ t.clsHeld c = s.clsHeld c) ∧
      SameRegs ((List.range 16).map R.STO_CLS_HELD) s t ∧ Only regsOnly s t)

/-- RING_WRITE, STALLED_WRITE_RESUME, RP_ADV, MARK, UNMARK, REWIND (R175–R180).
Completes: ringWrite, stalledWriteResume, rpAdv, mark, unmark, rewind. -/
def Obligations.RingPorts : Prop :=
  (∀ (s : Dev) (k : Fin 4096) (v : BitVec 64) (erase : Bool) (h off : Nat), s.ringValid k = true → s.ringStalled k = [] →
    s.ringW k - s.ringOldest k < s.ringCap k → s.ringW k + 1 < 2 ^ 64 → (∀ j, j < 2 → tget 0 s.fex.debt (k * 2 + j) = 0) →
    h = (if s.ringW k % 512 = 0 ∧ 0 < s.ringW k then s.succ (s.ringHead k) else s.ringHead k) → off = h * 4096 + s.ringW k % 512 * 8 → 80 ≤ h →
    Does (.ringWrite k [v] erase) s fun t => t.ringW k = s.ringW k + 1 ∧ t.sword off = v.toNat ∧ t.poisoned off = s.poisoned off ∧
      (∀ a, (a < storeBase + k * 64 ∨ storeBase + k * 64 + 64 ≤ a) → (a < storeBase + off ∨ storeBase + off + 8 ≤ a) → t.byte a = s.byte a) ∧
      SameFlash s t) ∧
  (∀ (s : Dev) (k : Fin 4096) (l : Vector (BitVec 64) 8) (erase : Bool) (h off : Nat), s.ringValid k = true → s.ringStalled k = [] →
    s.ringW k + 7 - s.ringOldest k < s.ringCap k → s.ringW k + 8 < 2 ^ 64 → (∀ j, j < 2 → tget 0 s.fex.debt (k * 2 + j) = 0) → s.ringW k % 8 = 0 →
    h = (if s.ringW k % 512 = 0 ∧ 0 < s.ringW k then s.succ (s.ringHead k) else s.ringHead k) → off = h * 4096 + s.ringW k % 512 * 8 → 80 ≤ h →
    Does (.ringWrite k l.toList erase) s fun t => t.ringW k = s.ringW k + 8 ∧ (∀ i : Fin 8, t.sword (off + i * 8) = (l.get i).toNat) ∧
      t.poisoned off = erase ∧
      (∀ a, (a < storeBase + k * 64 ∨ storeBase + k * 64 + 64 ≤ a) → (a < storeBase + off ∨ storeBase + off + 64 ≤ a) → t.byte a = s.byte a) ∧
      SameFlash s t) ∧
  (∀ (s : Dev) (k : Fin 4096) (v : BitVec 64) (erase : Bool), s.ringValid k = true → s.ringStalled k = [] → s.ringHold k = true →
    s.ringCap k ≤ s.ringW k - s.ringOldest k → (s.grainRequest k).1 = none → (∀ j, j < 2 → tget 0 s.fex.debt (k * 2 + j) = 0) →
    Does (.ringWrite k [v] erase) s fun t => t.ringStalled k = [(v.toNat, erase)] ∧ t.ringW k = s.ringW k ∧
      (s.rd R.STO_ALLOC_REF < 0xFFFFFFFE → t.rd R.STO_ALLOC_REF = s.rd R.STO_ALLOC_REF + 1) ∧ SameMem s t ∧ SameFlash s t) ∧
  (∀ (s : Dev) (k : Fin 4096) (ws : List (BitVec 64)) (erase : Bool), s.ringValid k = false → s.ringStalled k = [] →
    Does (.ringWrite k ws erase) s fun t => SameMem s t ∧ SameFlash s t) ∧
  (∀ (s : Dev) (k : Fin 4096) (v : Nat) (e : Bool), s.ringStalled k = [(v, e)] → s.ringValid k = true →
    s.ringW k - s.ringOldest k < s.ringCap k → s.ringW k + 1 < 2 ^ 64 → 80 ≤ s.ringHead k → 80 ≤ s.succ (s.ringHead k) →
    Does (.stalledWriteResume k) s fun t => t.ringStalled k = [] ∧ t.ringW k = s.ringW k + 1 ∧ SameFlash s t) ∧
  (∀ (s : Dev) (k : Fin 4096), s.ringStalled k = [] → Does (.stalledWriteResume k) s fun t => SameRegs [] s t ∧ Only regsOnly s t) ∧
  (∀ (s : Dev) (k : Fin 4096) (j : Fin 2) (n : BitVec 19), s.hasReader k j = true →
    Does (.rpAdv k j n) s fun t => t.ringR k j = min (s.ringR k j + n.toNat) (s.ringW k) ∧ t.ringW k = s.ringW k ∧
      (s.ringHeld k ≤ s.ringBase k → ∀ a, (a < storeBase + k * 64 ∨ storeBase + k * 64 + 64 ≤ a) → t.byte a = s.byte a) ∧ SameFlash s t) ∧
  (∀ (s : Dev) (k : Fin 4096) (j : Fin 2), s.hasReader k j = true →
    Does (.mark k j) s (fun t => t.ringMark k j = s.ringR k j ∧ t.ringMv k j = true ∧
      t.ringLost k j = (s.ringLost k j && tget none s.sto.lostAt (k * 2 + j) == some s.time.clk) ∧ t.ringR k j = s.ringR k j ∧
      (s.ringHeld k ≤ s.ringBase k → ∀ a, (a < storeBase + k * 64 ∨ storeBase + k * 64 + 64 ≤ a) → t.byte a = s.byte a) ∧ SameFlash s t) ∧
    Does (.unmark k j) s (fun t => t.ringMv k j = false ∧ t.ringR k j = s.ringR k j ∧
      (s.ringHeld k ≤ s.ringBase k → ∀ a, (a < storeBase + k * 64 ∨ storeBase + k * 64 + 64 ≤ a) → t.byte a = s.byte a) ∧ SameFlash s t) ∧
    Does (.rewind k j) s (fun t => t.ringR k j = (if s.ringMv k j then s.ringMark k j else s.ringR k j) ∧
      t.get (if (j : Nat) = 0 then R.RP_STAT_rw0 k else R.RP_STAT_rw1 k) = s.rewindStatus k j ∧
      (s.ringHeld k ≤ s.ringBase k → ∀ a, (a < storeBase + k * 64 ∨ storeBase + k * 64 + 64 ≤ a) → t.byte a = s.byte a) ∧ SameFlash s t)) ∧
  (∀ (s : Dev) (k : Fin 4096) (j : Fin 2) (n : BitVec 19), s.hasReader k j = false →
    ∀ c ∈ [Instr.rpAdv k j n, .mark k j, .unmark k j, .rewind k j], Does c s fun t => SameRegs [] s t ∧ Only regsOnly s t)

/-- SCRUB_REQUEST, SCRUB_SLOT, SCRUB_FORCED, FIFO_WRITE, FIFO_READ, XF_CLEAR, BRIDGE_TRANSFER (R17, R186, R187, R192, R193).
Completes: bridgeTransfer, scrubRequest, scrubSlot, scrubForced, xfClear, fifoWrite, fifoRead. -/
def Obligations.ScrubAndCrossings : Prop :=
  (∀ (s : Dev) (b : Fin 256), s.flag R.STO_CTL_scrub_en = true → (s.scrubBank b).req = false → (s.scrubBank b).done = false →
    (s.scrubBank b).last * 625 + s.scrubIntv * 512 ≤ s.time.clk * 625 →
    Does (.scrubRequest b) s fun t => (t.scrubBank b).req = true ∧ (∀ c : Nat, c ≠ b → t.scrubBank c = s.scrubBank c) ∧ SameRegs [] s t ∧
      Only (fun s t => { t with sto := { t.sto with scrub := s.sto.scrub } }) s t) ∧
  (∀ (s : Dev) (b : Fin 256) (err : Option (Fin 8)) (line : Nat), (s.scrubBank b).req = true → line = storeLine b (s.scrubBank b).row / 64 →
    s.grainFree (line / 64) = true → (s.scrubBank b).row < 4095 → s.sto.scrubDone < 256 →
    Does (.scrubSlot b err) s fun t => (∀ i, i < 64 → t.byte (storeBase + line * 64 + i) = 0) ∧ t.poisoned (line * 64) = false ∧
      (t.scrubBank b).row = (s.scrubBank b).row + 1 ∧ (t.scrubBank b).req = false ∧
      (∀ a, (a < storeBase + line * 64 ∨ storeBase + line * 64 + 64 ≤ a) → t.byte a = s.byte a) ∧ SameFlash s t) ∧
  (∀ (s : Dev) (b : Fin 256) (line : Nat), (s.scrubBank b).req = true → line = storeLine b (s.scrubBank b).row / 64 →
    s.grainFree (line / 64) = false → (s.scrubBank b).row < 4095 → s.sto.scrubDone < 256 →
    Does (.scrubSlot b none) s fun t => (t.scrubBank b).row = (s.scrubBank b).row + 1 ∧ (t.scrubBank b).req = false ∧ SameMem s t ∧ SameFlash s t) ∧
  (∀ (s : Dev) (b : Fin 256) (err : Option (Fin 8)), (s.scrubBank b).req = true → (s.scrubBank b).row < 4095 → s.sto.scrubDone < 256 →
    Does (.scrubForced b err) s fun t => t.rd64 R.STO_SCRUB_FORCED = (s.rd64 R.STO_SCRUB_FORCED + 1) % 2 ^ 64 ∧ (t.scrubBank b).req = false ∧ SameFlash s t) ∧
  (∀ (s : Dev) (id : BitVec 16) (v : BitVec 512) (erase : Bool) (depth width : Nat), fifoShape id.toNat = some (depth, width) →
    ((s.fifo id.toNat).wptr + 2 * depth - (s.fifo id.toNat).rptr) % (2 * depth) ≠ depth →
    Does (.fifoWrite id v erase true) s fun t => (t.fifo id.toNat).entries = (s.fifo id.toNat).entries ++ [(v.toNat % 2 ^ width, erase)] ∧
      (t.fifo id.toNat).wptr = ((s.fifo id.toNat).wptr + 1) % (2 * depth) ∧ SameRegs [] s t ∧
      Only (fun s t => { t with sto := { t.sto with xf := s.sto.xf } }) s t) ∧
  (∀ (s : Dev) (id : BitVec 16) (v : BitVec 512) (erase : Bool) (depth width : Nat), fifoShape id.toNat = some (depth, width) →
    ((s.fifo id.toNat).wptr + 2 * depth - (s.fifo id.toNat).rptr) % (2 * depth) = depth →
    Does (.fifoWrite id v erase true) s fun t => (t.fifo id.toNat).entries = (s.fifo id.toNat).entries ∧ (t.fifo id.toNat).ovf = true ∧
      (s.rd R.STO_XF_OVF < 0xFFFFFFFE → t.rd R.STO_XF_OVF = s.rd R.STO_XF_OVF + 1) ∧ SameMem s t ∧ SameFlash s t) ∧
  (∀ (s : Dev) (id : BitVec 16) (stream : Option (Fin 2048)) (depth width : Nat) (e : Nat × Bool) (r : List (Nat × Bool)),
    fifoShape id.toNat = some (depth, width) → (s.fifo id.toNat).entries = e :: r → (s.fifo id.toNat).rptr ≠ (s.fifo id.toNat).wptr →
    Does (.fifoRead id 0 stream true) s fun t => (t.fifo id.toNat).entries = r ∧ (t.fifo id.toNat).last = e.1 ∧ (t.fifo id.toNat).lastErase = e.2 ∧
      (t.fifo id.toNat).lastErr = false ∧ SameRegs [] s t ∧
      (∀ a, stream = some a → e.2 = true → ((a : Nat), s.time.cnt, bit id.toNat 11) ∈ t.fex.lost) ∧
      (stream = none ∨ e.2 = false → t.fex = s.fex) ∧
      Only (fun s t => { t with sto := { t.sto with xf := s.sto.xf }, fex := { t.fex with lost := s.fex.lost } }) s t) ∧
  (∀ (s : Dev) (id : BitVec 16) (stream : Option (Fin 2048)) (depth width : Nat) (e : Nat × Bool) (r : List (Nat × Bool)),
    fifoShape id.toNat = some (depth, width) → (s.fifo id.toNat).entries = e :: r → (s.fifo id.toNat).rptr ≠ (s.fifo id.toNat).wptr →
    s.rd R.STO_PERR_LOST < 0xFFFFFFFE → s.rd R.STO_PERR_XFER < 0xFFFFFFFC →
    Does (.fifoRead id 3 stream true) s fun t => (t.fifo id.toNat).entries = r ∧ (t.fifo id.toNat).last = e.1 ∧
      t.rd R.STO_PERR_LOST = s.rd R.STO_PERR_LOST + 1 ∧ t.rd R.STO_PERR_XFER = s.rd R.STO_PERR_XFER + 2 ∧
      (∀ a, stream = some a → ((a : Nat), s.time.cnt, bit id.toNat 11) ∈ t.fex.lost ∧ (t.fifo id.toNat).lastErase = true) ∧
      (stream = none → (t.fifo id.toNat).lastErr = true ∧ t.busErr = (s.busErr || id.toNat / 4096 != 1)) ∧ SameMem s t ∧ SameFlash s t) ∧
  (∀ (s : Dev) (id : BitVec 16) (stream : Option (Fin 2048)) (fails : Fin 4) (depth width : Nat), fifoShape id.toNat = some (depth, width) →
    (s.fifo id.toNat).entries = [] →
    Does (.fifoRead id fails stream true) s fun t => (t.fifo id.toNat).unf = true ∧ (t.fifo id.toNat).entries = [] ∧
      (s.rd R.STO_XF_UNF < 0xFFFFFFFE → t.rd R.STO_XF_UNF = s.rd R.STO_XF_UNF + 1) ∧ SameMem s t ∧ SameFlash s t) ∧
  (∀ s : Dev, Does .xfClear s fun t => (∀ e ∈ t.sto.xf, e.2.unf = false ∧ e.2.ovf = false) ∧ SameRegs [] s t ∧
      Only (fun s t => { t with sto := { t.sto with xf := s.sto.xf } }) s t) ∧
  (∀ (s : Dev) (die : Fin 4), Does (.bridgeTransfer die none 0) s fun t => t.busErr = false ∧ SameRegs [] s t ∧
      Only (fun s t => { t with busErr := s.busErr }) s t) ∧
  (∀ (s : Dev) (die : Fin 4) (a : Fin 2048) (down : Bool), Does (.bridgeTransfer die (some (a, down)) 0) s fun t => SameRegs [] s t ∧ Only regsOnly s t) ∧
  (∀ (s : Dev) (die : Fin 4) (stream : Option (Fin 2048 × Bool)) (n : Fin 4), n = 1 ∨ n = 2 → s.rd R.STO_PERR_XFER < 0xFFFFFFFC →
    Does (.bridgeTransfer die stream n) s fun t => t.rd R.STO_PERR_XFER = s.rd R.STO_PERR_XFER + n ∧
      t.raised.map (·.code) = s.raised.map (·.code) ++ List.replicate n Ev.STO_PERR_REPLAY ∧ t.fex.lost = s.fex.lost ∧
      t.busErr = (s.busErr && stream.isSome) ∧ SameRegs [R.STO_STAT, R.STO_PERR_XFER] s t ∧
      Only (fun s t => { t with raised := s.raised, busErr := s.busErr }) s t) ∧
  (∀ (s : Dev) (die : Fin 4) (stream : Option (Fin 2048 × Bool)), s.rd R.STO_PERR_LOST < 0xFFFFFFFE → s.rd R.STO_PERR_XFER < 0xFFFFFFFC →
    Does (.bridgeTransfer die stream 3) s fun t => t.rd R.STO_PERR_LOST = s.rd R.STO_PERR_LOST + 1 ∧
      t.rd R.STO_PERR_XFER = s.rd R.STO_PERR_XFER + 2 ∧ (stream = none → t.busErr = true ∧ t.fex = s.fex) ∧
      (∀ a down, stream = some (a, down) → ((a : Nat), s.time.cnt, down) ∈ t.fex.lost ∧ t.busErr = s.busErr) ∧
      t.raised.map (·.code) = s.raised.map (·.code) ++ [Ev.STO_PERR_REPLAY, Ev.STO_PERR_REPLAY, Ev.STO_PERR_LOST] ∧
      SameRegs [R.STO_STAT, R.STO_PERR_XFER, R.STO_PERR_LOST] s t ∧ SameMem s t ∧ SameFlash s t)

/-- DESCRIPTOR_POST, DESCRIPTOR_START, LINKED_FETCH, TIMED_START, HALF_EVENT, DESCRIPTOR_COMPLETE, CHANNEL_STOP, CHANNEL_CLEAR (R196–R212).
Completes: descriptorPost, descriptorStart, timedStart, halfEvent, descriptorComplete, linkedFetch, channelStop, channelClear. -/
def Obligations.MoverChannels : Prop :=
  (∀ (s : Dev) (c : Fin 128) (v : Word), s.flag (R.MOV_CH_CFG_en c) = true →
    Does (.descriptorPost c v) s fun t =>
      ((s.movCh c).queue.length < 16 → (t.movCh c).queue = (s.movCh c).queue ++ [(List.range 15).map (fun i => s.rd (R.MOV_Q c i)) ++ [v.toNat]] ∧
        (t.movCh c).held = (s.movCh c).held) ∧
      (16 ≤ (s.movCh c).queue.length → (t.movCh c).queue = (s.movCh c).queue ∧ (t.movCh c).held.length = (s.movCh c).held.length + 1) ∧
      (∀ k : Nat, k ≠ c → t.movCh k = s.movCh k) ∧ SameRegs [R.MOV_Q c 15, R.MOV_CH_STAT c] s t ∧
      Only (fun s t => { t with mov := { t.mov with ch := s.mov.ch } }) s t) ∧
  (∀ (s : Dev) (c : Fin 128) (v : Word), s.flag (R.MOV_CH_CFG_en c) = false → s.rd (R.MOV_BAD c) < 0xFFFFFFFE →
    Does (.descriptorPost c v) s fun t => t.rd (R.MOV_BAD c) = s.rd (R.MOV_BAD c) + 1 ∧ SameRegs [R.MOV_BAD c] s t ∧ Only regsOnly s t) ∧
  (∀ (s : Dev) (c : Fin 128) (d : List Nat) (r : List (List Nat)), (s.movCh c).cur = none → (s.movCh c).link = none → (s.movCh c).fetched = none →
    (s.movCh c).queue = d :: r → (s.movCh c).held = [] →
    (s.movCheck d = 0 → movLen d ≠ 0 →
      Does (.descriptorStart c) s fun t => (∃ x, (t.movCh c).cur = some x ∧ x.d = d ∧ x.done = 0 ∧ x.waitTime = movFlag d 5) ∧ (t.movCh c).queue = r ∧ SameFlash s t) ∧
    (s.movCheck d ≠ 0 →
      Does (.descriptorStart c) s fun t => (t.movCh c).cur = none ∧ (t.movCh c).queue = r ∧ t.rd (R.MOV_CH_SEQ c) = dw d 2 % 2 ^ 32 ∧
        t.rd64 (R.MOV_DESC c) = (s.rd64 (R.MOV_DESC c) + 1) % 2 ^ 64 ∧ SameFlash s t)) ∧
  (∀ (s : Dev) (c : Fin 128) (off : Nat) (early : Bool) (hops : ReadHops), s.linkDue c = some (off, early) → off % 64 = 0 →
    s.poisoned off = false → hops.req = 0 → hops.arr = 0 → hops.ret = 0 →
    Does (.linkedFetch c hops) s fun t => (t.movCh c).link = none ∧ (t.movCh c).cur = (s.movCh c).cur ∧
      (t.movCh c).fetched = some ((List.range 16).map fun i => s.le (storeBase + off + i * 4) 4) ∧ SameMem s t ∧ SameFlash s t) ∧
  (∀ (s : Dev) (c : Fin 128) (off : Nat) (early : Bool) (hops : ReadHops), s.linkDue c = some (off, early) → off % 64 = 0 →
    (hops.req = 3 ∨ hops.arr = 2 ∨ hops.ret = 3 ∨ s.poisoned off = true) →
    Does (.linkedFetch c hops) s fun t => (t.movCh c).link = none ∧ (t.movCh c).lost = early ∧ (t.movCh c).fetched = (s.movCh c).fetched ∧
      (∃ l, t.raised.map (·.code) = s.raised.map (·.code) ++ l ∧ Ev.MOV_DESC_PERR ∈ l) ∧ SameFlash s t) ∧
  (∀ (s : Dev) (c : Fin 128) (hops : ReadHops), s.linkDue c = none → Does (.linkedFetch c hops) s fun t => SameRegs [] s t ∧ Only regsOnly s t) ∧
  (∀ (s : Dev) (c : Fin 128) (slip : Bool) (r : MovRun), (s.movCh c).cur = some r → r.waitTime = true → movStart r.d ≤ s.time.cnt → 2 ≤ s.airState →
    Does (.timedStart c slip) s fun t => (∃ x, (t.movCh c).cur = some x ∧ x.d = r.d ∧ x.waitTime = false ∧ x.slipped = (s.unitStalled (c / 16) || s.startBefore c (movStart r.d) slip) ∧ x.due = x.req ∧
        x.done = r.done) ∧
      SameMem s t ∧ SameFlash s t) ∧
  (∀ (s : Dev) (c : Fin 128) (slip : Bool) (r : MovRun), (s.movCh c).cur = some r → r.waitTime = true → movStart r.d ≤ s.time.cnt → s.airState < 2 →
    Does (.timedStart c slip) s fun t => (t.movCh c).cur = none ∧ (t.movCh c).queue = (s.movCh c).queue ∧ t.flag (R.MOV_CH_STAT_late c) = true ∧ SameFlash s t) ∧
  (∀ (s : Dev) (c : Fin 128) (r : MovRun), (s.movCh c).cur = some r → movFlag r.d 3 = true → r.halfDone = false → max 1 (movLen r.d / 2) ≤ s.movDone r →
    Does (.halfEvent c) s fun t => (t.movCh c).cur = some { r with halfDone := true } ∧
      (movSq r.d ≠ 0xFFFF → ∃ e, t.input 2 = s.input 2 ++ [e] ∧ e.desc = movSq r.d) ∧ SameRegs [] s t ∧ SameMem s t ∧ SameFlash s t) ∧
  (∀ (s : Dev) (c : Fin 128) (r : MovRun), (s.movCh c).cur = some r → (r.halfDone = true ∨ s.movDone r < max 1 (movLen r.d / 2)) →
    Does (.halfEvent c) s fun t => SameRegs [] s t ∧ Only regsOnly s t) ∧
  (∀ (s : Dev) (c : Fin 128) (r : MovRun), (s.movCh c).cur = some r → r.done = movLen r.d → s.movStalled r = 0 → (s.movCh c).stop = none →
    Does (.descriptorComplete c) s fun t => (t.movCh c).cur = none ∧ (t.movCh c).queue = (s.movCh c).queue ∧
      (t.movCh c).link = (if movFlag r.d 6 ∧ (s.movCh c).fetched = none ∧ (s.movCh c).lost = false then some (bits (dw r.d 14) 0 26, dw r.d 15 % 4096) else none) ∧
      (t.movCh c).fetched = (s.movCh c).fetched ∧
      t.rd (R.MOV_CH_SEQ c) = dw r.d 2 % 2 ^ 32 ∧ t.rd64 (R.MOV_DESC c) = (s.rd64 (R.MOV_DESC c) + 1) % 2 ^ 64 ∧
      (r.era = true → t.flag (R.MOV_CH_STAT_erased c) = true) ∧ SameFlash s t) ∧
  (∀ (s : Dev) (c : Fin 128) (r : MovRun) (flush : List (List Nat)), (s.movCh c).cur = some r → s.movStalled r = 0 → (s.movCh c).stop = some flush →
    Does (.descriptorComplete c) s fun t => (t.movCh c).cur = none ∧ (t.movCh c).stop = none ∧ (t.movCh c).queue = (s.movCh c).queue ∧
      (∃ l, t.raised.map evShow = s.raised.map evShow ++ l ++
        [(Ev.MOV_STOPPED, (c : Nat), packItems [(8, ((c : Nat) : Int)), (32, (flush.length : Int))])]) ∧ SameFlash s t) ∧
  (∀ (s : Dev) (c : Fin 128) (r : MovRun), (s.movCh c).cur = some r → s.movStalled r ≠ 0 →
    Does (.channelStop c) s (fun t => (t.movCh c).cur = some r ∧ (t.movCh c).stop = some ((s.movCh c).stop.getD [] ++ (s.movCh c).queue) ∧
      (t.movCh c).queue = (s.movCh c).held.take 16 ∧ SameMem s t ∧ SameFlash s t) ∧
    Does (.descriptorComplete c) s (fun t => SameRegs [] s t ∧ Only regsOnly s t)) ∧
  (∀ (s : Dev) (c : Fin 128), (∀ r, (s.movCh c).cur = some r → s.movStalled r = 0) → (s.movCh c).stop = none →
    Does (.channelStop c) s fun t => (t.movCh c).cur = none ∧ (t.movCh c).link = none ∧ (t.movCh c).fetched = none ∧
      (t.movCh c).queue = (s.movCh c).held.take 16 ∧ t.flag (R.MOV_CH_STAT_req c) = false ∧
      (∃ l, t.raised.map evShow = s.raised.map evShow ++ l ++
        [(Ev.MOV_STOPPED, (c : Nat), packItems [(8, ((c : Nat) : Int)), (32, ((s.movCh c).queue.length : Int))])]) ∧ SameFlash s t) ∧
  (∀ (s : Dev) (c : Fin 128),
    Does (.channelClear c) s fun t => t.rd64 (R.MOV_BYTES c) = 0 ∧ t.rd64 (R.MOV_DESC c) = 0 ∧ t.rd (R.MOV_LATE c) = 0 ∧ t.rd (R.MOV_BAD c) = 0 ∧
      t.rd (R.MOV_ERASED c) = 0 ∧ t.flag (R.MOV_CH_STAT_late c) = false ∧ t.flag (R.MOV_CH_STAT_bad c) = false ∧
      t.flag (R.MOV_CH_STAT_erased c) = false ∧ t.flag (R.MOV_CH_STAT_cnt_ovf c) = false ∧
      SameRegs [R.MOV_BYTES c, R.MOV_BYTES c + 4, R.MOV_DESC c, R.MOV_DESC c + 4, R.MOV_LATE c, R.MOV_BAD c, R.MOV_ERASED c, R.MOV_CNT_OVF c, R.MOV_CH_STAT c] s t ∧
      Only regsOnly s t)

/-- BURST_START (R199–R204): copy, fill and compare over linear ranges.
Completes: burstStart. -/
def Obligations.MoverBurst : Prop :=
  (∀ (s : Dev) (u : Fin 8), (s.unitStalled u = true ∨ s.burstPick u = none) → Does (.burstStart u) s fun t => SameRegs [] s t ∧ Only regsOnly s t) ∧
  (∀ (s : Dev) (u : Fin 8) (i : Nat) (r : MovRun), s.unitStalled u = false → s.burstPick u = some i → s.requesting u i = some r →
    Does (.burstStart u) s fun t => (∃ x, (t.movCh (16 * u + i)).cur = some x ∧ x.d = r.d ∧ x.done = r.done + s.burstSize r) ∧
      t.rd64 (R.MOV_BYTES (16 * u + i)) = (s.rd64 (R.MOV_BYTES (16 * u + i)) + s.burstSize r * 8) % 2 ^ 64 ∧ SameFlash s t) ∧
  (∀ (s : Dev) (u : Fin 8) (i : Nat) (r : MovRun) (p : Nat), s.unitStalled u = false → s.burstPick u = some i → s.requesting u i = some r →
    p = burstAt r (s.burstSize r) →
    (movMode r.d = 1 → movFlag r.d 10 = false →
      Does (.burstStart u) s fun t => (∀ j, j < s.burstSize r → t.le (movDst r.d + p * 8 + j * 8) 8 = movFill r.d % 2 ^ 64) ∧
        (∀ a, (a < movDst r.d + p * 8 ∨ movDst r.d + p * 8 + s.burstSize r * 8 ≤ a) → t.byte a = s.byte a)) ∧
    (movMode r.d = 0 → movFlag r.d 8 = false → movFlag r.d 10 = false →
      Does (.burstStart u) s fun t => (∀ j, j < s.burstSize r → t.le (movDst r.d + p * 8 + j * 8) 8 =
          (let w := (s.linRead (movSrc r.d + p * 8) (s.burstSize r)).getD j (0, false); if w.2 then 0 else w.1)) ∧
        (∀ a, (a < movDst r.d + p * 8 ∨ movDst r.d + p * 8 + s.burstSize r * 8 ≤ a) → t.byte a = s.byte a)) ∧
    (movMode r.d = 2 → movFlag r.d 8 = false → Does (.burstStart u) s fun t => SameMem s t))

/-- LINE_CFG_WRITE, COLD_TRAINING_REQUEST, WARM_RETRAIN_REQUEST, SIGNAL_DETECT, SEARCHER_GRANT, SEARCHER_RESULT, SYNC_ACQUIRED, LNK_ACQ_TIMEOUT.
Completes: lineCfgWrite, coldTrainingRequest, warmRetrainRequest, signalDetect, searcherGrant, searcherResult, syncAcquired, lnkAcqTimeout. -/
def Obligations.LaneAcquisition : Prop :=
  (∀ (s : Dev) (n : Fin 1024) (v : Word), s.domOn (laneDom n) = false →
    Does (.lineCfgWrite n v) s fun t => (t.lane n).held = some v.toNat ∧ t.rd (R.LNK_LINE_CFG n) = s.rd (R.LNK_LINE_CFG n) ∧
      t.laneState n = s.laneState n ∧ SameMem s t ∧ SameFlash s t) ∧
  (∀ (s : Dev) (n : Fin 1024) (v : Word), s.domOn (laneDom n) = true → s.isPairOdd n = false → bit v.toNat 0 = false →
    Does (.lineCfgWrite n v) s fun t => t.rd (R.LNK_LINE_CFG n) = lineCfgValue n v.toNat ∧ t.laneState n = 0 ∧
      SameBlocks [0x304] s t ∧ Only linkParts s t) ∧
  (∀ (s b : Dev) (n : Fin 1024) (v : Word), b = s.wr (R.LNK_LINE_CFG n) (lineCfgValue n v.toNat) → s.domOn (laneDom n) = true →
    s.isPairOdd n = false → bit v.toNat 0 = true → s.laneState n = 0 →
    (b.get (R.LNK_LINE_CFG_rate_code n) ≠ 7 → b.get (R.LNK_LINE_CFG_fec n) ≠ 3 →
      Does (.lineCfgWrite n v) s fun t => t.rd (R.LNK_LINE_CFG n) = lineCfgValue n v.toNat ∧ t.laneState n = (if b.isSplit n then 7 else 1) ∧
        SameBlocks [0x304] s t ∧ Only linkParts s t) ∧
    (b.get (R.LNK_LINE_CFG_rate_code n) = 7 → b.isSplit n = s.isSplit n →
      Does (.lineCfgWrite n v) s fun t => t.laneState n = 0 ∧ t.flag (R.LNK_LINE_STAT_cfg_bad n) = true ∧
        Raises s t [(Ev.LNK_CFG_BAD, n, [(10, ((n : Nat) : Int)), (4, 0)])] ∧ SameBlocks [0x304] s t ∧ Only linkParts s t)) ∧
  (∀ (s : Dev) (n : Fin 1024), s.laneState n ≠ 0 → s.isPairOdd n = false →
    Does (.coldTrainingRequest n) s (fun t => t.laneState n = (if s.isSplit n then 7 else 1) ∧ (t.lane n).warmReq = false ∧
      (t.lane n).sent.take 4096 = wakeBurst ∧ SameBlocks [0x304] s t ∧ Only linkParts s t) ∧
    Does (.warmRetrainRequest n) s (fun t => t.laneState n = (if s.isSplit n then 7 else 1) ∧
      (t.lane n).warmReq = s.flag (R.LNK_LINE_STAT_warm_ok n) ∧ SameBlocks [0x304] s t ∧ Only linkParts s t)) ∧
  (∀ (s : Dev) (n : Fin 1024), s.isPairOdd n = true →
    ∀ c ∈ [Instr.coldTrainingRequest n, .warmRetrainRequest n, .signalDetect n], Does c s fun t => SameRegs [] s t ∧ Only regsOnly s t) ∧
  (∀ (s : Dev) (n : Fin 1024), s.laneState n = 1 → s.isPairOdd n = false → (s.lane n).eff.loop ≠ 1 → s.domOn (laneDom n) = true → (s.linkState (s.linkOf n) ≠ 5 ∨ (s.link (s.linkOf n)).wake ≠ none) →
    (s.lane n).warmReq = false → s.get (R.LNK_SRCH_busy (n / 256)) < 64 →
    Does (.signalDetect n) s fun t => t.laneState n = 2 ∧ t.flag (R.LNK_LINE_STAT_searcher n) = true ∧
      t.get (R.LNK_SRCH_busy (n / 256)) = s.get (R.LNK_SRCH_busy (n / 256)) + 1 ∧ SameBlocks [0x304] s t ∧ Only linkParts s t) ∧
  (∀ (s : Dev) (die : Fin 4) (n : Nat), (nums (256 * die) 256).find? (fun n => (s.lane n).waits) = some n → s.get (R.LNK_SRCH_busy die) < 64 →
    0 < s.get (R.LNK_SRCH_waiting die) → s.flag (R.LNK_LINE_STAT_searcher n) = false →
    Does (.searcherGrant die) s fun t => t.flag (R.LNK_LINE_STAT_searcher n) = true ∧ (t.lane n).waits = false ∧
      t.get (R.LNK_SRCH_busy die) = s.get (R.LNK_SRCH_busy die) + 1 ∧ t.get (R.LNK_SRCH_waiting die) = s.get (R.LNK_SRCH_waiting die) - 1 ∧
      SameRegs [R.LNK_LINE_STAT n, R.LNK_SRCH die] s t ∧ Only linkParts s t) ∧
  (∀ (s : Dev) (n : Fin 1024) (rate : Fin 7) (words : SyncPair) (rev : Bool), syncMatch (s.syncTol n) syncU words = some rev →
    s.acquiring n = true → s.flag (R.LNK_LINE_STAT_searcher n) = true → rate.val ≠ 0 → (s.lane n).eff.loop ≠ 1 →
    (s.get (R.LNK_LINE_CFG_rate_code n) = 0 ∨ s.get (R.LNK_LINE_CFG_rate_code n) = rate →
      Does (.searcherResult n rate words) s fun t => t.get (R.LNK_LINE_STAT_found_rate n) = rate ∧ t.flag (R.LNK_LINE_STAT_pol_inv n) = rev ∧
        (t.lane n).acquired = true ∧ Raises s t (if rev then [(Ev.LNK_POL_INV, n, [(10, ((n : Nat) : Int))])] else []) ∧
        SameRegs [R.LNK_LINE_STAT n] s t ∧ Only linkParts s t) ∧
    (s.get (R.LNK_LINE_CFG_rate_code n) ≠ 0 → s.get (R.LNK_LINE_CFG_rate_code n) ≠ rate →
      Does (.searcherResult n rate words) s fun t => t.get (R.LNK_LINE_STAT_found_rate n) = rate ∧ t.flag (R.LNK_LINE_STAT_mismatch n) = true ∧
        (t.lane n).acquired = false ∧ t.laneState n = (if s.laneState n = 7 then 7 else 3) ∧ SameBlocks [0x304] s t ∧ Only linkParts s t)) ∧
  (∀ (s : Dev) (n : Fin 1024) (rate : Fin 7) (words : SyncPair), syncMatch (s.syncTol n) syncU words = none →
    Does (.searcherResult n rate words) s fun t => SameRegs [] s t ∧ Only regsOnly s t) ∧
  (∀ (s : Dev) (n : Fin 1024) (words : SyncPair) (rev : Bool), syncMatch (s.syncTol n) (s.syncWant n) words = some rev → s.acquiring n = true →
    s.flag (R.LNK_LINE_STAT_searcher n) = false → s.syncRate n ≠ 0 →
    ((s.lane n).eff.loop ≠ 1 →
      Does (.syncAcquired n words) s fun t => t.get (R.LNK_LINE_STAT_found_rate n) = s.syncRate n ∧
        t.flag (R.LNK_LINE_STAT_pol_inv n) = rev ∧ (t.lane n).acquired = true ∧ SameRegs [R.LNK_LINE_STAT n] s t ∧ Only linkParts s t) ∧
    ((s.lane n).eff.loop = 1 →
      Does (.syncAcquired n words) s fun t => t.laneState n = 6 ∧ (t.lane n).gotP3 = true ∧ SameBlocks [0x304] s t ∧ Only linkParts s t)) ∧
  (∀ (s : Dev) (n : Fin 1024), 1 ≤ s.laneState n → s.laneState n ≤ 3 → s.isPairOdd n = false → s.elapsed (s.lane n).since 100 = true →
    Does (.lnkAcqTimeout n) s fun t => t.flag (R.LNK_LINE_STAT_acq_to n) = true ∧ (t.lane n).since = s.time.clk ∧
      Raises s t (if s.flag (R.LNK_LINE_STAT_acq_to n) then [] else [(Ev.LNK_ACQ_TIMEOUT, n, [(10, ((n : Nat) : Int))])]) ∧
      SameRegs [R.LNK_LINE_STAT n] s t ∧ Only linkParts s t)

/-- TRAINING_BLOCK_RECEIVE, P2_START, P3_START, TRAINING_TIMEOUT, LNK_LOL, CODEWORD_DECODE, QUALITY_INTERVAL, COEFFICIENT_FREEZE_START and _END.
Completes: trainingBlockReceive, p2Start, p3Start, trainingTimeout, lnkLol, codewordDecode, qualityInterval, coefficientFreezeStart, coefficientFreezeEnd. -/
def Obligations.LaneTraining : Prop :=
  (∀ (s : Dev) (n : Fin 1024) (hdr : BitVec 96) (grid : Bool), s.onGrid n = true → grid = false →
    Does (.trainingBlockReceive n hdr grid) s fun t => SameRegs [] s t ∧ Only regsOnly s t) ∧
  (∀ (s : Dev) (n : Fin 1024) (hdr : BitVec 96) (grid : Bool) (l : List Bool), l = s.unInvert n (lsbBits 96 hdr.toNat) →
    (s.laneState n = 4 ∨ s.laneState n = 6 ∨ (s.laneState n = 7 ∧ (s.lane n).acquired = true)) → s.isPairOdd n = false → grid = true →
    s.syncTol n < bitDiff (l.take 64) (s.syncWant n) →
    Does (.trainingBlockReceive n hdr grid) s fun t => (t.lane n).badRun = min ((s.lane n).badRun + 1) 3 ∧
      (∀ m : Nat, m ≠ n → t.lane m = s.lane m) ∧ SameRegs [] s t ∧ Only linkParts s t) ∧
  (∀ (s : Dev) (n : Fin 1024) (hdr : BitVec 96) (grid : Bool) (l : List Bool), l = s.unInvert n (lsbBits 96 hdr.toNat) → s.isPairOdd n = false →
    (s.onGrid n = true → grid = true) → bitDiff (l.take 64) (s.syncWant n) ≤ s.syncTol n → crc8 ((l.drop 64).take 24) = fieldAt l 88 8 →
    (s.laneState n = 2 → (s.lane n).acquired = true → fieldAt l 86 2 = 1 →
      Does (.trainingBlockReceive n hdr grid) s fun t => t.laneState n =
        (if (if l.getD 85 false then 16 else 512) ≤ fieldAt l 64 16 ∧ (l.getD 85 false = false ∨ s.flag (R.LNK_LINE_STAT_warm_ok n) = true) then 4 else 3) ∧
        SameBlocks [0x304] s t ∧ Only linkParts s t) ∧
    (s.laneState n = 4 → fieldAt l 86 2 = 1 →
      Does (.trainingBlockReceive n hdr grid) s fun t => (t.lane n).p1End = some (s.afterUi n s.time.clk (fieldAt l 64 16 * 1024)) ∧
        (t.lane n).badRun = 0 ∧ SameRegs [] s t ∧ Only linkParts s t) ∧
    (s.laneState n = 6 → fieldAt l 86 2 = 3 →
      Does (.trainingBlockReceive n hdr grid) s fun t => (t.lane n).gotP3 = true ∧ SameMem s t ∧ SameFlash s t)) ∧
  (∀ (s : Dev) (n : Fin 1024) (e : Nat), s.laneState n = 4 → s.isPairOdd n = false → (s.lane n).p1End = some e → s.uiWindow n e 1024 2048 = true →
    Does (.p2Start n) s fun t => t.laneState n = 5 ∧ (t.lane n).phaseAt = s.time.clk ∧ (t.lane n).sent.take 64 = syncD ∧
      SameBlocks [0x304] s t ∧ Only linkParts s t) ∧
  (∀ (s : Dev) (n : Fin 1024) (erle rl : BitVec 8) (far : EchoFar) (ui : Nat), s.laneState n = 5 → s.isPairOdd n = false → ui = s.ownBlocks n * 1024 →
    s.uiWindow n (s.lane n).phaseAt (ui + 1024) (ui + 2048) = true →
    Does (.p3Start n erle rl far) s fun t => t.laneState n = 6 ∧ t.get (R.LNK_ECHO_erle n) = erle.toNat ∧ t.get (R.LNK_ECHO_rl n) = rl.toNat ∧
      t.get (R.LNK_ECHO_far_pos n) = (if (s.lane n).warm then s.get (R.LNK_ECHO_far_pos n) else 256 + far.p0) ∧
      (t.lane n).far = (if (s.lane n).warm then (s.lane n).far else farPlaces far) ∧
      Raises s t (if erle.toNat < (if s.flag (R.LNK_LINE_CFG_reach n) then 52 else 55) then
        [(Ev.LNK_ECHO_LOW, n, [(10, ((n : Nat) : Int)), (8, (erle.toNat : Int))])] else []) ∧ SameBlocks [0x304] s t ∧ Only linkParts s t) ∧
  (∀ (s : Dev) (n : Fin 1024), s.laneState n = 6 → s.isPairOdd n = false →
    (((s.lane n).gotP3 = false ∧ s.elapsedUi n (s.lane n).p2End (8192 * 1024) = true) ∨
      ((s.lane n).far0 = false ∧ s.elapsedUi n (s.lane n).phaseAt (s.ownBlocks n * 1024 + 8192 * 1024) = true)) →
    Does (.trainingTimeout n) s fun t => t.laneState n = 1 ∧ (t.lane n).acquired = false ∧ SameBlocks [0x304] s t ∧ Only linkParts s t) ∧
  (∀ (s : Dev) (n : Fin 1024), (s.laneState n = 6 ∨ s.laneState n = 7) → s.isPairOdd n = false → (s.lane n).gotP3 = true → (s.lane n).far0 = true →
    s.elapsedUi n (s.lane n).phaseAt (s.ownBlocks n * 1024) = true →
    Does (.trainingTimeout n) s fun t => t.laneState n = 8 ∧ t.flag (R.LNK_LINE_STAT_warm_ok n) = true ∧
      (∃ l, t.raised.map (·.code) = s.raised.map (·.code) ++ Ev.LNK_LINE_UP :: l) ∧ SameBlocks [0x304] s t ∧ Only linkParts s t) ∧
  (∀ (s : Dev) (n : Fin 1024), 4 ≤ s.laneState n → s.isPairOdd n = false → 3 ≤ (s.lane n).badRun → s.rd (R.LNK_LOL n) < 0xFFFFFFFE →
    Does (.lnkLol n) s fun t => t.laneState n = 1 ∧ t.rd (R.LNK_LOL n) = s.rd (R.LNK_LOL n) + 1 ∧ t.flag (R.LNK_LINE_STAT_lol n) = true ∧
      (∃ l, t.raised.map evShow = s.raised.map evShow ++ (Ev.LNK_LOL, (n : Nat), packItems [(10, ((n : Nat) : Int)), (4, (s.laneState n : Int))]) :: l) ∧
      SameBlocks [0x304] s t ∧ Only linkParts s t) ∧
  (∀ (s : Dev) (n : Fin 1024) (hard : BitVec 2048) (mag : BitVec 8192) (at_ : BitVec 68) (fec : Nat) (w : List Bool × List Nat) (d : List Bool) (good : Bool) (iters : Nat),
    s.laneState n = 8 → s.isPairOdd n = false → s.slicer n hard.toNat mag.toNat = some w → fec = s.get (R.LNK_LINE_CFG_fec n) →
    (d, good, iters) = s.decode n w → s.rd (R.LNK_CW_UNC n) < 0xFFFFFFFE →
    Does (.codewordDecode n hard mag at_) s fun t => t.rd64 (R.LNK_CW_CNT n) = (s.rd64 (R.LNK_CW_CNT n) + 1) % 2 ^ 64 ∧
      t.rd64 (R.LNK_BIT_CORR n) = (s.rd64 (R.LNK_BIT_CORR n) + bitDiff w.1 d) % 2 ^ 64 ∧
      t.rd (R.LNK_CW_UNC n) = s.rd (R.LNK_CW_UNC n) + b2n (!good) ∧ (good = false → t.flag (R.LNK_LINE_STAT_cw_unc n) = true) ∧
      (t.lane n).cws = (s.lane n).cws ++ [(d.take (64 * ldpcKb fec), !good)] ∧ (fec = 0 → Raises s t []) ∧ SameBlocks [0x304] s t ∧ Only linkParts s t) ∧
  (∀ (s : Dev) (n : Fin 1024) (snr : BitVec 24) (bins : Vector (BitVec 32) 64) (ctle : BitVec 4) (enh : BitVec 8) (fec : Nat),
    (s.laneState n = 6 ∨ s.laneState n = 8) → s.isPairOdd n = false → s.elapsedUi n (s.lane n).qAt (2 ^ 24) = true → fec = s.get (R.LNK_LINE_CFG_fec n) →
    Does (.qualityInterval n snr bins ctle enh) s fun t => t.flag (R.LNK_QUAL0_valid n) = true ∧
      t.get (R.LNK_QUAL0_snr n) = (clampInt (dB10 snr.toInt) 0 1023).toNat ∧ (t.lane n).qAt = s.time.clk ∧
      t.getS (R.LNK_QUAL0_op_margin n) = satSigned 10 (dB10 (snr.toInt - snrReq fec)) ∧
      t.getS (R.LNK_QUAL0_cap_margin n) = satSigned 10 ((capMargin (ldpcKb fec) (bins.toList.map (·.toNat)) + 50) / 100) ∧
      (dB10 (snr.toInt - snrReq fec) < s.getS (R.LNK_QTHR_thr n) → t.flag (R.LNK_LINE_STAT_margin_low n) = true) ∧
      SameBlocks [0x304] s t ∧ Only linkParts s t) ∧
  (∀ (s : Dev) (n : Fin 1024) (a : Nat), s.flag (R.LNK_LINE_CFG_tdd_frz_en n) = true → a ∈ (s.link (s.linkOf n)).tddAir →
    a ≤ s.time.cnt + tickTc → s.time.cnt < a + 4 * tickTc →
    Does (.coefficientFreezeStart n) s fun t => (t.lane n).frozen = true ∧ a + 4 * tickTc ≤ (t.lane n).frzEnd ∧ SameRegs [] s t ∧ Only linkParts s t) ∧
  (∀ (s : Dev) (n : Fin 1024), (s.lane n).frozen = true → (s.lane n).frzEnd ≤ s.time.cnt →
    Does (.coefficientFreezeEnd n) s fun t => (t.lane n).frozen = false ∧ SameRegs [] s t ∧ Only linkParts s t)

/-- LINK_FRAME_SEND, LINK_FRAME_RECEIVE, LNK_LINK_UP, LINK_CFG_WRITE (R119, R122, R123, R126, R145).
Completes: linkFrameReceive, lnkLinkUp, linkCfgWrite, linkFrameSend. -/
def Obligations.LinkFrames : Prop :=
  (∀ (s : Dev) (n : Fin 1024) (at_ : BitVec 68), s.laneState n = 8 → s.isPairOdd n = false →
    (s.linkState (s.linkOf n) ≠ 5 ∨ (s.link (s.linkOf n)).wake ≠ none →
      Does (.linkFrameSend n at_) s fun t => (t.lane n).fcnt = ((s.lane n).fcnt + 1) % 65536 ∧
        (t.lane n).departs.head? = some ((s.lane n).fcnt, at_.toNat) ∧ (t.lane n).sent.take 64 = syncD ∧
        ((n : Nat) = s.linkOf n → (t.link n).obs = s.flag (R.LNK_LINK_CFG_obs_en n)) ∧
        (s.airState < 2 ∨ (s.testActs n).on = true → (t.lane n).took = []) ∧
        ((t.lane n).took = [] → SameRegs [R.LNK_GEN_DISC n, R.LNK_GEN_DISC n + 4] s t) ∧ SameBlocks [0x304, 0x308] s t ∧ Only linkPartsFree s t) ∧
    (s.linkState (s.linkOf n) = 5 → (s.link (s.linkOf n)).wake = none →
      Does (.linkFrameSend n at_) s fun t => t.laneState n = 1 ∧ (t.lane n).sent = [] ∧ SameBlocks [0x304] s t ∧ Only linkParts s t)) ∧
  (∀ (s : Dev) (n : Fin 1024) (head : BitVec 128) (at_ : BitVec 68) (l : List Bool) (own bad good : Bool) (m : List Bool × Nat),
    s.laneState n = 8 → s.isPairOdd n = false → l = (if (s.lane n).eff.loop = 2 then (s.lane n).sent.take 128 else s.unInvert n (lsbBits 128 head.toNat)) →
    own = ((s.lane n).eff.loop == 1 || (s.lane n).eff.loop == 2) → bad = decide (s.syncTol n < bitDiff (l.take 64) (s.syncWant n)) →
    m = descramble (scrTap own) (s.lane n).rxScr (l.drop 64) → good = (crc16 (m.1.take 48) == fieldAt m.1 48 16) →
    s.rd (R.LNK_SYNC_BAD (s.linkOf n)) < 0xFFFFFF00 →
    Does (.linkFrameReceive n head at_) s fun t => (t.lane n).badRun = (if bad then min ((s.lane n).badRun + 1) 3 else 0) ∧ (t.lane n).cws = [] ∧
      t.rd (R.LNK_SYNC_BAD (s.linkOf n)) = s.rd (R.LNK_SYNC_BAD (s.linkOf n)) + b2n bad + b2n (!good) ∧
      (bad = true ∨ good = false → t.flag (R.LNK_LINK_STAT_sync_bad (s.linkOf n)) = true) ∧
      (good = true → (t.lane n).marker = some (fieldAt m.1 0 16, fieldAt m.1 26 8, fieldAt m.1 34 2, fieldAt m.1 36 3) ∧ (t.lane n).arrival = at_.toNat) ∧
      (good = false → (t.lane n).marker = (s.lane n).marker) ∧ SameMem s t ∧ SameFlash s t) ∧
  (∀ (s : Dev) (n : Fin 1024), s.linkState n = 2 → s.flag (R.LNK_LINK_STAT_radio_lock n) = true → (s.link n).rtOk = true →
    (s.link n).pages.contains 3 = true → (s.link n).pages.contains 4 = true → 2 ≤ s.airState →
    (∀ a, (s.link n).wake = some a → a ≤ s.time.cnt) →
    (s.rd (R.LNK_RPAGE n 3) + s.get (R.LNK_DL_MARGIN_margin n) ≤ s.rd (R.LNK_RPAGE n 4) →
      Does (.lnkLinkUp n) s fun t => t.linkState n = 3 ∧ (t.link n).realign = some (s.nextLaunch n) ∧ (t.link n).wake = none ∧
        (∃ l, t.raised.map (·.code) = s.raised.map (·.code) ++ Ev.LNK_LINK_UP :: l) ∧ SameBlocks [0x304] s t ∧ Only linkParts s t) ∧
    (s.rd (R.LNK_RPAGE n 4) < s.rd (R.LNK_RPAGE n 3) + s.get (R.LNK_DL_MARGIN_margin n) →
      Does (.lnkLinkUp n) s fun t => t.linkState n = 2 ∧ t.flag (R.LNK_LINK_STAT_cfg_bad n) = true ∧ SameRegs [R.LNK_LINK_STAT n] s t ∧ Only regsEvents s t)) ∧
  (∀ (s : Dev) (n : Fin 1024) (cfg2 : Bool) (v : Word), s.linkOf n ≠ n →
    Does (.linkCfgWrite n cfg2 v) s fun t => t.rd (if cfg2 then R.LNK_LINK_CFG2 n else R.LNK_LINK_CFG n) = v.toNat % 2 ^ (if cfg2 then 21 else 26) ∧
      SameRegs [if cfg2 then R.LNK_LINK_CFG2 n else R.LNK_LINK_CFG n] s t ∧ Only regsOnly s t) ∧
  (∀ (s : Dev) (n : Fin 1024) (v : Word), s.linkOf n = n → s.rd (R.LNK_LINK_CFG n) % 2 ^ 25 ≠ v.toNat % 2 ^ 25 →
    (s.wr (R.LNK_LINK_CFG n) (v.toNat % 2 ^ 26)).flag (R.LNK_LINK_CFG_en n) = false →
    Does (.linkCfgWrite n false v) s fun t => t.rd (R.LNK_LINK_CFG n) = v.toNat % 2 ^ 26 ∧ t.linkState n = 0 ∧ SameBlocks [0x304] s t ∧ Only linkParts s t)

/-- COMMAND_QUEUE, COMMAND_EXPIRE, TDD_AUTO_QUEUE, TDD_COMMAND_TARGET, STEER_UPDATE, STEER_HOLD (R136, R138, R142–R144, R217).
Completes: commandQueue, commandExpire, tddAutoQueue, steerUpdate, steerHold, tddCommandTarget. -/
def Obligations.RadioCommands : Prop :=
  (∀ (s : Dev) (n : Fin 1024) (hi : Word) (lo d : Nat), lo = s.rd (R.LNK_CMD_LO n) → d = (lo + 2 ^ 32 - s.time.cnt % 2 ^ 32) % 2 ^ 32 → d ≤ 2 ^ 31 →
    s.linkOf n = n → bits (hi.toNat * 2 ^ 32 + lo) 60 4 ≠ 5 →
    ((s.link n).queue.length < 16 → s.time.cnt + s.framesTc n 2 ≤ s.time.cnt + d →
      Does (.commandQueue n hi) s fun t => (t.link n).queue = (s.link n).queue ++ [⟨(s.link n).cseq, hi.toNat * 2 ^ 32 + lo, s.time.cnt + d, false⟩] ∧
        (t.link n).cseq = ((s.link n).cseq + 1) % 256 ∧ t.get (R.LNK_CMD_STAT_pend n) = (s.link n).queue.length + 1 ∧
        SameRegs [R.LNK_CMD_HI n, R.LNK_CMD_STAT n] s t ∧ Only linkParts s t) ∧
    (16 ≤ (s.link n).queue.length →
      Does (.commandQueue n hi) s fun t => (t.link n).queue = (s.link n).queue ∧ t.flag (R.LNK_LINK_STAT_cmd_late n) = true ∧
        (s.rd (R.LNK_CMD_LATE n) < 0xFFFFFFFE → t.rd (R.LNK_CMD_LATE n) = s.rd (R.LNK_CMD_LATE n) + 1) ∧ SameBlocks [0x304] s t ∧ Only linkParts s t)) ∧
  (∀ (s : Dev) (n : Fin 1024) (hi : Word) (lo d word : Nat), lo = s.rd (R.LNK_CMD_LO n) → d = (lo + 2 ^ 32 - s.time.cnt % 2 ^ 32) % 2 ^ 32 → d ≤ 2 ^ 31 →
    word = hi.toNat * 2 ^ 32 + lo → s.linkOf n = n → bits word 60 4 = 5 → bits word 58 2 ≠ 3 → (s.link n).queue.length < 16 →
    max (if bits word 58 2 = 0 ∧ s.linkState n = 5 then 168 * tickTc else tickTc) (s.framesTc n 2) ≤ d →
    Does (.commandQueue n hi) s fun t => (t.link n).queue = (s.link n).queue ++ [⟨(s.link n).cseq, word, s.time.cnt + d, false⟩] ∧
      (t.link n).power = (s.link n).power ++ [(s.time.cnt + d, bits word 58 2)] ∧ SameRegs [R.LNK_CMD_HI n, R.LNK_CMD_STAT n] s t ∧ Only linkParts s t) ∧
  (∀ (s : Dev) (n : Fin 1024),
    Does (.commandExpire n) s fun t => (t.link n).queue = (s.link n).queue.filter (fun c => decide (s.time.cnt + s.framesTc n 1 ≤ c.target)) ∧
      SameBlocks [0x304] s t ∧ Only linkParts s t) ∧
  (∀ (s : Dev) (n : Fin 1024), (s.rd (R.LNK_TDD_PER n) = 0 ∨ s.linkState n = 0 ∨ s.linkState n = 5) → Does (.tddAutoQueue n) s fun t => SameRegs [] s t ∧ Only regsOnly s t) ∧
  (∀ (s : Dev) (n : Fin 1024), s.rd (R.LNK_TDD_PER n) ≠ 0 → s.linkState n ≠ 0 → s.linkState n ≠ 5 → s.linkOf n = n →
    max ((s.link n).tddLast.getD 0) (s.time.cnt + s.framesTc n 2 - 1) < s.time.cnt + s.framesTc n 4 →
    Does (.tddAutoQueue n) s fun t => (t.link n).tddLast = some (s.time.cnt + s.framesTc n 4) ∧ t.linkState n = s.linkState n ∧ SameBlocks [0x304] s t ∧ Only linkParts s t) ∧
  (∀ (s : Dev) (n : Fin 1024) (ofs dir target lo : Nat), s.rd (R.LNK_TDD_PER n) ≠ 0 → s.linkState n ≠ 0 → s.linkState n ≠ 5 → s.linkOf n = n →
    s.tddList n = [(ofs, dir)] → lo = max ((s.link n).tddLast.getD 0) (s.time.cnt + s.framesTc n 2 - 1) → lo < target →
    target ≤ s.time.cnt + s.framesTc n 4 → s.time.cnt + s.framesTc n 4 - lo ≤ s.rd (R.LNK_TDD_PER n) →
    target % s.rd (R.LNK_TDD_PER n) = ofs % s.rd (R.LNK_TDD_PER n) → (s.link n).queue.length < 16 →
    Does (.tddAutoQueue n) s fun t =>
      (t.link n).queue = (s.link n).queue ++ [⟨(s.link n).cseq, 2 ^ 60 + dir * 2 ^ 58 + target % 2 ^ 32, target, false⟩] ∧
      (t.link n).cseq = ((s.link n).cseq + 1) % 256 ∧ (t.link n).tddLast = some (s.time.cnt + s.framesTc n 4) ∧
      t.get (R.LNK_CMD_STAT_pend n) = (s.link n).queue.length + 1 ∧ SameRegs [R.LNK_CMD_STAT n] s t ∧ Only linkParts s t) ∧
  (∀ (s : Dev) (n : Fin 1024) (d : Nat × Nat), ((s.link n).tddDue.filter fun d => decide (d.1 ≤ s.time.cnt)).getLast? = some d →
    Does (.tddCommandTarget n) s fun t => (t.link n).tdd = d.2 ∧ (t.link n).tddWas = (d.1, (s.link n).tdd) ∧
      (t.link n).tddDue = (s.link n).tddDue.filter (fun d => !decide (d.1 ≤ s.time.cnt)) ∧ SameRegs [] s t ∧ Only linkParts s t) ∧
  (∀ (s : Dev) (n : Fin 1024), (s.link n).newE = none → Does (.steerUpdate n) s fun t => SameRegs [] s t ∧ Only regsOnly s t) ∧
  (∀ (s : Dev) (n : Fin 1024) (e : Int), (s.link n).newE = some e →
    (s.master n ≠ n → Does (.steerUpdate n) s fun t => t.get (R.LNK_STEER_s n) = s.get (R.LNK_STEER_s (s.master n)) ∧
      t.get (R.LNK_STEER_ssn n) = s.get (R.LNK_STEER_ssn (s.master n)) ∧ (t.link n).newE = none ∧ SameBlocks [0x304] s t ∧ Only linkParts s t) ∧
    (s.master n = n → s.get (R.LNK_LINK_STAT_steer n) ≠ 0 → (s.linkState n = 3 ∨ s.linkState n = 4) →
      (s.time.cnt / halfSubTc < (s.link n).skip ∨ (s.get (R.LNK_LINK_STAT_steer n) = 3 ∧ s.linkState n = 4) →
        Does (.steerUpdate n) s fun t => (t.link n).skip = (s.link n).skip ∧ (t.link n).newE = none ∧ SameRegs [] s t ∧ Only linkParts s t) ∧
      ((s.link n).skip ≤ s.time.cnt / halfSubTc → (s.get (R.LNK_LINK_STAT_steer n) = 1 ∨ (s.get (R.LNK_LINK_STAT_steer n) = 3 ∧ s.linkState n = 3)) →
        s.samplePeriod n < 2 * e.natAbs →
        Does (.steerUpdate n) s fun t => (t.link n).skip = s.time.cnt / halfSubTc + 5 ∧ t.get (R.LNK_LINK_STAT_steer n) = 1 ∧
          (s.rd (R.LNK_BSHIFT n) < 0xFFFFFFFE → t.rd (R.LNK_BSHIFT n) = s.rd (R.LNK_BSHIFT n) + 1) ∧ SameBlocks [0x304] s t ∧ Only linkParts s t) ∧
      ((s.link n).skip ≤ s.time.cnt / halfSubTc → s.get (R.LNK_LINK_STAT_steer n) = 2 → s.steerBw n ≠ 0 →
        Does (.steerUpdate n) s fun t => t.get (R.LNK_STEER_ssn n) = (s.get (R.LNK_STEER_ssn n) + 1) % 256 ∧ (t.link n).newE = none ∧
          SameBlocks [0x304] s t ∧ Only linkParts s t))) ∧
  (∀ (s : Dev) (n : Fin 1024), (s.linkState n = 3 ∨ s.linkState n = 4) → (s.link n).lastE + 64 * halfSubTc ≤ s.time.cnt →
    (s.get (R.LNK_LINK_STAT_steer n) = 1 ∨ s.get (R.LNK_LINK_STAT_steer n) = 2) →
    Does (.steerHold n) s fun t => t.get (R.LNK_LINK_STAT_steer n) = 3 ∧ (t.link n).integ = (s.link n).integ ∧
      Raises s t [(Ev.LNK_STEER_HOLD, n, [(10, ((n : Nat) : Int))])] ∧ SameRegs [R.LNK_LINK_STAT n] s t ∧ Only linkParts s t)

/-- DOZE_ENTRY, DOZE_EXIT, DEEP_ENTRY, DEEP_EXIT_START, LNK_WAKE_FAIL (R147–R149).
Completes: dozeEntry, dozeExit, deepEntry, deepExitStart, lnkWakeFail. -/
def Obligations.LinkPower : Prop :=
  (∀ (s : Dev) (n : Fin 1024) (a : Nat), s.powerDue n 1 0 = some a → s.linkState n = 3 →
    Does (.dozeEntry n) s fun t => t.linkState n = 4 ∧ (t.link n).power = (s.link n).power.erase (a, 1) ∧
      (∃ l, t.raised.map evShow = s.raised.map evShow ++ (Ev.LNK_DOZE, (n : Nat), packItems [(10, ((n : Nat) : Int)), (1, 0)]) :: l) ∧
      SameBlocks [0x304] s t ∧ Only linkParts s t) ∧
  (∀ (s : Dev) (n : Fin 1024) (a : Nat), s.powerDue n 0 (s.uiTc n 1024) = some a → s.linkState n = 4 →
    Does (.dozeExit n) s fun t => t.linkState n = 3 ∧ (t.link n).power = (s.link n).power.erase (a, 0) ∧
      (∃ l, t.raised.map evShow = s.raised.map evShow ++ (Ev.LNK_DOZE, (n : Nat), packItems [(10, ((n : Nat) : Int)), (1, 1)]) :: l) ∧
      SameBlocks [0x304] s t ∧ Only linkParts s t) ∧
  (∀ (s : Dev) (n : Fin 1024) (a : Nat), s.powerDue n 2 0 = some a → (s.linkState n = 3 ∨ s.linkState n = 4) →
    Does (.deepEntry n) s fun t => t.linkState n = 5 ∧ (t.link n).power = (s.link n).power.erase (a, 2) ∧ (t.link n).wake = none ∧
      (∀ m ∈ s.linkLanes n, (t.lane m).eff = {} ∧ (t.lane m).markAt = none ∧ t.laneState m = s.laneState m) ∧
      (∃ l l', t.raised.map evShow = s.raised.map evShow ++ l ++ (Ev.LNK_DEEP, (n : Nat), packItems [(10, ((n : Nat) : Int)), (1, 0)]) :: l') ∧
      SameBlocks [0x304] s t ∧ Only linkParts s t) ∧
  (∀ (s : Dev) (n : Fin 1024) (a : Nat), s.linkState n = 5 → (s.link n).wake = none → s.powerDue n 0 (168 * tickTc) = some a →
    Does (.deepExitStart n) s fun t => t.linkState n = 5 ∧ (t.link n).wake = some a ∧ (t.link n).power = (s.link n).power.erase (a, 0) ∧
      (∃ l, t.raised.map evShow = s.raised.map evShow ++ l ++ [(Ev.LNK_DEEP, (n : Nat), packItems [(10, ((n : Nat) : Int)), (1, 1)])]) ∧
      SameMem s t ∧ SameFlash s t) ∧
  (∀ (s : Dev) (n : Fin 1024) (a : Nat), (s.link n).wake = some a → a ≤ s.time.cnt → s.linkState n ≠ 2 → s.linkState n ≠ 3 →
    Does (.lnkWakeFail n) s fun t => t.linkState n = 1 ∧ (t.link n).wake = none ∧
      (∃ l, t.raised.map (·.code) = s.raised.map (·.code) ++ Ev.LNK_WAKE_FAIL :: l) ∧ SameBlocks [0x304] s t ∧ Only linkParts s t)

/-- TEST_LOOP_WRITE, GEN_EN_WRITE, CHK_EN_WRITE, INJ_EN_WRITE, INJ_ONE, TEST_CLR, TEST_APPLY, FE_LOOP_TARGET, INJECTION, LNK_CHK_SYNC, LNK_CHK_LOSS.
Completes: testLoopWrite, genEnWrite, chkEnWrite, injEnWrite, injOne, testClr, testApply, feLoopTarget, injection, lnkChkSync, lnkChkLoss. -/
def Obligations.LinkTests : Prop :=
  (∀ (s : Dev) (n : Fin 1024) (loop : Fin 4) (on : Bool) (why : Nat), s.isPairOdd n = false →
    ∀ c ∈ [(Instr.testLoopWrite n loop, s.testWith n 0 2 loop), (.genEnWrite n on, s.testWith n 2 1 (b2n on)), (.chkEnWrite n on, s.testWith n 3 1 (b2n on)),
      (.injEnWrite n on, s.testWith n 4 1 (b2n on)), (.injOne n, s.testWith n 6 1 1), (.testClr n, s.testWith n 7 1 1)], s.testWhy n c.2 = some why →
      Does c.1 s fun t => t.rd (R.LNK_TEST_CTL n) = s.rd (R.LNK_TEST_CTL n) ∧ t.flag (R.LNK_TEST_STAT_test_ref n) = true ∧
        t.get (R.LNK_TEST_STAT_ref_why n) = why ∧ Raises s t [(Ev.LNK_TEST_REFUSED, n, [(10, ((n : Nat) : Int)), (2, (why : Int))])] ∧
        SameRegs [R.LNK_TEST_STAT n] s t ∧ Only regsEvents s t) ∧
  (∀ (s : Dev) (n : Fin 1024) (v : Nat), (v % 4 ≠ 0 ∨ bit v 2 = true ∨ bit v 3 = true) → s.linkState (s.linkOf n) = 3 → bit v 5 = false →
    s.testWhy n v = some 0) ∧
  (∀ (s : Dev) (n : Fin 1024) (on : Bool), s.isPairOdd n = false →
    (s.testWhy n (s.testWith n 2 1 (b2n on)) = none →
      Does (.genEnWrite n on) s (fun t => t.flag (R.LNK_TEST_CTL_gen_en n) = on ∧ SameRegs [R.LNK_TEST_CTL n, R.LNK_TEST_STAT n] s t ∧ Only linkParts s t)) ∧
    (s.testWhy n (s.testWith n 3 1 (b2n on)) = none →
      Does (.chkEnWrite n on) s (fun t => t.flag (R.LNK_TEST_CTL_chk_en n) = on ∧ SameRegs [R.LNK_TEST_CTL n, R.LNK_TEST_STAT n] s t ∧ Only linkParts s t)) ∧
    (s.testWhy n (s.testWith n 4 1 (b2n on)) = none →
      Does (.injEnWrite n on) s (fun t => t.flag (R.LNK_TEST_CTL_inj_en n) = on ∧ SameRegs [R.LNK_TEST_CTL n, R.LNK_TEST_STAT n] s t ∧ Only linkParts s t)) ∧
    (s.testWhy n (s.testWith n 6 1 1) = none →
      Does (.injOne n) s (fun t => (s.get (R.LNK_INJ_CFG_type_ n) < 5 → (t.lane n).injOne = (s.lane n).injOne + 1) ∧
        SameRegs [R.LNK_TEST_CTL n, R.LNK_TEST_STAT n] s t ∧ Only linkParts s t)) ∧
    (s.testWhy n (s.testWith n 7 1 1) = none →
      Does (.testClr n) s (fun t => (t.lane n).clrPend = true ∧ SameRegs [R.LNK_TEST_CTL n, R.LNK_TEST_STAT n] s t ∧ Only linkParts s t))) ∧
  (∀ (s : Dev) (n : Fin 1024) (loop : Fin 4), s.isPairOdd n = false → s.testWhy n (s.testWith n 0 2 loop) = none →
    Does (.testLoopWrite n loop) s fun t => t.get (R.LNK_TEST_CTL_loop n) = loop ∧
      (loop = 3 → s.get (R.LNK_TEST_CTL_loop n) ≠ 3 → s.linkOf n = n → (t.link n).feLoop = some (s.boundaryAhead n 4, true)) ∧
      (loop ≠ 3 → s.get (R.LNK_TEST_CTL_loop n) = 3 → s.linkOf n = n → (t.link n).feLoop = some (s.boundaryAhead n 4, false)) ∧
      (s.linkOf n ≠ n → (t.link (s.linkOf n)).feLoop = (s.link (s.linkOf n)).feLoop) ∧ SameBlocks [0x304] s t ∧ Only linkParts s t) ∧
  (∀ (s : Dev) (n : Fin 1024), s.isPairOdd n = false →
    Does (.testApply n) s fun t => (t.lane n).eff = ⟨if s.get (R.LNK_TEST_CTL_loop n) = 0 ∨ s.get (R.LNK_TEST_CTL_loop n) = 3 then
          (if (s.lane n).eff.loop = 3 then 3 else 0) else s.get (R.LNK_TEST_CTL_loop n), s.flag (R.LNK_TEST_CTL_gen_en n),
        s.flag (R.LNK_TEST_CTL_chk_en n), s.flag (R.LNK_TEST_CTL_inj_en n)⟩ ∧
      ((s.lane n).clrPend = true → t.rd64 (R.LNK_CHK_BITS n) = 0 ∧ t.rd64 (R.LNK_CHK_ERR n) = 0 ∧ t.rd64 (R.LNK_INJ_CNT n) = 0 ∧
        t.rd64 (R.LNK_GEN_DISC n) = 0 ∧ t.rd (R.LNK_CHK_LOSS n) = 0 ∧ (t.lane n).clrPend = false) ∧ SameBlocks [0x304] s t ∧ Only linkParts s t) ∧
  (∀ (s : Dev) (n : Fin 1024) (a : Nat) (on : Bool), (s.link n).feLoop = some (a, on) → a ≤ s.time.cnt →
    Does (.feLoopTarget n) s fun t => (t.link n).feLoop = none ∧
      (on = true → s.get (R.LNK_TEST_CTL_loop n) = 3 → ∀ m ∈ s.linkLanes n, (t.lane m).eff.loop = 3) ∧
      (on = true → s.get (R.LNK_TEST_CTL_loop n) ≠ 3 → ∀ m, (t.lane m).eff = (s.lane m).eff) ∧
      (on = false → ∀ m ∈ s.linkLanes n, (t.lane m).eff.loop ≠ 3) ∧ SameBlocks [0x304] s t ∧ Only linkParts s t) ∧
  (∀ (s : Dev) (n : Fin 1024) (u : Nat), s.get (R.LNK_INJ_CFG_type_ n) < 5 → s.injUnit n = some u → u < (s.lane n).injUnits.length →
    Does (.injection n) s fun t => (t.lane n).sent = injectAt (s.get (R.LNK_INJ_CFG_type_ n)) (s.injLen n) (s.lane n).injUnits u (s.lane n).sent ∧
      (t.lane n).injOne = (s.lane n).injOne - 1 ∧ (t.lane n).injUnits = (s.lane n).injUnits.drop (u + 1) ∧
      t.rd64 (R.LNK_INJ_CNT n) = (s.rd64 (R.LNK_INJ_CNT n) + 1) % 2 ^ 64 ∧ SameBlocks [0x304] s t ∧ Only linkParts s t) ∧
  (∀ (s : Dev) (n : Fin 1024), (s.lane n).eff.chk = true → (s.lane n).chk.due = true →
    (s.flag (R.LNK_TEST_STAT_chk_sync n) = false →
      Does (.lnkChkSync n) s fun t => t.flag (R.LNK_TEST_STAT_chk_sync n) = true ∧
        Raises s t [(Ev.LNK_CHK_SYNC, n, [(10, ((n : Nat) : Int))])] ∧ SameBlocks [0x304] s t ∧ Only linkParts s t) ∧
    (s.flag (R.LNK_TEST_STAT_chk_sync n) = true → s.rd (R.LNK_CHK_LOSS n) < 0xFFFFFFFE →
      Does (.lnkChkLoss n) s fun t => t.flag (R.LNK_TEST_STAT_chk_sync n) = false ∧ t.rd (R.LNK_CHK_LOSS n) = s.rd (R.LNK_CHK_LOSS n) + 1 ∧
        SameBlocks [0x304] s t ∧ Only linkParts s t))

/-- FEX_XB_SWITCH, SLOT_DESCRIPTOR_WRITE, UL_SYMBOL, UL_SYMBOL_EVENT, DL_SYMBOL, MASK_CHECK (R213–R227).
Completes: fexXbSwitch, slotDescriptorWrite, ulSymbol, ulSymbolEvent, dlSymbol, maskCheck. -/
def Obligations.FrontEndStreams : Prop :=
  (∀ (s : Dev) (a : Fin 2048), s.flag (R.FEX_XB_LO_dual a) = true →
    ((s.time.cnt / frameTc + 2 ^ 32 - s.rd (R.FEX_XB_HI a)) % 2 ^ 32 < 2 ^ 31 →
      Does (.fexXbSwitch a) s fun t => t.get (R.FEX_XB_LO_cl a) = s.get (R.FEX_XB_LO_new_cl a) ∧ t.get (R.FEX_XB_LO_slot a) = s.get (R.FEX_XB_LO_new_slot a) ∧
        t.flag (R.FEX_XB_LO_dual a) = false ∧ t.flag (R.FEX_XB_LO_valid a) = s.flag (R.FEX_XB_LO_valid a) ∧
        Raises s t [(Ev.FEX_XB_SWITCH, 0xFFFF, [(11, (a : Nat)), (5, s.get (R.FEX_XB_LO_cl a)), (5, s.get (R.FEX_XB_LO_new_cl a))])] ∧
        SameRegs [R.FEX_XB_LO a] s t ∧ Only regsEvents s t) ∧
    (2 ^ 31 ≤ (s.time.cnt / frameTc + 2 ^ 32 - s.rd (R.FEX_XB_HI a)) % 2 ^ 32 → Does (.fexXbSwitch a) s fun t => SameRegs [] s t ∧ Only regsOnly s t)) ∧
  (∀ (s : Dev) (cl : Fin 17) (slot : Fin 128) (w : Fin 16) (v : Word), w ≠ 0 →
    (bit (s.sd cl slot 0) 0 = false → Does (.slotDescriptorWrite cl slot w v) s fun t => t.sd cl slot w = Nat.land v.toNat (lget 0 slotMasks w) ∧
      SameRegs [slotAddr cl slot w] s t ∧ Only regsOnly s t) ∧
    (bit (s.sd cl slot 0) 0 = true → Does (.slotDescriptorWrite cl slot w v) s fun t => t.flag (R.FEX_CL_STAT_cfg_bad cl) = true ∧
      t.raised.map (·.code) = s.raised.map (·.code) ++ [Ev.FEX_CFG_BAD] ∧ SameRegs [R.FEX_CL_STAT cl] s t ∧
      Only (fun s t => { t with raised := s.raised, freeCtr := s.freeCtr }) s t)) ∧
  (∀ (s : Dev) (cl : Fin 17) (slot : Fin 128) (v : Word) (bad : Bool),
    bad = (bit v.toNat 0 && !s.slotOk cl slot fun i => if i = 0 then v.toNat % 2 ^ 22 else s.sd cl slot i) →
    Does (.slotDescriptorWrite cl slot 0 v) s fun t => t.sd cl slot 0 = v.toNat % 2 ^ 22 - b2n bad ∧
      t.get (R.FEX_CL_STAT_nslot cl) = (s.otherSlots cl slot).length + b2n (bit v.toNat 0 && !bad) ∧ (t.fslot cl slot).broken = false ∧
      (bad = true → t.flag (R.FEX_CL_STAT_cfg_bad cl) = true) ∧
      t.raised.map (·.code) = s.raised.map (·.code) ++ (if bad then [Ev.FEX_CFG_BAD] else []) ∧
      SameRegs [slotAddr cl slot 0, R.FEX_CL_STAT cl, R.FEX_CL_RATE cl] s t ∧
      Only (fun s t => { t with fex := s.fex, raised := s.raised, freeCtr := s.freeCtr }) s t) ∧
  (∀ (s : Dev) (cl : Fin 17) (e : FexEvent) (r : List FexEvent), (s.fcl cl).events = e :: r →
    ((s.input 0).length < 32 → s.eventReady e = true → Does (.ulSymbolEvent cl) s fun t => (t.fcl cl).events = r ∧
      t.input 0 = s.input 0 ++ (if e.sq = 0xFFFF then [] else [{ desc := e.sq, payload := e.pay % 2 ^ 32 }]) ∧
      SameRegs [R.FEX_CL_STAT cl] s t ∧ Only (fun s t => { t with fex := s.fex, tsk := s.tsk }) s t) ∧
    (32 ≤ (s.input 0).length ∨ s.eventReady e = false → Does (.ulSymbolEvent cl) s fun t => SameRegs [] s t ∧ Only regsOnly s t)) ∧
  (∀ (s : Dev) (cl : Fin 17) (slot : Fin 128) (second : Bool) (c : FexCarrier) (f : Nat), s.carrier cl slot second = some c →
    s.linkOfStream c.a = some f → s.fexOn cl = true → s.linkState f ≠ 4 → s.linkState f ≠ 5 → 2 ≤ s.airState →
    (∀ t0, t0 = (lastEnded c s.time.cnt).2.2.1 → bit (s.sd cl slot 0) 1 = true → s.xbIn c.a cl slot = true → s.tddAt f t0 = 2 →
      ((s.fslot cl slot).view second).ulLast ≠ some t0 →
      Does (.ulSymbol cl slot second .none) s fun t => t.rd64 (R.FEX_UL_SYM cl) = (s.rd64 (R.FEX_UL_SYM cl) + 1) % 2 ^ 64 ∧
        ((t.fslot cl slot).view second).ulLast = some t0 ∧ ((t.fslot cl slot).view (!second)) = ((s.fslot cl slot).view (!second)) ∧
        ((s.fcl cl).events.length < 256 → c.sq ≠ 0xFFFF →
          ∃ l e, (t.fcl cl).events = l ++ [e] ∧ l.map (·.sq) = (s.fcl cl).events.map (·.sq) ∧ e.sq = c.sq ∧ e.ring = c.ulRing ∧
            e.pay % 2 ^ 12 = (slot : Nat) + (cl : Nat) * 2 ^ 7) ∧
        SameLow s t ∧ SameFlash s t) ∧
    (∀ t0, t0 = (symbolAt c ((32 * (s.time.cnt + tSym c + tickTc) + s.dlAdvance f) / 32).toNat).2.2.1 → bit (s.sd cl slot 0) 2 = true →
      s.tddAt f t0 = 1 → ((s.fslot cl slot).view second).dlLast ≠ some t0 →
      (s.flag (R.FEX_XB_LO_dual c.a) = false ∨ s.xbSource c.a t0 = some ((cl : Nat), (slot : Nat))) →
      Does (.dlSymbol cl slot second .none) s fun t => t.rd64 (R.FEX_DL_SYM cl) = (s.rd64 (R.FEX_DL_SYM cl) + 1) % 2 ^ 64 ∧
        (t.fcl cl).events = (s.fcl cl).events ∧ ((t.fslot cl slot).view second).dlLast = some t0 ∧
        (∃ o, ((t.fslot cl slot).view second).out.head? = some o ∧ o.at_ = t0 / (4 * 2 ^ c.srate)) ∧ SameLow s t ∧ SameFlash s t)) ∧
  (∀ (s : Dev) (cl : Fin 17) (slot : Fin 128) (ended : BitVec 16), bit (s.sd cl slot 0) 0 = true → bit (s.sd cl slot 0) 2 = true → s.fexOn cl = true →
    ((∀ i < 16, (bit ended.toNat i && s.maskBand cl slot i) = false) →
      Does (.maskCheck cl slot ended) s fun t => (t.fslot cl slot).mute = false ∧ SameRegs [] s t ∧
        Only (fun s t => { t with fex := s.fex, raised := s.raised }) s t) ∧
    (∀ i < 16, (bit ended.toNat i && s.maskBand cl slot i) = true → (∀ k < i, (bit ended.toNat k && s.maskBand cl slot k) = false) →
      s.rd (R.FEX_MASK_VIOL cl) < 0xFFFFFFFE →
      Does (.maskCheck cl slot ended) s fun t => t.rd (R.FEX_MASK_VIOL cl) = s.rd (R.FEX_MASK_VIOL cl) + 1 ∧ t.flag (R.FEX_CL_STAT_mask cl) = true ∧
        (t.fslot cl slot).mute = ((s.fslot cl slot).mute || s.flag R.FEX_CTL_mask_mute) ∧
        Raises s t ((Ev.FEX_MASK_VIOL, (cl : Nat), [(5, ((cl : Nat) : Int)), (7, ((slot : Nat) : Int)), (4, (i : Int))]) ::
          (if s.flag R.FEX_CTL_mask_mute && !(s.fslot cl slot).mute then
            [(Ev.FEX_MUTE, (cl : Nat), [(5, ((cl : Nat) : Int)), (7, ((slot : Nat) : Int)), (1, 1)])] else [])) ∧
        SameRegs [R.FEX_MASK_VIOL cl, R.FEX_CL_STAT cl] s t ∧ Only (fun s t => { t with fex := s.fex, raised := s.raised }) s t))

/-- FEX_COMMAND_POST, FEX_NOP, LOAD_DPD, DPD_BANK_SWAP, OBS, CAPTURE, INJECT, PRACH_OCCASION, PRACH_PROFILE_RECEIVE, QUALITY_RECORD.
Completes: fexCommandPost, fexNop, loadDpd, dpdBankSwap, obs, capture, inject, prachOccasion, prachProfileReceive, qualityRecord. -/
def Obligations.FrontEndCommands : Prop :=
  (∀ (s : Dev) (cl : Fin 17) (v : Word) (c : List Nat), c = (List.range 7).map (fun i => s.rd (R.FEX_CQ cl i)) ++ [v.toNat] →
    (s.fcl cl).queue = [] → (s.fcl cl).held = [] → (s.fcl cl).armed.length < 16 →
    (s.fexOn cl = false → Does (.fexCommandPost cl v) s fun t => (t.fcl cl).armed = (s.fcl cl).armed ∧ (t.fcl cl).queue = [c] ∧
      t.get (R.FEX_CQ_STAT_depth cl) = 1 ∧ SameRegs [R.FEX_CQ cl 7, R.FEX_CQ_STAT cl] s t ∧ Only (fun s t => { t with fex := s.fex }) s t) ∧
    (s.fexOn cl = true → s.armStatus cl c = none → Does (.fexCommandPost cl v) s fun t => (t.fcl cl).armed = (s.fcl cl).armed ++ [c] ∧ (t.fcl cl).queue = [] ∧
      t.get (R.FEX_CQ_STAT_armed cl) = (s.fcl cl).armed.length + 1 ∧ t.get (R.FEX_CQ_STAT_depth cl) = 0 ∧
      SameRegs [R.FEX_CQ cl 7, R.FEX_CQ_STAT cl] s t ∧ Only (fun s t => { t with fex := s.fex }) s t) ∧
    (s.fexOn cl = true → s.armStatus cl c ≠ none → Does (.fexCommandPost cl v) s fun t => (t.fcl cl).armed = (s.fcl cl).armed ∧ (t.fcl cl).queue = [] ∧
      (bits (dw c 0) 16 16 ≠ 0xFFFF → ∃ e, t.input 4 = s.input 4 ++ [e] ∧ e.desc = bits (dw c 0) 16 16) ∧ SameFlash s t)) ∧
  (∀ (s : Dev) (cl : Fin 17) (c : List Nat) (r : List (List Nat)) (evm gain phase : BitVec 16), (s.fcl cl).armed = c :: r → (s.fcl cl).queue = [] →
    (s.fcl cl).held = [] → s.fexOn cl = true →
    (∀ i ∈ [(0, Instr.fexNop cl, true), (2, .obs cl evm gain phase, s.windowOver cl c), (3, .capture cl, s.windowOver cl c),
        (4, .inject cl, decide (cmdTarget c ≤ s.time.cnt))], cmdOp c = i.1 → i.2.2 = true →
      Does i.2.1 s fun t => (t.fcl cl).armed = r ∧ (t.fcl cl).queue = [] ∧
        (bits (dw c 0) 16 16 ≠ 0xFFFF → ∃ e, t.input 4 = s.input 4 ++ [e] ∧ e.desc = bits (dw c 0) 16 16) ∧
        SameLow s t ∧ SameFlash s t) ∧
    (cmdOp c = 4 → cmdTarget c ≤ s.time.cnt → bit (s.sd cl (cmdSlot c) 0) 2 = false →
      Does (.inject cl) s fun t => ∃ o, (t.fslot cl (cmdSlot c)).inj.head? = some o ∧ o.at_ = cmdTarget c / (4 * 2 ^ (s.cmdStream cl c).2) ∧
        o.iq.length = cmdLen c) ∧
    (∀ h off : Nat, cmdOp c = 3 → s.windowOver cl c = true → (cmdLen c = 1 ∨ cmdLen c = 2) → bits (dw c 7) 0 12 = 0xFFF →
      s.ringValid (cmdRing c) = true → s.ringStalled (cmdRing c) = [] → s.ringW (cmdRing c) - s.ringOldest (cmdRing c) < s.ringCap (cmdRing c) →
      s.ringW (cmdRing c) + 1 < 2 ^ 64 → (∀ j, j < 2 → tget 0 s.fex.debt (cmdRing c * 2 + j) = 0) →
      h = (if s.ringW (cmdRing c) % 512 = 0 ∧ 0 < s.ringW (cmdRing c) then s.succ (s.ringHead (cmdRing c)) else s.ringHead (cmdRing c)) →
      off = h * 4096 + s.ringW (cmdRing c) % 512 * 8 → 80 ≤ h →
      Does (.capture cl) s fun t => t.ringW (cmdRing c) = s.ringW (cmdRing c) + 1 ∧ t.sword off = (packPairs (s.windowRx cl c 0)).getD 0 0 % 2 ^ 64 ∧
        (t.fcl cl).armed = r) ∧
    (cmdOp c = 1 → s.erasedIn (bits (dw c 4) 0 26) 64 = false → (s.fslot cl (cmdSlot c)).load = none →
      Does (.loadDpd cl) s fun t => (t.fcl cl).armed = r ∧
        (t.fslot cl (cmdSlot c)).load = some (c, boundaryFrom (max (cmdTarget c) (s.time.cnt + 1))) ∧
        (t.fslot cl (cmdSlot c)).bank = (s.fslot cl (cmdSlot c)).bank ∧
        (∀ i < 16, t.rd (dpdAddr cl (cmdSlot c) (!(s.fslot cl (cmdSlot c)).bank) i) = s.le (storeBase + bits (dw c 4) 0 26 + i * 4) 4) ∧
        SameRegs (R.FEX_CQ_STAT cl :: (List.range 16).map (dpdAddr cl (cmdSlot c) (!(s.fslot cl (cmdSlot c)).bank))) s t ∧
        Only (fun s t => { t with fex := s.fex }) s t)) ∧
  (∀ (s : Dev) (cl : Fin 17) (slot : Fin 128) (c : List Nat) (b : Nat), (s.fslot cl slot).load = some (c, b) → b ≤ s.time.cnt → s.fexOn cl = true →
    Does (.dpdBankSwap cl slot) s fun t => (t.fslot cl slot).bank = !(s.fslot cl slot).bank ∧ (t.fslot cl slot).load = none ∧
      (bits (dw c 0) 16 16 ≠ 0xFFFF → ∃ e, t.input 4 = s.input 4 ++ [e] ∧ e.desc = bits (dw c 0) 16 16) ∧
      SameLow s t ∧ SameFlash s t) ∧
  (∀ (s : Dev) (cl : Fin 17) (j : Fin 16) (fdm : Fin 8) (tOcc : BitVec 64) (prof : List (List Nat)), bit (s.pw cl j 0) 0 = true →
    (fdm : Nat) < 2 ^ bits (s.pw cl j 0) 8 2 → s.fexOn cl = true →
    ((s.prachSt cl j).got < bits (s.pw cl j 2) 24 3 →
      Does (.prachOccasion cl j fdm tOcc prof) s fun t => t.rd64 (R.FEX_PRACH_OCC cl) = (s.rd64 (R.FEX_PRACH_OCC cl) + 1) % 2 ^ 64 ∧
        (t.prachSt cl j).own = some (tOcc.toNat, (fdm : Nat)) ∧ (t.prachSt cl j).prof = addProfiles (s.prachSt cl j).prof prof ∧
        SameRegs [R.FEX_PRACH_OCC cl, R.FEX_PRACH_OCC_HI cl] s t ∧ Only (fun s t => { t with fex := s.fex }) s t) ∧
    (bits (s.pw cl j 2) 24 3 ≤ (s.prachSt cl j).got → bits (s.pw cl j 2) 15 5 = 31 →
      Does (.prachOccasion cl j fdm tOcc prof) s fun t => t.rd64 (R.FEX_PRACH_OCC cl) = (s.rd64 (R.FEX_PRACH_OCC cl) + 1) % 2 ^ 64 ∧
        (t.prachSt cl j).own = none ∧ (t.prachSt cl j).inbox = (s.prachSt cl j).inbox ∧
        (bits (s.pw cl j 3) 12 16 ≠ 0xFFFF → ∃ e, t.input 0 = s.input 0 ++ [e] ∧ e.desc = bits (s.pw cl j 3) 12 16) ∧
        SameLow s t ∧ SameFlash s t)) ∧
  (∀ (s : Dev) (cl : Fin 17) (j : Fin 16) (p : List (List Nat)) (a : Nat) (r : List (List (List Nat) × Nat)), (s.prachSt cl j).inbox = (p, a) :: r →
    (s.prachSt cl j).own = none →
    Does (.prachProfileReceive cl j) s fun t => (t.prachSt cl j).inbox = r ∧ (t.prachSt cl j).prof = addProfiles (s.prachSt cl j).prof p ∧
      (t.prachSt cl j).ants = (s.prachSt cl j).ants + a ∧ (t.prachSt cl j).got = (s.prachSt cl j).got + 1 ∧ SameRegs [] s t ∧
      Only (fun s t => { t with fex := s.fex }) s t) ∧
  (∀ (s : Dev) (cl : Fin 17) (slot : Fin 128) (second : Bool) (rssi nf : BitVec 16) (c : FexCarrier), s.carrier cl slot second = some c →
    s.flag (R.FEX_CL_CFG_q_en cl) = true → bit (s.sd cl slot 0) 1 = true →
    s.fexOn cl = true →
    Does (.qualityRecord cl slot second rssi nf ()) s fun t => ((t.fslot cl slot).view second).nEra = 0 ∧
      ((t.fslot cl slot).view second).fftSat = 0 ∧ ((t.fslot cl slot).view second).inSat = 0 ∧ ((t.fslot cl slot).view (!second)) = ((s.fslot cl slot).view (!second)) ∧
      SameLow s t ∧ SameFlash s t)

/-- HARNESS_CONFIG_WRITE, SCA_JOB_POST, SCA_JOB_START, UPLINK_COMBINE, DOWNLINK_PRECODE, CAL_SWAP, SCA_JOB_COMPLETE, SCA_SHORT, HARNESS_STOP, HARNESS_CLEAR.
Completes: harnessConfigWrite, scaJobPost, scaJobStart, uplinkCombine, downlinkPrecode, calSwap, scaJobComplete, scaShort, harnessStop, harnessClear. -/
def Obligations.SpatialCombiner : Prop :=
  (∀ (s : Dev) (h : Fin 32) (v : Word) (ok : Bool), ok = ((s.harness h).cur.isNone && (s.harness h).queue.isEmpty && bits v.toNat 7 2 != 3 &&
      bits v.toNat 9 2 != 3 && bits v.toNat 1 6 % (blocks (bits v.toNat 7 2) * blocks (bits v.toNat 9 2)) == 0 &&
      (List.range 32).all fun k => k == (h : Nat) || !s.flag (R.SCA_HCFG_en k) ||
        decide (bits v.toNat 1 6 + blocks (bits v.toNat 7 2) * blocks (bits v.toNat 9 2) ≤ s.get (R.SCA_HCFG_tile0 k)) ||
        decide (s.get (R.SCA_HCFG_tile0 k) + s.hRows k * s.hCols k ≤ bits v.toNat 1 6)) →
    (ok = true → Does (.harnessConfigWrite h v) s fun t => t.rd (R.SCA_HCFG h) = v.toNat % 2 ^ 11 ∧ SameRegs [R.SCA_HCFG h] s t ∧ Only regsOnly s t) ∧
    (ok = false → Does (.harnessConfigWrite h v) s fun t => t.flag (R.SCA_HSTAT_cfg_bad h) = true ∧
      Raises s t [(Ev.SCA_CFG_BAD, (h : Nat), [(5, ((h : Nat) : Int)), (32, (v.toNat : Int))])] ∧ SameRegs [R.SCA_HSTAT h] s t ∧ Only regsEvents s t)) ∧
  (∀ (s : Dev) (h : Fin 32) (v : Word) (d : List Nat), d = (List.range 15).map (fun i => s.rd (R.SCA_JQ h i)) ++ [v.toNat] →
    (s.hOn h = true → Does (.scaJobPost h v) s fun t => (t.harness h).cur = (s.harness h).cur ∧
      ((s.harness h).queue.length < 32 → (t.harness h).queue = (s.harness h).queue ++ [d] ∧ (t.harness h).held = (s.harness h).held ∧
        t.get (R.SCA_HSTAT_qdepth h) = (s.harness h).queue.length + 1) ∧
      (32 ≤ (s.harness h).queue.length → (t.harness h).queue = (s.harness h).queue ∧ (t.harness h).held = (s.harness h).held ++ [d]) ∧
      SameRegs [R.SCA_JQ h 15, R.SCA_HSTAT h] s t ∧ Only (fun s t => { t with sca := s.sca }) s t) ∧
    (s.hOn h = false → s.rd R.SCA_BAD < 0xFFFFFFFE → Does (.scaJobPost h v) s fun t => t.rd R.SCA_BAD = s.rd R.SCA_BAD + 1 ∧
      t.flag R.SCA_STAT_bad = true ∧ t.harness h = s.harness h ∧ SameRegs [R.SCA_JQ h 15, R.SCA_BAD, R.SCA_STAT] s t ∧
      Only (fun s t => { t with raised := s.raised, freeCtr := s.freeCtr }) s t)) ∧
  (∀ (s : Dev) (h : Fin 32) (d : List Nat) (q : List (List Nat)) (late : Bool), (s.harness h).queue = d :: q → (s.harness h).cur = none →
    late = (jobDead d != 0 && decide (jobDead d < (s.harness h).headAt)) → (late = true ∨ jobStart d ≤ s.time.cnt) →
    Does (.scaJobStart h none) s fun t => (t.harness h).queue = q ++ (s.harness h).held.take 1 ∧
      (∃ r, (t.harness h).cur = some r ∧ r.d = d ∧ r.sym = 0 ∧
        r.sts = (if late then [1] else []) ++ (if jobMalformed d then [3] else if jobOp d = 2 then [] else if s.setOk (jobSet d) h = false then [4]
          else if late = false ∧ s.jobStale d (s.readSet d) = true then [5] else []) ∧
        r.ended = (jobMalformed d || (if jobOp d = 2 then late else !s.setOk (jobSet d) h)) ∧
        r.skip = (!jobMalformed d && jobOp d != 2 && s.setOk (jobSet d) h && (late || s.jobStale d (s.readSet d))) ∧
        (jobMalformed d = false → jobOp d ≠ 2 → s.setOk (jobSet d) h = true → r.set.ins = s.setIn (jobSet d) (jobOp d == 1) ∧
          r.set.outs = s.setOut (jobSet d) (jobOp d == 1) ∧ r.set.nsc = s.setNsc (jobSet d))) ∧
      t.get (R.SCA_HSTAT_set h) = jobSet d ∧ SameRegs [R.SCA_HSTAT h] s t ∧ Only (fun s t => { t with sca := s.sca }) s t) ∧
  (∀ (s : Dev) (h : Fin 32) (d : List Nat) (q : List (List Nat)) (o : Fin 4096), (s.harness h).queue = d :: q → (s.harness h).cur = none →
    jobStart d ≤ s.time.cnt → jobDead d = 0 → jobMalformed d = false → jobOp d ≠ 2 →
    Does (.scaJobStart h (some o)) s fun t => (t.harness h).queue = q ++ (s.harness h).held.take 1 ∧
      (∃ r, (t.harness h).cur = some r ∧ r.d = d ∧ r.sts = [7] ∧ r.ended = true) ∧ t.flag R.SCA_STAT_perr = true ∧
      (∃ l, t.raised.map evShow = s.raised.map evShow ++ l ++
        [(Ev.SCA_PERR, (h : Nat), packItems [(5, ((h : Nat) : Int)), (1, 1), (26, ((s.setOff (jobSet d) + o : Nat) : Int))])]) ∧ SameLow s t ∧ SameFlash s t) ∧
  (∀ (s : Dev) (h : Fin 32) (d : List Nat) (q : List (List Nat)) (perr : Option (Fin 4096)), (s.harness h).queue = d :: q →
    ((s.harness h).cur ≠ none ∨ (jobDead d = 0 ∧ s.time.cnt < jobStart d)) → Does (.scaJobStart h perr) s fun t => SameRegs [] s t ∧ Only regsOnly s t) ∧
  (∀ (s : Dev) (h : Fin 32) (r : ScaRun), (s.harness h).cur = some r → r.ended = false → s.scaStalled r = false →
    (∀ c ∈ [(0, Instr.uplinkCombine h [] none none), (1, .downlinkPrecode h [] none none)], jobOp r.d = c.1 → r.sym + 1 = jobNsym r.d →
      s.inputsReady r.set.ins r.words = true →
      Does c.2 s fun t => (∃ x, (t.harness h).cur = some x ∧ x.d = r.d ∧ x.sym = r.sym + 1 ∧ x.ended = true ∧ x.since = s.time.cnt) ∧
        (t.harness h).queue = (s.harness h).queue ∧
        t.rd64 R.SCA_RE = (s.rd64 R.SCA_RE + if r.skip then 0 else r.set.nsc) % 2 ^ 64 ∧
        SameLow s t ∧ SameFlash s t) ∧
    (jobOp r.d = 2 →
      Does (.calSwap h) s fun t => (t.harness h).cur = some { r with ended := true } ∧
        t.rd (R.SCA_CALSEL (jobSet r.d / 32)) = setBits (s.rd (R.SCA_CALSEL (jobSet r.d / 32))) (jobSet r.d % 32) 1 (bits (dw r.d 0) 2 1) ∧
        SameRegs [R.SCA_CALSEL (jobSet r.d / 32), R.SCA_HSTAT h] s t ∧ Only (fun s t => { t with sca := s.sca }) s t) ∧
    (jobOp r.d ≠ 2 → s.inputsReady r.set.ins r.words = false → r.since + 1966080 < s.time.cnt →
      Does (.scaShort h) s fun t => (∃ x, (t.harness h).cur = some x ∧ x.d = r.d ∧ x.ended = true ∧ 8 ∈ x.sts) ∧ t.flag R.SCA_STAT_short = true ∧
        (∃ l, t.raised.map (·.code) = s.raised.map (·.code) ++ l ++ [Ev.SCA_SHORT]) ∧
        t.plc.triggers = s.plc.triggers ++ [(4, ⟨5, jobSet r.d⟩)] ∧ SameLow s t ∧ SameFlash s t)) ∧
  (∀ (s : Dev) (h : Fin 32) (r : ScaRun), (s.harness h).cur = some r → r.ended = true → s.scaStalled r = false →
    Does (.scaJobComplete h) s fun t => (t.harness h).cur = none ∧ (t.harness h).headAt = s.time.cnt ∧ (t.harness h).flush = none ∧
      (∀ l, (s.harness h).flush = some l → ∃ z, t.raised.map evShow = s.raised.map evShow ++ z ++
        [(Ev.SCA_STOPPED, (h : Nat), packItems [(5, ((h : Nat) : Int)), (32, (l.length : Int))])]) ∧ (t.harness h).queue = (s.harness h).queue ∧ ((s.harness h).flush = none → t.rd (R.SCA_HSEQ h) = dw r.d 1 % 2 ^ 32) ∧
      (r.sts = [] → t.rd64 R.SCA_JOBS = (s.rd64 R.SCA_JOBS + 1) % 2 ^ 64) ∧
      ((s.harness h).flush = none → bits (dw r.d 0) 16 16 ≠ 0xFFFF → ∃ e, t.input 3 = s.input 3 ++ [e] ∧ e.desc = bits (dw r.d 0) 16 16) ∧
      SameLow s t ∧ SameFlash s t) ∧
  (∀ (s : Dev) (h : Fin 32),
    Does (.harnessStop h) s (fun t => (t.harness h).queue = (s.harness h).held.take 32 ∧ (t.harness h).held = (s.harness h).held.drop 32 ∧
      ((s.harness h).cur = none → (t.harness h).cur = none ∧ (∃ l, t.raised.map evShow = s.raised.map evShow ++ l ++
        [(Ev.SCA_STOPPED, (h : Nat), packItems [(5, ((h : Nat) : Int)), (32, ((s.harness h).queue.length : Int))])])) ∧
      (∀ r, (s.harness h).cur = some r → (t.harness h).flush = some ((s.harness h).flush.getD [] ++ (s.harness h).queue) ∧
        (∃ x, (t.harness h).cur = some x ∧ x.sym = r.sym ∧ (r.ended = true → x = r) ∧
          (r.ended = false → 2 ∈ x.sts ∧ x.skip = (r.skip || jobOp r.d != 2) ∧ x.ended = (jobOp r.d == 2)))) ∧
      SameLow s t ∧ SameFlash s t) ∧
    Does (.harnessClear h) s (fun t => t.rd64 (R.SCA_HCYC h) = 0 ∧ t.flag (R.SCA_HSTAT_cfg_bad h) = false ∧
      SameRegs [R.SCA_HCYC h, R.SCA_HCYC_HI h, R.SCA_HSTAT h] s t ∧ Only regsOnly s t))

/-- COD_JOB_POST, COD_DISPATCH, COD_NOP, HARQ_REL, COD_JOB_COMPLETE, HARQ_CLEAR (R262–R281).
Completes: codJobPost, codDispatch, codNop, harqRel, codJobComplete, harqClear. -/
def Obligations.CodingJobs : Prop :=
  (∀ (s : Dev) (q : Fin 32) (v : Word) (d : List Nat), d = (List.range 15).map (fun i => s.rd (R.COD_JQ q i)) ++ [v.toNat] →
    (s.flag (R.COD_QCFG2_en q) = true → s.domOn 46 = true →
      Does (.codJobPost q v) s fun t => t.rd (R.COD_JQ q 15) = v.toNat ∧
        ((s.cq q).jobs.length < 64 → (t.cq q).jobs.length = (s.cq q).jobs.length + 1 ∧ (t.cq q).held = (s.cq q).held ∧
          (t.cq q).jobs.map (·.d) = (s.cq q).jobs.map (·.d) ++ [d] ∧ t.cod.accepted = s.cod.accepted + 1) ∧
        (64 ≤ (s.cq q).jobs.length → (t.cq q).jobs = (s.cq q).jobs ∧ (t.cq q).held = (s.cq q).held ++ [d]) ∧
        SameLow s t ∧ SameFlash s t) ∧
    ((s.flag (R.COD_QCFG2_en q) = false ∨ s.domOn 46 = false) → s.rd R.COD_BAD < 0xFFFFFFFE →
      Does (.codJobPost q v) s fun t => t.rd R.COD_BAD = s.rd R.COD_BAD + 1 ∧ t.flag R.COD_STAT_bad = true ∧ t.cod = s.cod ∧
        SameRegs [R.COD_JQ q 15, R.COD_BAD, R.COD_STAT] s t ∧ Only (fun s t => { t with raised := s.raised, freeCtr := s.freeCtr }) s t)) ∧
  (∀ (s s0 : Dev) (u : Fin 50) (dirBad : Bool) (q : Nat) (j : CodJob), s0 = s.settleAll → s0.unitFree u = true → s0.cod.clearing = false →
    s0.domOn 46 = true → s0.unitPick u = some q → frontJob (s0.cq q).jobs = some j → s0.job q j.id = some j → j.redo = [] →
    (∀ (c : Nat) (r : List Nat), j.t0.isSome = true → j.todo = c :: r →
      Does (.codDispatch u dirBad) s fun t => (t.cunit u).work = some ⟨q, j.id, c, false, none⟩ ∧ (t.cunit u).last = q ∧
        (∃ k, t.job q j.id = some k ∧ k.todo = r ∧ k.out = j.out + 1) ∧ SameMem s0 t ∧ SameFlash s0 t) ∧
    (j.t0 = none → cOp j.d ∈ [1, 4, 7, 8, 9] →
      Does (.codDispatch u dirBad) s fun t => (t.cunit u).work = some ⟨q, j.id, 0, false, none⟩ ∧
        (∃ k, t.job q j.id = some k ∧ k.todo = [] ∧ k.t0 = some s.time.cnt) ∧ SameMem s0 t ∧ SameFlash s0 t)) ∧
  (∀ (s : Dev) (q : Fin 32) (j : CodJob), (s.cq q).jobs = [j] → j.ended = false → j.t0 = none → s.cod.clearing = false → s.codMalformed q j.d = false →
    (cDead j.d = 0 ∨ s.time.cnt ≤ cDead j.d) →
    (cOp j.d = 0 → Does (.codNop q) s fun t => (t.cq q).jobs = [{ j with ended := true }] ∧
      SameRegs [R.COD_QSTAT q] s t ∧ Only (fun s t => { t with cod := s.cod }) s t) ∧
    (cOp j.d = 10 → s.hidFree j = true → Does (.harqRel q) s fun t => (t.cq q).jobs = [{ j with ended := true }] ∧
      t.harq (cHid j.d) = none ∧ SameLow s t ∧ SameFlash s t)) ∧
  (∀ (s : Dev) (q : Fin 32) (j : CodJob), (s.cq q).jobs = [j] → (s.cq q).held = [] → j.ended = true → j.out = 0 →
    Does (.codJobComplete q) s fun t => (t.cq q).jobs = [] ∧ t.rd (R.COD_QSEQ q) = dw j.d 1 % 2 ^ 32 ∧
      (j.sts = [] → t.rd64 R.COD_JOBS = (s.rd64 R.COD_JOBS + 1) % 2 ^ 64) ∧
      (bits (dw j.d 0) 16 16 ≠ 0xFFFF → ∃ e, t.input 3 = s.input 3 ++ [e] ∧ e.desc = bits (dw j.d 0) 16 16) ∧
      SameLow s t ∧ SameFlash s t) ∧
  (∀ (s : Dev) (busy : Bool), busy = (s.cod.queue.any fun e => e.2.jobs.any fun j => j.t0.isSome && !j.ended) →
    (busy = true → Does .harqClear s fun t => t.cod.clearing = true ∧ (∀ h, t.harq h = s.harq h) ∧ SameRegs [] s t ∧
      Only (fun s t => { t with cod := s.cod }) s t) ∧
    (busy = false → Does .harqClear s fun t => t.cod.clearing = false ∧ (∀ h, t.harq h = none) ∧ SameFlash s t))

/-- DEMAP, COD_SHORT, MAP, DECODE_LDPC, DECODE_TURBO, CODE_BLOCK_COMPLETE, DECODE_POLAR, ENCODE_LDPC, ENCODE_TURBO, ENCODE_POLAR, ENCODE_TBCC.
Completes: demap, codShort, decodeLdpc, decodeTurbo, decodePolar, encodeLdpc, encodeTurbo, encodePolar, encodeTbcc, map, codeBlockComplete. -/
def Obligations.CodingUnits : Prop :=
  (∀ (s : Dev) (u : Fin 8) (w : CodWork) (j : CodJob), s.workOf (34 + u) 1 = some (w, j) →
    (j.pos + cNsym j.d * cNsc j.d / 2 ≤ s.ringW (cRing j.d) →
      Does (.demap u false) s fun t => (t.cunit (34 + u)).work = none ∧ (∃ k, t.job w.q w.id = some k ∧ k.ended = true ∧ k.d = j.d) ∧
        SameLow s t ∧ SameFlash s t) ∧
    (s.ringW (cRing j.d) < j.pos + cNsym j.d * cNsc j.d / 2 →
      Does (.demap u false) s (fun t => SameRegs [] s t ∧ Only regsOnly s t) ∧
      (j.t0.getD 0 + 1966080 < s.time.cnt → Does (.codShort u) s fun t => (t.cunit (34 + u)).work = none ∧
        (∃ k, t.job w.q w.id = some k ∧ k.ended = true ∧ 4 ∈ k.sts) ∧ SameLow s t ∧ SameFlash s t))) ∧
  (∀ (s : Dev) (u : Fin 8) (w : CodWork) (j : CodJob), s.workOf (42 + u) 9 = some (w, j) →
    Does (.map u false) s fun t =>
      ((t.ringStalled (cRing j.d) = [] ∧ (t.cunit (42 + u)).work = none ∧ ∃ k, t.job w.q w.id = some k ∧ k.ended = true ∧ k.sts = j.sts) ∨
        (t.ringStalled (cRing j.d) ≠ [] ∧ (t.cunit (42 + u)).work = some w ∧ ∃ k, t.job w.q w.id = some k ∧ k.wrote = true ∧ k.ended = j.ended)) ∧
      (j.wrote = true → t.ringStalled (cRing j.d) = s.ringStalled (cRing j.d) ∧ SameMem s t) ∧ SameLow s t ∧ SameFlash s t) ∧
  (∀ (s : Dev) (w : CodWork) (j : CodJob) (llr : List Int) (r : Bool × Nat × List Bool), w.res = none → llr = (s.combined j.d w.cb).1 →
    r = decodeCb j.d w.cb (s.decodeLimit j.d) llr →
    (∀ u : Fin 16, s.workOf u 2 = some (w, j) → Does (.decodeLdpc u false none () ()) s fun t =>
      (t.cunit u).work = some { w with res := some ⟨w.cb, r.1, r.2.1, r.2.2, llr, false⟩ } ∧ SameMem s t ∧ SameFlash s t) ∧
    (∀ u : Fin 4, s.workOf (28 + u) 3 = some (w, j) → Does (.decodeTurbo u false none () ()) s fun t =>
      (t.cunit (28 + u)).work = some { w with res := some ⟨w.cb, r.1, r.2.1, r.2.2, llr, false⟩ } ∧ SameMem s t ∧ SameFlash s t)) ∧
  (∀ (s : Dev) (u : Fin 50) (w : CodWork) (r : CbRes), (s.cunit u).work = some w → w.res = some r →
    Does (.codeBlockComplete u ()) s fun t => (t.cunit u).work = none ∧ t.rd64 R.COD_CB = (s.rd64 R.COD_CB + 1) % 2 ^ 64 ∧
      t.rd64 R.COD_CB_FAIL = (s.rd64 R.COD_CB_FAIL + b2n (!r.pass)) % 2 ^ 64 ∧ t.rd64 R.COD_ITER = (s.rd64 R.COD_ITER + r.iters) % 2 ^ 64 ∧
      SameFlash s t) ∧
  (∀ (s : Dev) (u : Fin 4) (w : CodWork) (j : CodJob) (r : List Bool × Bool), s.workOf (24 + u) 4 = some (w, j) →
    r = decodePolarBits j.d ((s.storeBytes (cSrc j.d) (cG j.d)).map (toSigned 8)) →
    Does (.decodePolar u false ()) s fun t => (t.cunit (24 + u)).work = none ∧
      (∃ k, t.job w.q w.id = some k ∧ k.ended = true ∧ k.ok = r.2 ∧ k.sts = if r.2 then j.sts else j.sts ++ [7]) ∧
      (∀ i, i < (packBits r.1).length → t.byte (storeBase + cDst j.d + i) = (packBits r.1).getD i 0) ∧ SameLow s t ∧ SameFlash s t) ∧
  (∀ (s : Dev) (u : Nat) (op : Nat) (c : Instr) (w : CodWork) (j : CodJob), s.workOf u op = some (w, j) →
    ((∃ k : Fin 8, u = 16 + k ∧ op = 5 ∧ c = .encodeLdpc k false) ∨ (∃ k : Fin 2, u = 32 + k ∧ op = 6 ∧ c = .encodeTurbo k false) ∨
      (∃ k : Fin 4, u = 24 + k ∧ op = 7 ∧ c = .encodePolar k false) ∨ (∃ k : Fin 2, u = 32 + k ∧ op = 8 ∧ c = .encodeTbcc k false)) →
    Does c s fun t => (t.cunit u).work = none ∧ SameLow s t ∧ SameFlash s t ∧
      (j.todo = [] → j.redo = [] → j.out ≤ 1 → j.ended = false →
        (∃ k, t.job w.q w.id = some k ∧ k.ended = true) ∧
        (∀ i, i < (packBits (s.encoded j.d)).length → t.byte (storeBase + cDst j.d + i) = (packBits (s.encoded j.d)).getD i 0) ∧
        t.rd64 R.COD_BITS_ENC = (s.rd64 R.COD_BITS_ENC + cTbs j.d) % 2 ^ 64)) ∧
  (∀ (s : Dev) (u : Fin 8) (w : CodWork) (j : CodJob), s.workOf (42 + u) 9 = some (w, j) → w.again = false →
    Does (.map u true) s fun t => (t.cunit (42 + u)).work = none ∧ t.flag R.COD_STAT_perr = true ∧
      (∃ k, t.job w.q w.id = some k ∧ k.redo = j.redo ++ [w.cb] ∧ k.ended = j.ended) ∧ SameMem s t ∧ SameFlash s t)

/-- The 35 OP instructions and the 11 IMM instructions (R284, R291, R292).
Completes: add, sub, and, or, xor, sll, srl, sra, slt, sltu, min, max, minu, maxu, clz, ctz, popc, addw, subw, sllw, srlw, sraw, adds, subs, andn, orn, mul, mulh, mulhu, mulhsu, mulw, div, divu, rem, remu, addi, andi, ori, xori, slti, sltiu, slli, srli, srai, lui, addih. -/
def Obligations.ScalarArithmetic : Prop :=
  (∀ (s : Dev) (i : Issue) (rd rs1 rs2 : Fin 32) (g : Nat) (a b : BitVec 64), g = i.core → s.runs i → a = s.x g rs1 → b = s.x g rs2 →
    (∀ c ∈ [(Instr.add i rd rs1 rs2, a + b), (.sub i rd rs1 rs2, a - b), (.and i rd rs1 rs2, a &&& b), (.or i rd rs1 rs2, a ||| b),
        (.xor i rd rs1 rs2, a ^^^ b), (.sll i rd rs1 rs2, a <<< (b.toNat % 64)), (.srl i rd rs1 rs2, a >>> (b.toNat % 64)),
        (.sra i rd rs1 rs2, a.sshiftRight (b.toNat % 64)), (.slt i rd rs1 rs2, if a.toInt < b.toInt then 1 else 0),
        (.sltu i rd rs1 rs2, if a.toNat < b.toNat then 1 else 0), (.min i rd rs1 rs2, if a.toInt < b.toInt then a else b),
        (.max i rd rs1 rs2, if a.toInt < b.toInt then b else a), (.minu i rd rs1 rs2, if a.toNat < b.toNat then a else b),
        (.maxu i rd rs1 rs2, if a.toNat < b.toNat then b else a), (.addw i rd rs1 rs2, ((a + b).truncate 32).signExtend 64),
        (.subw i rd rs1 rs2, ((a - b).truncate 32).signExtend 64), (.sllw i rd rs1 rs2, ((a <<< (b.toNat % 32)).truncate 32).signExtend 64),
        (.srlw i rd rs1 rs2, ((a.truncate 32) >>> (b.toNat % 32)).signExtend 64),
        (.sraw i rd rs1 rs2, ((a.truncate 32).sshiftRight (b.toNat % 32)).signExtend 64), (.adds i rd rs1 rs2, sat64 (a.toInt + b.toInt)),
        (.subs i rd rs1 rs2, sat64 (a.toInt - b.toInt)), (.andn i rd rs1 rs2, a &&& ~~~b), (.orn i rd rs1 rs2, a ||| ~~~b),
        (.mul i rd rs1 rs2, a * b), (.mulh i rd rs1 rs2, BitVec.ofInt 64 (a.toInt * b.toInt / 2 ^ 64)),
        (.mulhu i rd rs1 rs2, BitVec.ofNat 64 (a.toNat * b.toNat / 2 ^ 64)), (.mulhsu i rd rs1 rs2, BitVec.ofInt 64 (a.toInt * b.toNat / 2 ^ 64)),
        (.mulw i rd rs1 rs2, ((a * b).truncate 32).signExtend 64)],
      Does c.1 s fun t => SetsX g rd c.2 s t ∧ t.pc g = s.pc g + 4 ∧ Retired g s t ∧ SameRegs (issueRegs g) s t ∧ Only engParts s t) ∧
    (∀ c ∈ [(Instr.clz i rd rs1 rs2, clz a), (.ctz i rd rs1 rs2, ctz a), (.popc i rd rs1 rs2, popc a)],
      (rs2 = 0 → Does c.1 s fun t => SetsX g rd c.2 s t ∧ t.pc g = s.pc g + 4 ∧ Retired g s t ∧ SameRegs (issueRegs g) s t ∧ Only engParts s t) ∧
      (rs2 ≠ 0 → Does c.1 s fun t => Trapped g 1 s t)) ∧
    (∀ c ∈ [(Instr.div i rd rs1 rs2, true, if b = 0 then (if a.toInt < 0 then BitVec.ofInt 64 (-2 ^ 63) else BitVec.ofInt 64 (2 ^ 63 - 1))
          else if a.toInt = -2 ^ 63 ∧ b.toInt = -1 then BitVec.ofInt 64 (2 ^ 63 - 1) else BitVec.ofInt 64 (a.toInt.tdiv b.toInt)),
        (.divu i rd rs1 rs2, false, if b = 0 then BitVec.ofNat 64 (2 ^ 64 - 1) else BitVec.ofNat 64 (a.toNat / b.toNat)),
        (.rem i rd rs1 rs2, true, if b = 0 then 0 else BitVec.ofInt 64 (a.toInt.tmod b.toInt)),
        (.remu i rd rs1 rs2, false, if b = 0 then 0 else BitVec.ofNat 64 (a.toNat % b.toNat))],
      Does c.1 s fun t => SetsX g rd c.2.2 s t ∧ t.pc g = s.pc g + 4 ∧ Retired g s t ∧
        t.flag (R.CSR_SSTAT_dz g) = (s.flag (R.CSR_SSTAT_dz g) || decide (b = 0)) ∧
        t.flag (R.CSR_SSTAT_dov g) = (s.flag (R.CSR_SSTAT_dov g) || (c.2.1 && decide (a.toInt = -2 ^ 63) && decide (b.toInt = -1))) ∧
        SameRegs (R.CSR_SSTAT g :: issueRegs g) s t ∧ Only engParts s t)) ∧
  (∀ (s : Dev) (i : Issue) (rd rs1 : Fin 32) (imm : BitVec 16) (g : Nat) (a : BitVec 64), g = i.core → s.runs i → a = s.x g rs1 →
    (∀ c ∈ [(Instr.addi i rd rs1 imm, a + imm.signExtend 64), (.andi i rd rs1 imm, a &&& imm.zeroExtend 64), (.ori i rd rs1 imm, a ||| imm.zeroExtend 64),
        (.xori i rd rs1 imm, a ^^^ imm.zeroExtend 64), (.slti i rd rs1 imm, if a.toInt < imm.toInt then 1 else 0),
        (.sltiu i rd rs1 imm, if a.toNat < (imm.signExtend 64).toNat then 1 else 0), (.addih i rd rs1 imm, a + (imm.signExtend 64) <<< 32)],
      Does c.1 s fun t => SetsX g rd c.2 s t ∧ t.pc g = s.pc g + 4 ∧ Retired g s t ∧ SameRegs (issueRegs g) s t ∧ Only engParts s t) ∧
    (∀ c ∈ [(Instr.slli i rd rs1 imm, a <<< imm.toNat), (.srli i rd rs1 imm, a >>> imm.toNat), (.srai i rd rs1 imm, a.sshiftRight imm.toNat)],
      (imm.toNat < 64 → Does c.1 s fun t => SetsX g rd c.2 s t ∧ t.pc g = s.pc g + 4 ∧ Retired g s t ∧ SameRegs (issueRegs g) s t ∧ Only engParts s t) ∧
      (64 ≤ imm.toNat → Does c.1 s fun t => Trapped g 1 s t)) ∧
    (rs1 = 0 → Does (.lui i rd rs1 imm) s fun t => SetsX g rd (BitVec.ofInt 64 (imm.toInt * 2 ^ 16)) s t ∧ t.pc g = s.pc g + 4 ∧ Retired g s t ∧
      SameRegs (issueRegs g) s t ∧ Only engParts s t) ∧
    (rs1 ≠ 0 → Does (.lui i rd rs1 imm) s fun t => Trapped g 1 s t))

/-- LB, LH, LW, LD, LBU, LHU, LWU, SB, SH, SW, SD and the nine AMOs, in a core's own memories and the sample store (R288, R292).
Completes: amoSwap, amoAdd, amoAnd, amoOr, amoMin, amoMax, amoMinu, amoMaxu, amoCas, lb, lh, lw, ld, lbu, lhu, lwu, sb, sh, sw, sd. -/
def Obligations.LoadsAndStores : Prop :=
  (∀ (s : Dev) (i : Issue) (rd rs1 : Fin 32) (off : BitVec 16) (mem : Fin 4) (g a h : Nat), g = i.core → s.runs i → a = (s.x g rs1 + off.signExtend 64).toNat →
    ∀ c ∈ [(Instr.lb i rd rs1 off mem, 1, true), (.lh i rd rs1 off mem, 2, true), (.lw i rd rs1 off mem, 4, true), (.ld i rd rs1 off mem, 8, true),
        (.lbu i rd rs1 off mem, 1, false), (.lhu i rd rs1 off mem, 2, false), (.lwu i rd rs1 off mem, 4, false)],
      (a % c.2.1 ≠ 0 → Does c.1 s fun t => Trapped g 2 s t) ∧
      (a % c.2.1 = 0 → s.loadOk g a c.2.1 = false → Does c.1 s fun t => Trapped g 3 s t) ∧
      (a % c.2.1 = 0 → s.loadOk g a c.2.1 = true → s.homeAddr g a = some h → s.whole a mem →
        Does c.1 s fun t => SetsX g rd (if c.2.2 then BitVec.ofInt 64 (toSigned (8 * c.2.1) (s.le h c.2.1))
            else BitVec.ofNat 64 (s.le h c.2.1)) s t ∧ t.pc g = s.pc g + 4 ∧ Retired g s t ∧ SameRegs (issueRegs g) s t ∧ SameMem s t ∧ SameFlash s t ∧
          (a < storeBase → Only engParts s t))) ∧
  (∀ (s : Dev) (i : Issue) (rt rs1 : Fin 32) (off : BitVec 16) (mem : Fin 4) (g a h : Nat), g = i.core → s.runs i → a = (s.x g rs1 + off.signExtend 64).toNat →
    ∀ c ∈ [(Instr.sb i rt rs1 off mem, 1), (.sh i rt rs1 off mem, 2), (.sw i rt rs1 off mem, 4), (.sd i rt rs1 off mem, 8)],
      (a % c.2 ≠ 0 → Does c.1 s fun t => Trapped g 2 s t) ∧
      (a % c.2 = 0 → s.storeOk g a c.2 = false → Does c.1 s fun t => Trapped g 4 s t) ∧
      (a % c.2 = 0 → s.storeOk g a c.2 = true → s.homeAddr g a = some h → (storeBase ≤ a → mem = 0) →
        Does c.1 s fun t => t.le h c.2 = (s.x g rt).toNat % 2 ^ (8 * c.2) ∧
          (∀ b, (b < h ∨ h + c.2 ≤ b) → t.byte b = s.byte b) ∧ SameFlash s t ∧ (∀ r, t.x g r = s.x g r) ∧
          t.pc g = s.pc g + 4 ∧ Retired g s t ∧ SameRegs (issueRegs g) s t)) ∧
  (∀ (s : Dev) (i : Issue) (rd rs1 rs2 : Fin 32) (mem : Fin 4) (g a h : Nat) (old b : BitVec 64), g = i.core → s.runs i → a = (s.x g rs1).toNat →
    old = BitVec.ofNat 64 (s.le h 8) → b = s.x g rs2 →
    ∀ c ∈ [(Instr.amoSwap i rd rs1 rs2 mem, b), (.amoAdd i rd rs1 rs2 mem, old + b), (.amoAnd i rd rs1 rs2 mem, old &&& b),
        (.amoOr i rd rs1 rs2 mem, old ||| b), (.amoMin i rd rs1 rs2 mem, if old.toInt < b.toInt then old else b),
        (.amoMax i rd rs1 rs2 mem, if b.toInt < old.toInt then old else b), (.amoMinu i rd rs1 rs2 mem, if old.toNat < b.toNat then old else b),
        (.amoMaxu i rd rs1 rs2 mem, if b.toNat < old.toNat then old else b), (.amoCas i rd rs1 rs2 mem, if old = s.x g rd then b else old)],
      (a % 8 ≠ 0 → Does c.1 s fun t => Trapped g 2 s t) ∧
      (a % 8 = 0 → s.amoOk g a = false → Does c.1 s fun t => Trapped g 5 s t) ∧
      (a % 8 = 0 → s.amoOk g a = true → s.homeAddr g a = some h → s.whole a mem →
        Does c.1 s fun t => t.le h 8 = c.2.toNat ∧ SetsX g rd old s t ∧
          (∀ b, (b < h ∨ h + 8 ≤ b) → t.byte b = s.byte b) ∧ SameFlash s t ∧
          t.pc g = s.pc g + 4 ∧ Retired g s t ∧ SameRegs (issueRegs g) s t))

/-- BEQ, BNE, BLT, BGE, BLTU, BGEU, JAL, JALR (R292).
Completes: beq, bne, blt, bge, bltu, bgeu, jal, jalr. -/
def Obligations.BranchesAndJumps : Prop :=
  (∀ (s : Dev) (i : Issue) (rs1 rs2 : Fin 32) (off : BitVec 16) (wrong : List (Fin 3)) (g lim : Nat) (a b target : BitVec 64), g = i.core → s.runs i →
    a = s.x g rs1 → b = s.x g rs2 → target = BitVec.ofNat 64 (s.pc g) + 4 * off.signExtend 64 → lim = (if g < 192 then 0x10000 else 0x210000) →
    ∀ c ∈ [(Instr.beq i rs1 rs2 off wrong, decide (a = b)), (.bne i rs1 rs2 off wrong, decide (a ≠ b)),
        (.blt i rs1 rs2 off wrong, decide (a.toInt < b.toInt)), (.bge i rs1 rs2 off wrong, decide (b.toInt ≤ a.toInt)),
        (.bltu i rs1 rs2 off wrong, decide (a.toNat < b.toNat)), (.bgeu i rs1 rs2 off wrong, decide (b.toNat ≤ a.toNat))],
      (c.2 = false → Does c.1 s fun t => t.pc g = s.pc g + 4 ∧ (∀ r, t.x g r = s.x g r) ∧ Only engParts s t ∧
        (wrong = [] → Retired g s t ∧ SameRegs (issueRegs g) s t)) ∧
      (c.2 = true → target.toNat < lim → target.toNat % 4 = 0 →
        Does c.1 s fun t => t.pc g = target.toNat ∧ (∀ r, t.x g r = s.x g r) ∧ Only engParts s t ∧
          (wrong = [] → Retired g s t ∧ SameRegs (issueRegs g) s t)) ∧
      (c.2 = true → (lim ≤ target.toNat ∨ target.toNat % 4 ≠ 0) → Does c.1 s fun t => Trapped g 0 s t)) ∧
  (∀ (s : Dev) (i : Issue) (rd r : Fin 32) (off : BitVec 16) (g lim : Nat), g = i.core → s.runs i → lim = (if g < 192 then 0x10000 else 0x210000) →
    ∀ c ∈ [(Instr.jal i rd r off, BitVec.ofNat 64 (s.pc g) + 4 * off.signExtend 64, decide (r = 0)),
        (.jalr i rd r off, s.x g r + 4 * off.signExtend 64, true)],
      (c.2.2 = true → c.2.1.toNat < lim → c.2.1.toNat % 4 = 0 →
        Does c.1 s fun t => SetsX g rd (BitVec.ofNat 64 (s.pc g + 4)) s t ∧ t.pc g = c.2.1.toNat ∧ Retired g s t ∧
          SameRegs (issueRegs g) s t ∧ Only engParts s t) ∧
      (c.2.2 = true → (lim ≤ c.2.1.toNat ∨ c.2.1.toNat % 4 ≠ 0) → Does c.1 s fun t => Trapped g 0 s t) ∧
      (c.2.2 = false → Does c.1 s fun t => Trapped g 1 s t))

/-- CSRR, CSRW, CSRS, CSRC, FENCE, FENCE.I, ECALL, EBREAK (R291, R293–R295).
Completes: csrr, csrw, csrs, csrc, ecall, fence, ebreak, fenceI. -/
def Obligations.SystemInstructions : Prop :=
  (∀ (s : Dev) (i : Issue) (rd rs1 : Fin 32) (imm : BitVec 12) (g c : Nat), g = i.core → s.runs i → c = imm.toNat →
    (∀ r wl, csrLevels c = some (r, wl) →
      (r ≤ s.lvl g → rs1 = 0 →
        Does (.csrr i rd rs1 imm) s fun t => t.pc g = s.pc g + 4 ∧ Retired g s t ∧ SameRegs (issueRegs g) s t ∧
          (∀ r, r ≠ (rd : Nat) → t.x g r = s.x g r) ∧
          (c ∉ csrPairs → c ≠ 0x21 → c ≠ 0x23 → SetsX g rd (BitVec.ofNat 64 (s.readLatched (csrAddr g c))) s t ∧ Only engParts s t) ∧
          (c = 0x20 → SetsX g rd (BitVec.ofNat 64 (s.time.cnt % 2 ^ 32)) s t)) ∧
      ((s.lvl g < r ∨ rs1 ≠ 0) → Does (.csrr i rd rs1 imm) s fun t => Trapped g 1 s t) ∧
      (∀ w, wl = some w → r ≤ s.lvl g → w ≤ s.lvl g → c ≠ 0x10 →
        ∀ k ∈ [Instr.csrw i rd rs1 imm, .csrs i rd rs1 imm, .csrc i rd rs1 imm],
          Does k s fun t => t.pc g = s.pc g + 4 ∧ Retired g s t ∧ SetsX g rd (BitVec.ofNat 64 (s.readLatched (csrAddr g c))) s t ∧
            SameRegs (csrAddr g c :: issueRegs g) s t ∧ Only engParts s t) ∧
      ((wl = none ∨ ∃ w, wl = some w ∧ (s.lvl g < r ∨ s.lvl g < w)) →
        ∀ k ∈ [Instr.csrw i rd rs1 imm, .csrs i rd rs1 imm, .csrc i rd rs1 imm], Does k s fun t => Trapped g 1 s t)) ∧
    (csrLevels c = none →
      ∀ k ∈ [Instr.csrr i rd rs1 imm, .csrw i rd rs1 imm, .csrs i rd rs1 imm, .csrc i rd rs1 imm], Does k s fun t => Trapped g 1 s t) ∧
    (c = 5 → 1 ≤ s.lvl g → s.latch = [] →
      ∀ k ∈ [(Instr.csrw i rd rs1 imm, (s.x g rs1).truncate 32), (.csrs i rd rs1 imm, BitVec.ofNat 32 (s.rd (R.CSR_SCRATCH_S g)) ||| (s.x g rs1).truncate 32),
          (.csrc i rd rs1 imm, BitVec.ofNat 32 (s.rd (R.CSR_SCRATCH_S g)) &&& ~~~(s.x g rs1).truncate 32)],
        Does k.1 s fun t => t.rd (R.CSR_SCRATCH_S g) = k.2.toNat)) ∧
  (∀ (s : Dev) (i : Issue) (rd rs1 : Fin 32) (imm : BitVec 12) (g : Nat), g = i.core → s.runs i → s.lvl g ≤ 2 →
    (rd = 0 → rs1 = 0 →
      (imm = 0 → Does (.fence i rd rs1 imm) s fun t => t.pc g = s.pc g + 4 ∧ (∀ r, t.x g r = s.x g r) ∧ Retired g s t ∧
        SameRegs (issueRegs g) s t ∧ Only engParts s t) ∧
      (imm = 0 → s.lvl g = 2 → Does (.fenceI i rd rs1 imm) s fun t => t.pc g = s.pc g + 4 ∧ (∀ r, t.x g r = s.x g r) ∧ Retired g s t ∧
        SameRegs (issueRegs g) s t ∧ Only engParts s t) ∧
      Does (.ecall i rd rs1 imm) s (fun t => Trapped g (6 + s.lvl g) s t ∧ t.rd (R.CSR_EXC_INSN g) = imm.toNat) ∧
      (imm = 0 → Does (.ebreak i rd rs1 imm) s fun t => Trapped g 9 s t)) ∧
    ((rd ≠ 0 ∨ rs1 ≠ 0) → ∀ k ∈ [Instr.fence i rd rs1 imm, .fenceI i rd rs1 imm, .ecall i rd rs1 imm, .ebreak i rd rs1 imm],
      Does k s fun t => Trapped g 1 s t) ∧
    (s.lvl g ≠ 2 → Does (.fenceI i rd rs1 imm) s fun t => Trapped g 1 s t))

/-- ERET (R296).
Completes: eret. -/
def Obligations.TrapReturn : Prop :=
  ∀ (s : Dev) (i : Issue) (rd rs1 : Fin 32) (imm : BitVec 12) (g : Nat), g = i.core → s.runs i →
    (rd = 0 → rs1 = 0 → imm = 0 →
      (s.lvl g = 1 → Does (.eret i rd rs1 imm) s fun t => t.lvl g = s.get (R.CSR_STATUS_spl g) ∧ t.flag (R.CSR_STATUS_sie g) = s.flag (R.CSR_STATUS_spie g) ∧
        t.pc g = s.get (R.CSR_EPC_S_pc g) ∧ t.flag (R.CSR_STATUS_mtrap g) = s.flag (R.CSR_STATUS_mtrap g) ∧
        t.rd64 (R.CSR_INSTRET_LO g) = (s.rd64 (R.CSR_INSTRET_LO g) + 1) % 2 ^ 64 ∧ (∀ r, t.x g r = s.x g r) ∧
        SameRegs (R.CSR_STATUS g :: estat g :: issueRegs g) s t ∧ Only engParts s t) ∧
      (s.lvl g = 2 → Does (.eret i rd rs1 imm) s fun t => t.lvl g = s.get (R.CSR_STATUS_mpl g) ∧ t.flag (R.CSR_STATUS_mie g) = s.flag (R.CSR_STATUS_mpie g) ∧
        t.flag (R.CSR_STATUS_mtrap g) = false ∧ t.pc g = s.get (R.CSR_EPC_M_pc g) ∧
        t.rd64 (R.CSR_INSTRET_LO g) = (s.rd64 (R.CSR_INSTRET_LO g) + 1) % 2 ^ 64 ∧ (∀ r, t.x g r = s.x g r) ∧
        SameRegs (R.CSR_STATUS g :: estat g :: issueRegs g) s t ∧ Only engParts s t)) ∧
    ((s.lvl g = 0 ∨ rd ≠ 0 ∨ rs1 ≠ 0 ∨ imm ≠ 0) → Does (.eret i rd rs1 imm) s fun t => Trapped g 1 s t)

/-- WFE, WFE_WAKE, ALARM_ARM, ALARM_EXPIRE, ALARM_INTERRUPT, MAINT_INTERRUPT, MAINT_REQUEST, TASK_LIMIT (R297, R301).
Completes: wfe, wfeWake, alarmArm, alarmExpire, alarmInterrupt, maintInterrupt, taskLimit, maintRequest. -/
def Obligations.CoreInterrupts : Prop :=
  (∀ (s : Dev) (i : Issue) (g : Nat), g = i.core → s.runs i → (s.lvl g = 1 ∨ s.lvl g = 2) →
    ((s.alarmEligible g || s.maintEligible g) = true → Does (.wfe i 0 0 0) s fun t => t.pc g = s.pc g + 4 ∧ (∀ r, t.x g r = s.x g r) ∧ Retired g s t ∧
      SameRegs (issueRegs g) s t ∧ Only engParts s t) ∧
    ((s.alarmEligible g || s.maintEligible g) = false → Does (.wfe i 0 0 0) s fun t => (t.core g).wait = .wfe ∧ t.coreState g = 2 ∧ t.pc g = s.pc g ∧
      (∀ r, t.x g r = s.x g r) ∧ SameRegs (estat g :: issueRegs g) s t ∧ Only engParts s t)) ∧
  (∀ (s : Dev) (i : Issue) (rd rs1 : Fin 32) (imm : BitVec 12), s.runs i → ((s.lvl i.core ≠ 1 ∧ s.lvl i.core ≠ 2) ∨ rd ≠ 0 ∨ rs1 ≠ 0 ∨ imm ≠ 0) →
    Does (.wfe i rd rs1 imm) s fun t => Trapped i.core 1 s t) ∧
  (∀ (s : Dev) (g : Fin 193), s.coreState g = 2 → (s.core g).wait = .wfe → (s.alarmEligible g || s.maintEligible g) = true →
    Does (.wfeWake g) s fun t => t.coreState g = 1 ∧ (t.core g).wait = .none ∧ t.pc g = s.pc g + 4 ∧ (∀ r, t.x g r = s.x g r) ∧
      SameRegs (estat g :: issueRegs g) s t ∧ Only engParts s t) ∧
  (∀ (s : Dev) (g : Fin 193), s.coreState g = 1 → (s.core g).wait = .none →
    (s.alarmEligible g = true → Does (.alarmInterrupt g) s fun t => EnteredS g 0x40 s t ∧ (∀ r, t.x g r = s.x g r) ∧ t.coreState g = 1 ∧ Only engParts s t) ∧
    (s.maintEligible g = true → Does (.maintInterrupt g) s fun t => EnteredM g 0x41 s t ∧ (∀ r, t.x g r = s.x g r) ∧ t.coreState g = 1 ∧ Only engParts s t)) ∧
  (∀ (s : Dev) (g : Fin 193), s.coreState g = 2 → (s.core g).wait = .wfe →
    (s.alarmEligible g = true → Does (.alarmInterrupt g) s fun t => t.rd (R.CSR_CAUSE_S g) = 0x40 ∧ t.get (R.CSR_EPC_S_pc g) = (s.pc g + 4) % 2 ^ 16 ∧
      t.pc g = s.get (R.CSR_TVEC_S_pc g) ∧ t.lvl g = 1 ∧ t.coreState g = 1 ∧ Only engParts s t) ∧
    (s.maintEligible g = true → Does (.maintInterrupt g) s fun t => t.rd (R.CSR_CAUSE_M g) = 0x41 ∧ t.get (R.CSR_EPC_M_pc g) = (s.pc g + 4) % 2 ^ 16 ∧
      t.pc g = s.get (R.CSR_TVEC_M_pc g) ∧ t.lvl g = 2 ∧ t.coreState g = 1 ∧ Only engParts s t)) ∧
  (∀ (s : Dev) (g : Fin 193),
    (s.alarmEligible g = false → Does (.alarmInterrupt g) s fun t => SameRegs [] s t ∧ Only regsOnly s t) ∧
    (s.maintEligible g = false → Does (.maintInterrupt g) s fun t => SameRegs [] s t ∧ Only regsOnly s t)) ∧
  (∀ (s : Dev) (g : Fin 193) (v : Word), Does (.alarmArm g v) s fun t => t.rd (R.CSR_ALARM_LO g) = v.toNat ∧
    (t.core g).alarm = some (v.toNat + s.rd (R.CSR_ALARM_HI g) * 2 ^ 32) ∧ t.pc g = s.pc g ∧ SameRegs [R.CSR_ALARM_LO g] s t ∧ Only engParts s t) ∧
  (∀ (s : Dev) (g : Fin 193) (a : Nat), (s.core g).alarm = some a →
    (a ≤ s.time.cnt → Does (.alarmExpire g) s fun t => (t.core g).alarm = none ∧ t.flag (R.CSR_IPEND_alarm g) = true ∧
      t.flag (R.CSR_IPEND_maint g) = s.flag (R.CSR_IPEND_maint g) ∧ t.pc g = s.pc g ∧ SameRegs [R.CSR_IPEND g] s t ∧ Only engParts s t) ∧
    (s.time.cnt < a → Does (.alarmExpire g) s fun t => SameRegs [] s t ∧ Only regsOnly s t)) ∧
  (∀ (s : Dev) (g : Fin 192), Does (.maintRequest g) s fun t => t.flag (R.CSR_IPEND_maint g) = true ∧
    t.flag (R.CSR_IPEND_alarm g) = s.flag (R.CSR_IPEND_alarm g) ∧ SameRegs [R.CSR_IPEND g] s t ∧ Only regsOnly s t) ∧
  (∀ (s : Dev) (g : Fin 192), s.coreState g = 1 → (s.core g).wait = .none → s.lvl g = 0 → s.flag (R.CSR_TK_STAT_valid g) = true → s.rd (R.CSR_TK_LIM g) ≠ 0 →
    (s.rd (R.CSR_TK_LIM g) ≤ ((s.coreSync g).core g).task → Does (.taskLimit g) s fun t => Trapped g 0x0B s t) ∧
    (((s.coreSync g).core g).task < s.rd (R.CSR_TK_LIM g) → Does (.taskLimit g) s fun t => SameRegs [] s t ∧ Only regsOnly s t))

/-- ENGINE_RUN, ENGINE_RESET, ENGINE_HALT, ENGINE_IMEM_WRITE, QSTALL_RELEASE (R287, R290, R331, R352).
Completes: qstallRelease, engineRun, engineReset, engineHalt, engineImemWrite. -/
def Obligations.EngineRunControl : Prop :=
  (∀ (s : Dev) (g : Fin 192), s.coreState g = 0 → Does (.engineRun g) s fun t => t.coreState g = 1 ∧ t.lvl g = 2 ∧ t.flag (R.POD_ECTL_run g) = true ∧
    t.pc g = s.get (R.POD_EBOOT_pc g) / 4 * 4 ∧ (∀ r, t.x g r = s.x g r) ∧ SameRegs [R.POD_ECTL g, R.POD_ESTAT g, R.CSR_STATUS g] s t ∧ Only engParts s t) ∧
  (∀ (s : Dev) (g : Fin 192), s.coreState g ≠ 0 →
    Does (.engineRun g) s (fun t => t.flag (R.POD_ECTL_run g) = true ∧ SameRegs [R.POD_ECTL g] s t ∧ Only regsOnly s t) ∧
    Does (.engineReset g) s (fun t => t.coreState g = 0 ∧ t.lvl g = 2 ∧ t.flag (R.POD_ECTL_run g) = false ∧ t.core g = {} ∧ t.slot g = none ∧
      t.loaded g = none ∧ (∀ c, 1 < c → c < 0x1000 → t.rd (csrAddr g c) = (regReset (csrAddr g c)).toNat) ∧ (∀ k, k ≠ (g : Nat) → t.core k = s.core k) ∧
      SameFlash s t)) ∧
  (∀ (s : Dev) (g : Fin 192), s.coreState g = 1 → (s.core g).wait = .none → (∀ c ∈ s.cops g, c.confirmed = true ∨ c.squashed = true) →
    (s.copsOver g = true → Does (.engineHalt g) s fun t => t.coreState g = 3 ∧ t.slot g = none ∧ t.loaded g = none ∧ t.pc g = s.pc g ∧
      t.get (R.POD_EPC_pc g) = s.pc g % 2 ^ 16 ∧ (∀ r, t.x g r = s.x g r) ∧
      (∃ l, t.raised.map evShow = s.raised.map evShow ++ (Ev.POD_ENG_HALT, (g : Nat), packItems [(8, ((g : Nat) : Int)), (16, (s.pc g : Int))]) :: l) ∧
      SameFlash s t) ∧
    (s.copsOver g = false → Does (.engineHalt g) s fun t => (t.core g).wait = .halt ∧ t.coreState g = 1 ∧ t.pc g = s.pc g ∧
      SameRegs (issueRegs g) s t ∧ Only engParts s t)) ∧
  (∀ (s : Dev) (g : Fin 192), s.coreState g ∉ [1, 2, 6] → Does (.engineHalt g) s fun t => SameRegs [] s t ∧ Only regsOnly s t) ∧
  (∀ (s : Dev) (g : Fin 192) (k : Fin 8192) (v : BitVec 64),
    (s.coreState g ∈ [1, 2, 6] → Does (.engineImemWrite g k v) s fun t =>
      Raises s t [(Ev.POD_LOAD_BUSY, (g : Nat), [(8, ((g : Nat) : Int)), (40, ((ownBase g + k * 8 : Nat) : Int))])] ∧ SameRegs [] s t ∧ Only regsEvents s t) ∧
    (s.coreState g ∉ [1, 2, 6] → Does (.engineImemWrite g k v) s fun t => t.le (ownBase g + k * 8) 8 = v.toNat ∧
      (∀ a, (a < ownBase g + k * 8 ∨ ownBase g + k * 8 + 8 ≤ a) → t.byte a = s.byte a) ∧ SameRegs [] s t ∧ SameFlash s t)) ∧
  (∀ (s : Dev) (g : Fin 193) (a n v : Nat) (insn : Bool), (s.core g).wait = .store a n v insn → (s.core g).haltReq = false →
    (s.portStoreFull a n = false → Does (.qstallRelease g) s fun t => t.coreState g = 1 ∧ (t.core g).wait = .none ∧
      t.pc g = (if insn then s.pc g + 4 else s.pc g) ∧ (∀ r, t.x g r = s.x g r) ∧ SameFlash s t) ∧
    (s.portStoreFull a n = true → Does (.qstallRelease g) s fun t => SameRegs [] s t ∧ Only regsOnly s t))

/-- TNEXT, TNEXT_WAKE, TRUN, TEND, TCHK (R298–R300).
Completes: tnext, tnextWake, trun, tend, tchk. -/
def Obligations.TaskInstructions : Prop :=
  (∀ (s : Dev) (i : Issue) (rd : Fin 32) (g : Nat), g = i.core → s.runs i → g < 192 → s.lvl g = 1 →
    (∀ a : Activation, s.flag (R.CSR_TK_STAT_valid g) = false → s.slot g = some a →
      Does (.tnext i rd 0 0) s fun t => t.get (R.CSR_TK_ID_idx g) = a.desc % 2 ^ 16 ∧ t.get (R.CSR_TK_GEN_gen g) = a.gen % 2 ^ 20 ∧
        t.get (R.CSR_TK_PC_pc g) = s.td a.desc 1 0 16 ∧ t.get (R.CSR_TK_ARG_arg g) = s.td a.desc 2 0 32 ∧
        (∀ d, a.dead = some d → t.rd64 (R.CSR_TK_DEAD_LO g) = d % 2 ^ 64) ∧ t.flag (R.CSR_TK_STAT_valid g) = true ∧
        t.flag (R.CSR_TK_STAT_cancel g) = false ∧ t.slot g = none ∧ t.loaded g = some a ∧ t.tdState a.desc = 4 ∧
        SetsX g rd (BitVec.ofNat 64 a.desc) s t ∧ t.pc g = s.pc g + 4 ∧ t.coreState g = 1 ∧ SameLow s t ∧ SameFlash s t) ∧
    (s.flag (R.CSR_TK_STAT_valid g) = false → s.slot g = none →
      Does (.tnext i rd 0 0) s fun t => (t.core g).wait = .tnext rd ∧ t.coreState g = 2 ∧ t.pc g = s.pc g ∧ (∀ r, t.x g r = s.x g r) ∧
        SameRegs (issueRegs g) s t ∧ Only engParts s t) ∧
    (s.flag (R.CSR_TK_STAT_valid g) = true → Does (.tnext i rd 0 0) s fun t => Trapped g 1 s t) ∧
    (s.flag (R.CSR_TK_STAT_valid g) = true → s.get (R.CSR_TK_PC_pc g) % 4 = 0 →
      Does (.trun i 0 0 0) s fun t => t.lvl g = 0 ∧ t.pc g = s.get (R.CSR_TK_PC_pc g) ∧ (t.core g).task = 0 ∧ t.coreState g = 1 ∧
        t.rd64 (R.CSR_INSTRET_LO g) = (s.rd64 (R.CSR_INSTRET_LO g) + 1) % 2 ^ 64 ∧ (∀ r, t.x g r = s.x g r) ∧
        SameRegs (R.CSR_STATUS g :: issueRegs g) s t ∧ Only engParts s t) ∧
    (s.flag (R.CSR_TK_STAT_valid g) = true → s.get (R.CSR_TK_PC_pc g) % 4 ≠ 0 → Does (.trun i 0 0 0) s fun t => Trapped g 0 s t) ∧
    (s.flag (R.CSR_TK_STAT_valid g) = false → Does (.trun i 0 0 0) s fun t => Trapped g 1 s t)) ∧
  (∀ (s : Dev) (g : Fin 192) (rd : Nat) (a : Activation), (s.core g).wait = .tnext rd → s.slot g = some a →
    Does (.tnextWake g) s fun t => t.coreState g = 1 ∧ (t.core g).wait = .none ∧ t.slot g = none ∧ t.loaded g = some a ∧
      t.flag (R.CSR_TK_STAT_valid g) = true ∧ SetsX g rd (BitVec.ofNat 64 a.desc) s t ∧ t.pc g = s.pc g + 4 ∧ SameLow s t ∧ SameFlash s t) ∧
  (∀ (s : Dev) (i : Issue) (rd rs1 : Fin 32) (g : Nat), g = i.core → s.runs i → g < 192 → s.lvl g ≤ 1 →
    (s.flag (R.CSR_TK_STAT_valid g) = true → s.get (R.CSR_TK_RET_pc g) % 4 = 0 → s.copsOver g = true → s.completionWaits g = false →
      Does (.tend i 0 rs1 0) s fun t => t.lvl g = 1 ∧ t.pc g = s.get (R.CSR_TK_RET_pc g) ∧ t.flag (R.CSR_TK_STAT_valid g) = false ∧ t.loaded g = none ∧
        t.cops g = [] ∧ t.coreState g = 1 ∧ (t.core g).wait = .none ∧
        t.rd64 (R.CSR_INSTRET_LO g) = (s.rd64 (R.CSR_INSTRET_LO g) + 1) % 2 ^ 64 ∧ (∀ r, t.x g r = s.x g r) ∧ SameLow s t ∧ SameFlash s t) ∧
    (s.flag (R.CSR_TK_STAT_valid g) = true → s.get (R.CSR_TK_RET_pc g) % 4 = 0 → s.copsOver g = false →
      Does (.tend i 0 rs1 0) s fun t => (t.core g).wait = .tend ((s.x g rs1).toNat % 256) ∧ t.pc g = s.pc g ∧ t.lvl g = s.lvl g ∧
        SameRegs (issueRegs g) s t ∧ Only engParts s t) ∧
    (s.flag (R.CSR_TK_STAT_valid g) = false → Does (.tend i 0 rs1 0) s fun t => Trapped g 1 s t) ∧
    Does (.tchk i rd 0 0) s (fun t => SetsX g rd (BitVec.ofNat 64 (s.get (R.CSR_TK_STAT_cancel g))) s t ∧ t.pc g = s.pc g + 4 ∧ Retired g s t ∧
      SameRegs (issueRegs g) s t ∧ Only engParts s t)) ∧
  (∀ (s : Dev) (i : Issue) (rd rs1 : Fin 32) (imm : BitVec 12), s.runs i →
    ((192 ≤ (i.core : Nat) ∨ s.lvl i.core ≠ 1) → Does (.tnext i rd rs1 imm) s (fun t => Trapped i.core 1 s t) ∧ Does (.trun i rd rs1 imm) s (fun t => Trapped i.core 1 s t)) ∧
    ((192 ≤ (i.core : Nat) ∨ 2 ≤ s.lvl i.core) → Does (.tend i rd rs1 imm) s (fun t => Trapped i.core 1 s t) ∧ Does (.tchk i rd rs1 imm) s (fun t => Trapped i.core 1 s t)))

/-- VADD to VMAG2 (R309, R310, R312–R314).
Completes: vadd, vsub, vmul, vmulh, vmac, vmsc, vmacw, vcmacw, vmin, vmax, vabs, vneg, vand, vor, vxor, vandn, vsll, vsrl, vsra, vnrsr, vadds, vsubs, vconj, vcjmul, vcvt, vrecip, vrsqrt, vmag2. -/
def Obligations.VectorElementwise : Prop :=
  (∀ (s : Dev) (i : Issue) (f : VecFields) (g n w ty : Nat), g = i.core → s.runs i → n = groupOf f → ty = f.ty → w = tyBytes ty →
    (∀ c ∈ [(Instr.vadd i f, true, fun (_ _ a b : Nat) => elAdd false ty a b), (.vsub i f, true, fun _ _ a b => elAdd true ty a b),
        (.vmul i f, true, fun _ _ a b => elMul ty a b),
        (.vmulh i f, tyInt ty, fun _ _ a b => (toBits (tyBits ty) (toSigned (tyBits ty) a * toSigned (tyBits ty) b / (2 ^ tyBits ty : Nat)), {})),
        (.vmac i f, true, fun k d a b => elMac false (s.openBit k) ty d a b), (.vmsc i f, true, fun k d a b => elMac true (s.openBit k) ty d a b),
        (.vmin i f, intFp ty, fun k _ a b => elMinMax false (s.openBit k) ty a b), (.vmax i f, intFp ty, fun k _ a b => elMinMax true (s.openBit k) ty a b),
        (.vand i f, true, fun _ _ a b => (a &&& b, {})), (.vor i f, true, fun _ _ a b => (a ||| b, {})), (.vxor i f, true, fun _ _ a b => (a ^^^ b, {})),
        (.vandn i f, true, fun _ _ a b => (a - (a &&& b), {})), (.vadds i f, intCx ty, fun _ _ a b => elAdds false ty a b),
        (.vsubs i f, intCx ty, fun _ _ a b => elAdds true ty a b),
        (.vcjmul i f, tyCx ty, fun _ _ a b => elCxScaled ty (elCxProd ((elCx ty a).1, -(elCx ty a).2) (elCx ty b)))],
      (g < 192 → ty ≤ 8 → c.2.1 = true → f.a.val % n = 0 → f.b.val % n = 0 → f.c.val % n = 0 →
        Does c.1 s fun t => SetsV g f.a n w (fun k => if lget false (s.active g f.pg n w) k then
            (c.2.2 k (lget 0 (s.velems g f.a n w) k) (lget 0 (s.velems g f.b n w) k) (lget 0 (s.velems g f.c n w) k)).1
            else lget 0 (s.velems g f.a n w) k) s t ∧
          Accrues g (n * (128 / w)) (s.active g f.pg n w)
            (fun k => (c.2.2 k (lget 0 (s.velems g f.a n w) k) (lget 0 (s.velems g f.b n w) k) (lget 0 (s.velems g f.c n w) k)).2) s t ∧
          (∀ r, t.x g r = s.x g r) ∧ (t.core g).p = (s.core g).p ∧ t.pc g = s.pc g + 4 ∧ RetiredCore g s t ∧ SameRegs (vecRegs g) s t ∧ Only vecParts s t) ∧
      ((192 ≤ g ∨ 8 < ty ∨ c.2.1 = false ∨ f.a.val % n ≠ 0 ∨ f.b.val % n ≠ 0 ∨ f.c.val % n ≠ 0) → Does c.1 s fun t => Trapped g 1 s t)) ∧
    (∀ c ∈ [(Instr.vabs i f, intFp ty, fun (_ a : Nat) => elSign true ty a), (.vneg i f, intFp ty, fun _ a => elSign false ty a),
        (.vconj i f, tyCx ty, fun _ a => elCxPut ty (elCx ty a).1 (-(elCx ty a).2)), (.vmag2 i f, tyCx ty, fun _ a => elMag2 ty a),
        (.vrecip i f, tyFp ty, fun k a => elRecip false (Config.freeNat s.freeCtr k) ty a),
        (.vrsqrt i f, tyFp ty, fun k a => elRecip true (Config.freeNat s.freeCtr k) ty a)],
      (g < 192 → ty ≤ 8 → c.2.1 = true → f.a.val % n = 0 → f.b.val % n = 0 → f.c = 0 →
        Does c.1 s fun t => SetsV g f.a n w (fun k => if lget false (s.active g f.pg n w) k then (c.2.2 k (lget 0 (s.velems g f.b n w) k)).1
            else lget 0 (s.velems g f.a n w) k) s t ∧
          Accrues g (n * (128 / w)) (s.active g f.pg n w) (fun k => (c.2.2 k (lget 0 (s.velems g f.b n w) k)).2) s t ∧
          (∀ r, t.x g r = s.x g r) ∧ (t.core g).p = (s.core g).p ∧ t.pc g = s.pc g + 4 ∧ RetiredCore g s t ∧ SameRegs (vecRegs g) s t ∧ Only vecParts s t) ∧
      ((192 ≤ g ∨ 8 < ty ∨ c.2.1 = false ∨ f.a.val % n ≠ 0 ∨ f.b.val % n ≠ 0 ∨ f.c ≠ 0) → Does c.1 s fun t => Trapped g 1 s t)) ∧
    (∀ c ∈ [(Instr.vsll i f, 0), (.vsrl i f, 1), (.vsra i f, 2)],
      (g < 192 → ty ≤ 5 → f.a.val % n = 0 → f.b.val % n = 0 →
        Does c.1 s fun t => SetsV g f.a n w (fun k => if lget false (s.active g f.pg n w) k then
            (elShift c.2 ((s.x g f.c).toNat % 64) ty (lget 0 (s.velems g f.b n w) k)).1 else lget 0 (s.velems g f.a n w) k) s t ∧
          Accrues g (n * (128 / w)) (s.active g f.pg n w) (fun _ => {}) s t ∧
          (∀ r, t.x g r = s.x g r) ∧ (t.core g).p = (s.core g).p ∧ t.pc g = s.pc g + 4 ∧ RetiredCore g s t ∧ SameRegs (vecRegs g) s t ∧ Only vecParts s t) ∧
      ((192 ≤ g ∨ 5 < ty ∨ f.a.val % n ≠ 0 ∨ f.b.val % n ≠ 0) → Does c.1 s fun t => Trapped g 1 s t))) ∧
  (∀ (s : Dev) (i : Issue) (f : VecFields) (g n w ty : Nat), g = i.core → s.runs i → n = groupOf f → ty = f.ty → w = tyBytes ty →
    ∀ c ∈ [(Instr.vmacw i f, decide (ty ≤ 8) && tyWide ty != 9 && decide (n ≤ 4) && f.c.val % n == 0, 2 * n, 2 * w,
          fun (k d a b : Nat) => elMacw false (s.openBit k) ty d a b),
        (.vcmacw i f, ty == 4 && decide (n ≤ 4) && f.c.val % n == 0, 2 * n, 2 * w, fun k d a b => elMacw true (s.openBit k) ty d a b),
        (.vnrsr i f, [1, 2, 3, 5].contains ty && decide (2 ≤ n), n / 2, w / 2, fun _ _ a _ => elNarrow ((s.x g f.c).toNat % 64) ty a),
        (.vcvt i f, decide (ty ≤ 8) && cvtAllowed ty f.c && n * tyBytes f.c % w == 0 && decide (1 ≤ n * tyBytes f.c / w) && decide (n * tyBytes f.c / w ≤ 8),
          n * tyBytes f.c / w, tyBytes f.c, fun k _ a _ => elCvt (s.openBit k) ty f.c a)],
      (g < 192 → c.2.1 = true → f.a.val % c.2.2.1 = 0 → f.b.val % n = 0 →
        Does c.1 s fun t => SetsV g f.a c.2.2.1 c.2.2.2.1 (fun k => if lget false (s.active g f.pg n w) k then
            (c.2.2.2.2 k (lget 0 (s.velems g f.a c.2.2.1 c.2.2.2.1) k) (lget 0 (s.velems g f.b n w) k) (lget 0 (s.velems g f.c n w) k)).1
            else lget 0 (s.velems g f.a c.2.2.1 c.2.2.2.1) k) s t ∧
          Accrues g (n * (128 / w)) (s.active g f.pg n w) (fun k =>
            (c.2.2.2.2 k (lget 0 (s.velems g f.a c.2.2.1 c.2.2.2.1) k) (lget 0 (s.velems g f.b n w) k) (lget 0 (s.velems g f.c n w) k)).2) s t ∧
          (∀ r, t.x g r = s.x g r) ∧ (t.core g).p = (s.core g).p ∧ t.pc g = s.pc g + 4 ∧ RetiredCore g s t ∧ SameRegs (vecRegs g) s t ∧ Only vecParts s t) ∧
      ((192 ≤ g ∨ c.2.1 = false ∨ f.a.val % c.2.2.1 ≠ 0 ∨ f.b.val % n ≠ 0) → Does c.1 s fun t => Trapped g 1 s t))

/-- VCMPEQ to VCMPLE, PRANGE to PFIRST, VREDADD, VREDMAX, VMOVS, VINS, VPERM, VSLIDE, VSEL, VSPLAT, VBITS, VCNT.
Completes: vcmpeq, vcmpne, vcmplt, vcmple, prange, pand, por, pxor, pandn, pnot, pcnt, pfirst, vredadd, vredmax, vmovs, vins, vperm, vslide, vsel, vsplat, vbits, vcnt. -/
def Obligations.VectorMoves : Prop :=
  (∀ (s : Dev) (i : Issue) (f : VecFields) (g w ty : Nat), g = i.core → s.runs i → g < 192 → ty = f.ty → w = tyBytes ty → ty ≤ 8 →
    (∀ c ∈ [(Instr.vcmpeq i f, 0), (.vcmpne i f, 1), (.vcmplt i f, 2), (.vcmple i f, 3)], (intFp ty = true ∨ c.2 ≤ 1) → f.span = 0 → f.a.val < 16 →
      Does c.1 s fun t => SetsP g f.a (fun b => lget false (s.active g f.pg 1 w) (b / w) &&
          (elCmp c.2 (s.openBit (b / w)) ty (lget 0 (s.velems g f.b 1 w) (b / w)) (lget 0 (s.velems g f.c 1 w) (b / w))).1) s t ∧
        (∀ r, t.x g r = s.x g r) ∧ (t.core g).v = (s.core g).v ∧ t.pc g = s.pc g + 4 ∧ RetiredCore g s t ∧ SameRegs (vecRegs g) s t ∧ Only vecParts s t) ∧
    (f.pg = 0 → f.a.val < 16 →
      Does (.prange i f) s fun t => SetsP g f.a (fun b => decide ((s.x g f.b).toNat + b / w < (s.x g f.c).toNat)) s t ∧
        (∀ r, t.x g r = s.x g r) ∧ (t.core g).v = (s.core g).v ∧ t.pc g = s.pc g + 4 ∧ RetiredCore g s t ∧ SameRegs (vecRegs g) s t ∧ Only vecParts s t) ∧
    (∀ c ∈ [(Instr.pand i f, fun x y => x && y), (.por i f, fun x y => x || y), (.pxor i f, fun x y => x != y), (.pandn i f, fun x y => x && !y)],
      ty = 0 → f.pg = 0 → f.a.val < 16 → f.b.val < 16 → f.c.val < 16 →
      Does c.1 s fun t => SetsP g f.a (fun b => c.2 ((s.preg g f.b).testBit b) ((s.preg g f.c).testBit b)) s t ∧
        (∀ r, t.x g r = s.x g r) ∧ (t.core g).v = (s.core g).v ∧ t.pc g = s.pc g + 4 ∧ RetiredCore g s t ∧ SameRegs (vecRegs g) s t ∧ Only vecParts s t) ∧
    (ty = 0 → f.pg = 0 → f.c = 0 → f.a.val < 16 → f.b.val < 16 →
      Does (.pnot i f) s fun t => SetsP g f.a (fun b => !(s.preg g f.b).testBit b) s t ∧ (∀ r, t.x g r = s.x g r) ∧ (t.core g).v = (s.core g).v ∧
        t.pc g = s.pc g + 4 ∧ RetiredCore g s t ∧ SameRegs (vecRegs g) s t ∧ Only vecParts s t) ∧
    (f.pg = 0 → f.c = 0 → f.b.val < 16 →
      Does (.pcnt i f) s (fun t => SetsX g f.a (BitVec.ofNat 64 (((List.range (128 / w)).filter fun k => (s.preg g f.b).testBit (k * w)).length)) s t ∧
        t.pc g = s.pc g + 4 ∧ Retired g s t ∧ SameRegs (vecRegs g) s t ∧ Only vecParts s t) ∧
      Does (.pfirst i f) s (fun t => (∀ k, k < 128 / w → (s.preg g f.b).testBit (k * w) = true → (∀ m, m < k → (s.preg g f.b).testBit (m * w) = false) →
          SetsX g f.a (BitVec.ofNat 64 k) s t) ∧
        ((∀ k, k < 128 / w → (s.preg g f.b).testBit (k * w) = false) → SetsX g f.a (BitVec.ofNat 64 (128 / w)) s t) ∧
        t.pc g = s.pc g + 4 ∧ Retired g s t ∧ SameRegs (vecRegs g) s t ∧ Only vecParts s t))) ∧
  (∀ (s : Dev) (i : Issue) (f : VecFields) (g n w ty : Nat) (on : List Bool) (el : List Nat), g = i.core → s.runs i → g < 192 → ty = f.ty → w = tyBytes ty →
    n = groupOf f → ty ≤ 8 → on = s.active g f.pg n w → el = s.velems g f.b n w → f.b.val % n = 0 →
    (f.c = 0 → Does (.vredadd i f) s fun t => (tyInt ty = true → SetsX g f.a
          (BitVec.ofInt 64 ((((on.zip el).filter (·.1)).map fun e => toSigned (8 * w) e.2).foldl (· + ·) 0)) s t) ∧
        (∀ r, r ≠ f.a.val → t.x g r = s.x g r) ∧ t.pc g = s.pc g + 4 ∧ Retired g s t ∧ SameRegs (vecRegs g) s t ∧ Only vecParts s t) ∧
    (f.c = 0 → intFp ty = true → Does (.vredmax i f) s fun t => (tyInt ty = true → SetsX g f.a
          (BitVec.ofInt 64 ((((on.zip el).filter (·.1)).map fun e => toSigned (8 * w) e.2).foldl max (-(2 ^ (8 * w - 1) : Nat)))) s t) ∧
        (∀ r, r ≠ f.a.val → t.x g r = s.x g r) ∧ t.pc g = s.pc g + 4 ∧ Retired g s t ∧ SameRegs (vecRegs g) s t ∧ Only vecParts s t) ∧
    (f.pg = 0 → Does (.vmovs i f) s fun t => SetsX g f.a (if tyInt ty then BitVec.ofInt 64 (toSigned (8 * w) (lget 0 el ((s.x g f.c).toNat % (n * (128 / w)))))
          else BitVec.ofNat 64 (lget 0 el ((s.x g f.c).toNat % (n * (128 / w))))) s t ∧
        t.pc g = s.pc g + 4 ∧ Retired g s t ∧ SameRegs (vecRegs g) s t ∧ Only vecParts s t) ∧
    (f.a.val % n = 0 → ∀ c ∈ [(Instr.vperm i f, intCx ty && f.c.val % n == 0, true, fun k => lget 0 el (lget 0 (s.velems g f.c n w) k % (n * (128 / w)))),
        (.vslide i f, true, true, fun k => if 0 ≤ (k : Int) + (s.x g f.c).toInt ∧ (k : Int) + (s.x g f.c).toInt < n * (128 / w) then
          lget 0 el ((k : Int) + (s.x g f.c).toInt).toNat else 0),
        (.vsel i f, f.c.val % n == 0, false, fun k => if lget false on k then lget 0 el k else lget 0 (s.velems g f.c n w) k)], c.2.1 = true →
      Does c.1 s fun t => SetsV g f.a n w (fun k => if c.2.2.1 && !lget false on k then lget 0 (s.velems g f.a n w) k else c.2.2.2 k) s t ∧
        (∀ r, t.x g r = s.x g r) ∧ (t.core g).p = (s.core g).p ∧ t.pc g = s.pc g + 4 ∧ RetiredCore g s t ∧ SameRegs (vecRegs g) s t ∧ Only vecParts s t)) ∧
  (∀ (s : Dev) (i : Issue) (f : VecFields) (g n w ty : Nat), g = i.core → s.runs i → g < 192 → ty = f.ty → w = tyBytes ty → n = groupOf f → ty ≤ 8 →
    (f.a.val % n = 0 → f.pg = 0 →
      Does (.vins i f) s fun t => SetsV g f.a n w (fun k => if k = (s.x g f.c).toNat % (n * (128 / w)) then (s.x g f.b).toNat
          else lget 0 (s.velems g f.a n w) k) s t ∧ (∀ r, t.x g r = s.x g r) ∧ (t.core g).p = (s.core g).p ∧ t.pc g = s.pc g + 4 ∧
        RetiredCore g s t ∧ SameRegs (vecRegs g) s t ∧ Only vecParts s t) ∧
    (f.a.val % n = 0 → f.c = 0 →
      Does (.vsplat i f) s fun t => SetsV g f.a n w (fun k => if lget false (s.active g f.pg n w) k then (s.x g f.b).toNat
          else lget 0 (s.velems g f.a n w) k) s t ∧ (∀ r, t.x g r = s.x g r) ∧ (t.core g).p = (s.core g).p ∧ t.pc g = s.pc g + 4 ∧
        RetiredCore g s t ∧ SameRegs (vecRegs g) s t ∧ Only vecParts s t) ∧
    (f.b = 0 → f.c = 0 → f.pg = 0 → f.span = 0 →
      (ty = 0 → Does (.vbits i f) s fun t => SetsX g f.a 1024 s t ∧ t.pc g = s.pc g + 4 ∧ Retired g s t ∧ SameRegs (vecRegs g) s t ∧ Only vecParts s t) ∧
      Does (.vcnt i f) s (fun t => SetsX g f.a (BitVec.ofNat 64 (128 / w)) s t ∧ t.pc g = s.pc g + 4 ∧ Retired g s t ∧ SameRegs (vecRegs g) s t ∧
        Only vecParts s t)))

/-- VLD, VST, VLDS, VSTS, VGATHER, VSCATTER, VPLD, VPST, in an engine's own memory and the sample store (R315–R318).
Completes: vld, vst, vlds, vsts, vgather, vscatter, vpld, vpst. -/
def Obligations.VectorMemory : Prop :=
  (∀ (s : Dev) (i : Issue) (f : VecFields) (g n w ty : Nat) (on : List Bool), g = i.core → s.runs i → g < 192 → ty = f.ty → w = tyBytes ty → n = groupOf f →
    on = s.active g f.pg n w → f.a.val % n = 0 →
    ∀ c ∈ [(Instr.vld i f none, Instr.vst i f, decide (ty ≤ 8) && f.c == 0, strided (s.x g f.b) (BitVec.ofNat 64 w)),
        (.vlds i f none, .vsts i f, decide (ty ≤ 8), strided (s.x g f.b) (s.x g f.c)),
        (.vgather i f none, .vscatter i f, [2, 3, 4, 5, 8].contains ty && f.c.val % n == 0, indexed (s.x g f.b) w (s.velems g f.c n w))], c.2.2.1 = true →
      ((∀ k, lget false on k = true → s.elemFault g false w (c.2.2.2 k) true = none ∧
            (storeBase ≤ c.2.2.2 k → s.poisoned (c.2.2.2 k - storeBase) = false)) →
        Does c.1 s fun t => SetsV g f.a n w (fun k => if lget false on k then s.le (localAddr g (c.2.2.2 k)) w else lget 0 (s.velems g f.a n w) k) s t ∧
          (∀ r, t.x g r = s.x g r) ∧ (t.core g).p = (s.core g).p ∧ t.pc g = s.pc g + 4 ∧ RetiredCore g s t ∧ SameRegs (vecRegs g) s t ∧ Only vecParts s t) ∧
      (∀ k code, lget false on k = true → s.elemFault g false w (c.2.2.2 k) true = some code →
        (∀ m, m < k → lget false on m = true → s.elemFault g false w (c.2.2.2 m) true = none) →
        Does c.1 s fun t => Trapped g code s t ∧ (t.core g).v = (s.core g).v ∧ t.get (R.CSR_EXC_ELEM_elem g) = k % 2 ^ 12) ∧
      ((∀ k, lget false on k = true → s.elemFault g true w (c.2.2.2 k) (decide (w = 8)) = none) →
        Does c.2.1 s fun t => (∀ k, lget false on k = true → (∀ m, k < m → lget false on m = true → c.2.2.2 m + w ≤ c.2.2.2 k ∨ c.2.2.2 k + w ≤ c.2.2.2 m) →
            t.le (localAddr g (c.2.2.2 k)) w = lget 0 (s.velems g f.a n w) k) ∧
          (∀ a, (∀ k, lget false on k = true → a < localAddr g (c.2.2.2 k) ∨ localAddr g (c.2.2.2 k) + w ≤ a) → t.byte a = s.byte a) ∧
          (∀ r, t.x g r = s.x g r) ∧ t.pc g = s.pc g + 4 ∧ Retired g s t ∧ SameRegs (vecRegs g) s t ∧ SameFlash s t)) ∧
  (∀ (s : Dev) (i : Issue) (f : VecFields) (g : Nat), g = i.core → s.runs i → g < 192 → f.ty = 0 → f.span = 0 → f.pg = 0 → f.c = 0 → f.a.val < 16 →
    ((∀ k, k < 16 → s.elemFault g false 1 (strided (s.x g f.b) 1 k) true = none ∧
        (storeBase ≤ strided (s.x g f.b) 1 k → s.poisoned (strided (s.x g f.b) 1 k - storeBase) = false)) →
      Does (.vpld i f none) s fun t => SetsP g f.a (fun b => bit (s.byte (localAddr g (strided (s.x g f.b) 1 (b / 8)))) (b % 8)) s t ∧
        (∀ r, t.x g r = s.x g r) ∧ (t.core g).v = (s.core g).v ∧ t.pc g = s.pc g + 4 ∧ RetiredCore g s t ∧ SameRegs (vecRegs g) s t ∧ Only vecParts s t) ∧
    ((∀ k, k < 16 → s.elemFault g true 1 (strided (s.x g f.b) 1 k) (decide ((s.x g f.b).toNat % 8 = 0)) = none) →
      Does (.vpst i f) s fun t => (∀ k, k < 16 → t.byte (localAddr g (strided (s.x g f.b) 1 k)) = bits (s.preg g f.a) (8 * k) 8) ∧
        (∀ a, (∀ k, k < 16 → a ≠ localAddr g (strided (s.x g f.b) 1 k)) → t.byte a = s.byte a) ∧
        (∀ r, t.x g r = s.x g r) ∧ t.pc g = s.pc g + 4 ∧ Retired g s t ∧ SameRegs (vecRegs g) s t ∧ SameFlash s t))

/-- CPI and COP_CONFIRM (R323, R325, R326, R328, R329).
Completes: cpi, copConfirm. -/
def Obligations.CopIssue : Prop :=
  (∀ (s : Dev) (i : Issue) (f : CopFields) (desc : Fin 4) (g slot off : Nat) (d : List Nat), g = i.core → s.runs i → slot = f.slot → off = (s.x g f.rs1).toNat →
    d = ((List.range 8).map fun k => s.le (ownBase g + 0x10000 + off + 4 * k) 4) →
    ((slot = 3 ∨ 192 ≤ g) → Does (.cpi i f desc) s fun t => Trapped g 0x0D s t) ∧
    (slot < 3 → g < 192 →
      ((s.get (R.CSR_COP_EN_en g)).testBit (3 * slot + s.lvl g) = false → Does (.cpi i f desc) s fun t => Trapped g 0x0C s t) ∧
      ((s.get (R.CSR_COP_EN_en g)).testBit (3 * slot + s.lvl g) = true →
        ((off % 32 ≠ 0 ∨ 65536 < off + 32 ∨ s.mpuOk g (0x10000 + off) 32 [0] = false) → Does (.cpi i f desc) s fun t => Trapped g 0x18 s t) ∧
        (off % 32 = 0 → off + 32 ≤ 65536 → s.mpuOk g (0x10000 + off) 32 [0] = true →
          (desc = 3 → Does (.cpi i f desc) s fun t => Trapped g 0x19 s t) ∧
          (desc ≠ 3 → copMalformed slot f.op.toNat d = true → Does (.cpi i f desc) s fun t => Trapped g 0x1A s t) ∧
          (desc ≠ 3 → copMalformed slot f.op.toNat d = false → (∃ e ∈ (copRanges slot f.op.toNat d).zipIdx, s.rangeBad g slot f.op.toNat (copRanges slot f.op.toNat d) e.2 e.1 = true) →
            Does (.cpi i f desc) s fun t => Trapped g 0x18 s t) ∧
          (desc ≠ 3 → copMalformed slot f.op.toNat d = false → (∀ e ∈ (copRanges slot f.op.toNat d).zipIdx, s.rangeBad g slot f.op.toNat (copRanges slot f.op.toNat d) e.2 e.1 = false) →
            (∀ tag, tag < 16 → (∀ c ∈ s.cops g, ¬(c.slot = slot ∧ c.tag = tag)) → (∀ m, m < tag → ∃ c ∈ s.cops g, c.slot = slot ∧ c.tag = m) →
              Does (.cpi i f desc) s fun t => t.cops g = s.cops g ++ [{ slot := slot, tag := tag, op := f.op.toNat, keep := f.keep, d := d, arg := (s.x g f.rs2).toNat, rd := f.rd }] ∧
                t.rd64 (R.POD_CPCMD g) = (s.rd64 (R.POD_CPCMD g) + 1) % 2 ^ 64 ∧ (t.core g).wait = .none ∧ SameCore g s t ∧
                SameRegs (R.POD_CPCMD g :: R.POD_CPCMD_HI g :: copRegs g ++ issueRegs g) s t ∧ Only engParts s t) ∧
            ((∀ m, m < 16 → ∃ c ∈ s.cops g, c.slot = slot ∧ c.tag = m) →
              ((∀ c ∈ s.cops g, c.slot = slot → c.done = true ∧ c.keep = true) → Does (.cpi i f desc) s fun t => Trapped g 0x1B s t) ∧
              ((∃ c ∈ s.cops g, c.slot = slot ∧ (c.done = false ∨ c.keep = false)) → Does (.cpi i f desc) s fun t => t.coreState g = 6 ∧
                (t.core g).wait = .cpi f.rd slot f.op.toNat f.keep d (s.x g f.rs2).toNat ∧ t.cops g = s.cops g ∧ (∀ r, t.x g r = s.x g r) ∧ t.pc g = s.pc g ∧
                SameRegs (issueRegs g) s t ∧ Only engParts s t))))))) ∧
  (∀ (s : Dev) (g : Fin 192),
    (s.coreState g = 1 → ∀ a c b, s.cops g = a ++ c :: b → (∀ x ∈ a, x.confirmed = true ∨ x.squashed = true) → c.confirmed = false → c.squashed = false →
      Does (.copConfirm g) s fun t => t.cops g = (s.cops g).map (fun x => if x = c then { c with confirmed := true } else x) ∧
        SetsX g c.rd (BitVec.ofNat 64 c.tag) s t ∧ t.pc g = s.pc g + 4 ∧ t.rd64 (R.CSR_INSTRET_LO g) = (s.rd64 (R.CSR_INSTRET_LO g) + 1) % 2 ^ 64 ∧
        (t.core g).v = (s.core g).v ∧ (t.core g).p = (s.core g).p ∧ SameRegs (copRegs g ++ issueRegs g) s t ∧ Only engParts s t) ∧
    (s.coreState g ≠ 1 → Does (.copConfirm g) s fun t => SameCore g s t ∧ t.cops g = s.cops g ∧ SameRegs [] s t ∧ Only engParts s t))

/-- CPR, CPSYNC and SQUASH_DRAIN_DONE (R324, R326, R330–R332).
Completes: cpr, cpsync, squashDrainDone. -/
def Obligations.CopResults : Prop :=
  (∀ (s : Dev) (i : Issue) (f : CopFields) (g slot tag : Nat), g = i.core → s.runs i → slot = f.slot → tag = (s.x g f.rs1).toNat % 16 →
    ((f.rs2 ≠ 0 ∨ f.keep = true ∨ f.op ≠ 0) → Does (.cpr i f) s (fun t => Trapped g 1 s t) ∧ Does (.cpsync i f) s (fun t => Trapped g 1 s t)) ∧
    ((f.rd ≠ 0 ∨ f.rs1 ≠ 0) → Does (.cpsync i f) s fun t => Trapped g 1 s t) ∧
    (f.rs2 = 0 → f.keep = false → f.op = 0 → slot < 3 → g < 192 → (s.get (R.CSR_COP_EN_en g)).testBit (3 * slot + s.lvl g) = true →
      ((∀ c ∈ s.cops g, ¬(c.slot = slot ∧ c.tag = tag)) → Does (.cpr i f) s fun t => Trapped g 0x1B s t) ∧
      (∀ a c b, s.cops g = a ++ c :: b → (∀ x ∈ a, ¬(x.slot = slot ∧ x.tag = tag)) → c.slot = slot → c.tag = tag →
        ((c.keep = false ∨ c.squashed = true) → Does (.cpr i f) s fun t => Trapped g 0x1B s t) ∧
        (c.keep = true → c.squashed = false → c.done = true → Does (.cpr i f) s fun t => SetsX g f.rd (BitVec.ofNat 64 (c.result.getD 0)) s t ∧
          t.cops g = (s.cops g).filter (fun x => !(x.slot == slot && x.tag == tag)) ∧ t.pc g = s.pc g + 4 ∧
          t.rd64 (R.CSR_INSTRET_LO g) = (s.rd64 (R.CSR_INSTRET_LO g) + 1) % 2 ^ 64 ∧ (t.core g).v = (s.core g).v ∧ (t.core g).p = (s.core g).p ∧
          SameRegs (copRegs g ++ issueRegs g) s t ∧ Only engParts s t) ∧
        (c.keep = true → c.squashed = false → c.done = false → Does (.cpr i f) s fun t => (t.core g).wait = .cpr f.rd slot tag ∧ t.cops g = s.cops g ∧
          SameCore g s t ∧ SameRegs (issueRegs g) s t ∧ Only engParts s t)) ∧
      (f.rd = 0 → f.rs1 = 0 →
        ((∀ c ∈ s.cops g, c.slot = slot → c.done = true ∨ c.squashed = true) → Does (.cpsync i f) s fun t => t.pc g = s.pc g + 4 ∧ (∀ r, t.x g r = s.x g r) ∧
          Retired g s t ∧ SameRegs (issueRegs g) s t ∧ Only engParts s t) ∧
        ((∃ c ∈ s.cops g, c.slot = slot ∧ c.done = false ∧ c.squashed = false) → Does (.cpsync i f) s fun t => (t.core g).wait = .cpsync slot ∧
          t.cops g = s.cops g ∧ SameCore g s t ∧ SameRegs (issueRegs g) s t ∧ Only engParts s t)))) ∧
  (∀ (s : Dev) (g : Fin 192) (slot : Fin 3) (tag : Fin 16),
    ((∀ c ∈ s.cops g, ¬(c.slot = slot.val ∧ c.tag = tag.val ∧ c.squashed = true)) → Does (.squashDrainDone g slot tag) s fun t => SameCore g s t ∧ t.cops g = s.cops g ∧
      SameRegs [] s t ∧ Only engParts s t) ∧
    (∀ a c b, s.cops g = a ++ c :: b → c.slot = slot.val → c.tag = tag.val → c.squashed = true → (∀ x ∈ a, ¬(x.slot = slot.val ∧ x.tag = tag.val ∧ x.squashed = true)) →
      s.idleWait g → Does (.squashDrainDone g slot tag) s fun t => t.cops g = (s.cops g).filter (fun x => decide (x ≠ c)) ∧ SameCore g s t ∧
        (slot = 2 → c.started = true → tget none s.eng.sxuRun (g / 8) = some (g : Nat) → tget none t.eng.sxuRun (g / 8) = none) ∧
        SameRegs (copRegs g) s t ∧ Only engParts s t))

/-- CHOL, TRSM, GEMM, GRAM, CRC, GOLD, ILV, TOPK, PFTOPK, SXU_COMMAND_START and COP_COMMAND_COMPLETE (R327, R329, R332–R336).
Completes: chol, trsm, gemm, gram, crc, gold, ilv, sxuCommandStart, topk, pftopk, copCommandComplete. -/
def Obligations.CopUnits : Prop :=
  (∀ (s : Dev) (g : Fin 192) (fails : Fin 4) (c : CopCmd), fails ≠ 3 → c.squashed = false → c.result = none → c.confirmed = true →
    (∀ k ∈ [(Instr.crc g fails, 1, 1), (.gold g fails, 1, 2), (.ilv g fails, 1, 3), (.topk g fails, 2, 1), (.pftopk g fails, 2, 2),
        (.chol g () () fails, 0, 1), (.trsm g () () fails, 0, 2), (.gemm g () () fails, 0, 3), (.gram g () () fails, 0, 4)],
      s.copHead g k.2.1 = some c → c.op = k.2.2 → (k.2.1 = 2 → c.started = true) → (k.2.1 = 1 → k.2.2 = 3 → bits (dw c.d 0) 0 12 ≠ 0) →
      Does k.1 s fun t => (∃ w r, t.cops g = (s.cops g).map (fun x => if x = c then { c with started := true, writes := w, result := some r } else x) ∧
          (k.2.1 = 1 → k.2.2 = 1 → w = [] ∧ r = 2 ^ 32 * (crcBits (crcPoly (bits (dw c.d 0) 0 3)).1 (crcPoly (bits (dw c.d 0) 0 3)).2 0
            (s.bitString g (bits (dw c.d 1) 0 16) (bits (dw c.d 2) 0 20)) % 2 ^ 32)) ∧
          (k.2.1 = 1 → k.2.2 ≠ 1 → r = 0 ∧ w.map (·.1) = (List.range ((bits (dw c.d 2) 0 20 + 7) / 8)).map (bits (dw c.d 1) 16 16 + ·)) ∧
          (k.2.1 = 1 → k.2.2 = 2 → ∀ j v, j < bits (dw c.d 2) 0 20 → (bits (dw c.d 1) 16 16 + j / 8, v) ∈ w → v.testBit (7 - j % 8) =
            (gold (bits (dw c.d 0) 0 31) (dw c.d 3 + j) != (!bit (dw c.d 0) 31 &&
              (s.byte (ownBase g + 0x10000 + bits (dw c.d 1) 0 16 + j / 8)).testBit (7 - j % 8)))) ∧
          (k.2.1 = 1 → k.2.2 = 3 → bit (dw c.d 0) 12 = false → ∀ j v, j < bits (dw c.d 2) 0 20 → (bits (dw c.d 1) 16 16 + j / 8, v) ∈ w →
            v.testBit (7 - j % 8) = (s.byte (ownBase g + 0x10000 + bits (dw c.d 1) 0 16 +
              lget 0 (ilvOrder (bits (dw c.d 0) 0 12) (bits (dw c.d 2) 0 20)) j / 8)).testBit
                (7 - lget 0 (ilvOrder (bits (dw c.d 0) 0 12) (bits (dw c.d 2) 0 20)) j % 8)) ∧
          (k.2.1 = 2 → r % 2 ^ 32 = 0 ∧ r / 2 ^ 32 ≤ bits (dw c.d 0) 12 6 + 1 ∧ r / 2 ^ 32 ≤ bits (dw c.d 0) 0 12 + 1 ∧
            w.map (·.1) = (List.range (8 * (r / 2 ^ 32))).map (bits (dw c.d 1) 16 16 + ·)) ∧
          (k.2.1 = 0 → k.2.2 = 1 → ∀ i j b v, i < mxN c.d → j < mxN c.d → i < j → b < mxEl c.d 20 → bits (dw c.d 2) 24 8 = 0 →
            (bits (dw c.d 2) 0 16 + (i * mxN c.d + j) * mxEl c.d 20 + b, v) ∈ w → v = 0) ∧
          (k.2.1 = 0 → w = (List.range (mxShape k.2.2 c.d).1).flatMap fun i => (List.range (mxShape k.2.2 c.d).2).flatMap fun j =>
            (((s.mxResult g k.2.2 c).1.at i j).bytes (bit (dw c.d 0) 20) (toSigned 8 (bits (dw c.d 2) 16 8))).1.zipIdx.map fun b =>
              (bits (dw c.d 2) 0 16 + (i * mxStride k.2.2 c.d + j) * mxEl c.d 20 + b.2, b.1)) ∧
          (k.2.1 = 0 → ∀ col, (s.mxResult g k.2.2 c).2 = some col → k.2.2 = 1 ∧ col < mxN c.d ∧ r = 1 + 2 ^ 32 * col) ∧
          (k.2.1 = 0 → (s.mxResult g k.2.2 c).2 = none → (r = 0 ∨ r = 3 ∨ r = 4) ∧
            (r = 4 → ∃ i j, i < (mxShape k.2.2 c.d).1 ∧ j < (mxShape k.2.2 c.d).2 ∧ ((s.mxResult g k.2.2 c).1.at i j).finite = false) ∧
            (r = 3 → bit (dw c.d 0) 20 = false) ∧
            (r = 0 → ∀ i j, i < (mxShape k.2.2 c.d).1 → j < (mxShape k.2.2 c.d).2 → ((s.mxResult g k.2.2 c).1.at i j).finite = true ∧
              (((s.mxResult g k.2.2 c).1.at i j).bytes (bit (dw c.d 0) 20) (toSigned 8 (bits (dw c.d 2) 16 8))).2 = false))) ∧
        SameCore g s t ∧ SameRegs (R.POD_EPERR g :: R.POD_ECNT_OVF g :: R.POD_ESTAT g :: copRegs g) s t ∧ Only vecParts s t)) ∧
  (∀ (s : Dev) (g : Fin 192) (slot : Fin 3) (c : CopCmd) (r : Nat), s.copHead g slot = some c → c.result = some r → s.idleWait g →
    ((c.confirmed = false ∨ c.squashed = true) → Does (.copCommandComplete g slot) s fun t => t.cops g = s.cops g ∧ SameCore g s t ∧ SameRegs [] s t ∧ Only engParts s t) ∧
    (c.confirmed = true → c.squashed = false → Does (.copCommandComplete g slot) s fun t =>
      (∀ a, (∀ e ∈ c.writes, ownBase g + 0x10000 + e.1 ≠ a) → t.byte a = s.byte a) ∧
      (∀ w e v, c.writes = w ++ e :: v → (∀ x ∈ v, x.1 ≠ e.1) → t.byte (ownBase g + 0x10000 + e.1) = e.2 % 256) ∧ SameFlash s t ∧
      t.cops g = (if c.keep then (s.cops g).map fun x => if x = c then { c with done := true, writes := [] } else x else (s.cops g).filter fun x => decide (x ≠ c)) ∧
      (r % 256 ≠ 0 → t.flag (R.POD_CPSTAT_err g) = true ∧ t.rd (R.POD_CPERR g) = min (s.rd (R.POD_CPERR g) + 1) 0xFFFFFFFF) ∧
      (r % 256 = 0 → t.rd (R.POD_CPERR g) = s.rd (R.POD_CPERR g) ∧ t.raised = s.raised) ∧
      (slot = 2 → t.rd64 (R.POD_SXU_CMD (g / 8)) = (s.rd64 (R.POD_SXU_CMD (g / 8)) + 1) % 2 ^ 64 ∧ tget none t.eng.sxuRun (g / 8) = none) ∧
      SameCore g s t ∧ SameRegs (R.POD_CPERR g :: R.POD_CPCNT_OVF g :: R.POD_SXU_CMD (g / 8) :: R.POD_SXU_CMD_HI (g / 8) :: R.POD_SXU_BUSY (g / 8) ::
        R.POD_SXU_BUSY_HI (g / 8) :: copRegs g) s t)) ∧
  (∀ (s : Dev) (pod : Fin 24) (n : Nat), tget none s.eng.sxuRun pod = none →
    ((∃ c, s.copHead (8 * pod + (tget 7 s.eng.sxuLast pod + 1 + n) % 8) 2 = some c ∧ c.squashed = false ∧ c.started = false) → n < 8 →
      (∀ m, m < n → ∀ c, s.copHead (8 * pod + (tget 7 s.eng.sxuLast pod + 1 + m) % 8) 2 = some c → c.squashed = true ∨ c.started = true) →
      Does (.sxuCommandStart pod) s fun t => tget none t.eng.sxuRun pod = some (8 * pod + (tget 7 s.eng.sxuLast pod + 1 + n) % 8) ∧
        tget 7 t.eng.sxuLast pod = (tget 7 s.eng.sxuLast pod + 1 + n) % 8 ∧
        (∀ c, s.copHead (8 * pod + (tget 7 s.eng.sxuLast pod + 1 + n) % 8) 2 = some c →
          { c with started := true } ∈ t.cops (8 * pod + (tget 7 s.eng.sxuLast pod + 1 + n) % 8)) ∧
        SameRegs (copRegs (8 * pod + (tget 7 s.eng.sxuLast pod + 1 + n) % 8)) s t ∧ Only engParts s t) ∧
    ((∀ m, m < 8 → ∀ c, s.copHead (8 * pod + m) 2 = some c → c.squashed = true ∨ c.started = true) → Does (.sxuCommandStart pod) s fun t =>
      t.eng = s.eng ∧ SameRegs [] s t ∧ Only engParts s t))

/-- EVENT_ACCEPT (R340, R341, R348). A descriptor with an event ring also writes the record of Table 15-2 there.
Completes: eventAccept. -/
def Obligations.EventAcceptance : Prop :=
  ∀ (s : Dev) (cls : Fin 8) (e : TskEvent) (q : List TskEvent) (d : Nat), s.input cls = e :: q → d = e.desc →
    ((s.tdEn d = false ∨ s.tdState d = 5) → Does (.eventAccept cls false none) s fun t => t.input cls = q ∧ OtherInputs cls s t ∧ CountsOne R.TSK_BAD s t ∧
      t.tsk.ready = s.tsk.ready ∧ SameRegs (tskCountRegs R.TSK_BAD) s t ∧ OnlyTd d [] s t) ∧
    (s.tdEn d = true → s.tdState d ≠ 5 →
      (s.tdEvc d = 65535 → Does (.eventAccept cls false none) s fun t => t.input cls = q ∧ OtherInputs cls s t ∧ CountsOne R.TSK_EV_DROP s t ∧
        t.flag R.TSK_STAT_ev_drop = true ∧ t.tsk.ready = s.tsk.ready ∧ SameRegs (tskCountRegs R.TSK_EV_DROP) s t ∧ OnlyTd d [] s t) ∧
      (s.tdEvc d ≠ 65535 → s.tdState d = 1 → s.tdEvc d + 1 = s.tdNeed d → s.mayEnter cls = false → Does (.eventAccept cls false none) s fun t =>
        t.tsk = s.tsk ∧ SameRegs [] s t ∧ OnlyTd d [] s t) ∧
      (s.tdEvc d ≠ 65535 → (s.tdState d ≠ 1 ∨ s.tdEvc d + 1 < s.tdNeed d) →
        (s.td d 5 16 12 = 0xFFF → Does (.eventAccept cls false none) s fun t => t.input cls = q ∧ OtherInputs cls s t ∧ t.tdEvc d = s.tdEvc d + 1 ∧
          t.counted d = s.counted d ++ [(e.payload, (cls : Nat))] ∧ t.rd64 R.TSK_EVN = (s.rd64 R.TSK_EVN + 1) % 2 ^ 64 ∧ t.tsk.ready = s.tsk.ready ∧
          SameRegs [R.TSK_EVN, R.TSK_EVN_HI] s t ∧ OnlyTd d [7] s t) ∧
        ((∀ x ∈ s.counted d, x.2 < 8) → Does (.eventAccept cls false none) s fun t => t.input cls = q ∧
          t.rd64 R.TSK_EVN = (s.rd64 R.TSK_EVN + 1) % 2 ^ 64)) ∧
      (s.tdEvc d ≠ 65535 → s.tdState d = 1 → s.tdEvc d + 1 = s.tdNeed d → s.mayEnter cls = true → (s.counted d).length = s.tdEvc d → s.td d 5 16 12 = 0xFFF →
        Does (.eventAccept cls false none) s fun t => t.input cls = q ∧ OtherInputs cls s t ∧ t.tdState d = 2 ∧ t.tdGen d = (s.tdGen d + 1) % 2 ^ 20 ∧
          t.tdEvc d = 0 ∧ t.counted d = [] ∧ t.tdWord d 2 = (if s.td d 0 27 1 = 1 then e.payload % 2 ^ 32 else s.tdWord d 2) ∧
          t.tsk.ready = insertAct ⟨d, (s.tdGen d + 1) % 2 ^ 20, cls, s.td d 0 20 3, s.tsk.seq, s.time.cnt,
            if s.td d 3 0 32 = 0 then none else some (s.time.cnt + s.td d 3 0 32)⟩ s.tsk.ready ∧
          t.rd64 R.TSK_EVN = (s.rd64 R.TSK_EVN + 1) % 2 ^ 64 ∧ t.rd64 R.TSK_ACT = (s.rd64 R.TSK_ACT + 1) % 2 ^ 64 ∧
          SameRegs ([R.TSK_EVN, R.TSK_EVN_HI, R.TSK_ACT, R.TSK_ACT_HI] ++ readyRegs cls (s.td d 0 20 3)) s t ∧ OnlyTd d [0, 2, 7] s t))

/-- EVENT_POST, TIMED_EVENT_ENTER, DELAY_RELEASE, TASK_CANCEL (R344–R346, R353).
Completes: eventPost, timedEventEnter, delayRelease, taskCancel. -/
def Obligations.PortsAndDelays : Prop :=
  (∀ (s : Dev) (g : Fin 193) (v : Word),
    ((s.input 5).length < 32 → Does (.eventPost g v) s fun t => t.input 5 = s.input 5 ++ [{ desc := v.toNat % 2 ^ 16, payload := s.rd (R.EV_LO g) }] ∧
      OtherInputs 5 s t ∧ t.tsk.ready = s.tsk.ready ∧ SameRegs [] s t ∧ Only tskParts s t) ∧
    (32 ≤ (s.input 5).length → Does (.eventPost g v) s fun t => (t.core g).wait = .store (R.EV_HI g) 4 v.toNat false ∧ t.coreState g = 6 ∧ t.tsk = s.tsk ∧
      SameRegs [estat g] s t ∧ Only engParts s t) ∧
    (s.tsk.delay.length < 8192 → Does (.timedEventEnter g v) s fun t => (∃ l e r, s.tsk.delay = l ++ r ∧ t.tsk.delay = l ++ e :: r ∧
        e = ⟨if s.time.cnt < s.rd (R.TE_T_LO g) + v.toNat * 2 ^ 32 then (s.rd (R.TE_T_LO g) + v.toNat * 2 ^ 32 + tickTc - 1) / tickTc else s.time.cnt / tickTc + 1,
          s.get (R.TE_DESC_desc g), s.rd (R.TE_PAY g), s.flag (R.TE_DESC_periodic g), false⟩ ∧ (∀ x ∈ l, x.tick ≤ e.tick) ∧ (∀ x, r.head? = some x → e.tick < x.tick)) ∧
      (∀ k, t.input k = s.input k) ∧ SameRegs [R.TSK_DEPTH] s t ∧ Only tskParts s t) ∧
    (8192 ≤ s.tsk.delay.length → Does (.timedEventEnter g v) s fun t => (t.core g).wait = .store (R.TE_T_HI g) 4 v.toNat false ∧ t.coreState g = 6 ∧
      t.tsk = s.tsk ∧ SameRegs [estat g] s t ∧ Only engParts s t)) ∧
  (∀ (s : Dev), (s.airState = 0 ∨ s.tsk.delay = [] ∨ ∃ e r, s.tsk.delay = e :: r ∧ s.time.cnt < e.tick * tickTc) →
    Does .delayRelease s fun t => t.tsk = s.tsk ∧ SameRegs [] s t ∧ Only tskParts s t) ∧
  (∀ (s : Dev) (e : DelayEntry) (r : List DelayEntry), s.airState ≠ 0 → s.tsk.delay = e :: r → e.tick * tickTc ≤ s.time.cnt →
    (32 ≤ (s.input 6).length →
      (e.slip = true → Does .delayRelease s fun t => t.tsk = s.tsk ∧ SameRegs [] s t ∧ Only tskParts s t) ∧
      (e.slip = false → Does .delayRelease s fun t => t.tsk.delay = { e with slip := true } :: r ∧ CountsOne R.TSK_SLIP s t ∧ t.flag R.TSK_STAT_slip = true ∧
        (∀ k, t.input k = s.input k) ∧ SameRegs (R.TSK_DEPTH :: tskCountRegs R.TSK_SLIP) s t ∧ Only tskParts s t)) ∧
    ((s.input 6).length < 32 →
      Does .delayRelease s fun t => t.input 6 = s.input 6 ++ [{ desc := e.desc, payload := e.payload }] ∧ OtherInputs 6 s t ∧
        (e.periodic = false → t.tsk.delay = r ∧ SameRegs [R.TSK_DEPTH] s t) ∧
        (e.periodic = true → (s.tdEn e.desc = false ∨ s.td e.desc 6 0 24 = 0) → t.tsk.delay = r ∧ CountsOne R.TSK_BAD s t) ∧
        (e.periodic = true → s.tdEn e.desc = true → s.td e.desc 6 0 24 ≠ 0 →
          t.tsk.delay = insertDelay { e with tick := e.tick + s.td e.desc 6 0 24, slip := false } r ∧ SameRegs [R.TSK_DEPTH] s t) ∧
        SameRegs (R.TSK_DEPTH :: tskCountRegs R.TSK_BAD) s t ∧ Only tskParts s t)) ∧
  (∀ (s : Dev) (g : Fin 193) (v : Word) (d : Nat), d = s.get (R.CAN_LO_idx g) →
    ((s.tdGen d ≠ v.toNat % 2 ^ 20 ∨ s.tdState d ∉ [2, 3, 4]) → Does (.taskCancel g v) s fun t => CountsOne R.TSK_CAN_STALE s t ∧ t.tsk = s.tsk ∧
      SameRegs (tskCountRegs R.TSK_CAN_STALE) s t ∧ Only tskParts s t) ∧
    (s.tdGen d = v.toNat % 2 ^ 20 → s.tdState d = 4 → ∀ k, s.engineOf d = some k → Does (.taskCancel g v) s fun t => t.flag (R.CSR_TK_STAT_cancel k) = true ∧
      t.rd64 R.TSK_CAN = (s.rd64 R.TSK_CAN + 1) % 2 ^ 64 ∧ t.tsk = s.tsk ∧ SameRegs [R.TSK_CAN, R.TSK_CAN_HI, R.CSR_TK_STAT k] s t ∧ Only tskParts s t) ∧
    (s.tdGen d = v.toNat % 2 ^ 20 → (s.tdState d = 2 ∨ s.tdState d = 3) → s.tsk.starved = [] → s.tdEvc d < s.tdNeed d →
      (∀ a, s.tsk.ready.find? (·.desc == d) = some a → a.cls < 8 → a.pri < 8 → Does (.taskCancel g v) s fun t => Completed d 0xF0 s t ∧
        t.tsk.ready = s.tsk.ready.filter (fun x => x.seq != a.seq) ∧ t.rd64 R.TSK_CAN = (s.rd64 R.TSK_CAN + 1) % 2 ^ 64 ∧
        SameRegs ([R.TSK_CAN, R.TSK_CAN_HI, R.TSK_DONE, R.TSK_DONE_HI] ++ readyRegs a.cls a.pri) s t ∧ OnlyTd d [0] s t) ∧
      (∀ k, s.tsk.ready.find? (·.desc == d) = none → s.slotOf d = some k → Does (.taskCancel g v) s fun t => Completed d 0xF0 s t ∧ t.slot k = none ∧
        (∀ m, m ≠ k → t.slot m = s.slot m) ∧ t.tsk.ready = s.tsk.ready ∧ t.rd64 R.TSK_CAN = (s.rd64 R.TSK_CAN + 1) % 2 ^ 64 ∧
        SameRegs [R.TSK_CAN, R.TSK_CAN_HI, R.TSK_DONE, R.TSK_DONE_HI, R.TSK_ESTAT k, R.CSR_TK_STAT k] s t ∧ OnlyTd d [0] s t)))

/-- SLOT_FILL, DEADLINE_DROP, DESCRIPTOR_WINDOW_WRITE, RESERVE_WRITE, HIST_CLEAR, TSK_PEAK_CLEAR, LOAD_UPDATE (R339, R348–R350, R353, R356).
Completes: slotFill, deadlineDrop, descriptorWindowWrite, reserveWrite, histClear, tskPeakClear, loadUpdate. -/
def Obligations.DispatchAndUpkeep : Prop :=
  (∀ (s : Dev), (∀ k, k < 192 → s.eligible k = false ∨ (s.slot k).isSome = true) → Does (.slotFill false none) s fun t => t.tsk = s.tsk ∧
      (∀ k, k < 192 → t.flag (R.TSK_ESTAT_elig k) = s.eligible k) ∧ SameRegs ((List.range 192).map R.TSK_ESTAT) s t ∧ Only tskParts s t) ∧
  (∀ (s : Dev) (k : Nat) (l r : List Activation) (a : Activation), k < 192 → s.eligible k = true → s.slot k = none →
    (∀ m, m < 192 → m ≠ k → s.eligible m = false ∨ (s.slot m).isSome = true) → s.tsk.starved = [] → s.tsk.ready = l ++ a :: r →
    (∀ x ∈ l, (s.td x.desc 4 0 24).testBit (k / 8) = false) → (s.td a.desc 4 0 24).testBit (k / 8) = true →
    (s.ddrop a.desc = false ∨ a.overdue s.time.cnt = false) → a.cls < 8 → a.pri < 8 →
      Does (.slotFill false none) s fun t => t.slot k = some a ∧ (∀ m, m ≠ k → t.slot m = s.slot m) ∧ t.tsk.ready = s.tsk.ready.filter (fun x => x.seq != a.seq) ∧
        t.tdState a.desc = 3 ∧ t.tsk.lastFill = k ∧ t.rd64 (R.TSK_DISP k) = (s.rd64 (R.TSK_DISP k) + 1) % 2 ^ 64 ∧
        t.rd64 (R.TSK_HIST a.pri (min 31 ((s.time.cnt - a.ready) / 2 ^ s.get R.TSK_CTL_hist_w))) =
          (s.rd64 (R.TSK_HIST a.pri (min 31 ((s.time.cnt - a.ready) / 2 ^ s.get R.TSK_CTL_hist_w))) + 1) % 2 ^ 64 ∧
        (a.overdue s.time.cnt = true → CountsOne R.TSK_LATE s t ∧ t.flag R.TSK_STAT_late = true) ∧ (a.overdue s.time.cnt = false → t.raised = s.raised) ∧
        (∀ j, t.input j = s.input j) ∧ OnlyTd a.desc [0] s t) ∧
  (∀ (s : Dev), (∀ a ∈ s.tsk.ready, s.ddrop a.desc = false ∨ a.overdue s.time.cnt = false) → Does .deadlineDrop s fun t => t.tsk = s.tsk ∧ SameRegs [] s t ∧ Only tskParts s t) ∧
  (∀ (s : Dev) (a : Activation), s.tsk.ready.filter (fun x => s.ddrop x.desc && x.overdue s.time.cnt) = [a] → s.tsk.starved = [] → s.tdEvc a.desc < s.tdNeed a.desc →
    s.tdState a.desc ≠ 5 → a.cls < 8 → a.pri < 8 →
      Does .deadlineDrop s fun t => Completed a.desc 0xF1 s t ∧ t.tsk.ready = s.tsk.ready.filter (fun x => x.seq != a.seq) ∧ CountsOne R.TSK_LATE s t ∧
        t.flag R.TSK_STAT_late = true ∧ OnlyTd a.desc [0] s t) ∧
  (∀ (s : Dev) (d : BitVec 16) (k : Fin 8) (v : Word) (n : Nat), n = d.toNat →
    (s.tdEn n = false → Does (.descriptorWindowWrite d k v) s fun t =>
      (∀ b, b < 32 → ((k : Nat) ≠ 0 ∨ b < 24 ∨ 27 ≤ b) → (t.tdWord n k).testBit b = if (tdMask k).testBit b then v.toNat.testBit b else (s.tdWord n k).testBit b) ∧
      (k = 0 → v.toNat.testBit 23 = true → (s.tdState n = 0 ∨ s.tdState n = 5) → t.tdState n = 1) ∧ t.tsk = s.tsk ∧ SameRegs [] s t ∧ OnlyTd n [(k : Nat)] s t) ∧
    (s.tdEn n = true → (k ≠ 0 ∨ v.toNat.testBit 23 = true) → Does (.descriptorWindowWrite d k v) s fun t => t.tsk = s.tsk ∧ SameRegs [R.TSK_STAT] s t ∧
      ((∃ b, b < 32 ∧ ((k : Nat) ≠ 0 ∨ b ≠ 23) ∧ (tdMask k).testBit b = true ∧ v.toNat.testBit b ≠ (s.tdWord n k).testBit b) →
        t.flag R.TSK_STAT_cfg_bad = true ∧ Raises s t [(Ev.TSK_CFG_BAD, 0xFFFF, [(16, n), (3, (k : Nat))])]) ∧ OnlyTd n [] s t) ∧
    (s.tdEn n = true → k = 0 → v.toNat.testBit 23 = false → s.tdState n ∉ [2, 3, 4] → Does (.descriptorWindowWrite d k v) s fun t => t.tdEn n = false ∧ t.tdState n = 0 ∧
      t.tdEvc n = 0 ∧ t.counted n = [] ∧ t.tsk.ready = s.tsk.ready ∧ SameRegs [R.TSK_STAT] s t ∧ OnlyTd n [0, 7] s t)) ∧
  (∀ (s : Dev) (c : Fin 8) (v : Word), s.tsk.starved = [] →
    (s.rsvSum - s.rsv c + v.toNat % 2 ^ 15 ≤ 16384 → Does (.reserveWrite c v) s fun t => t.rsv c = v.toNat % 2 ^ 15 ∧ t.raised = s.raised ∧
      SameRegs [R.TSK_CLS c] s t ∧ Only tskParts s t) ∧
    (16384 < s.rsvSum - s.rsv c + v.toNat % 2 ^ 15 → Does (.reserveWrite c v) s fun t => t.flag R.TSK_STAT_rsv_bad = true ∧
      Raises s t [(Ev.TSK_RSV_BAD, 0xFFFF, [(4, (c : Nat)), (32, (v.toNat % 2 ^ 15 : Nat))])] ∧ SameRegs [R.TSK_STAT] s t ∧ Only tskParts s t)) ∧
  (∀ (s : Dev),
    Does .histClear s (fun t => (∀ p i, p < 8 → i < 32 → t.rd64 (R.TSK_HIST p i) = 0) ∧
      (∀ a, (a < R.TSK_HIST 0 0 ∨ R.TSK_HIST 8 0 ≤ a) → t.rd a = s.rd a) ∧ Only regsOnly s t) ∧
    Does .tskPeakClear s (fun t =>
      (∀ c, c < 8 → t.get (R.TSK_CLS_HELD_peak c) = s.get (R.TSK_CLS_HELD_held c) ∧ t.get (R.TSK_RDY_peak c) = s.get (R.TSK_RDY_depth c)) ∧
      (∀ g, g < 192 → t.get (R.TSK_LOAD_peak g) = s.get (R.TSK_LOAD_load g)) ∧
      SameRegs ((List.range 8).map R.TSK_CLS_HELD ++ (List.range 8).map R.TSK_RDY ++ (List.range 192).map R.TSK_LOAD) s t ∧ Only regsOnly s t) ∧
    Does .loadUpdate s (fun t => (∀ g, g < 192 →
        t.get (R.TSK_LOAD_load g) = min 65535 (((s.coreSync g).core g).frame * 65536 / (s.coreClock g * 1600)) ∧ (t.core g).frame = 0 ∧
        t.get (R.TSK_LOAD_peak g) = max (t.get (R.TSK_LOAD_load g)) (s.get (R.TSK_LOAD_peak g)) ∧ (∀ r, t.x g r = s.x g r) ∧ t.pc g = s.pc g) ∧
      t.tsk = s.tsk ∧ SameMem s t ∧ SameFlash s t))

/-- REPLACE_START, PREPARATION_COMPLETE, PLC_SWITCH, OLD_UNITS_RELEASE (R369–R372, R374).
Completes: replaceStart, preparationComplete, plcSwitch, oldUnitsRelease. -/
def Obligations.ReplacementFlow : Prop :=
  (∀ (s : Dev), (s.plc.triggers = [] ∨ s.get R.PLC_STAT_state = 0) → Does .replaceStart s fun t => t.plc = s.plc ∧ SameRegs [] s t ∧ Only plcParts s t) ∧
  (∀ (s : Dev) (kind : Nat) (u : PlcUnit), s.nextTrigger = some (kind, u) → s.get R.PLC_STAT_state ≠ 0 →
    ((kind = 1 ∨ kind = 4) → s.flag R.PLC_CTL_auto_en = false → Does .replaceStart s fun t => t.plc = { s.plc with triggers := s.plc.triggers.erase (kind, u) } ∧
      SameRegs [] s t ∧ Only plcParts s t) ∧
    (kind = 2 ∨ kind = 3 ∨ (kind = 4 ∧ s.flag R.PLC_CTL_auto_en = true) ∨
        (kind = 1 ∧ s.flag R.PLC_CTL_auto_en = true ∧ s.retired u = false ∧ s.plc.testing.contains u = false) → s.plc.current = none →
      ∀ k, s.nextSpare u [] = some k → Does .replaceStart s fun t =>
        t.plc.current = some { kind := kind, old := [u], new := [some k], at_ := s.time.clk } ∧ t.plc.triggers = s.plc.triggers.erase (kind, u) ∧
          t.get R.PLC_STAT_state = 3 ∧ t.get R.PLC_STAT_kind = kind ∧ t.plc.faults = s.plc.faults ++ (if kind = 1 then [(u, s.time.clk)] else []) ∧
          Raises s t [(Ev.PLC_REPLACE_START, 0xFFFF, (4, (kind : Int)) :: u.items)] ∧ SameRegs [R.PLC_STAT] s t ∧ SameMem s t ∧ SameFlash s t) ∧
    (∀ r, s.plc.current = some r → (kind = 2 ∨ kind = 3 ∨ (kind = 1 ∧ r.switched = true ∧ s.flag R.PLC_CTL_auto_en = true ∧ s.retired u = false ∧
        s.plc.testing.contains u = false)) → Does .replaceStart s fun t => t.plc = s.plc ∧ SameRegs [] s t ∧ Only plcParts s t)) ∧
  (∀ (s : Dev), (s.plc.current = none ∨ ∃ r, s.plc.current = some r ∧ r.prepared = true) → Does .preparationComplete s fun t => t.plc = s.plc ∧
      SameRegs [] s t ∧ Only plcParts s t) ∧
  (∀ (s : Dev) (r : Replacement), s.plc.current = some r → r.prepared = false → (∀ u ∈ r.old, u.kind = 3) →
    Does .preparationComplete s fun t => t.plc.current = some { r with prepared := true, frame := s.frameNo + if r.kind = 2 ∨ r.kind = 3 then 2 else 1 } ∧
      t.rd R.PLC_SW_FRAME = (s.frameNo + if r.kind = 2 ∨ r.kind = 3 then 2 else 1) % 2 ^ 32 ∧
      t.get R.PLC_STAT_state = (if r.kind = 2 ∨ r.kind = 3 then 4 else 5) ∧ SameRegs [R.PLC_SW_FRAME, R.PLC_STAT] s t ∧ Only plcParts s t) ∧
  (∀ (s : Dev) (r : Replacement) (p k : Nat), s.plc.current = some r → r.prepared = false → r.kind = 2 → r.old = [⟨0, p⟩] → r.new = [some k] → k < 24 →
    Does .preparationComplete s fun t => t.plc.current = some { r with prepared := true, frame := s.frameNo + 2 } ∧
      t.rd R.PLC_SW_FRAME = (s.frameNo + 2) % 2 ^ 32 ∧ t.get R.PLC_STAT_state = 4 ∧ tget 0x10000 t.plc.podFw k = tget 0x10000 s.plc.podFw p) ∧
  (∀ (s : Dev), (s.plc.current = none ∨ ∃ r, s.plc.current = some r ∧ (r.prepared = false ∨ r.switched = true ∨ s.frameNo < r.frame)) →
    ∀ perr, Does (.plcSwitch perr) s fun t => t.plc = s.plc ∧ SameRegs [] s t ∧ Only plcParts s t) ∧
  (∀ (s : Dev) (r : Replacement), s.plc.current = some r → r.prepared = true → r.switched = false → r.frame ≤ s.frameNo →
    (r.kind = 1 → r.new.length = r.old.length → (∀ u ∈ r.old, u.kind = 3 ∧ u.index < 50) → Does (.plcSwitch none) s fun t => t.plc.current = none ∧
      t.plc.testing = s.plc.testing ++ r.old ∧ t.get R.PLC_STAT_state = 1 ∧ t.get R.PLC_STAT_kind = 0 ∧ t.rd64 R.PLC_REPL = (s.rd64 R.PLC_REPL + 1) % 2 ^ 64 ∧
      (∀ q i, q < 32 → i < 32 → bit (t.rd (R.COD_QCFG q)) i = (bit (s.rd (R.COD_QCFG q)) i && !r.old.contains ⟨3, i⟩)) ∧
      (∀ q i, q < 32 → i < 18 → bit (t.rd (R.COD_QCFG2 q)) i = (bit (s.rd (R.COD_QCFG2 q)) i && !r.old.contains ⟨3, 32 + i⟩)) ∧
      Raises s t [(Ev.PLC_SWITCH, 0xFFFF, [(4, 1), (32, (r.frame : Int))])] ∧ SameMem s t ∧ SameFlash s t ∧
      SameRegs ([R.PLC_STAT, R.PLC_REPL, R.PLC_REPL_HI, R.PLC_SPARE] ++ (List.range 32).map R.COD_QCFG ++ (List.range 32).map R.COD_QCFG2) s t) ∧
    (∀ p k, r.kind = 2 → r.old = [⟨0, p⟩] → r.new = [some k] → p < 24 → k < 24 → p ≠ k → (∀ c ∈ s.plc.cells, c.cell < 256) →
      Does (.plcSwitch none) s fun t => t.plc.current = some { r with switched := true } ∧ t.get R.PLC_STAT_state = 5 ∧
        (∀ d m, d < 65536 → m < 24 → (t.td d 4 0 24).testBit m =
          if s.tdEn d then (if m = p then false else if m = k then (s.td d 4 0 24).testBit k || (s.td d 4 0 24).testBit p else (s.td d 4 0 24).testBit m)
          else (s.td d 4 0 24).testBit m) ∧
        (∀ c ∈ s.plc.cells, t.get (R.PLC_CELL_pod c.cell) = if s.get (R.PLC_CELL_pod c.cell) = p then k else s.get (R.PLC_CELL_pod c.cell)) ∧
        (∀ j c, s.age.clk.find? (·.1 == p) = some (j, c) → t.get (R.POD_PSTAT_clk p) = c % 4) ∧
        (∀ a, (∀ d, d < 65536 → a < s.tdAddr d 4 ∨ s.tdAddr d 4 + 4 ≤ a) → t.byte a = s.byte a) ∧
        Raises s t [(Ev.PLC_SWITCH, 0xFFFF, [(4, 2), (32, (r.frame : Int))])] ∧ SameFlash s t)) ∧
  (∀ (s : Dev) (r : Replacement), s.plc.current = some r →
    (r.switched = true → r.frame + 1 ≤ s.frameNo → Does .oldUnitsRelease s fun t => t.plc.current = none ∧ t.get R.PLC_STAT_state = 1 ∧ t.get R.PLC_STAT_kind = 0 ∧
      t.rd64 R.PLC_REPL = (s.rd64 R.PLC_REPL + 1) % 2 ^ 64 ∧ SameRegs [R.PLC_STAT, R.PLC_REPL, R.PLC_REPL_HI, R.PLC_SPARE] s t ∧ Only plcParts s t) ∧
    ((r.switched = false ∨ s.frameNo < r.frame + 1) → Does .oldUnitsRelease s fun t => t.plc = s.plc ∧ SameRegs [] s t ∧ Only plcParts s t))

/-- UNIT_SELF_TEST and OUTAGE_FRAME (R366, R377).
Completes: unitSelfTest, outageFrame. -/
def Obligations.SelfTestAndOutage : Prop :=
  (∀ (s : Dev) (kind : Fin 4) (index : Fin 64) (pass : Bool) (u : PlcUnit), u = ⟨kind, index⟩ →
    (s.plc.testing.contains u = false → ∀ perr, Does (.unitSelfTest kind index pass perr) s fun t => t.plc = s.plc ∧ SameRegs [] s t ∧ Only plcParts s t) ∧
    (s.plc.testing.contains u = true → kind ≠ 2 ∨ s.harnessOf index = none →
      (pass = true → (kind = 0 → s.flag (R.AGE_GRP_INFO_exh index) = false) → s.faultsAgain u = false →
        (kind ≠ 0 ∨ (index : Nat) < 24) → (kind ≠ 1 ∨ (index : Nat) < 17) → Does (.unitSelfTest kind index pass none) s fun t =>
          t.plc.testing = s.plc.testing.erase u ∧ Logs s t (Ev.PLC_SPARE_BACK, 0xFFFF, u.items) ∧
          (kind = 2 → bit (t.rd (if (index : Nat) < 32 then R.SCA_TFAULT_LO else R.SCA_TFAULT_HI)) (index % 32) = false) ∧
          (kind = 3 → bit (t.rd (if (index : Nat) < 32 then R.COD_UFAULT_LO else R.COD_UFAULT_HI)) (index % 32) = false) ∧
          t.retired u = s.retired u ∧ SameFlash s t) ∧
      ((pass = false ∨ s.faultsAgain u = true) → (kind ≠ 0 ∨ (index : Nat) < 24) → (kind ≠ 1 ∨ (index : Nat) < 17) → Does (.unitSelfTest kind index pass none) s fun t =>
          t.plc.testing = s.plc.testing.erase u ∧ t.retired u = true ∧ t.flag R.PLC_STAT_retired = true ∧ Logs s t (Ev.PLC_RETIRED, 0xFFFF, u.items) ∧
          (kind = 0 → ∀ g, 8 * (index : Nat) ≤ g → g < 8 * (index : Nat) + 8 → t.coreState g = 0) ∧ SameFlash s t))) ∧
  (∀ (s : Dev), (s.plc.cells.map (·.cell)).Nodup → (∀ c ∈ s.plc.cells, c.cell < 256) → Does .outageFrame s fun t =>
    (∀ c ∈ s.plc.cells, (s.cellOut c = true → CountsOne (R.PLC_CELL_OUT c.cell) s t) ∧ (s.cellOut c = false → t.rd (R.PLC_CELL_OUT c.cell) = s.rd (R.PLC_CELL_OUT c.cell))) ∧
      t.plc = { s.plc with erased := [] } ∧
      SameRegs (R.PLC_STAT :: (List.range 256).map R.PLC_CELL_OUT ++ (List.range 8).map R.PLC_CELL_OVF) s t ∧ Only plcParts s t)

/-- RESET_ASSERT, SYS_RESET, SYS_PLL_UNLOCK, MGT_LMEM_PERR, MGT_WDOG_EXP, DELAYED_RESTART, LOCKSTEP_MISMATCH, WATCHDOG_FEED, RESTART_COUNT_CLEAR.
That memory reads zero after reset is the model's choice (log 3).
Completes: sysReset, lockstepMismatch, watchdogFeed, mgtWdogExp, mgtLmemPerr, delayedRestart, sysPllUnlock, restartCountClear, resetAssert. -/
def Obligations.ResetsAndRestarts : Prop :=
  (∀ (s : Dev) (power : Bool), Does (.resetAssert power) s fun t => t.boot.cause = (if power then 0 else 1) ∧ t.phase = 0 ∧ SameFlash s t ∧ (∀ a, t.byte a = 0) ∧
    (∀ a, a ∉ sealRegs → t.rd a = (regReset a).toNat) ∧ (∀ a ∈ sealRegs, t.rd a = s.rd a)) ∧
  (∀ (s : Dev) (straps : BitVec 4),
    ((s.phase ≠ 0 ∨ s.boot.dead = true ∨ (2 ≤ s.boot.cause ∧ s.elapsed s.boot.phaseAt 10 = false)) → Does (.sysReset straps) s fun t => t.boot = s.boot ∧
      SameRegs [] s t ∧ Only bootParts s t) ∧
    (s.phase = 0 → s.boot.dead = false → s.boot.cause < 6 → (s.boot.cause < 2 ∨ s.elapsed s.boot.phaseAt 10 = true) → Does (.sysReset straps) s fun t =>
      t.rd R.SYS_RST_CAUSE = 2 ^ s.boot.cause ∧ t.rd R.SYS_STRAP = straps.toNat ∧ t.boot.releasedAt = s.time.clk ∧ t.mgt.fedAt = s.time.clk ∧
        t.sns.run = true ∧ t.sns.fixed = true ∧ Logs s t (Ev.SYS_RESET, 0xFFFF, [(6, ((2 ^ s.boot.cause : Nat) : Int))]) ∧
        (s.boot.loop = false → t.phase = 1) ∧ (s.boot.loop = true → Held 8 s t))) ∧
  (∀ (s : Dev),
    Does .sysPllUnlock s (fun t => (∃ u, CountsOne R.SYS_CLK_LOL s u ∧ u.boot = s.boot ∧ u.time = s.time ∧ SameRegs [R.SYS_CLK_LOL, R.SYS_CLK_STAT] s u ∧
      SameFlash s u ∧ Restarted 3 u t) ∧ t.flag R.SYS_CLK_STAT_lol = true ∧ Logs s t (Ev.SYS_PLL_UNLOCK, 0xFFFF, [])) ∧
    (∀ addr, (s.phase = 0 ∨ s.boot.dead = true → Does (.mgtLmemPerr addr) s fun t => t.boot = s.boot ∧ SameRegs [] s t ∧ Only bootParts s t) ∧
      (s.phase ≠ 0 → s.boot.dead = false → Does (.mgtLmemPerr addr) s fun t => Restarted 3 s t ∧ Logs s t (Ev.MGT_LMEM_PERR, 0xFFFF, [(40, ((addr : Nat) : Int))]))) ∧
    (s.boot.dead = false → (∀ m, s.mgt.lockstep = some m → s.elapsed m 1000 = true) → (s.mgt.lockstep = none → s.firmware = true ∧ s.elapsed s.mgt.fedAt 1000 = true) →
      Does .mgtWdogExp s fun t => Restarted 3 s t) ∧
    ((s.boot.dead = true ∨ (∃ m, s.mgt.lockstep = some m ∧ s.elapsed m 1000 = false) ∨
        (s.mgt.lockstep = none ∧ (s.firmware = false ∨ s.elapsed s.mgt.fedAt 1000 = false))) →
      Does .mgtWdogExp s fun t => t.boot = s.boot ∧ SameRegs [] s t ∧ Only bootParts s t) ∧
    (∀ m, s.mgt.restartAt = some m → s.elapsed m 100 = true → Does .delayedRestart s fun t => Restarted 2 s t) ∧
    ((s.mgt.restartAt = none ∨ ∃ m, s.mgt.restartAt = some m ∧ s.elapsed m 100 = false) → Does .delayedRestart s fun t => t.boot = s.boot ∧ SameRegs [] s t ∧
      Only bootParts s t) ∧
    ((s.phase = 0 ∨ s.boot.dead = true ∨ s.mgt.lockstep.isSome = true) → Does .lockstepMismatch s fun t => t.mgt = s.mgt ∧ SameRegs [] s t ∧ Only bootParts s t) ∧
    (s.phase ≠ 0 → s.boot.dead = false → s.mgt.lockstep = none → Does .lockstepMismatch s fun t => t.mgt.lockstep = some s.time.clk ∧ t.coreState 192 = 3 ∧
      t.boot.dead = !s.flag R.SYS_BOOT_CTL_fw_ready ∧ SameRegs [estat 192] s t ∧ SameMem s t ∧ SameFlash s t) ∧
    (∀ v, Does (.watchdogFeed v) s fun t => t.mgt = { s.mgt with fedAt := s.time.clk } ∧ SameRegs [] s t ∧ Only mgtParts s t) ∧
    (∀ m, s.boot.runAt = some m → s.phase = 11 → s.elapsed m 3600000 = true → Does .restartCountClear s fun t => t.get R.SYS_BOOT_ATT_n_auto = 0 ∧
      t.flag R.SYS_BOOT_ATT_a_failed = s.flag R.SYS_BOOT_ATT_a_failed ∧ t.flag R.SYS_BOOT_ATT_b_failed = s.flag R.SYS_BOOT_ATT_b_failed ∧
      SameRegs [R.SYS_BOOT_ATT] s t ∧ Only bootParts s t) ∧
    ((s.boot.runAt = none ∨ s.phase ≠ 11 ∨ ∃ m, s.boot.runAt = some m ∧ s.elapsed m 3600000 = false) → Does .restartCountClear s fun t => t.boot = s.boot ∧
      SameRegs [] s t ∧ Only bootParts s t))

/-- SYS_SYSREF_BAD, LNK_REF_BAD, MGT_ENV_CLEAR (R85, R428, R429).
Completes: lnkRefBad, mgtEnvClear, sysSysrefBad. -/
def Obligations.EnvironmentStop : Prop :=
  ∀ (s : Dev),
    (∀ dev, s.flag R.MGT_STAT_env_stop = false → Does (.sysSysrefBad dev) s fun t => EnvStopped 5 t ∧ t.flag R.SYS_CLK_STAT_sysref_ok = false ∧
      Logs s t (Ev.SYS_SYSREF_BAD, 0xFFFF, [(32, dev.toInt)]) ∧ Logs s t (Ev.MGT_ENV_STOP, 0xFFFF, [(4, 5), (32, dev.toInt)])) ∧
    (∀ dev, s.flag R.MGT_STAT_env_stop = true → Does (.sysSysrefBad dev) s fun t => t.flag R.SYS_CLK_STAT_sysref_ok = false ∧ t.pwr = { s.pwr with sysBad := some s.time.clk } ∧
      t.mgt = { s.mgt with envOk := if s.guardedOut then none else some s.time.clk } ∧
      Raises s t [(Ev.SYS_SYSREF_BAD, 0xFFFF, [(32, dev.toInt)])] ∧ SameRegs [R.SYS_CLK_STAT] s t ∧ Only (fun s t => { t with pwr := s.pwr, mgt := s.mgt, raised := s.raised }) s t) ∧
    (∀ (die r : Fin 4), s.domOn (24 + 4 * (die : Nat) + r) = false → Does (.lnkRefBad die r) s fun t => SameRegs [] s t ∧ Only regsOnly s t) ∧
    (∀ (die r : Fin 4), s.domOn (24 + 4 * (die : Nat) + r) = true →
      (s.flag R.MGT_STAT_env_stop = false → Does (.lnkRefBad die r) s fun t => EnvStopped 6 t ∧
        Logs s t (Ev.LNK_REF_BAD, 0xFFFF, [(2, ((die : Nat) : Int)), (2, ((r : Nat) : Int))]) ∧ ∃ v, Logs s t (Ev.MGT_ENV_STOP, 0xFFFF, [(4, 6), (32, v)])) ∧
      (s.flag R.MGT_STAT_env_stop = true → Does (.lnkRefBad die r) s fun t => SameRegs [] s t ∧
        Raises s t [(Ev.LNK_REF_BAD, 0xFFFF, [(2, ((die : Nat) : Int)), (2, ((r : Nat) : Int))])] ∧ SameMem s t ∧ SameFlash s t)) ∧
    ((s.flag R.MGT_STAT_env_stop = false ∨ s.envSeconds ≠ 60) → Does .mgtEnvClear s fun t => t.boot = s.boot ∧ SameRegs [] s t ∧ Only bootParts s t) ∧
    (s.flag R.MGT_STAT_env_stop = true → s.envSeconds = 60 → Does .mgtEnvClear s fun t => t.boot.cause = 4 ∧ t.phase = 0 ∧ CountsOne R.SYS_RESTARTS s t ∧
      (∀ a, t.byte a = 0) ∧ t.flag R.MGT_STAT_env_stop = false ∧ Logs s t (Ev.MGT_ENV_CLEAR, 0xFFFF, [(32, (((s.time.clk - s.mgt.envAt) / hz : Nat) : Int))]) ∧
      (s.firmware = false → ∀ i k, s.trialRecord = some (i, k) → t.jf i 20 4 = 0))

/-- ROM_PHASE, FLASH_PHASE, SELECT_PHASE, FW_READY, LOAD_TIMEOUT (R385, R390–R392, R400, R402, R403).
Completes: romPhase, flashPhase, selectPhase, fwReady, loadTimeout. -/
def Obligations.EarlyPhases : Prop :=
  (∀ (s : Dev),
    (∀ m c0 c1, s.inPhase 1 = false → Does (.romPhase m c0 c1) s fun t => t.boot = s.boot ∧ SameRegs [] s t ∧ Only bootParts s t) ∧
    (∀ a b o, s.inPhase 2 = false → Does (.flashPhase a b o) s fun t => t.boot = s.boot ∧ SameRegs [] s t ∧ Only bootParts s t) ∧
    (s.inPhase 3 = false → Does .selectPhase s fun t => t.boot = s.boot ∧ SameRegs [] s t ∧ Only bootParts s t) ∧
    (s.inPhase 4 = false ∨ s.elapsed s.boot.phaseAt 1000 = false → Does .loadTimeout s fun t => t.boot = s.boot ∧ SameRegs [] s t ∧ Only bootParts s t)) ∧
  (∀ (s : Dev) (c0 c1 : List Byte) (l : List Nat), s.inPhase 1 = true →
    Does (.romPhase true c0 c1) s (fun t => t.boot.dead = true ∧ t.coreState 192 = 3 ∧ t.phase = 1 ∧ SameRegs [estat 192] s t) ∧
    (otpGood (c0.map (·.toNat)) = false → otpGood (c1.map (·.toNat)) = false → Does (.romPhase false c0 c1) s fun t => Held 3 s t ∧ t.get R.CAL_STAT_ok = 0 ∧
      Logs s t (Ev.CAL_FACTORY_BAD, 0xFFFF, [])) ∧
    ((otpGood (c0.map (·.toNat)) = true ∧ l = c0.map (·.toNat)) ∨ (otpGood (c0.map (·.toNat)) = false ∧ otpGood (c1.map (·.toNat)) = true ∧ l = c1.map (·.toNat)) →
      Does (.romPhase false c0 c1) s fun t => (∀ w, w < 1024 → t.rd (R.CAL_OTP w) = leNat ((l.drop (4 * w)).take 4) % 2 ^ 32) ∧
        t.get R.CAL_STAT_ok = b2n (otpGood (c0.map (·.toNat))) + 2 * b2n (otpGood (c1.map (·.toNat))) ∧ t.flag R.CAL_STAT_copy = !otpGood (c0.map (·.toNat)) ∧
        (badRevs l = [] → t.phase = 2 ∧ t.rd R.SYS_ID = 2 + lget 0 l 0 % 2 * 2 ^ 16 ∧ ∀ g, g < 192 → t.rd (R.CSR_ENGID g) = g) ∧ (badRevs l ≠ [] → Held 3 s t))) ∧
  (∀ (s : Dev) (sfdp : Bool) (mb : BitVec 16) (octal : Bool), s.inPhase 2 = true →
    ((sfdp = false ∨ mb.toNat < 128) → Does (.flashPhase sfdp mb octal) s fun t => Held 1 s t) ∧
    (sfdp = true → 128 ≤ mb.toNat → Does (.flashPhase sfdp mb octal) s fun t => t.phase = 3 ∧ t.flag R.SYS_BOOT_STAT_slow = (!octal || s.flag R.SYS_BOOT_STAT_slow) ∧
      (octal = false → Logs s t (Ev.SYS_FLASH_SLOW, 0xFFFF, [])) ∧ SameRegs [R.SYS_BOOT_STAT, R.SYS_PHASE_MS 2] s t ∧ Only bootParts s t)) ∧
  (∀ (s : Dev), s.inPhase 3 = true →
    (s.get R.SYS_STRAP_bank = 3 → Does .selectPhase s fun t => Held 9 s t) ∧
    (s.get R.SYS_STRAP_bank ≠ 3 →
      (∀ l k trial r, s.candidates = l ++ (k, trial) :: r → (∀ c ∈ l, s.imageBad c.1 ≠ none) → s.imageBad k = none → Does .selectPhase s fun t => t.phase = 4 ∧
        t.get R.SYS_BOOT_STAT_bank = k ∧ t.flag R.SYS_BOOT_STAT_trial = trial ∧ t.rd64 R.SYS_IMG_SEQ_LO = s.imgSeq k ∧
        Logs s t (Ev.SYS_IMG_SELECT, 0xFFFF, [(1, (k : Int)), (32, (s.imgSeq k : Int)), (1, ((b2n trial : Nat) : Int))])) ∧
      ((∀ c ∈ s.candidates, s.imageBad c.1 ≠ none) → Does .selectPhase s fun t =>
        Held (if (s.allowedBanks.any fun k => s.imgCommitted k && s.bankFailed k && (s.imageBad k).isNone) then 10 else 2) s t))) ∧
  (∀ (s : Dev),
    Does .fwReady s (fun t => t.flag R.SYS_BOOT_CTL_fw_ready = true ∧ t.phase = (if s.phase = 4 then 5 else s.phase) ∧
      SameRegs [R.SYS_BOOT_CTL, R.SYS_BOOT_STAT, R.SYS_PHASE_MS 4] s t ∧ Only bootParts s t) ∧
    (s.inPhase 4 = true → s.elapsed s.boot.phaseAt 1000 = true → Does .loadTimeout s fun t => StartFails 4 s t))

/-- APPLY_PHASE, SYS_TIME_WAIT, LANES_PHASE, SYS_LANES_PARTIAL, PLACE_PHASE, ENGINES_PHASE, START_PHASE (R36, R361, R383, R384, R396, R398).
Completes: applyPhase, sysTimeWait, lanesPhase, sysLanesPartial, placePhase, enginesPhase, startPhase. -/
def Obligations.LatePhases : Prop :=
  (∀ (s : Dev) (pmb : List (Fin 8 × BitVec 8)) (rd : List MonReading) (codes : List (BitVec 14)),
    ((s.inPhase 5 = false ∨ rd.length ≠ 384 ∨ codes.length ≠ 16) → Does (.applyPhase pmb rd codes) s fun t => t.boot = s.boot ∧ SameRegs [] s t ∧ Only bootParts s t) ∧
    (s.inPhase 5 = true → rd.length = 384 → codes.length = 16 →
      ((∃ e ∈ pmb, s.applyPower.regulators.contains (e.1 : Nat) = true) → Does (.applyPhase pmb rd codes) s fun t => StartFails 5 s t) ∧
      ((∀ e ∈ pmb, s.applyPower.regulators.contains (e.1 : Nat) = false) →
        (((s.applyPower.ageApply true rd).applyVdd).vddReached codes = false → Does (.applyPhase pmb rd codes) s fun t => StartFails 5 s t) ∧
        (((s.applyPower.ageApply true rd).applyVdd).vddReached codes = true → s.sectionOf (s.get R.SYS_BOOT_STAT_bank) 0x40 = none →
          Does (.applyPhase pmb rd codes) s fun t => t.phase = (if t.airState = 0 then 6 else 7) ∧ (∀ d, d < 48 → t.domOn d = bit (s.planWord 4 (d / 32)) (d % 32)) ∧
            (∀ e j, e < 64 → j < 2 → t.rd (R.SNS_SEQ e j) = s.planWord 0x20 (32 + 2 * e + j)) ∧ t.sns.run = true ∧ t.sns.fixed = false ∧ SameFlash s t)))) ∧
  (∀ (s : Dev),
    (s.inPhase 6 = true → 0 < s.planWord 3 7 → s.elapsed s.boot.phaseAt ((s.boot.waits + 1) * s.planWord 3 7 * 1000) = true → Does .sysTimeWait s fun t =>
      t.boot.waits = s.boot.waits + 1 ∧ t.phase = 6 ∧ Raises s t [(Ev.SYS_TIME_WAIT, 0xFFFF, [(32, (((s.boot.waits + 1) * s.planWord 3 7 : Nat) : Int))])] ∧
        SameRegs [] s t ∧ Only bootParts s t) ∧
    ((s.inPhase 6 = false ∨ s.elapsed s.boot.phaseAt ((s.boot.waits + 1) * s.planWord 3 7 * 1000) = false) → Does .sysTimeWait s fun t => t.boot = s.boot ∧
      SameRegs [] s t ∧ Only bootParts s t) ∧
    (s.inPhase 7 = false → Does .lanesPhase s fun t => t.boot = s.boot ∧ SameRegs [] s t ∧ Only bootParts s t) ∧
    (s.inPhase 7 = true → s.boot.lanesSet = true → Does .lanesPhase s fun t => t.boot.lanesSet = true ∧ t.phase = (if s.lanesDown = 0 then 8 else 7) ∧
      SameRegs [R.SYS_BOOT_STAT, R.SYS_PHASE_MS 7] s t ∧ Only bootParts s t) ∧
    (s.inPhase 7 = true → s.boot.lanesSet = false → Does .lanesPhase s fun t => t.boot.lanesSet = true ∧ t.phase = (if t.lanesDown = 0 then 8 else 7)) ∧
    ((s.inPhase 7 = true ∧ s.boot.lanesSet = true ∧ s.elapsed s.boot.phaseAt (s.planWord 2 1) = true ∧ s.lanesDown ≠ 0) → Does .sysLanesPartial s fun t => t.phase = 8 ∧
      Logs s t (Ev.SYS_LANES_PARTIAL, 0xFFFF, [(32, ((s.lanesDown : Nat) : Int))]) ∧ SameRegs [R.SYS_BOOT_STAT, R.SYS_PHASE_MS 7] s t ∧ Only bootParts s t) ∧
    (¬(s.inPhase 7 = true ∧ s.boot.lanesSet = true ∧ s.elapsed s.boot.phaseAt (s.planWord 2 1) = true ∧ s.lanesDown ≠ 0) → Does .sysLanesPartial s fun t =>
      t.boot = s.boot ∧ SameRegs [] s t ∧ Only bootParts s t)) ∧
  (∀ (s : Dev) (layout : PlcLayout),
    (∀ perr, s.inPhase 8 = false → Does (.placePhase layout perr) s fun t => t.boot = s.boot ∧ SameRegs [] s t ∧ Only bootParts s t) ∧
    (s.inPhase 8 = true →
      (∀ reason index, s.admitFails (s.writePlacement layout) layout = some (reason, index) → Does (.placePhase layout none) s fun t => StartFails 6 s t ∧
        Logs s t (Ev.PLC_REFUSED, 0xFFFF, [(8, (reason : Int)), (12, (index : Int))])) ∧
      (s.admitFails (s.writePlacement layout) layout = none → Does (.placePhase layout none) s fun t => t.phase = 9 ∧ t.flag R.PLC_ADMIT_done = true ∧
        t.get R.PLC_ADMIT_reason = 0 ∧ t.get R.PLC_STAT_state = 1 ∧ t.plc.cells = s.planCells ∧ t.plc.sets = s.planSets ∧
        (∀ e ∈ layout.streams, t.flag (R.FEX_XB_LO_valid (e.1 : Nat)) = true) ∧
        (∀ e ∈ layout.streams, (∀ x ∈ layout.streams, x.1 = e.1 → x = e) → t.get (R.FEX_XB_LO_cl (e.1 : Nat)) = e.2.1 ∧ t.get (R.FEX_XB_LO_slot (e.1 : Nat)) = e.2.2) ∧
        SameMem s t ∧ SameFlash s t))) ∧
  (∀ (s : Dev) (bad : List (Fin 24 × Fin 3)),
    (s.inPhase 9 = false → Does (.enginesPhase bad) s fun t => t.boot = s.boot ∧ SameRegs [] s t ∧ Only bootParts s t) ∧
    (s.inPhase 9 = true → s.mgt.roll = none →
      ((∃ e ∈ bad, (s.podBody e.1).isSome = true ∧ s.domOn e.1 = true ∧ e.2 = 2) → Does (.enginesPhase bad) s fun t => StartFails 7 s t) ∧
      ((∀ e ∈ bad, (s.podBody e.1).isSome = true → s.domOn e.1 = true → e.2 ≠ 2) → Does (.enginesPhase bad) s fun t => t.phase = 10 ∧ t.flag R.SYS_BOOT_STAT_done = true ∧
        (∀ p g, p < 24 → (s.podBody p).isSome = true → s.domOn p = true → 8 * p ≤ g → g < 8 * p + 8 → t.coreState g = 1 ∧ t.lvl g = 2 ∧
          t.pc g = t.get (R.POD_EBOOT_pc g) / 4 * 4) ∧
        Logs s t (Ev.SYS_BOOT_DONE, 0xFFFF, [(32, ((s.msSince s.boot.releasedAt : Nat) : Int))]) ∧ SameFlash s t))) ∧
  (∀ (s : Dev),
    (((s.inPhase 10 = false ∧ s.inPhase 11 = false) ∨ s.airState ≠ 1 ∨ s.time.start.isSome = true) → Does .startPhase s fun t => t.boot = s.boot ∧ SameRegs [] s t ∧
      Only bootParts s t) ∧
    ((s.inPhase 10 = true ∨ s.inPhase 11 = true) → s.airState = 1 → s.time.start = none → s.startBoundary < 2 ^ 64 → Does .startPhase s fun t =>
      t.time.start = some (s.startBoundary, s.startBoundary) ∧ t.flag R.AIR_CTL_arm = true ∧ t.raised = s.raised ∧
        SameRegs [R.AIR_CTL, R.AIR_START_LO, R.AIR_START_HI] s t ∧ SameMem s t ∧ SameFlash s t))

/-- PRESS, MGT_PRES_STUCK, KEY_ASSERT, KEY_RELEASE, CINCH_EXPIRE, MGT_SEAL_OPEN, SEAL_LOOP_CLOSE (R408–R411).
Completes: press, mgtPresStuck, keyAssert, keyRelease, cinchExpire, mgtSealOpen, sealLoopClose. -/
def Obligations.PresenceAndSeal : Prop :=
  (∀ (s : Dev), s.pinReset = true →
    Does .press s (fun t => t.mgt = s.mgt ∧ SameRegs [] s t ∧ Only mgtParts s t) ∧
    Does .mgtPresStuck s (fun t => t.mgt = s.mgt ∧ SameRegs [] s t ∧ Only mgtParts s t) ∧
    Does .keyAssert s (fun t => t.mgt = { s.mgt with key := true } ∧ SameRegs [] s t ∧ Only mgtParts s t)) ∧
  (∀ (s : Dev), s.pinReset = false →
    Does .press s (fun t => CountsOne R.MGT_PRESS s t ∧ t.flag R.MGT_CINCH_open_ = true ∧ t.get R.MGT_CINCH_remain = 1800 ∧ t.cinch = true ∧
      t.mgt.cinchEnd = s.time.clk + 1800 * hz ∧ t.mgt.key = s.mgt.key ∧
      (s.flag R.MGT_CINCH_open_ = true → t.rd R.MGT_SESS = s.rd R.MGT_SESS ∧ t.mgt.openedAt = s.mgt.openedAt) ∧
      (s.flag R.MGT_CINCH_open_ = false → CountsOne R.MGT_SESS s t ∧ t.mgt.openedAt = s.time.clk ∧ Logs s t (Ev.MGT_CINCH_OPEN, 0xFFFF, [(4, 0)])) ∧
      SameRegs (R.MGT_CINCH :: R.MGT_SESS :: mgtCountRegs R.MGT_PRESS) s t ∧ Only mgtParts s t) ∧
    Does .keyAssert s (fun t => t.mgt.key = true ∧ t.flag R.MGT_CINCH_key = true ∧ t.flag R.MGT_CINCH_open_ = true ∧ t.get R.MGT_CINCH_remain = 1800 ∧
      t.cinch = true ∧
      (s.flag R.MGT_CINCH_open_ = true → t.rd R.MGT_SESS = s.rd R.MGT_SESS ∧ t.raised = s.raised) ∧
      (s.flag R.MGT_CINCH_open_ = false → CountsOne R.MGT_SESS s t ∧ t.mgt.openedAt = s.time.clk ∧ Logs s t (Ev.MGT_CINCH_OPEN, 0xFFFF, [(4, 1)])) ∧
      SameRegs (R.MGT_CINCH :: mgtCountRegs R.MGT_SESS) s t ∧ Only mgtParts s t) ∧
    Does .mgtPresStuck s (fun t => t.flag R.MGT_CINCH_pres_stuck = true ∧ t.flag R.MGT_CINCH_open_ = s.flag R.MGT_CINCH_open_ ∧ t.mgt = s.mgt ∧
      Raises s t [(Ev.MGT_PRES_STUCK, 0xFFFF, [])] ∧ SameRegs [R.MGT_CINCH] s t ∧ Only mgtParts s t)) ∧
  (∀ (s : Dev),
    (s.mgt.key = false → Does .keyRelease s fun t => t.mgt = s.mgt ∧ SameRegs [] s t ∧ Only mgtParts s t) ∧
    (s.mgt.key = true → Does .keyRelease s fun t => t.mgt.key = false ∧ t.flag R.MGT_CINCH_key = false ∧ t.flag R.MGT_CINCH_open_ = s.flag R.MGT_CINCH_open_ ∧
      (s.flag R.MGT_CINCH_open_ = true → t.mgt.cinchEnd = s.time.clk + 1800 * hz ∧ t.get R.MGT_CINCH_remain = 1800 ∧ t.cinch = true) ∧
      t.raised = s.raised ∧ SameRegs [R.MGT_CINCH] s t ∧ Only mgtParts s t) ∧
    ((s.flag R.MGT_CINCH_open_ = false ∨ s.mgt.key = true ∨ s.time.clk < s.mgt.cinchEnd) → Does .cinchExpire s fun t => t.mgt = s.mgt ∧ SameRegs [] s t ∧
      Only mgtParts s t) ∧
    (s.flag R.MGT_CINCH_open_ = true → s.mgt.key = false → s.mgt.cinchEnd ≤ s.time.clk → ∀ ps : List MgtReq, ps = s.mgt.sq.filter (fun r => isPresence r.cmd) →
      Does .cinchExpire s fun t => t.flag R.MGT_CINCH_open_ = false ∧ t.cinch = false ∧ t.get R.MGT_CINCH_remain = 0 ∧ t.flag R.MGT_STAT_dbg = false ∧
        t.mgt.sq = s.mgt.sq.filter (fun r => !isPresence r.cmd) ∧ t.mgt.tq = s.mgt.tq ∧ t.mgt.tx.length = ps.length ∧
        (∀ (k : Nat) (r : MgtReq), ps[k]? = some r → ∃ x, t.mgt.tx[k]? = some x ∧ Answers r 1 [] x) ∧
        t.rd R.MGT_REFUSED = min (s.rd R.MGT_REFUSED + ps.length) 0xFFFFFFFF ∧
        Logs s t (Ev.MGT_CINCH_CLOSE, 0xFFFF, [(4, 2), (32, ((s.msSince s.mgt.openedAt / 1000 : Nat) : Int))]) ∧
        (s.flag R.MGT_STAT_dbg = true → Logs s t (Ev.MGT_DBG, 0xFFFF, [(1, 0)])) ∧
        SameRegs (R.MGT_CINCH :: mgtCountRegs R.MGT_REFUSED) s t ∧ Only mgtParts s t)) ∧
  (∀ (s : Dev),
    (s.flag R.MGT_SEAL_loop_open = true → Does .mgtSealOpen s fun t => SameRegs [] s t ∧ Only regsOnly s t) ∧
    (s.flag R.MGT_SEAL_loop_open = false → Does .mgtSealOpen s fun t => t.flag R.MGT_SEAL_loop_open = true ∧ t.flag R.MGT_SEAL_opened = true ∧
      CountsOne R.MGT_SEAL_CNT s t ∧ Logs s t (Ev.MGT_SEAL_OPEN, 0xFFFF, []) ∧ SameRegs (R.MGT_SEAL :: mgtCountRegs R.MGT_SEAL_CNT) s t ∧ Only regsEvents s t) ∧
    Does .sealLoopClose s (fun t => t.flag R.MGT_SEAL_loop_open = false ∧ t.flag R.MGT_SEAL_opened = s.flag R.MGT_SEAL_opened ∧ SameRegs [R.MGT_SEAL] s t ∧
      Only regsOnly s t))

/-- MESSAGE_RECEIVE and the commands of class T (R412–R418, R430).
Completes: messageReceive, discover, read, telemetry, logRead, notesRead, subscribe, cinchClose. -/
def Obligations.MessagesAndTelemetry : Prop :=
  (∀ (s : Dev) (via : MgtVia) (msg : List Byte) (b : List Nat) (cmd tag len : Nat), b = msg.map (·.toNat) → cmd = leNat ((b.drop 2).take 2) →
    tag = leNat ((b.drop 4).take 4) → len = leNat ((b.drop 8).take 2) →
    ∀ q : Dev, q = s.quietTx.mgtFrame via b.length →
    ((s.serving = false ∨ s.msgSource via b.length cmd = none) → Does (.messageReceive via msg) s fun t => t.mgt = q.mgt ∧ SameRegs [] s t ∧ Only mgtParts s t) ∧
    (∀ src, s.serving = true → s.msgSource via b.length cmd = some src →
      ((b.length < 16 ∨ lget 0 b 0 ≠ 1 ∨ lget 0 b 1 ≠ 0) → Does (.messageReceive via msg) s fun t => CountsOne R.MGT_MSG_BAD s t ∧
        t.mgt = q.mgt ∧ SameRegs (mgtCountRegs R.MGT_MSG_BAD) s t ∧ Only mgtParts s t) ∧
      (16 ≤ b.length → lget 0 b 0 = 1 → lget 0 b 1 = 0 →
        ((leNat ((b.drop 12).take 4) ≠ 0 ∧ leNat ((b.drop 12).take 4) ≠ s.otp 8 4) → Does (.messageReceive via msg) s fun t =>
          t.rd64 R.MGT_RX_MSG = (s.rd64 R.MGT_RX_MSG + 1) % 2 ^ 64 ∧ t.mgt = q.mgt ∧ SameRegs [R.MGT_RX_MSG, R.MGT_RX_MSG + 4] s t ∧ Only mgtParts s t) ∧
        (¬(leNat ((b.drop 12).take 4) ≠ 0 ∧ leNat ((b.drop 12).take 4) ≠ s.otp 8 4) → ∀ slot kept s2, q.hear src = (slot, kept, s2) →
          (∀ k, kept.find? (fun k => k.cmd == cmd && k.tag == tag && decide (s.time.clk ≤ k.at_ + 60 * hz)) = some k → Does (.messageReceive via msg) s fun t =>
            t.mgt = { s2.mgt with tx := [(src, k.msg)] } ∧ t.rd64 R.MGT_RX_MSG = (s.rd64 R.MGT_RX_MSG + 1) % 2 ^ 64 ∧
              SameRegs [R.MGT_RX_MSG, R.MGT_RX_MSG + 4] s t ∧ Only mgtParts s t) ∧
          (kept.find? (fun k => k.cmd == cmd && k.tag == tag && decide (s.time.clk ≤ k.at_ + 60 * hz)) = none →
            ∀ r, r = { src := src, slot := slot, cmd := cmd, tag := tag, body := (b.drop 16).take len } →
            ((if s.romServes then romCmds else knownCmds).contains cmd = false → Does (.messageReceive via msg) s fun t => Responds r 2 [] s2 t ∧
              t.mgt.tq = s.mgt.tq ∧ t.mgt.sq = s.mgt.sq ∧ Only mgtParts s t) ∧
            ((if s.romServes then romCmds else knownCmds).contains cmd = true →
              ((1484 < len ∨ b.length < 16 + len ∨ (src = .console ∧ b.length ≠ 16 + len)) → Does (.messageReceive via msg) s fun t => Responds r 3 [] s2 t ∧
                t.mgt.tq = s.mgt.tq ∧ t.mgt.sq = s.mgt.sq ∧ Only mgtParts s t) ∧
              (len ≤ 1484 → 16 + len ≤ b.length → (src = .console → b.length = 16 + len) →
                (cmd < 0x10 → Does (.messageReceive via msg) s fun t => t.mgt = { s2.mgt with tx := [], tq := s.mgt.tq ++ [r] } ∧ Only mgtParts s t) ∧
                (0x10 ≤ cmd → s.mgt.sq.length < 16 → Does (.messageReceive via msg) s fun t => t.mgt = { s2.mgt with tx := [], sq := s.mgt.sq ++ [r] } ∧ Only mgtParts s t) ∧
                (0x10 ≤ cmd → 16 ≤ s.mgt.sq.length → Does (.messageReceive via msg) s fun t => Responds r 4 [] s2 t ∧ t.mgt.sq = s.mgt.sq ∧ Only mgtParts s t))))))) ) ∧
  (∀ (c : Instr) (cmd n : Nat), (c, cmd, n) ∈ ([(.discover, 1, 0), (.read, 2, 10), (.telemetry, 3, 0), (.logRead, 4, 7), (.notesRead, 5, 8), (.subscribe, 6, 10),
      (.cinchClose, 7, 0)] : List (Instr × Nat × Nat)) →
    ∀ s : Dev, ((∀ r q, ¬TakesT s cmd r q) → Does c s (OnlyQuiet s)) ∧
      (∀ r q, TakesT s cmd r q → r.body.length ≠ n → Does c s fun t => Responds r 3 [] s t ∧ ServedT q s t ∧ SameRegs [] s t ∧ Only mgtParts s t)) ∧
  (∀ (s : Dev) (r : MgtReq) (q : List MgtReq), TakesT s 1 r q → r.body = [] → Does .discover s fun t => ServedT q s t ∧ SameRegs [] s t ∧ Only mgtParts s t ∧
    Responds r 0 (leBytes 8 (s.otp 8 8) ++ [s.otp 0 1, s.get R.SYS_BOOT_STAT_bank, s.phase, 0] ++ leBytes 8 (s.rd64 R.SYS_IMG_SEQ_LO)) s t) ∧
  (∀ (s : Dev) (r : MgtReq) (q : List MgtReq) (a n : Nat), TakesT s 2 r q → r.body.length = 10 → a = fld r.body 0 8 → n = fld r.body 8 2 →
    ((n < 1 ∨ 256 < n) → Does .read s fun t => Responds r 3 [] s t ∧ ServedT q s t ∧ SameRegs [] s t ∧ Only mgtParts s t) ∧
    (1 ≤ n → n ≤ 256 → (∃ i, i < n ∧ readable (a + 4 * i) = false) → Does .read s fun t => Responds r 5 [] s t ∧ ServedT q s t ∧ SameRegs [] s t ∧ Only mgtParts s t) ∧
    (1 ≤ n → n ≤ 256 → a % 4 = 0 → a + 4 * n ≤ 0x200000 → Does .read s fun t => Responds r 0 ((List.range n).flatMap fun i => leBytes 4 (s.le (a + 4 * i) 4)) s t ∧
      ServedT q s t ∧ SameRegs [] s t ∧ Only mgtParts s t) ∧
    (∀ s1 : Dev, n = 1 → readable a = true → isCtl a = true → s1 = { s with mgt := { s.mgt with tx := [], tq := q } } → Does .read s fun t =>
      Responds r 0 (leBytes 4 (s1.regRead a).rdata) s t ∧ t.rdata = (s1.regRead a).rdata ∧ (∀ x, t.rd x = (s1.regRead a).rd x) ∧ SameMem s t ∧ SameFlash s t)) ∧
  (∀ (s : Dev) (r : MgtReq) (q : List MgtReq), TakesT s 3 r q → r.body = [] → Does .telemetry s fun t => ServedT q s t ∧ SameRegs [] s t ∧ Only mgtParts s t ∧
    ∃ b, Responds r 0 b s t ∧ b.length = 128 ∧ b.take 8 = leBytes 8 s.time.cnt ∧ (b.drop 8).take 6 = leBytes 6 (s.clock 1).sec ∧ lget 0 b 18 = s.phase ∧
      lget 0 b 19 = s.rd R.AIR_STAT % 64 ∧ lget 0 b 23 = s.get R.MGT_STAT_env_cause ∧
      (b.drop 48).take 4 = leBytes 4 (if s.romServes then 0 else s.rd R.PLC_STAT) ∧ (b.drop 52).take 8 = leBytes 8 (s.rd64 R.SYS_IMG_SEQ_LO) ∧
      b.drop 60 = List.replicate 68 0) ∧
  (∀ (s : Dev) (r : MgtReq) (q : List MgtReq) (n area : Nat), TakesT s 4 r q → r.body.length = 7 → n = fld r.body 4 2 → area = fld r.body 6 1 →
    ((n < 1 ∨ 32 < n ∨ 1 < area) → Does .logRead s fun t => Responds r 3 [] s t ∧ ServedT q s t ∧ SameRegs [] s t ∧ Only mgtParts s t) ∧
    (1 ≤ n → n ≤ 32 → area ≤ 1 → Does .logRead s fun t => ServedT q s t ∧ SameRegs [] s t ∧ Only mgtParts s t ∧
      Responds r 0 (((s.logEntries (area == 1)).drop (fld r.body 0 4)).take n).flatten s t)) ∧
  (∀ (s : Dev) (r : MgtReq) (q : List MgtReq) (n : Nat) (o : Option Section), TakesT s 5 r q → r.body.length = 8 → n = fld r.body 6 2 →
    o = ((s.sections (s.get R.SYS_BOOT_STAT_bank)).getD [])[fld r.body 0 2]? →
    ((n < 1 ∨ 1024 < n ∨ (∀ x, o = some x → x.type ≠ 0xF0)) → Does .notesRead s fun t => Responds r 3 [] s t ∧ ServedT q s t ∧ SameRegs [] s t ∧ Only mgtParts s t) ∧
    (∀ x, 1 ≤ n → n ≤ 1024 → o = some x → x.type = 0xF0 → Does .notesRead s fun t => ServedT q s t ∧ SameRegs [] s t ∧ Only mgtParts s t ∧
      Responds r 0 (((s.sectionBody (s.get R.SYS_BOOT_STAT_bank) x).drop (fld r.body 2 4)).take n) s t)) ∧
  (∀ (s : Dev) (r : MgtReq) (q : List MgtReq) (l : List Subscription), TakesT s 6 r q → r.body.length = 10 → l = s.mgt.subs.filter (fun x => !s.lapsed x) →
    (3600 < fld r.body 8 2 → Does .subscribe s fun t => Responds r 3 [] s t ∧ ServedT q s t ∧ SameRegs [] s t ∧ Only mgtParts s t) ∧
    (fld r.body 8 2 ≤ 3600 → (∀ y ∈ l, y.src ≠ r.src) →
      (4 ≤ l.length → Does .subscribe s fun t => Responds r 4 [] s t ∧ ServedT q s t ∧ SameRegs [] s t ∧ Only mgtParts s t) ∧
      (l.length < 4 → Does .subscribe s fun t => Responds r 0 [] s t ∧
        t.mgt.subs = l ++ [{ src := r.src, mask := fld r.body 0 8, period := fld r.body 8 2, at_ := s.time.clk, last := s.time.clk }] ∧ t.mgt.tq = q ∧
        SameRegs [] s t ∧ Only mgtParts s t)) ∧
    (fld r.body 8 2 ≤ 3600 → (∃ y ∈ l, y.src = r.src) → Does .subscribe s fun t => Responds r 0 [] s t ∧ t.mgt.subs.length = l.length ∧
      (∀ (k : Nat) (y : Subscription), l[k]? = some y → ∃ z : Subscription, t.mgt.subs[k]? = some z ∧ z.src = y.src ∧ (y.src ≠ r.src → z = y) ∧
        (y.src = r.src → z.mask = fld r.body 0 8 ∧ z.period = fld r.body 8 2 ∧ z.at_ = s.time.clk ∧ z.sec = y.sec ∧ z.sent = y.sent)) ∧
      t.mgt.tq = q ∧ SameRegs [] s t ∧ Only mgtParts s t)) ∧
  (∀ (s : Dev) (r : MgtReq) (q : List MgtReq), TakesT s 7 r q → r.body = [] →
    (s.mgt.key = true → Does .cinchClose s fun t => Responds r 6 [] s t ∧ ServedT q s t ∧ SameRegs [] s t ∧ Only mgtParts s t) ∧
    (s.mgt.key = false → Does .cinchClose s fun t => t.flag R.MGT_CINCH_open_ = false ∧ t.cinch = false ∧ t.mgt.tq = q ∧
      (∃ x, t.mgt.tx.getLast? = some x ∧ Answers r 0 [] x) ∧
      (s.flag R.MGT_CINCH_open_ = true → t.flag R.MGT_STAT_dbg = false ∧ t.mgt.sq = s.mgt.sq.filter (fun r => !isPresence r.cmd) ∧
        Logs s t (Ev.MGT_CINCH_CLOSE, 0xFFFF, [(4, 3), (32, ((s.msSince s.mgt.openedAt / 1000 : Nat) : Int))])) ∧
      (s.flag R.MGT_CINCH_open_ = false → t.raised = s.raised) ∧
      SameRegs (R.MGT_CINCH :: mgtCountRegs R.MGT_REFUSED) s t ∧ Only mgtParts s t))

/-- The commands of classes S and P in their turn, STAGE_BEGIN to STAGE_ABORT, ACTIVATE, RESTART, ROLL_STEP, MGT_COMMIT (R23, R410, R423–R427, R430).
Completes: stageBegin, stageData, stageEnd, stageAbort, activate, restart, rollStep, mgtCommit. -/
def Obligations.StagingAndActivation : Prop :=
  (∀ (e : Bool) (c : Instr) (cmd lo hi : Nat), (c, cmd, lo, hi) ∈ ([(.stageBegin e, 0x10, 12, 12), (.stageData e, 0x11, 5, 1028), (.stageEnd e, 0x12, 0, 0),
      (.stageAbort, 0x13, 0, 0), (.activate e, 0x20, 0, 0), (.restart, 0x21, 0, 0), (.write, 0x22, 16, 16), (.logClear, 0x23, 1, 1), (.debugUnlock, 0x24, 0, 0),
      (.sealClear, 0x25, 0, 0), (.attClear, 0x26, 0, 0)] : List (Instr × Nat × Nat × Nat)) →
    ∀ s : Dev, ((∀ r q, ¬TakesS s cmd r q) → Does c s (OnlyQuiet s)) ∧
      (∀ r q, TakesS s cmd r q → isPresence cmd = true → s.cinch = false → Does c s fun t => Responds r 1 [] s t ∧ CountsOne R.MGT_REFUSED s t ∧
        Logs s t (Ev.MGT_REFUSED, 0xFFFF, [(16, (r.cmd : Int)), (4, (r.slot : Int))]) ∧ ServedS q s t ∧ SameRegs (mgtCountRegs R.MGT_REFUSED) s t ∧ Only mgtParts s t) ∧
      (∀ r q, TakesS s cmd r q → (isPresence cmd = true → s.cinch = true) → s.flag R.MGT_STAT_env_stop = true → cmd ≠ 0x23 → cmd ≠ 0x25 → Does c s fun t =>
        Responds r 6 [] s t ∧ (isPresence cmd = true → LogsCmd r 6 s t) ∧ ServedS q s t ∧ SameRegs [] s t ∧ Only mgtParts s t) ∧
      (∀ r q, RunsS s cmd r q → (r.body.length < lo ∨ hi < r.body.length) → Does c s fun t =>
        Responds r 3 [] s t ∧ (isPresence cmd = true → LogsCmd r 3 s t) ∧ ServedS q s t ∧ SameRegs [] s t ∧ Only mgtParts s t)) ∧
  (∀ (s : Dev) (r : MgtReq) (q : List MgtReq) (err : Bool) (len seq k : Nat), RunsS s 0x10 r q → r.body.length = 12 → len = fld r.body 8 4 →
    seq = (if s.romServes then fld r.body 0 8 % 2 ^ 62 else fld r.body 0 8) → k = (if s.romServes then fld r.body 0 8 / 2 ^ 62 else 1 - s.get R.SYS_BOOT_STAT_bank) →
    (s.romServes = true → s.cinch = false → Does (.stageBegin err) s fun t => Responds r 1 [] s t ∧ CountsOne R.MGT_REFUSED s t ∧ ServedS q s t ∧ SameFlash s t) ∧
    ((s.romServes = true → s.cinch = true) → k ≤ 1 →
      ((s.flag R.MGT_STAT_trial = true ∨ s.mgt.roll.isSome = true ∨ bankSize < len) → Does (.stageBegin err) s fun t => Responds r 6 [] s t ∧ ServedS q s t ∧
        SameRegs [] s t ∧ Only mgtParts s t) ∧
      (s.flag R.MGT_STAT_trial = false → s.mgt.roll = none → len ≤ bankSize →
        (s.stagingHeld r.src = true → Does (.stageBegin err) s fun t => Responds r 4 [] s t ∧ ServedS q s t ∧ SameRegs [] s t ∧ Only mgtParts s t) ∧
        (s.stagingHeld r.src = false → err = true → Does (.stageBegin err) s fun t => Responds r 8 [] s t ∧ t.mgt.sq = q ∧ SameRegs [] s t ∧ Only mgtParts s t) ∧
        (s.stagingHeld r.src = false → err = false → s.mgt.journal + 1 < journalSlots → Does (.stageBegin err) s fun t => Responds r 0 [] s t ∧ t.mgt.sq = q ∧
          t.mgt.staging = some { src := r.src, bank := k, seq := seq, length := len, at_ := s.time.clk, rom := s.romServes } ∧
          JournalGains 1 k seq len s t ∧ t.flag R.MGT_STAT_staged = false ∧ Logs s t (Ev.MGT_STAGE, 0xFFFF, [(4, 0), (32, (seq : Int))]) ∧
          SameMem s t ∧ SameRegs [R.MGT_STAT] s t)))) ∧
  (∀ (s : Dev) (r : MgtReq) (q : List MgtReq) (err : Bool) (x : Staging) (o n : Nat), RunsS s 0x11 r q → r.body.length = n + 4 → 1 ≤ n → n ≤ 1024 →
    (∀ b ∈ r.body, b < 256) → o = fld r.body 0 4 → s.mgt.staging = some x → x.active = true →
    (x.src ≠ r.src → Does (.stageData err) s fun t => Responds r 4 [] s t ∧ ServedS q s t ∧ SameRegs [] s t ∧ Only mgtParts s t) ∧
    (x.src = r.src → x.last = some o → Does (.stageData err) s fun t => Responds r 0 [] s t ∧ t.mgt.sq = q ∧
      t.mgt.staging = some { x with at_ := s.time.clk } ∧ SameRegs [] s t ∧ Only mgtParts s t) ∧
    (x.src = r.src → x.last ≠ some o → o ≠ x.got → Does (.stageData err) s fun t => Responds r 6 [] s t ∧ ServedS q s t ∧ SameRegs [] s t ∧ Only mgtParts s t) ∧
    (x.src = r.src → x.last ≠ some o → o = x.got → x.length < o + n → Does (.stageData err) s fun t => Responds r 3 [] s t ∧ ServedS q s t ∧ SameRegs [] s t ∧
      Only mgtParts s t) ∧
    (x.src = r.src → x.last ≠ some o → o = x.got → o + n ≤ x.length →
      Does (.stageData err) s fun t => t.mgt.sq = q ∧ SameRegs [] s t ∧ SameMem s t ∧
        (err = true → Responds r 8 [] s t ∧ t.mgt.staging = some x) ∧
        (err = false → Responds r 0 [] s t ∧ t.mgt.staging = some { x with got := o + n, last := some o, at_ := s.time.clk } ∧
          t.fbytes (bankBase x.bank + o) n = r.body.drop 4) ∧
        (∀ a, (a < bankBase x.bank + o ∨ bankBase x.bank + o + n ≤ a) → t.fbyte a =
          if (sectorsFrom o n).any (fun k => decide (bankBase x.bank + k * 65536 ≤ a) && decide (a < bankBase x.bank + (k + 1) * 65536)) then 0xFF else s.fbyte a))) ∧
  (∀ (s : Dev) (r : MgtReq) (q : List MgtReq) (err : Bool) (x : Staging), RunsS s 0x12 r q → r.body = [] → s.mgt.staging = some x → x.active = true →
    (x.src ≠ r.src → Does (.stageEnd err) s fun t => Responds r 4 [] s t ∧ ServedS q s t ∧ SameRegs [] s t ∧ Only mgtParts s t) ∧
    (x.src = r.src → x.got ≠ x.length → Does (.stageEnd err) s fun t => Responds r 6 [] s t ∧ ServedS q s t ∧ SameRegs [] s t ∧ Only mgtParts s t) ∧
    (∀ b, x.src = r.src → x.got = x.length → s.imageBad x.bank = some b → Does (.stageEnd err) s fun t => Responds r 7 [b.1] s t ∧ t.mgt.sq = q ∧ SameFlash s t) ∧
    (x.src = r.src → x.got = x.length → s.imageBad x.bank = none →
      (err = true → Does (.stageEnd err) s fun t => Responds r 8 [] s t ∧ t.mgt.sq = q ∧ SameRegs [] s t ∧ Only mgtParts s t) ∧
      (err = false → x.rom = false → x.bank = 1 - s.get R.SYS_BOOT_STAT_bank → s.mgt.journal + 1 < journalSlots → Does (.stageEnd err) s fun t => Responds r 0 [] s t ∧
        t.mgt.sq = q ∧ t.mgt.staging = some { x with at_ := s.time.clk, active := false } ∧ JournalGains 2 x.bank x.seq x.length s t ∧
        t.flag R.MGT_STAT_staged = true ∧ Raises s t [(Ev.MGT_STAGE, 0xFFFF, [(4, 1), (32, (x.seq : Int))])] ∧ SameMem s t ∧ SameRegs [R.MGT_STAT] s t))) ∧
  (∀ (s : Dev) (r : MgtReq) (q : List MgtReq) (err : Bool), (s.mgt.staging = none ∨ ∃ x, s.mgt.staging = some x ∧ x.active = false) →
    (RunsS s 0x11 r q → 5 ≤ r.body.length → r.body.length ≤ 1028 → Does (.stageData err) s fun t => Responds r 6 [] s t ∧ ServedS q s t ∧ SameRegs [] s t ∧ Only mgtParts s t) ∧
    (RunsS s 0x12 r q → r.body = [] → Does (.stageEnd err) s fun t => Responds r 6 [] s t ∧ ServedS q s t ∧ SameRegs [] s t ∧ Only mgtParts s t)) ∧
  (∀ (s : Dev) (r : MgtReq) (q : List MgtReq) (x : Staging), RunsS s 0x13 r q → r.body = [] → s.mgt.staging = some x → x.active = true →
    (s.stagingHeld r.src = true → Does .stageAbort s fun t => Responds r 4 [] s t ∧ ServedS q s t ∧ SameRegs [] s t ∧ Only mgtParts s t) ∧
    (s.stagingHeld r.src = false → s.mgt.journal + 1 < journalSlots → Does .stageAbort s fun t => Responds r 0 [] s t ∧ t.mgt.sq = q ∧
      t.mgt.staging = some { x with active := false } ∧ t.flag R.MGT_STAT_staged = false ∧ Raises s t [(Ev.MGT_STAGE, 0xFFFF, [(4, 2), (32, (x.seq : Int))])] ∧
      (s.stagedRecord = none → SameFlash s t) ∧ (∀ i, s.stagedRecord = some i → JournalGains 1 (s.jf i 2 1) (s.jf i 8 8) (s.jf i 16 4) s t) ∧
      SameMem s t ∧ SameRegs [R.MGT_STAT] s t)) ∧
  (∀ (s : Dev) (r : MgtReq) (q : List MgtReq) (err : Bool) (k kind : Nat), RunsS s 0x20 r q → r.body = [] → k = 1 - s.get R.SYS_BOOT_STAT_bank →
    kind = activationKind (s.differing k (s.get R.SYS_BOOT_STAT_bank)) →
    ((s.stagedRecord = none ∨ s.imgSeq k ≤ s.rd64 R.SYS_IMG_SEQ_LO ∨ s.mgt.roll.isSome = true ∨ (kind = 1 ∧ s.bothFit k = false)) → Does (.activate err) s fun t =>
      Responds r 6 [] s t ∧ LogsCmd r 6 s t ∧ ServedS q s t ∧ SameRegs [] s t ∧ Only mgtParts s t) ∧
    (s.stagedRecord ≠ none → s.rd64 R.SYS_IMG_SEQ_LO < s.imgSeq k → s.mgt.roll = none → s.mgt.journal + 1 < journalSlots →
      (err = true → kind ≠ 1 → Does (.activate err) s fun t => Responds r 8 [] s t ∧ LogsCmd r 8 s t ∧ ServedS q s t ∧ SameRegs [] s t ∧ Only mgtParts s t) ∧
      (err = false → kind = 0 → Does (.activate err) s fun t => Responds r 0 [0] s t ∧ t.mgt.sq = q ∧ Committed k s t ∧ LogsCmd r 0 s t ∧
        Logs s t (Ev.MGT_ACTIVATE, 0xFFFF, [(4, 0), (32, (s.imgSeq k : Int))])) ∧
      (kind = 1 → s.bothFit k = true → Does (.activate err) s fun t => Responds r 0 [1] s t ∧ t.mgt.sq = q ∧ LogsCmd r 0 s t ∧ SameFlash s t ∧
        Logs s t (Ev.MGT_ACTIVATE, 0xFFFF, [(4, 1), (32, (s.imgSeq k : Int))]) ∧ t.plc.ref.newFw = s.fwBodies k ∧ t.plc.newPods = [] ∧
        (∀ p, (List.range 24).find? (fun p => !(s.podCells p).isEmpty) = some p → t.flag R.MGT_STAT_roll = true ∧ t.plc.triggers = s.plc.triggers ++ [(3, ⟨0, p⟩)] ∧
          t.mgt.roll = some { todo := [], seq := s.imgSeq k })) ∧
      (err = false → kind = 2 → Does (.activate err) s fun t => Responds r 0 [2] s t ∧ t.mgt.sq = q ∧ t.mgt.restartAt = some s.time.clk ∧ LogsCmd r 0 s t ∧
        JournalGains 3 k (s.imgSeq k) (s.imgLength k) s t ∧ Logs s t (Ev.MGT_ACTIVATE, 0xFFFF, [(4, 2), (32, (s.imgSeq k : Int))]) ∧ SameRegs [] s t ∧ SameMem s t))) ∧
  (∀ (s : Dev) (r : MgtReq) (q : List MgtReq), RunsS s 0x21 r q → r.body = [] → Does .restart s fun t => Responds r 0 [] s t ∧ LogsCmd r 0 s t ∧ t.mgt.sq = q ∧
    t.mgt.restartAt = some s.time.clk ∧ SameRegs [] s t ∧ Only mgtParts s t) ∧
  (∀ (s : Dev), (s.mgt.roll = none → Does .rollStep s fun t => t.plc = s.plc ∧ SameRegs [] s t ∧ Only mgtParts s t) ∧
    (∀ x, s.mgt.roll = some x →
      ((x.ended ≠ none ∨ s.plc.current ≠ none ∨ s.plc.triggers ≠ [] ∨ ∃ f, x.last = some f ∧ s.frameNo < f + 100) → Does .rollStep s fun t => t.plc = s.plc ∧
        SameRegs [] s t ∧ Only mgtParts s t) ∧
      (x.ended = none → s.plc.current = none → s.plc.triggers = [] → (∀ f, x.last = some f → f + 100 ≤ s.frameNo) →
        (∀ p, p < 24 → s.podSpare p = true → s.plc.newPods.contains p ≠ x.back) → ∀ p, s.rollNext x = some p → Does .rollStep s fun t =>
          t.plc = { s.plc with triggers := [(3, ⟨0, p⟩)] } ∧ t.mgt = s.mgt ∧ SameRegs [] s t ∧ Only plcParts s t))) ∧
  (∀ (s : Dev),
    ((s.flag R.MGT_STAT_env_stop = true ∨ (s.mgt.roll = none ∧ (s.flag R.SYS_BOOT_STAT_trial = false ∨ s.phase ≠ 11 ∨ s.boot.runAt = none ∨
        ∃ a, s.boot.runAt = some a ∧ s.elapsed a 600000 = false)) ∨
        ∃ x, s.mgt.roll = some x ∧ (x.back = true ∨ x.ended = none ∨ ∃ a, x.ended = some a ∧ s.elapsed a 600000 = false)) →
      Does .mgtCommit s fun t => t.mgt = s.mgt ∧ SameRegs [] s t ∧ Only mgtParts s t) ∧
    (∀ a, s.flag R.MGT_STAT_env_stop = false → s.mgt.roll = none → s.flag R.SYS_BOOT_STAT_trial = true → s.phase = 11 → s.boot.runAt = some a →
      s.elapsed a 600000 = true → s.mgt.journal + 1 < journalSlots → Does .mgtCommit s (Committed (s.get R.SYS_BOOT_STAT_bank) s)) ∧
    (∀ x a, s.flag R.MGT_STAT_env_stop = false → s.mgt.roll = some x → x.back = false → x.ended = some a → s.elapsed a 600000 = true →
      (∀ p, p < 24 → s.podSpare p = true → s.plc.newPods.contains p = true) → s.mgt.journal + 1 < journalSlots →
      Does .mgtCommit s fun t => t.mgt.roll = none ∧ Committed (1 - s.get R.SYS_BOOT_STAT_bank) s t ∧ t.plc.ref.fw = s.plc.ref.newFw ∧ t.plc.ref.newFw = [] ∧
        t.plc.newPods = []))

/-- WRITE, LOG_CLEAR, DEBUG_UNLOCK, SEAL_CLEAR, ATT_CLEAR, LOG_ENTRY, LOG_FLUSH, SUBSCRIPTION_PERIOD, SUBSCRIPTION_LAPSE (R392, R411, R415–R422).
Completes: write, logClear, debugUnlock, sealClear, attClear, subscriptionPeriod, subscriptionLapse, logEntry, logFlush. -/
def Obligations.PresenceCommandsAndLog : Prop :=
  (∀ (s s1 : Dev) (r : MgtReq) (q : List MgtReq) (a v m : Nat), RunsS s 0x22 r q → r.body.length = 16 → a = fld r.body 0 8 → v = fld r.body 8 4 → m = fld r.body 12 4 →
    s1 = { s with mgt := { s.mgt with tx := [], sq := q } } →
    (s.writeBarred a m = true → Does .write s fun t => Responds r 5 [] s t ∧ LogsCmd r 5 s t ∧ ServedS q s t ∧ SameRegs [] s t ∧ Only mgtParts s t) ∧
    (s.writeBarred a m = false → Does .write s fun t => (∃ x, t.mgt.tx.getLast? = some x ∧ Answers r 0 (leBytes 4 (s1.regRead a).rdata) x) ∧ ∀ x,
      t.rd x = ((s1.regRead a).regWrite .m a (Nat.lor (Nat.land (s1.regRead a).rdata (0xFFFFFFFF - m)) (Nat.land v m))).rd x)) ∧
  (∀ (s : Dev) (r : MgtReq) (q : List MgtReq) (all : Nat), TakesS s 0x23 r q → s.cinch = true → r.body.length = 1 → all = fld r.body 0 1 →
    (1 < all → Does .logClear s fun t => Responds r 3 [] s t ∧ LogsCmd r 3 s t ∧ ServedS q s t ∧ SameRegs [] s t ∧ Only mgtParts s t) ∧
    (all ≤ 1 → Does .logClear s fun t => Responds r 0 [] s t ∧ t.mgt.sq = q ∧ t.mgt.log.waiting = [] ∧ t.mgt.log.pinned = [] ∧ t.mgt.log.head = 0 ∧ t.mgt.log.bad = [] ∧
      t.rd R.MGT_LOG_WAIT % 2 ^ 20 = 0 ∧ (∀ a, 0x07800000 ≤ a → a < 0x07A20000 → t.fbyte a = 0xFF) ∧
      (∀ a, 0x07A20000 ≤ a → a < 0x08000000 → t.fbyte a = if all = 1 then 0xFF else s.fbyte a) ∧ (∀ a, (a < 0x07800000 ∨ 0x08000000 ≤ a) → t.fbyte a = s.fbyte a) ∧
      t.mgt.log.pinHead = (if all = 1 then 0 else s.mgt.log.pinHead) ∧
      t.raised.map evShow = s.raised.map evShow ++ [(Ev.MGT_LOG_CLEAR, 0xFFFF, packItems [(1, (all : Int))])] ++ s.openEntry.toList.map evShow ++
        [(Ev.MGT_CMD, 0xFFFF, packItems [(16, (r.cmd : Int)), (4, 0), (4, (r.slot : Int))])] ∧ SameMem s t ∧ SameRegs [R.MGT_LOG_WAIT] s t)) ∧
  (∀ (s : Dev) (r : MgtReq) (q : List MgtReq), r.body = [] →
    (RunsS s 0x24 r q → Does .debugUnlock s fun t => Responds r 0 [] s t ∧ t.flag R.MGT_STAT_dbg = true ∧ LogsCmd r 0 s t ∧
      (s.flag R.MGT_STAT_dbg = false → Logs s t (Ev.MGT_DBG, 0xFFFF, [(1, 1)])) ∧ ServedS q s t ∧ SameRegs [R.MGT_STAT] s t ∧ Only mgtParts s t) ∧
    (TakesS s 0x25 r q → s.cinch = true →
      (s.flag R.MGT_SEAL_loop_open = true → Does .sealClear s fun t => Responds r 6 [] s t ∧ LogsCmd r 6 s t ∧ ServedS q s t ∧ SameRegs [] s t ∧ Only mgtParts s t) ∧
      (s.flag R.MGT_SEAL_loop_open = false → Does .sealClear s fun t => Responds r 0 [] s t ∧ t.flag R.MGT_SEAL_opened = false ∧ LogsCmd r 0 s t ∧
        Logs s t (Ev.MGT_SEAL_CLEAR, 0xFFFF, []) ∧ ServedS q s t ∧ SameRegs [R.MGT_SEAL] s t ∧ Only mgtParts s t)) ∧
    (RunsS s 0x26 r q → Does .attClear s fun t => Responds r 0 [] s t ∧ t.flag R.SYS_BOOT_ATT_a_failed = false ∧ t.flag R.SYS_BOOT_ATT_b_failed = false ∧
      LogsCmd r 0 s t ∧ ServedS q s t ∧ SameRegs [R.SYS_BOOT_ATT] s t ∧ Only mgtParts s t)) ∧
  (∀ (s : Dev), s.raised = [] → Does .logEntry s fun t => t.mgt = s.mgt ∧ SameRegs [] s t ∧ Only mgtParts s t) ∧
  (∀ (s : Dev) (e : LogEvent) (l : List LogEvent) (pin : Bool) (rec : LogRec), s.raised = e :: l →
    pin = (alwaysPinned e || (!s.mgt.log.first && startsStop e)) → rec = ⟨e, s.rd64 R.MGT_LOG_SEQ, pin⟩ → s.mgt.log.waiting.length ≤ 4096 → s.mgt.log.pinned.length ≤ 64 →
    ((s.mgt.log.lost = 0 ∨ s.mgt.log.waiting.length = 4096) → (∀ x ∈ s.mgt.subs, x.mask.testBit (e.code / 1024) = false ∨ s.lapsed x = true) →
      (pin = true → s.mgt.log.pinned.length < 64 → Does .logEntry s fun t => t.raised = l ∧ t.mgt.log.pinned = s.mgt.log.pinned ++ [rec] ∧
        t.mgt.log.waiting = s.mgt.log.waiting ∧ t.get R.MGT_LOG_WAIT_pin = s.mgt.log.pinned.length + 1 ∧ t.mgt.tx = [] ∧
        t.rd64 R.MGT_LOG_SEQ = (s.rd64 R.MGT_LOG_SEQ + 1) % 2 ^ 64 ∧ t.mgt.log.first = (s.mgt.log.first || startsStop e) ∧
        SameRegs [R.MGT_LOG_SEQ, hiOf R.MGT_LOG_SEQ, R.MGT_LOG_WAIT] s t ∧ Only mgtParts s t) ∧
      ((pin = false ∨ s.mgt.log.pinned.length = 64) → s.mgt.log.waiting.length < 4096 → Does .logEntry s fun t => t.raised = l ∧
        t.mgt.log.waiting = s.mgt.log.waiting ++ [rec] ∧ t.mgt.log.pinned = s.mgt.log.pinned ∧ t.get R.MGT_LOG_WAIT_n = s.mgt.log.waiting.length + 1 ∧
        t.rd64 R.MGT_LOG_SEQ = (s.rd64 R.MGT_LOG_SEQ + 1) % 2 ^ 64 ∧ SameRegs [R.MGT_LOG_SEQ, hiOf R.MGT_LOG_SEQ, R.MGT_LOG_WAIT] s t ∧ Only mgtParts s t) ∧
      ((pin = false ∨ s.mgt.log.pinned.length = 64) → s.mgt.log.waiting.length = 4096 → Does .logEntry s fun t => CountsOne R.MGT_LOG_DROP s t ∧
        t.mgt.log.lost = s.mgt.log.lost + 1 ∧
        (∀ a x b, s.mgt.log.waiting = a ++ x :: b → (∀ y ∈ a, y.pinned = true) → x.pinned = false → t.mgt.log.waiting = a ++ b ++ [rec]) ∧
        ((∀ y ∈ s.mgt.log.waiting, y.pinned = true) → t.mgt.log.waiting = s.mgt.log.waiting ∧ t.flag R.MGT_STAT_pin_full = true) ∧
        SameRegs (R.MGT_LOG_SEQ :: hiOf R.MGT_LOG_SEQ :: R.MGT_LOG_WAIT :: mgtCountRegs R.MGT_LOG_DROP) s t ∧ Only mgtParts s t)) ∧
    (pin = false → 0 < s.mgt.log.lost → s.mgt.log.waiting.length < 4095 → s.mgt.subs = [] → Does .logEntry s fun t => t.raised = l ∧ t.mgt.log.lost = 0 ∧
      t.mgt.log.waiting.map (evShow ·.ev) = s.mgt.log.waiting.map (evShow ·.ev) ++
        [(Ev.MGT_LOG_DROP, 0xFFFF, packItems [(32, (s.mgt.log.lost : Int))]), evShow e] ∧
      t.rd64 R.MGT_LOG_SEQ = (s.rd64 R.MGT_LOG_SEQ + 2) % 2 ^ 64 ∧ SameRegs [R.MGT_LOG_SEQ, hiOf R.MGT_LOG_SEQ, R.MGT_LOG_WAIT] s t ∧ Only mgtParts s t) ∧
    (∀ x, s.mgt.log.lost = 0 → s.mgt.log.waiting.length < 4096 → s.mgt.subs = [x] → x.mask.testBit (e.code / 1024) = true → s.lapsed x = false →
      ((x.sec ≠ s.time.clk / hz ∨ x.sent < 64) → Does .logEntry s fun t => ∃ cmd tag target, t.mgt.tx = [(x.src, mgtHeader 2 cmd tag 32 0 target ++ (LogRec.mk e 0 pin).bytes)] ∧
        t.mgt.subs = [{ x with sec := s.time.clk / hz, sent := (if x.sec = s.time.clk / hz then x.sent else 0) + 1 }]) ∧
      (x.sec = s.time.clk / hz → 64 ≤ x.sent → Does .logEntry s fun t => t.mgt.tx = [] ∧ CountsOne R.MGT_NTF_DROP s t))) ∧
  (∀ (s : Dev) (err : Option Bool), (s.firmware = false ∨ s.mgt.noFlash = true ∨ (s.mgt.log.waiting = [] ∧ s.mgt.log.pinned = [])) →
    Does (.logFlush err) s fun t => t.mgt = s.mgt ∧ SameRegs [] s t ∧ Only mgtParts s t) ∧
  (∀ (s : Dev), s.firmware = true → s.mgt.noFlash = false → (s.mgt.log.waiting ≠ [] ∨ s.mgt.log.pinned ≠ []) →
    (∀ err, Does (.logFlush err) s fun t => t.mgt.log.waiting = [] ∧ t.mgt.log.pinned = [] ∧ t.get R.MGT_LOG_WAIT_n = 0 ∧ t.get R.MGT_LOG_WAIT_pin = 0 ∧ SameMem s t ∧
      SameRegs [R.MGT_LOG_WAIT, R.MGT_STAT] s t ∧
      (∀ e, err = some e → Logs s t (Ev.MGT_FLASH_ERR, 0xFFFF, [(32, ((ringAt (if e then s.mgt.log.nextSector (s.mgt.log.head / 2048) ringSectors * 2048 else s.mgt.log.head) : Nat) : Int)),
          (1, ((b2n e : Nat) : Int))]) ∧
        t.mgt.log.bad = s.mgt.log.bad ++ [if e then s.mgt.log.nextSector (s.mgt.log.head / 2048) ringSectors else s.mgt.log.head / 2048])) ∧
    (∀ x, s.mgt.log.pinned = [] → s.mgt.log.waiting = [x] → x.pinned = false → Does (.logFlush none) s fun t =>
      (((s.mgt.log.head + 1) % 2048 ≠ 0 ∨ s.mgt.log.bad = []) → t.fbytes (ringAt s.mgt.log.head) 32 = x.bytes) ∧
      ((s.mgt.log.head + 1) % 2048 ≠ 0 → t.mgt.log.head = s.mgt.log.head + 1 ∧ ∀ a, (a < ringAt s.mgt.log.head ∨ ringAt s.mgt.log.head + 32 ≤ a) → t.fbyte a = s.fbyte a) ∧
      ((s.mgt.log.head + 1) % 2048 = 0 → s.mgt.log.bad = [] → s.mgt.log.head < 69632 → t.mgt.log.head = (s.mgt.log.head / 2048 + 1) % 34 * 2048 ∧
        ∀ a, ringAt ((s.mgt.log.head / 2048 + 2) % 34 * 2048) ≤ a → a < ringAt ((s.mgt.log.head / 2048 + 2) % 34 * 2048) + 65536 → t.fbyte a = 0xFF)) ∧
    (∀ x, s.mgt.log.pinned = [x] → s.mgt.log.waiting = [] → x.pinned = true → (s.mgt.log.head + 1) % 2048 ≠ 0 → s.mgt.log.head < 69632 →
      (s.mgt.log.pinHead < pinSlots → Does (.logFlush none) s fun t => t.fbytes (ringAt s.mgt.log.head) 32 = x.bytes ∧ t.fbytes (pinAt s.mgt.log.pinHead) 32 = x.bytes ∧
        t.mgt.log.head = s.mgt.log.head + 1 ∧ t.mgt.log.pinHead = s.mgt.log.pinHead + 1) ∧
      (pinSlots ≤ s.mgt.log.pinHead → Does (.logFlush none) s fun t => t.fbytes (ringAt s.mgt.log.head) 32 = x.bytes ∧ t.flag R.MGT_STAT_pin_full = true ∧
        Raises s t (if s.flag R.MGT_STAT_pin_full then [] else [(Ev.MGT_PIN_FULL, 0xFFFF, [])])))) ∧
  (∀ (s : Dev) (k : Fin 4),
    ((∀ x, s.mgt.subs[(k : Nat)]? = some x → (x.period = 0 ∨ s.lapsed x = true ∨ s.elapsed x.last (x.period * 1000) = false ∨ s.serving = false)) →
      Does (.subscriptionPeriod k) s (OnlyQuiet s)) ∧
    (∀ x, s.mgt.subs[(k : Nat)]? = some x → x.period ≠ 0 → s.lapsed x = false → s.elapsed x.last (x.period * 1000) = true → s.serving = true →
      ((x.sec ≠ s.time.clk / hz ∨ x.sent < 64) → Does (.subscriptionPeriod k) s fun t => (∃ cmd tag target b, b.length = 128 ∧ b.take 8 = leBytes 8 s.time.cnt ∧
          t.mgt.tx = [(x.src, mgtHeader 2 cmd tag 128 0 target ++ b)]) ∧
        t.mgt.subs = s.mgt.subs.set k { x with last := x.last + x.period * hz, sec := s.time.clk / hz, sent := (if x.sec = s.time.clk / hz then x.sent else 0) + 1 } ∧
        SameRegs [] s t ∧ Only mgtParts s t) ∧
      (x.sec = s.time.clk / hz → 64 ≤ x.sent → Does (.subscriptionPeriod k) s fun t => t.mgt.tx = [] ∧ CountsOne R.MGT_NTF_DROP s t ∧
        t.mgt.subs = s.mgt.subs.set k { x with last := x.last + x.period * hz } ∧ SameRegs (mgtCountRegs R.MGT_NTF_DROP) s t ∧ Only mgtParts s t)) ∧
    ((∀ x, s.mgt.subs[(k : Nat)]? = some x → s.lapsed x = false) → Does (.subscriptionLapse k) s fun t => t.mgt = s.mgt ∧ SameRegs [] s t ∧ Only mgtParts s t) ∧
    (∀ x, s.mgt.subs[(k : Nat)]? = some x → s.lapsed x = true → Does (.subscriptionLapse k) s fun t => t.mgt = { s.mgt with subs := s.mgt.subs.eraseIdx k } ∧
      SameRegs [] s t ∧ Only mgtParts s t))

/-- SEQUENCER_ENABLE, SEQUENCER_STOP, SEQUENCER_ENTRY, SENSE_RESULT, MANUAL_CONVERSION_REQUEST, MANUAL_CONVERSION_RUN (R10, R428, R433–R440).
Completes: sequencerEnable, sequencerStop, sequencerEntry, senseResult, manualConversionRequest, manualConversionRun. -/
def Obligations.SenseConverter : Prop :=
  (∀ (s : Dev) (v : Word), s.flag R.SYS_BOOT_STAT_done = true →
    Does (.sequencerEnable v) s (fun t => t.sns = s.sns ∧ Raises s t [(Ev.MGT_LOCKED_WRITE, 0xFFFF, [(40, (R.SNS_CTL : Int))])] ∧ SameRegs [] s t ∧ Only snsParts s t) ∧
    Does (.sequencerStop v) s (fun t => t.sns = s.sns ∧ Raises s t [(Ev.MGT_LOCKED_WRITE, 0xFFFF, [(40, (R.SNS_CTL : Int))])] ∧ SameRegs [] s t ∧ Only snsParts s t)) ∧
  (∀ (s : Dev) (v : Word), s.flag R.SYS_BOOT_STAT_done = false →
    Does (.sequencerStop v) s (fun t => t.sns = { s.sns with run := false } ∧ t.rd R.SNS_CTL = v.toNat / 2 % 4096 * 2 ∧ SameRegs [R.SNS_CTL] s t ∧ Only snsParts s t ∧
      t.raised = s.raised) ∧
    Does (.sequencerEnable v) s (fun t => t.rd R.SNS_CTL = v.toNat / 2 % 4096 * 2 + 1 ∧ (s.sns.run = true → t.sns = s.sns) ∧
      (s.sns.run = false → t.sns.run = true ∧ t.sns.fixed = false ∧ t.sns.k = 0 ∧ t.sns.len = v.toNat / 2 % 64 ∧ t.sns.settle = v.toNat / 128 % 16 ∧
        t.sns.nthr = v.toNat / 2048 % 4 ∧ t.sns.runs = s.sns.runs) ∧ t.raised = s.raised ∧ SameRegs [R.SNS_CTL] s t ∧ Only snsParts s t)) ∧
  (∀ (s : Dev), (s.sns.run = false ∨ s.phase = 0) → Does .sequencerEntry s fun t => t.sns = s.sns ∧ SameRegs [] s t ∧ Only snsParts s t) ∧
  (∀ (s : Dev) (w0 w1 i : Nat), s.sns.run = true → s.phase ≠ 0 → s.snsEntry s.sns.k = (w0, w1) → i = w0 % 64 →
    (44 ≤ i → Does .sequencerEntry s fun t => t.flag R.SNS_STAT_cfg_bad = true ∧ SameMem s t ∧ SameFlash s t ∧
      (s.sns.logged.contains s.sns.k = false → ∃ f : Nat, Logs s t (Ev.SNS_CFG_BAD, 0xFFFF, [(6, (s.sns.k : Int)), (4, (f : Int))]))) ∧
    (i < 44 →
      ((s.snsDelayEnd w0 = none ∨ ∃ b, s.snsDelayEnd w0 = some b ∧ (s.snsClk < b + s.snsSettle i ∨ s.manFirst b = true)) → Does .sequencerEntry s fun t => t.sns = s.sns ∧
        SameRegs [] s t ∧ Only snsParts s t) ∧
      (∀ b, s.snsDelayEnd w0 = some b → b + s.snsSettle i ≤ s.snsClk → s.manFirst b = false → Does .sequencerEntry s fun t =>
        t.sns.runs = s.sns.runs ++ [⟨i, bits w0 6 8 + 1, bit w1 3, if bit w1 4 then none else some (w1 % 8), s.sns.k, b + s.snsSettle i,
          s.snsCount (b + s.snsSettle i) / tickTc, 0⟩] ∧
        t.sns.input = some i ∧ t.sns.last = b + s.snsSettle i + bits w0 6 8 ∧ t.sns.k = (if s.sns.k + 1 < s.snsLen then s.sns.k + 1 else 0) ∧
        t.get R.SNS_STAT_entry = s.sns.k % 64 ∧ t.rd64 R.SNS_CONV = (s.rd64 R.SNS_CONV + bits w0 6 8 + 1) % 2 ^ 64 ∧
        (s.snsSlipped w0 = false → t.raised = s.raised ∧ t.rd R.SNS_SLIP = s.rd R.SNS_SLIP) ∧
        (s.snsSlipped w0 = true → CountsOne R.SNS_SLIP s t ∧ t.flag R.SNS_STAT_slip = true ∧ Logs s t (Ev.SNS_SLIP, 0xFFFF, [(6, (s.sns.k : Int))])) ∧
        (s.sns.k + 1 < s.snsLen → t.rd R.SNS_LOOP = s.rd R.SNS_LOOP) ∧
        (s.snsLen ≤ s.sns.k + 1 → t.rd R.SNS_LOOP = (b + s.snsSettle i + bits w0 6 8 + 1 - s.sns.loopAt) % 2 ^ 32 ∧ t.sns.len = s.get R.SNS_CTL_len ∧
          t.sns.settle = s.get R.SNS_CTL_settle ∧ t.sns.nthr = s.get R.SNS_CTL_nthr) ∧
        SameRegs [R.SNS_STAT, R.SNS_CONV, R.SNS_CONV_HI, R.SNS_LOOP, R.SNS_SLIP, R.SNS_CNT_OVF] s t ∧ Only snsParts s t))) ∧
  (∀ (s : Dev) (codes : List (BitVec 14)), s.sns.runs = [] → Does (.senseResult codes) s fun t => t.sns = s.sns ∧ SameRegs [] s t ∧ Only snsParts s t) ∧
  (∀ (s : Dev) (codes : List (BitVec 14)) (x : SnsRun) (rest : List SnsRun) (need : Nat) (due : Nat) (v : Int), s.sns.runs = x :: rest →
    need = (if x.avg then x.reps else 1) → due = x.start + (if x.avg then x.reps - 1 else x.given) + 8 → v = s.snsCorrect x.input (snsMean (codes.map (·.toNat))) →
    ((codes.length ≠ need ∨ s.snsClk < due) → Does (.senseResult codes) s fun t => t.sns = s.sns ∧ SameRegs [] s t ∧ Only snsParts s t) ∧
    (codes.length = need → due ≤ s.snsClk → x.input < 44 → (∀ r, x.ring = some r → r < 8) →
      Does (.senseResult codes) s (fun t => t.get (R.SNS_LAST_value x.input) = toBits 16 v ∧
        t.sns.runs = if x.avg = true ∨ x.reps ≤ x.given + 1 then rest else { x with given := x.given + 1 } :: rest) ∧
      (s.flag R.MGT_STAT_env_stop = false →
        (s.snsOut x.input v = (false, false) → s.flag (R.SNS_LAST_above x.input) = false → s.flag (R.SNS_LAST_below x.input) = false →
          (x.ring = none → Does (.senseResult codes) s fun t => t.raised = s.raised ∧ tget 0 t.sns.up x.input = 0 ∧ tget 0 t.sns.dn x.input = 0 ∧
            SameRegs [R.SNS_LAST x.input] s t ∧ Only snsParts s t) ∧
          (∀ r a, x.ring = some r → r < 8 → a = s.rd (R.SNS_RING_BASE r) / 8 * 8 + s.rd64 (R.SNS_RING_WR_LO r) % s.snsRecords r * 8 →
            ((s.rd64 (R.SNS_RING_WR_LO r) + 2 ^ 32 - s.rd (R.SNS_RING_RD r)) % 2 ^ 32 < s.snsRecords r → Does (.senseResult codes) s fun t =>
              (a + 8 ≤ 0x200000 → t.le a 8 = s.snsRecord x v % 2 ^ 64) ∧ (∀ b, (b < a ∨ a + 8 ≤ b ∨ 0x200000 < a + 8) → t.byte b = s.byte b) ∧
              t.rd64 (R.SNS_RING_WR_LO r) = (s.rd64 (R.SNS_RING_WR_LO r) + 1) % 2 ^ 64 ∧ t.raised = s.raised ∧
              SameRegs [R.SNS_LAST x.input, R.SNS_RING_WR_LO r, R.SNS_RING_WR_HI r] s t ∧ SameFlash s t) ∧
            (s.snsRecords r ≤ (s.rd64 (R.SNS_RING_WR_LO r) + 2 ^ 32 - s.rd (R.SNS_RING_RD r)) % 2 ^ 32 → Does (.senseResult codes) s fun t =>
              CountsOne R.SNS_DROP s t ∧ t.flag R.SNS_STAT_ovf = true ∧ (s.flag R.SNS_STAT_ovf = false → Logs s t (Ev.SNS_RING_OVF, 0xFFFF, [(12, (r : Int))])) ∧
              SameRegs [R.SNS_LAST x.input, R.SNS_DROP, R.SNS_CNT_OVF, R.SNS_STAT] s t ∧ Only snsParts s t))) ∧
        (∀ above : Bool, x.ring = none → s.snsOut x.input v = (above, !above) → s.flag (if above then R.SNS_LAST_above x.input else R.SNS_LAST_below x.input) = false →
          s.sns.nthr < (if above then tget 0 s.sns.up x.input else tget 0 s.sns.dn x.input) + 1 →
          Does (.senseResult codes) s (fun t => t.flag (R.SNS_LAST_above x.input) = above ∧ t.flag (R.SNS_LAST_below x.input) = !above ∧ t.flag R.SNS_STAT_limit = true) ∧
          (s.snsAct x.input = 0 → Does (.senseResult codes) s fun t => t.raised = s.raised ∧ SameRegs [R.SNS_LAST x.input, R.SNS_STAT] s t ∧ Only snsParts s t) ∧
          (s.snsAct x.input ≠ 0 → Does (.senseResult codes) s fun t => CountsOne R.SNS_LIMX s t ∧
            Logs s t (Ev.SNS_LIMIT, 0xFFFF, [(6, (x.input : Int)), (32, v), (1, ((b2n above : Nat) : Int)), (2, (s.snsAct x.input : Int))])) ∧
          (s.snsAct x.input = 1 → Does (.senseResult codes) s fun t => SameRegs [R.SNS_LAST x.input, R.SNS_STAT, R.SNS_LIMX, R.SNS_CNT_OVF] s t ∧ Only snsParts s t) ∧
          (s.snsAct x.input = 2 → Does (.senseResult codes) s fun t => EnvStopped (s.snsCause x.input) t ∧
            Logs s t (Ev.MGT_ENV_STOP, 0xFFFF, [(4, (s.snsCause x.input : Int)), (32, v)]))) ∧
        (∀ above : Bool, x.ring = none → s.snsOut x.input v = (above, !above) →
          (if above then tget 0 s.sns.up x.input else tget 0 s.sns.dn x.input) + 1 ≤ s.sns.nthr → Does (.senseResult codes) s fun t => t.raised = s.raised ∧
            tget 0 (if above then t.sns.up else t.sns.dn) x.input = (if above then tget 0 s.sns.up x.input else tget 0 s.sns.dn x.input) + 1 ∧
            tget 0 (if above then t.sns.dn else t.sns.up) x.input = 0 ∧ SameRegs [R.SNS_LAST x.input] s t ∧ Only snsParts s t) ∧
        (x.ring = none → s.snsOut x.input v = (false, false) → (s.flag (R.SNS_LAST_above x.input) = true ∨ s.flag (R.SNS_LAST_below x.input) = true) →
          Does (.senseResult codes) s fun t => t.flag (R.SNS_LAST_above x.input) = false ∧ t.flag (R.SNS_LAST_below x.input) = false ∧
            Raises s t (if s.snsAct x.input = 0 then [] else [(Ev.SNS_RETURN, 0xFFFF, [(6, (x.input : Int)), (32, v)])]) ∧
            SameRegs [R.SNS_LAST x.input] s t ∧ Only snsParts s t)))) ∧
  (∀ (s : Dev) (v : Word),
    (44 ≤ v.toNat % 64 → Does (.manualConversionRequest v) s fun t => t.rd R.SNS_MAN_RES = 0x30000 ∧ t.flag R.SNS_STAT_cfg_bad = true ∧
      t.sns = { s.sns with man := none } ∧ SameRegs [R.SNS_MAN_RES, R.SNS_STAT] s t ∧ Only snsParts s t) ∧
    (v.toNat % 64 < 44 → Does (.manualConversionRequest v) s fun t => t.rd R.SNS_MAN_RES = 0 ∧ t.sns = { s.sns with man := some (v.toNat % 2 ^ 15, s.snsClk) } ∧
      SameRegs [R.SNS_MAN_RES] s t ∧ Only snsParts s t)) ∧
  (∀ (s : Dev) (codes : List (BitVec 14)), s.sns.man = none → Does (.manualConversionRun codes) s fun t => t.sns = s.sns ∧ SameRegs [] s t ∧ Only snsParts s t) ∧
  (∀ (s : Dev) (codes : List (BitVec 14)) (w m i n start : Nat), s.sns.man = some (w, m) → i = w % 64 → n = bits w 6 8 + 1 → start = max (s.sns.last + 1) m + s.snsSettle i →
    ((codes.length ≠ n ∨ s.sns.runs ≠ [] ∨ s.snsClk < start + n + 7) → Does (.manualConversionRun codes) s fun t => t.sns = s.sns ∧ SameRegs [] s t ∧ Only snsParts s t) ∧
    (codes.length = n → s.sns.runs = [] → start + n + 7 ≤ s.snsClk → i < 44 →
      (s.sns.run = false ∨ s.phase = 0 ∨ ∃ b, s.snsDelayEnd (s.snsEntry s.sns.k).1 = some b ∧ m < b) →
      Does (.manualConversionRun codes) s fun t => t.flag R.SNS_MAN_RES_done = true ∧ t.sns.man = none ∧ t.sns.input = some i ∧ t.sns.last = start + n - 1 ∧
        t.rd64 R.SNS_CONV = (s.rd64 R.SNS_CONV + n) % 2 ^ 64 ∧ t.get R.SNS_MAN_RES_value = t.get (R.SNS_LAST_value i) ∧
        (bit w 14 = true → t.get R.SNS_MAN_RES_value = toBits 16 (s.snsCorrect i (snsMean (codes.map (·.toNat))))) ∧
        (∀ c, bit w 14 = false → codes.getLast? = some c → t.get R.SNS_MAN_RES_value = toBits 16 (s.snsCorrect i c.toNat))))

/-- AGE_MEAS_REQUEST, AGE_MEASURE_TIMER, AGE_MEASURE, AGE_VSTEP, PWR_ALERT, DOMAIN_REQUEST, PWR_DOM, LANE_GROUP_AUTO_OFF (R444–R449, R453–R456).
Completes: ageMeasRequest, ageMeasureTimer, ageMeasure, ageVstep, pwrAlert, domainRequest, pwrDom, laneGroupAutoOff. -/
def Obligations.AgeingAndPower : Prop :=
  (∀ (s : Dev),
    (s.age.busy ≠ none → Does .ageMeasRequest s fun t => t.age = s.age ∧ SameRegs [] s t ∧ Only ageParts s t) ∧
    (s.age.busy = none → Does .ageMeasRequest s fun t => t.age = { s.age with busy := some s.time.clk } ∧ t.flag R.AGE_STAT_busy = true ∧ t.raised = s.raised ∧
      SameRegs [R.AGE_STAT] s t ∧ Only ageParts s t) ∧
    ((s.age.lastSec = none ∨ s.age.busy ≠ none ∨ s.flag R.SYS_BOOT_STAT_done = false ∨ ∃ n, s.age.lastSec = some n ∧ s.mtcSec < n + 86400) →
      Does .ageMeasureTimer s fun t => t.age = s.age ∧ SameRegs [] s t ∧ Only ageParts s t) ∧
    (∀ n, s.age.lastSec = some n → s.age.busy = none → s.flag R.SYS_BOOT_STAT_done = true → n + 86400 ≤ s.mtcSec → Does .ageMeasureTimer s fun t =>
      t.age = { s.age with busy := some s.time.clk } ∧ t.flag R.AGE_STAT_busy = true ∧ SameRegs [R.AGE_STAT] s t ∧ Only ageParts s t)) ∧
  (∀ (s : Dev) (l : List MonReading), (s.age.busy = none ∨ l.length ≠ 384 ∨ ∃ b, s.age.busy = some b ∧ s.time.clk < b + 20615844) →
    Does (.ageMeasure l) s fun t => t.age = s.age ∧ SameRegs [] s t ∧ Only ageParts s t) ∧
  (∀ (s : Dev) (r : List MonReading) (l : List (Int × Bool)) (b : Nat) (ds : List (Option Int)) (dv : Nat), s.age.busy = some b → r.length = 384 → l = s.monReadings r → b + 20615844 ≤ s.time.clk →
    ds = (List.range 33).map (fun g => (groupD l g).map (·.1)) → dv = max (s.get R.AGE_VOFS_ofs) (voltageFor (s.get R.AGE_VOFS_budget) (worstGroup ds).1) →
    Does (.ageMeasure r) s fun t => t.age.busy = none ∧ t.flag R.AGE_STAT_busy = false ∧ t.age.lastSec = some s.mtcSec ∧ t.age.hist = s.age.hist ++ [(s.mtcSec, ds)] ∧
      CountsOne R.AGE_MEAS_CNT s t ∧ t.get R.AGE_VOFS_ofs = dv ∧
      Logs s t (Ev.AGE_MEASURE, 0xFFFF, [(32, (worstGroup ds).1), (6, ((worstGroup ds).2 : Int)), (16, (s.get R.AGE_LIFE_days : Int))]) ∧
      (∀ m x, l[m]? = some x → t.get (R.AGE_MON_d m) = toBits 21 x.1 ∧ t.flag (R.AGE_MON_bad m) = x.2 ∧
        (x.2 = true → t.flag R.AGE_STAT_mon_bad = true ∧ Logs s t (Ev.AGE_MON_BAD, 0xFFFF, [(9, (m : Int))]))) ∧
      (∀ (m : Nat) (fs fr : BitVec 32) (d : Int), r[m]? = some (.pair fs fr) → m % 2 = 0 → fs ≠ 0 → fr ≠ 0 →
        ((fr.toNat : Int) - fs.toNat) * 1000000 = (d + Config.ageBaseline m (s.otp (0x9E0 + 4 * m) 4)) * fr.toNat → -1048576 ≤ d → d < 1048576 →
        l[m]? = some (d, decide (d < -2000))) ∧
      (∀ (m : Nat) (k : BitVec 32), r[m]? = some (.pair 0 k) ∨ r[m]? = some (.pair k 0) ∨ r[m]? = some (.replica none) → ∃ x, l[m]? = some (x, true)) ∧
      (∀ g d m, g < 33 → groupD l g = some (d, m) → t.get (R.AGE_GRP_D_d g) = toBits 21 d ∧ t.get (R.AGE_GRP_INFO_worst g) = m ∧
        t.flag (R.AGE_GRP_INFO_exh g) = decide ((ageLimit g dv (s.get R.AGE_VOFS_budget) : Int) < d) ∧
        ((ageLimit g dv (s.get R.AGE_VOFS_budget) : Int) < d → t.flag R.AGE_STAT_exhausted = true ∧ Logs s t (Ev.AGE_EXHAUSTED, 0xFFFF, [(6, (g : Int)), (32, d)]) ∧
          (g < 24 → (1, (⟨0, g⟩ : PlcUnit)) ∈ t.plc.triggers)) ∧
        (g < 24 → s.age.clk.find? (·.1 == g) = none → s.get (R.POD_PSTAT_clk g) < clockFor dv d → (2, (⟨0, g⟩ : PlcUnit)) ∈ t.plc.triggers ∧
          t.age.clk.find? (·.1 == g) = some (g, clockFor dv d) ∧ Logs s t (Ev.AGE_CLK_STEP, g, [(5, (g : Int)), (2, (clockFor dv d : Int))]))) ∧
      SameMem s t ∧ SameFlash s t) ∧
  (∀ (s : Dev) (pmb : List (Fin 8 × BitVec 8)) (cur : Nat), cur = s.get R.AGE_VSET_mv - s.age.start →
    ((s.get R.AGE_VOFS_ofs ≤ cur ∨ s.flag R.SYS_BOOT_STAT_done = false ∨ s.time.clk < s.age.stepAt + 983040) → Does (.ageVstep pmb) s fun t => t.age = s.age ∧
      SameRegs [] s t ∧ Only ageParts s t) ∧
    (cur < s.get R.AGE_VOFS_ofs → s.flag R.SYS_BOOT_STAT_done = true → s.age.stepAt + 983040 ≤ s.time.clk →
      ((∀ e ∈ pmb, s.coreRegulators.contains (e.1 : Nat) = false) → Does (.ageVstep pmb) s fun t => t.age = { s.age with stepAt := s.time.clk } ∧ t.pwr = { s.pwr with bus := s.coreSet (s.age.start + min (cur + 5) (s.get R.AGE_VOFS_ofs)) } ∧
        t.get R.AGE_VSET_mv = (s.age.start + min (cur + 5) (s.get R.AGE_VOFS_ofs)) % 1024 ∧
        Raises s t [(Ev.AGE_VSTEP, 0xFFFF, [(7, (cur : Int)), (7, ((min (cur + 5) (s.get R.AGE_VOFS_ofs) : Nat) : Int))])] ∧ SameRegs [R.AGE_VSET] s t ∧ Only agePwrParts s t) ∧
      (∀ k c, k ∈ s.coreRegulators → k < 8 → pmb.map (fun e => ((e.1 : Nat), e.2)) = [(k, c)] → Does (.ageVstep pmb) s fun t => t.age = { s.age with stepAt := s.time.clk } ∧
        t.get R.AGE_VSET_mv = s.get R.AGE_VSET_mv ∧ CountsOne R.PWR_PMB_ERR s t ∧ t.flag R.PWR_STAT_pmb_err = true ∧
        Logs s t (Ev.PWR_PMB_ERR, 0xFFFF, [(7, (s.get (R.PWR_REG_addr k) : Int)), (8, ((c.toNat : Nat) : Int))]) ∧ t.pwr = { s.pwr with bus := t.pwr.bus } ∧ SameRegs [R.PWR_PMB_ERR, R.PWR_STAT] s t ∧ Only agePwrParts s t))) ∧
  (∀ (s : Dev) (status : List (Option (BitVec 16))),
    Does (.pwrAlert status) s (fun t => t.flag R.PWR_STAT_alert = true ∧
      (∀ k, k ∈ s.regulators → ∀ w, status[k]? = some (some w) → t.get (R.PWR_REG_STAT_status k) = w.toNat ∧
        Logs s t (Ev.PWR_ALERT, 0xFFFF, [(7, (s.get (R.PWR_REG_addr k) : Int)), (16, ((w.toNat : Nat) : Int))])) ∧
      (∀ k, k ∈ s.regulators → (status[k]?).join = none → t.flag R.PWR_STAT_pmb_err = true ∧
        Logs s t (Ev.PWR_PMB_ERR, 0xFFFF, [(7, (s.get (R.PWR_REG_addr k) : Int)), (8, 0x79)])) ∧
      t.rd R.PWR_PMB_ERR = min (s.rd R.PWR_PMB_ERR + (s.regulators.filter fun k => (status[k]?).join.isNone).length) 0xFFFFFFFF ∧
      t.pwr = { s.pwr with bus := s.regulators.flatMap fun k => List.replicate (if s.regulators.any (fun j => s.get (R.PWR_REG_addr j) == s.get (R.PWR_REG_addr k) && ((status[j]?).join).isNone) then 3 else 1) (s.get (R.PWR_REG_addr k), 0x79, 0) } ∧
      SameRegs ([R.PWR_STAT, R.PWR_PMB_ERR] ++ (List.range 8).map R.PWR_REG_STAT) s t ∧ Only agePwrParts s t)) ∧
  (∀ (s : Dev) (hi : Bool) (v : Word), (∀ d, (if hi then 32 ≤ d ∧ d < 48 else d < 32) → bit v.toNat (d % 32) = s.domReq d) →
    Does (.domainRequest hi v) s fun t => t.pwr = s.pwr ∧ SameRegs [] s t ∧ Only regsOnly s t) ∧
  (∀ (s : Dev) (hi on : Bool) (v : Word) (d : Nat), (if hi then 32 ≤ d ∧ d < 48 else d < 32) → bit v.toNat (d % 32) = on → s.domReq d = !on →
    (∀ e, e ≠ d → (if hi then 32 ≤ e ∧ e < 48 else e < 32) → bit v.toNat (e % 32) = s.domReq e) →
    (s.autoGroup d = true → Does (.domainRequest hi v) s fun t => t.domReq d = on ∧ t.pwr = s.pwr ∧ t.raised = s.raised ∧
      SameRegs [if d < 32 then R.PWR_REQ_LO else R.PWR_REQ_HI] s t ∧ Only regsOnly s t) ∧
    (s.autoGroup d = false →
      (on = false → (s.domUsed d = true ∨ (isGroup d = true ∧ s.groupParked d = false)) → Does (.domainRequest hi v) s fun t => t.domReq d = true ∧ t.pwr = s.pwr ∧
        t.flag R.PWR_STAT_refused = true ∧ Raises s t [(Ev.PWR_REFUSED, 0xFFFF, [(6, (d : Int))])] ∧ SameRegs [R.PWR_STAT, if d < 32 then R.PWR_REQ_LO else R.PWR_REQ_HI] s t ∧
        Only regsEvents s t) ∧
      ((on = true ∨ (s.domUsed d = false ∧ (isGroup d = false ∨ s.groupParked d = true))) → Does (.domainRequest hi v) s fun t => t.domReq d = on ∧
        t.pwr.todo = s.pwr.todo.filter (fun e => e.1 != d) ++ (if s.domOn d = on then [] else [(d, on, 2)]) ∧
        t.flag R.PWR_STAT_busy = !t.pwr.todo.isEmpty ∧ t.raised = s.raised ∧ SameRegs [R.PWR_STAT, if d < 32 then R.PWR_REQ_LO else R.PWR_REQ_HI] s t ∧
        Only (fun s t => { t with pwr := s.pwr }) s t))) ∧
  (∀ (s : Dev) (d : Fin 48),
    (s.domDue d = none → Does (.pwrDom d) s fun t => t.pwr = s.pwr ∧ SameRegs [] s t ∧ Only regsOnly s t) ∧
    (∀ on cause, s.domDue d = some (on, cause) → Does (.pwrDom d) s fun t => t.domOn d = on ∧ (∀ e, e < 48 → e ≠ (d : Nat) → t.domOn e = s.domOn e) ∧
      t.pwr.todo = s.pwr.todo.filter (fun e => e.1 != (d : Nat)) ∧ t.rd64 R.PWR_SW_CNT = (s.rd64 R.PWR_SW_CNT + 1) % 2 ^ 64 ∧
      Logs s t (Ev.PWR_DOM, 0xFFFF, [(6, ((d : Nat) : Int)), (1, ((b2n on : Nat) : Int)), (4, (cause : Int))]) ∧ SameFlash s t ∧
      (on = false → (d : Nat) < 24 → ∀ a, t.byte a = if 0x0200000000 + (d : Nat) * 0x100000 ≤ a ∧ a < 0x0200000000 + ((d : Nat) + 1) * 0x100000 then 0 else s.byte a) ∧
      (on = false → (d : Nat) < 24 → t.flag R.PWR_STAT_busy = (!t.pwr.todo.isEmpty) ∧
        SameRegs [R.PWR_DOM_LO, R.PWR_STAT, R.PWR_SW_CNT, R.PWR_SW_CNT_HI] s t))) ∧
  (∀ (s : Dev) (g : Fin 16) (d : Nat), d = 24 + (g : Nat) →
    (∀ park : Bool, park = (s.autoGroup d && s.domOn d && s.groupParked d && !(groupLanes d).any (fun n => (s.link (s.linkOf n)).wake.isSome)) →
      (park = false → Does (.laneGroupAutoOff g) s fun t => t.domOn d = s.domOn d ∧ SameRegs [] s t ∧ Only regsOnly s t) ∧
      (park = true → Does (.laneGroupAutoOff g) s fun t => t.domOn d = false ∧ (∀ e, e < 48 → e ≠ d → t.domOn e = s.domOn e) ∧
        t.rd64 R.PWR_SW_CNT = (s.rd64 R.PWR_SW_CNT + 1) % 2 ^ 64 ∧ Raises s t [(Ev.PWR_DOM, 0xFFFF, [(6, (d : Int)), (1, 0), (4, 1)])] ∧
        SameRegs [R.PWR_DOM_LO, R.PWR_DOM_HI, R.PWR_SW_CNT, R.PWR_SW_CNT_HI] s t ∧ SameMem s t ∧ SameFlash s t)))
end

