-- ==== Sys2Proof/Laws/Table.lean ====
section
/-!
SUPPORT. Sparse tables: what a read gives after a write, and that writes and the rebuilding of a table keep the canonical form.
-/

namespace Sys2Proof.Machine

variable {α : Type}

/-! ### Reads after writes -/

@[simp] theorem tget_tdel_same (d : α) (t : Tbl α) (k : Nat) : tget d (tdel t k) k = d := by
  induction t with
  | nil => rfl
  | cons e r ih =>
    obtain ⟨j, v⟩ := e
    by_cases h : k = j
    · simp [tdel, h]; rw [← h]; exact ih
    · simp [tdel, h, tget, ih]

theorem tget_tdel_ne (d : α) (t : Tbl α) {k i : Nat} (h : i ≠ k) : tget d (tdel t k) i = tget d t i := by
  induction t with
  | nil => rfl
  | cons e r ih =>
    obtain ⟨j, v⟩ := e
    by_cases hk : k = j
    · subst hk; simp [tdel, tget, h, ih]
    · by_cases hi : i = j <;> simp [tdel, hk, tget, hi, ih]

@[simp] theorem tget_tins_same (d : α) (t : Tbl α) (k : Nat) (v : α) : tget d (tins t k v) k = v := by
  induction t with
  | nil => simp [tins, tget]
  | cons e r ih =>
    obtain ⟨j, w⟩ := e
    by_cases h1 : k < j
    · simp [tins, h1, tget]
    · by_cases h2 : k = j
      · subst h2; simp [tins, tget]
      · simp [tins, h1, h2, tget, ih]

theorem tget_tins_ne (d : α) (t : Tbl α) {k i : Nat} (v : α) (h : i ≠ k) : tget d (tins t k v) i = tget d t i := by
  induction t with
  | nil => simp [tins, tget, h]
  | cons e r ih =>
    obtain ⟨j, w⟩ := e
    by_cases h1 : k < j
    · simp [tins, h1, tget, h]
    · by_cases h2 : k = j
      · subst h2; simp [tins, tget, h]
      · by_cases h3 : i = j <;> simp [tins, h1, h2, tget, h3, ih]

variable [DecidableEq α]

/-- A read of what was written. -/
@[simp] theorem tget_tput_same (d : α) (t : Tbl α) (k : Nat) (v : α) : tget d (tput d t k v) k = v := by
  unfold tput; split
  · next h => rw [h]; simp
  · simp

/-- A write leaves every other key alone, whatever the two keys' defaults are. -/
theorem tget_tput_ne (d d' : α) (t : Tbl α) {k i : Nat} (v : α) (h : i ≠ k) : tget d' (tput d t k v) i = tget d' t i := by
  unfold tput; split
  · exact tget_tdel_ne d' t h
  · exact tget_tins_ne d' t v h

/-- Both in one. -/
theorem tget_tput (d : Nat → α) (t : Tbl α) (k i : Nat) (v : α) :
    tget (d i) (tput (d k) t k v) i = if i = k then v else tget (d i) t i := by
  by_cases h : i = k
  · subst h; simp
  · simp [h, tget_tput_ne]

/-! ### The canonical form -/

theorem twfFrom_mono (d : Nat → α) {a b : Nat} (h : a ≤ b) (t : Tbl α) (w : twfFrom d b t = true) : twfFrom d a t = true := by
  cases t with
  | nil => rfl
  | cons e r =>
    obtain ⟨j, v⟩ := e
    simp only [twfFrom, Bool.and_eq_true, decide_eq_true_eq] at *
    exact ⟨⟨Nat.le_trans h w.1.1, w.1.2⟩, w.2⟩

theorem twfFrom_tdel (d : Nat → α) (t : Tbl α) (k lo : Nat) (w : twfFrom d lo t = true) : twfFrom d lo (tdel t k) = true := by
  induction t generalizing lo with
  | nil => rfl
  | cons e r ih =>
    obtain ⟨j, v⟩ := e
    simp only [twfFrom, Bool.and_eq_true, decide_eq_true_eq] at w
    by_cases h : k = j
    · simp only [tdel, h, if_true]
      have := ih _ (twfFrom_mono d (show lo ≤ j + 1 by omega) r w.2)
      rw [h] at this; exact this
    · simp only [tdel, h, if_false, twfFrom, Bool.and_eq_true, decide_eq_true_eq]
      exact ⟨w.1, ih _ w.2⟩

theorem twfFrom_tins (d : Nat → α) (t : Tbl α) (k lo : Nat) (v : α) (hv : v ≠ d k) (hlo : lo ≤ k) (w : twfFrom d lo t = true) :
    twfFrom d lo (tins t k v) = true := by
  induction t generalizing lo with
  | nil => simp [tins, twfFrom, hv, hlo]
  | cons e r ih =>
    obtain ⟨j, x⟩ := e
    simp only [twfFrom, Bool.and_eq_true, decide_eq_true_eq] at w
    by_cases h1 : k < j
    · simp only [tins, h1, if_true, twfFrom, Bool.and_eq_true, decide_eq_true_eq]
      exact ⟨⟨hlo, hv⟩, ⟨by omega, w.1.2⟩, w.2⟩
    · by_cases h2 : k = j
      · subst h2
        simp only [tins, Nat.lt_irrefl, if_false, if_true, twfFrom, Bool.and_eq_true, decide_eq_true_eq]
        exact ⟨⟨w.1.1, hv⟩, w.2⟩
      · simp only [tins, h1, h2, if_false, twfFrom, Bool.and_eq_true, decide_eq_true_eq]
        exact ⟨w.1, ih _ (by omega) w.2⟩

/-- A write keeps the canonical form. -/
theorem twf_tput (d : Nat → α) (t : Tbl α) (k : Nat) (v : α) (w : twf d t = true) : twf d (tput (d k) t k v) = true := by
  unfold tput twf at *
  split
  · exact twfFrom_tdel d t k 0 w
  · next h => exact twfFrom_tins d t k 0 v h (Nat.zero_le _) w

theorem twf_rebuild (d : Nat → α) (t : Tbl α) : twf d (t.foldr (fun e r => tput (d e.1) r e.1 e.2) []) = true := by
  induction t with
  | nil => rfl
  | cons e r ih => exact twf_tput d _ e.1 e.2 ih

/-- A rebuilt table is canonical. -/
@[simp] theorem twf_tcanon (d : Nat → α) (t : Tbl α) : twf d (tcanon d t) = true := by
  unfold tcanon; split
  · assumption
  · exact twf_rebuild d t

theorem tget_rebuild (d : Nat → α) (t : Tbl α) (k : Nat) : tget (d k) (t.foldr (fun e r => tput (d e.1) r e.1 e.2) []) k = tget (d k) t k := by
  induction t with
  | nil => rfl
  | cons e r ih =>
    obtain ⟨j, v⟩ := e
    simp only [List.foldr_cons, tget]
    rw [tget_tput d _ j k v]
    split
    · rfl
    · exact ih

/-- Rebuilding a table changes no read. -/
@[simp] theorem tget_tcanon (d : Nat → α) (t : Tbl α) (k : Nat) : tget (d k) (tcanon d t) k = tget (d k) t k := by
  unfold tcanon; split
  · rfl
  · exact tget_rebuild d t k

/-- A canonical table is left as it is. -/
theorem tcanon_of_twf (d : Nat → α) (t : Tbl α) (w : twf d t = true) : tcanon d t = t := by simp [tcanon, w]

end Sys2Proof.Machine
end

