-- ==== Sys2Proof/Laws/State.lean ====
section
/-!
SUPPORT. The device under each basic update: what a read of a register, a field or a byte gives after it, and that every other part of the
state is as it was.
-/

namespace Sys2Proof.Machine

variable (s : Dev)

/-! ### Reading through a record -/

@[simp] theorem Dev.rd_mk (x0 x1 x2 x3 x4 x5 x6 x7 x8 x9 x10 x11 x12 x13 x14 x15 x16 x17 x18 x19 x20 x21 x22 x23) (a : Nat) : (Dev.mk x0 x1 x2 x3 x4 x5 x6 x7 x8 x9 x10 x11 x12 x13 x14 x15 x16 x17 x18 x19 x20 x21 x22 x23).rd a = (tget (regReset a) x0 a).toNat := rfl
@[simp] theorem Dev.byte_mk (x0 x1 x2 x3 x4 x5 x6 x7 x8 x9 x10 x11 x12 x13 x14 x15 x16 x17 x18 x19 x20 x21 x22 x23) (a : Nat) : (Dev.mk x0 x1 x2 x3 x4 x5 x6 x7 x8 x9 x10 x11 x12 x13 x14 x15 x16 x17 x18 x19 x20 x21 x22 x23).byte a = (tget memDefault x2 a).toNat := rfl
@[simp] theorem Dev.fbyte_mk (x0 x1 x2 x3 x4 x5 x6 x7 x8 x9 x10 x11 x12 x13 x14 x15 x16 x17 x18 x19 x20 x21 x22 x23) (a : Nat) : (Dev.mk x0 x1 x2 x3 x4 x5 x6 x7 x8 x9 x10 x11 x12 x13 x14 x15 x16 x17 x18 x19 x20 x21 x22 x23).fbyte a = (tget flashDefault x3 a).toNat := rfl
@[simp] theorem Dev.rd_fold (a : Nat) : (tget (regReset a) s.regs a).toNat = s.rd a := rfl
@[simp] theorem Dev.byte_fold (a : Nat) : (tget memDefault s.mem a).toNat = s.byte a := rfl
@[simp] theorem Dev.fbyte_fold (a : Nat) : (tget flashDefault s.flash a).toNat = s.fbyte a := rfl

/-! ### Registers -/

theorem Dev.rd_wr (a v b : Nat) : (s.wr a v).rd b = if b = a then v % 2 ^ 32 else s.rd b := by
  unfold Dev.wr Dev.rd
  by_cases h : b = a
  · subst h; simp
  · simp [h, tget_tput_ne]

@[simp] theorem Dev.rd_wr_same (a v : Nat) : (s.wr a v).rd a = v % 2 ^ 32 := by simp [Dev.rd_wr]
theorem Dev.rd_wr_ne {a b : Nat} (v : Nat) (h : b ≠ a) : (s.wr a v).rd b = s.rd b := by simp [Dev.rd_wr, h]
theorem Dev.rd_lt (a : Nat) : s.rd a < 2 ^ 32 := (tget (regReset a) s.regs a).isLt

theorem Dev.rd_set (f : Field) (v b : Nat) :
    (s.set f v).rd b = if b = f.addr then setBits (s.rd f.addr) f.lo f.width v % 2 ^ 32 else s.rd b := by simp [Dev.set, Dev.rd_wr]
theorem Dev.rd_set_ne {f : Field} {b : Nat} (v : Nat) (h : b ≠ f.addr) : (s.set f v).rd b = s.rd b := by simp [Dev.rd_set, h]
theorem Dev.rd_setB_ne {f : Field} {b : Nat} (v : Bool) (h : b ≠ f.addr) : (s.setB f v).rd b = s.rd b := by simp [Dev.setB, Dev.rd_set, h]
theorem Dev.rd_setS_ne {f : Field} {b : Nat} (v : Int) (h : b ≠ f.addr) : (s.setS f v).rd b = s.rd b := by simp [Dev.setS, Dev.rd_set, h]

/-- A field of another register is as it was. -/
theorem Dev.get_set_ne {f g : Field} (v : Nat) (h : g.addr ≠ f.addr) : (s.set f v).get g = s.get g := by simp [Dev.get, Dev.rd_set, h]
theorem Dev.get_setB_ne {f g : Field} (b : Bool) (h : g.addr ≠ f.addr) : (s.setB f b).get g = s.get g := by simp [Dev.setB, Dev.get_set_ne, h]
theorem Dev.get_wr_ne {g : Field} (a v : Nat) (h : g.addr ≠ a) : (s.wr a v).get g = s.get g := by simp [Dev.get, Dev.rd_wr, h]

/-- A field after it is written. -/
theorem Dev.get_set_same (f : Field) (v : Nat) (h : f.lo + f.width ≤ 32) : (s.set f v).get f = v % 2 ^ f.width := by
  simp only [Dev.get, Dev.rd_set, if_true]
  rw [Nat.mod_eq_of_lt (setBits_lt (s.rd_lt _) h), bits_setBits_same]

/-- A field of the same register that the written one does not overlap is as it was. -/
theorem Dev.get_set_disjoint {f g : Field} (v : Nat) (ha : g.addr = f.addr) (h : f.lo + f.width ≤ 32)
    (d : g.lo + g.width ≤ f.lo ∨ f.lo + f.width ≤ g.lo) : (s.set f v).get g = s.get g := by
  simp only [Dev.get, Dev.rd_set, ha, if_true]
  rw [Nat.mod_eq_of_lt (setBits_lt (s.rd_lt _) h), bits_setBits_disjoint _ _ d]

theorem Dev.flag_setB_same (f : Field) (b : Bool) (h : f.lo + f.width ≤ 32) (w : 1 ≤ f.width) : (s.setB f b).flag f = b := by
  simp only [Dev.flag, Dev.setB, s.get_set_same f _ h]
  cases b <;> simp [b2n]
  omega

theorem Dev.rd_wr64 (a v b : Nat) :
    (s.wr64 a v).rd b = if b = hiOf a then v / 2 ^ 32 % 2 ^ 32 else if b = a then v % 2 ^ 32 else s.rd b := by
  simp only [Dev.wr64, Dev.rd_wr, Nat.mod_mod]

theorem Dev.rd64_wr64 (a v : Nat) (h : v < 2 ^ 64) : (s.wr64 a v).rd64 a = v := by
  have e : a ≠ hiOf a := by unfold hiOf; split <;> omega
  simp only [Dev.rd64, Dev.rd_wr64]; simp [e]; omega

theorem Dev.rd64_inc64 (a n : Nat) : (s.inc64 a n).rd64 a = (s.rd64 a + n) % 2 ^ 64 := by
  unfold Dev.inc64; exact s.rd64_wr64 a _ (Nat.mod_lt _ (by decide))

/-! ### Memory and flash -/

theorem Dev.byte_setByte (a v b : Nat) : (s.setByte a v).byte b = if b = a then v % 256 else s.byte b := by
  unfold Dev.setByte Dev.byte
  by_cases h : b = a
  · subst h; simp
  · simp [h, tget_tput_ne]

theorem Dev.fbyte_setFbyte (a v b : Nat) : (s.setFbyte a v).fbyte b = if b = a then v % 256 else s.fbyte b := by
  unfold Dev.setFbyte Dev.fbyte
  by_cases h : b = a
  · subst h; simp
  · simp [h, tget_tput_ne]

/-! ### Canonical forms -/

@[simp] theorem Dev.rd_canon (a : Nat) : s.canon.rd a = s.rd a := by simp only [Dev.rd, Dev.canon, tget_tcanon]
@[simp] theorem Dev.byte_canon (a : Nat) : s.canon.byte a = s.byte a := by
  simp only [Dev.byte, Dev.canon]; exact congrArg _ (tget_tcanon (fun _ => memDefault) s.mem a)
@[simp] theorem Dev.fbyte_canon (a : Nat) : s.canon.fbyte a = s.fbyte a := by
  simp only [Dev.fbyte, Dev.canon]; exact congrArg _ (tget_tcanon (fun _ => flashDefault) s.flash a)
@[simp] theorem Dev.get_canon (f : Field) : s.canon.get f = s.get f := by simp [Dev.get]
@[simp] theorem Dev.getS_canon (f : Field) : s.canon.getS f = s.getS f := by simp [Dev.getS]
@[simp] theorem Dev.flag_canon (f : Field) : s.canon.flag f = s.flag f := by simp [Dev.flag]
@[simp] theorem Dev.rd64_canon (a : Nat) : s.canon.rd64 a = s.rd64 a := by simp [Dev.rd64]
@[simp] theorem Dev.canonical_canon : s.canon.canonical = true := by simp [Dev.canonical, Dev.canon, Memory.wf]

theorem Dev.canonical_wr (a v : Nat) (h : s.canonical = true) : (s.wr a v).canonical = true := by
  simp only [Dev.canonical, Dev.wr, Bool.and_eq_true] at *
  exact ⟨⟨twf_tput regReset _ a _ h.1.1, h.1.2⟩, h.2⟩

theorem Dev.canonical_setByte (a v : Nat) (h : s.canonical = true) : (s.setByte a v).canonical = true := by
  simp only [Dev.canonical, Dev.setByte, Memory.wf, Bool.and_eq_true] at *
  exact ⟨⟨h.1.1, twf_tput (fun _ => memDefault) _ a _ h.1.2⟩, h.2⟩

theorem Dev.canonical_setFbyte (a v : Nat) (h : s.canonical = true) : (s.setFbyte a v).canonical = true := by
  simp only [Dev.canonical, Dev.setFbyte, Bool.and_eq_true] at *
  exact ⟨h.1, twf_tput (fun _ => flashDefault) _ a _ h.2⟩

theorem Dev.canon_of_canonical (h : s.canonical = true) : s.canon = s := by
  simp only [Dev.canonical, Memory.wf, Bool.and_eq_true] at h
  simp [Dev.canon, tcanon, h.1.1, h.1.2, h.2]

/-! ### Events -/

theorem Dev.raised_raise (c : Nat) (l : List (Nat × Int)) :
    (s.raise c l).raised.map (fun e => (e.code, e.src, e.data)) = s.raised.map (fun e => (e.code, e.src, e.data)) ++ [(c, 0xFFFF, packItems l)] := by
  simp [Dev.raise, Dev.raiseSrc]

theorem Dev.raised_raiseOf (c w v : Nat) (l : List (Nat × Int)) :
    (s.raiseOf c w v l).raised.map (fun e => (e.code, e.src, e.data)) =
      s.raised.map (fun e => (e.code, e.src, e.data)) ++ [(c, v % 2 ^ w, packItems ((w, (v : Int)) :: l))] := by
  simp [Dev.raiseOf, Dev.raiseSrc]

/-! ### What each update leaves alone -/

@[simp] theorem Dev.wr_latch (a v : Nat) : (s.wr a v).latch = s.latch := rfl
@[simp] theorem Dev.wr_mem (a v : Nat) : (s.wr a v).mem = s.mem := rfl
@[simp] theorem Dev.wr_flash (a v : Nat) : (s.wr a v).flash = s.flash := rfl
@[simp] theorem Dev.wr_rdata (a v : Nat) : (s.wr a v).rdata = s.rdata := rfl
@[simp] theorem Dev.wr_busErr (a v : Nat) : (s.wr a v).busErr = s.busErr := rfl
@[simp] theorem Dev.wr_raised (a v : Nat) : (s.wr a v).raised = s.raised := rfl
@[simp] theorem Dev.wr_freeCtr (a v : Nat) : (s.wr a v).freeCtr = s.freeCtr := rfl
@[simp] theorem Dev.wr_time (a v : Nat) : (s.wr a v).time = s.time := rfl
@[simp] theorem Dev.wr_eth (a v : Nat) : (s.wr a v).eth = s.eth := rfl
@[simp] theorem Dev.wr_lnk (a v : Nat) : (s.wr a v).lnk = s.lnk := rfl
@[simp] theorem Dev.wr_sto (a v : Nat) : (s.wr a v).sto = s.sto := rfl
@[simp] theorem Dev.wr_mov (a v : Nat) : (s.wr a v).mov = s.mov := rfl
@[simp] theorem Dev.wr_fex (a v : Nat) : (s.wr a v).fex = s.fex := rfl
@[simp] theorem Dev.wr_sca (a v : Nat) : (s.wr a v).sca = s.sca := rfl
@[simp] theorem Dev.wr_cod (a v : Nat) : (s.wr a v).cod = s.cod := rfl
@[simp] theorem Dev.wr_eng (a v : Nat) : (s.wr a v).eng = s.eng := rfl
@[simp] theorem Dev.wr_tsk (a v : Nat) : (s.wr a v).tsk = s.tsk := rfl
@[simp] theorem Dev.wr_plc (a v : Nat) : (s.wr a v).plc = s.plc := rfl
@[simp] theorem Dev.wr_boot (a v : Nat) : (s.wr a v).boot = s.boot := rfl
@[simp] theorem Dev.wr_mgt (a v : Nat) : (s.wr a v).mgt = s.mgt := rfl
@[simp] theorem Dev.wr_sns (a v : Nat) : (s.wr a v).sns = s.sns := rfl
@[simp] theorem Dev.wr_age (a v : Nat) : (s.wr a v).age = s.age := rfl
@[simp] theorem Dev.wr_pwr (a v : Nat) : (s.wr a v).pwr = s.pwr := rfl
@[simp] theorem Dev.wr_byte (a v : Nat) (k : Nat) : (s.wr a v).byte k = s.byte k := rfl
@[simp] theorem Dev.wr_fbyte (a v : Nat) (k : Nat) : (s.wr a v).fbyte k = s.fbyte k := rfl

@[simp] theorem Dev.set_latch (f : Field) (v : Nat) : (s.set f v).latch = s.latch := rfl
@[simp] theorem Dev.set_mem (f : Field) (v : Nat) : (s.set f v).mem = s.mem := rfl
@[simp] theorem Dev.set_flash (f : Field) (v : Nat) : (s.set f v).flash = s.flash := rfl
@[simp] theorem Dev.set_rdata (f : Field) (v : Nat) : (s.set f v).rdata = s.rdata := rfl
@[simp] theorem Dev.set_busErr (f : Field) (v : Nat) : (s.set f v).busErr = s.busErr := rfl
@[simp] theorem Dev.set_raised (f : Field) (v : Nat) : (s.set f v).raised = s.raised := rfl
@[simp] theorem Dev.set_freeCtr (f : Field) (v : Nat) : (s.set f v).freeCtr = s.freeCtr := rfl
@[simp] theorem Dev.set_time (f : Field) (v : Nat) : (s.set f v).time = s.time := rfl
@[simp] theorem Dev.set_eth (f : Field) (v : Nat) : (s.set f v).eth = s.eth := rfl
@[simp] theorem Dev.set_lnk (f : Field) (v : Nat) : (s.set f v).lnk = s.lnk := rfl
@[simp] theorem Dev.set_sto (f : Field) (v : Nat) : (s.set f v).sto = s.sto := rfl
@[simp] theorem Dev.set_mov (f : Field) (v : Nat) : (s.set f v).mov = s.mov := rfl
@[simp] theorem Dev.set_fex (f : Field) (v : Nat) : (s.set f v).fex = s.fex := rfl
@[simp] theorem Dev.set_sca (f : Field) (v : Nat) : (s.set f v).sca = s.sca := rfl
@[simp] theorem Dev.set_cod (f : Field) (v : Nat) : (s.set f v).cod = s.cod := rfl
@[simp] theorem Dev.set_eng (f : Field) (v : Nat) : (s.set f v).eng = s.eng := rfl
@[simp] theorem Dev.set_tsk (f : Field) (v : Nat) : (s.set f v).tsk = s.tsk := rfl
@[simp] theorem Dev.set_plc (f : Field) (v : Nat) : (s.set f v).plc = s.plc := rfl
@[simp] theorem Dev.set_boot (f : Field) (v : Nat) : (s.set f v).boot = s.boot := rfl
@[simp] theorem Dev.set_mgt (f : Field) (v : Nat) : (s.set f v).mgt = s.mgt := rfl
@[simp] theorem Dev.set_sns (f : Field) (v : Nat) : (s.set f v).sns = s.sns := rfl
@[simp] theorem Dev.set_age (f : Field) (v : Nat) : (s.set f v).age = s.age := rfl
@[simp] theorem Dev.set_pwr (f : Field) (v : Nat) : (s.set f v).pwr = s.pwr := rfl
@[simp] theorem Dev.set_byte (f : Field) (v : Nat) (k : Nat) : (s.set f v).byte k = s.byte k := rfl
@[simp] theorem Dev.set_fbyte (f : Field) (v : Nat) (k : Nat) : (s.set f v).fbyte k = s.fbyte k := rfl

@[simp] theorem Dev.setS_latch (f : Field) (v : Int) : (s.setS f v).latch = s.latch := rfl
@[simp] theorem Dev.setS_mem (f : Field) (v : Int) : (s.setS f v).mem = s.mem := rfl
@[simp] theorem Dev.setS_flash (f : Field) (v : Int) : (s.setS f v).flash = s.flash := rfl
@[simp] theorem Dev.setS_rdata (f : Field) (v : Int) : (s.setS f v).rdata = s.rdata := rfl
@[simp] theorem Dev.setS_busErr (f : Field) (v : Int) : (s.setS f v).busErr = s.busErr := rfl
@[simp] theorem Dev.setS_raised (f : Field) (v : Int) : (s.setS f v).raised = s.raised := rfl
@[simp] theorem Dev.setS_freeCtr (f : Field) (v : Int) : (s.setS f v).freeCtr = s.freeCtr := rfl
@[simp] theorem Dev.setS_time (f : Field) (v : Int) : (s.setS f v).time = s.time := rfl
@[simp] theorem Dev.setS_eth (f : Field) (v : Int) : (s.setS f v).eth = s.eth := rfl
@[simp] theorem Dev.setS_lnk (f : Field) (v : Int) : (s.setS f v).lnk = s.lnk := rfl
@[simp] theorem Dev.setS_sto (f : Field) (v : Int) : (s.setS f v).sto = s.sto := rfl
@[simp] theorem Dev.setS_mov (f : Field) (v : Int) : (s.setS f v).mov = s.mov := rfl
@[simp] theorem Dev.setS_fex (f : Field) (v : Int) : (s.setS f v).fex = s.fex := rfl
@[simp] theorem Dev.setS_sca (f : Field) (v : Int) : (s.setS f v).sca = s.sca := rfl
@[simp] theorem Dev.setS_cod (f : Field) (v : Int) : (s.setS f v).cod = s.cod := rfl
@[simp] theorem Dev.setS_eng (f : Field) (v : Int) : (s.setS f v).eng = s.eng := rfl
@[simp] theorem Dev.setS_tsk (f : Field) (v : Int) : (s.setS f v).tsk = s.tsk := rfl
@[simp] theorem Dev.setS_plc (f : Field) (v : Int) : (s.setS f v).plc = s.plc := rfl
@[simp] theorem Dev.setS_boot (f : Field) (v : Int) : (s.setS f v).boot = s.boot := rfl
@[simp] theorem Dev.setS_mgt (f : Field) (v : Int) : (s.setS f v).mgt = s.mgt := rfl
@[simp] theorem Dev.setS_sns (f : Field) (v : Int) : (s.setS f v).sns = s.sns := rfl
@[simp] theorem Dev.setS_age (f : Field) (v : Int) : (s.setS f v).age = s.age := rfl
@[simp] theorem Dev.setS_pwr (f : Field) (v : Int) : (s.setS f v).pwr = s.pwr := rfl
@[simp] theorem Dev.setS_byte (f : Field) (v : Int) (k : Nat) : (s.setS f v).byte k = s.byte k := rfl
@[simp] theorem Dev.setS_fbyte (f : Field) (v : Int) (k : Nat) : (s.setS f v).fbyte k = s.fbyte k := rfl

@[simp] theorem Dev.setB_latch (f : Field) (b : Bool) : (s.setB f b).latch = s.latch := rfl
@[simp] theorem Dev.setB_mem (f : Field) (b : Bool) : (s.setB f b).mem = s.mem := rfl
@[simp] theorem Dev.setB_flash (f : Field) (b : Bool) : (s.setB f b).flash = s.flash := rfl
@[simp] theorem Dev.setB_rdata (f : Field) (b : Bool) : (s.setB f b).rdata = s.rdata := rfl
@[simp] theorem Dev.setB_busErr (f : Field) (b : Bool) : (s.setB f b).busErr = s.busErr := rfl
@[simp] theorem Dev.setB_raised (f : Field) (b : Bool) : (s.setB f b).raised = s.raised := rfl
@[simp] theorem Dev.setB_freeCtr (f : Field) (b : Bool) : (s.setB f b).freeCtr = s.freeCtr := rfl
@[simp] theorem Dev.setB_time (f : Field) (b : Bool) : (s.setB f b).time = s.time := rfl
@[simp] theorem Dev.setB_eth (f : Field) (b : Bool) : (s.setB f b).eth = s.eth := rfl
@[simp] theorem Dev.setB_lnk (f : Field) (b : Bool) : (s.setB f b).lnk = s.lnk := rfl
@[simp] theorem Dev.setB_sto (f : Field) (b : Bool) : (s.setB f b).sto = s.sto := rfl
@[simp] theorem Dev.setB_mov (f : Field) (b : Bool) : (s.setB f b).mov = s.mov := rfl
@[simp] theorem Dev.setB_fex (f : Field) (b : Bool) : (s.setB f b).fex = s.fex := rfl
@[simp] theorem Dev.setB_sca (f : Field) (b : Bool) : (s.setB f b).sca = s.sca := rfl
@[simp] theorem Dev.setB_cod (f : Field) (b : Bool) : (s.setB f b).cod = s.cod := rfl
@[simp] theorem Dev.setB_eng (f : Field) (b : Bool) : (s.setB f b).eng = s.eng := rfl
@[simp] theorem Dev.setB_tsk (f : Field) (b : Bool) : (s.setB f b).tsk = s.tsk := rfl
@[simp] theorem Dev.setB_plc (f : Field) (b : Bool) : (s.setB f b).plc = s.plc := rfl
@[simp] theorem Dev.setB_boot (f : Field) (b : Bool) : (s.setB f b).boot = s.boot := rfl
@[simp] theorem Dev.setB_mgt (f : Field) (b : Bool) : (s.setB f b).mgt = s.mgt := rfl
@[simp] theorem Dev.setB_sns (f : Field) (b : Bool) : (s.setB f b).sns = s.sns := rfl
@[simp] theorem Dev.setB_age (f : Field) (b : Bool) : (s.setB f b).age = s.age := rfl
@[simp] theorem Dev.setB_pwr (f : Field) (b : Bool) : (s.setB f b).pwr = s.pwr := rfl
@[simp] theorem Dev.setB_byte (f : Field) (b : Bool) (k : Nat) : (s.setB f b).byte k = s.byte k := rfl
@[simp] theorem Dev.setB_fbyte (f : Field) (b : Bool) (k : Nat) : (s.setB f b).fbyte k = s.fbyte k := rfl

@[simp] theorem Dev.wr64_latch (a v : Nat) : (s.wr64 a v).latch = s.latch := rfl
@[simp] theorem Dev.wr64_mem (a v : Nat) : (s.wr64 a v).mem = s.mem := rfl
@[simp] theorem Dev.wr64_flash (a v : Nat) : (s.wr64 a v).flash = s.flash := rfl
@[simp] theorem Dev.wr64_rdata (a v : Nat) : (s.wr64 a v).rdata = s.rdata := rfl
@[simp] theorem Dev.wr64_busErr (a v : Nat) : (s.wr64 a v).busErr = s.busErr := rfl
@[simp] theorem Dev.wr64_raised (a v : Nat) : (s.wr64 a v).raised = s.raised := rfl
@[simp] theorem Dev.wr64_freeCtr (a v : Nat) : (s.wr64 a v).freeCtr = s.freeCtr := rfl
@[simp] theorem Dev.wr64_time (a v : Nat) : (s.wr64 a v).time = s.time := rfl
@[simp] theorem Dev.wr64_eth (a v : Nat) : (s.wr64 a v).eth = s.eth := rfl
@[simp] theorem Dev.wr64_lnk (a v : Nat) : (s.wr64 a v).lnk = s.lnk := rfl
@[simp] theorem Dev.wr64_sto (a v : Nat) : (s.wr64 a v).sto = s.sto := rfl
@[simp] theorem Dev.wr64_mov (a v : Nat) : (s.wr64 a v).mov = s.mov := rfl
@[simp] theorem Dev.wr64_fex (a v : Nat) : (s.wr64 a v).fex = s.fex := rfl
@[simp] theorem Dev.wr64_sca (a v : Nat) : (s.wr64 a v).sca = s.sca := rfl
@[simp] theorem Dev.wr64_cod (a v : Nat) : (s.wr64 a v).cod = s.cod := rfl
@[simp] theorem Dev.wr64_eng (a v : Nat) : (s.wr64 a v).eng = s.eng := rfl
@[simp] theorem Dev.wr64_tsk (a v : Nat) : (s.wr64 a v).tsk = s.tsk := rfl
@[simp] theorem Dev.wr64_plc (a v : Nat) : (s.wr64 a v).plc = s.plc := rfl
@[simp] theorem Dev.wr64_boot (a v : Nat) : (s.wr64 a v).boot = s.boot := rfl
@[simp] theorem Dev.wr64_mgt (a v : Nat) : (s.wr64 a v).mgt = s.mgt := rfl
@[simp] theorem Dev.wr64_sns (a v : Nat) : (s.wr64 a v).sns = s.sns := rfl
@[simp] theorem Dev.wr64_age (a v : Nat) : (s.wr64 a v).age = s.age := rfl
@[simp] theorem Dev.wr64_pwr (a v : Nat) : (s.wr64 a v).pwr = s.pwr := rfl
@[simp] theorem Dev.wr64_byte (a v : Nat) (k : Nat) : (s.wr64 a v).byte k = s.byte k := rfl
@[simp] theorem Dev.wr64_fbyte (a v : Nat) (k : Nat) : (s.wr64 a v).fbyte k = s.fbyte k := rfl

@[simp] theorem Dev.inc64_latch (a n : Nat) : (s.inc64 a n).latch = s.latch := by unfold Dev.inc64; exact Dev.wr64_latch ..
@[simp] theorem Dev.inc64_mem (a n : Nat) : (s.inc64 a n).mem = s.mem := by unfold Dev.inc64; exact Dev.wr64_mem ..
@[simp] theorem Dev.inc64_flash (a n : Nat) : (s.inc64 a n).flash = s.flash := by unfold Dev.inc64; exact Dev.wr64_flash ..
@[simp] theorem Dev.inc64_rdata (a n : Nat) : (s.inc64 a n).rdata = s.rdata := by unfold Dev.inc64; exact Dev.wr64_rdata ..
@[simp] theorem Dev.inc64_busErr (a n : Nat) : (s.inc64 a n).busErr = s.busErr := by unfold Dev.inc64; exact Dev.wr64_busErr ..
@[simp] theorem Dev.inc64_raised (a n : Nat) : (s.inc64 a n).raised = s.raised := by unfold Dev.inc64; exact Dev.wr64_raised ..
@[simp] theorem Dev.inc64_freeCtr (a n : Nat) : (s.inc64 a n).freeCtr = s.freeCtr := by unfold Dev.inc64; exact Dev.wr64_freeCtr ..
@[simp] theorem Dev.inc64_time (a n : Nat) : (s.inc64 a n).time = s.time := by unfold Dev.inc64; exact Dev.wr64_time ..
@[simp] theorem Dev.inc64_eth (a n : Nat) : (s.inc64 a n).eth = s.eth := by unfold Dev.inc64; exact Dev.wr64_eth ..
@[simp] theorem Dev.inc64_lnk (a n : Nat) : (s.inc64 a n).lnk = s.lnk := by unfold Dev.inc64; exact Dev.wr64_lnk ..
@[simp] theorem Dev.inc64_sto (a n : Nat) : (s.inc64 a n).sto = s.sto := by unfold Dev.inc64; exact Dev.wr64_sto ..
@[simp] theorem Dev.inc64_mov (a n : Nat) : (s.inc64 a n).mov = s.mov := by unfold Dev.inc64; exact Dev.wr64_mov ..
@[simp] theorem Dev.inc64_fex (a n : Nat) : (s.inc64 a n).fex = s.fex := by unfold Dev.inc64; exact Dev.wr64_fex ..
@[simp] theorem Dev.inc64_sca (a n : Nat) : (s.inc64 a n).sca = s.sca := by unfold Dev.inc64; exact Dev.wr64_sca ..
@[simp] theorem Dev.inc64_cod (a n : Nat) : (s.inc64 a n).cod = s.cod := by unfold Dev.inc64; exact Dev.wr64_cod ..
@[simp] theorem Dev.inc64_eng (a n : Nat) : (s.inc64 a n).eng = s.eng := by unfold Dev.inc64; exact Dev.wr64_eng ..
@[simp] theorem Dev.inc64_tsk (a n : Nat) : (s.inc64 a n).tsk = s.tsk := by unfold Dev.inc64; exact Dev.wr64_tsk ..
@[simp] theorem Dev.inc64_plc (a n : Nat) : (s.inc64 a n).plc = s.plc := by unfold Dev.inc64; exact Dev.wr64_plc ..
@[simp] theorem Dev.inc64_boot (a n : Nat) : (s.inc64 a n).boot = s.boot := by unfold Dev.inc64; exact Dev.wr64_boot ..
@[simp] theorem Dev.inc64_mgt (a n : Nat) : (s.inc64 a n).mgt = s.mgt := by unfold Dev.inc64; exact Dev.wr64_mgt ..
@[simp] theorem Dev.inc64_sns (a n : Nat) : (s.inc64 a n).sns = s.sns := by unfold Dev.inc64; exact Dev.wr64_sns ..
@[simp] theorem Dev.inc64_age (a n : Nat) : (s.inc64 a n).age = s.age := by unfold Dev.inc64; exact Dev.wr64_age ..
@[simp] theorem Dev.inc64_pwr (a n : Nat) : (s.inc64 a n).pwr = s.pwr := by unfold Dev.inc64; exact Dev.wr64_pwr ..
@[simp] theorem Dev.inc64_byte (a n : Nat) (k : Nat) : (s.inc64 a n).byte k = s.byte k := by unfold Dev.inc64; exact Dev.wr64_byte ..
@[simp] theorem Dev.inc64_fbyte (a n : Nat) (k : Nat) : (s.inc64 a n).fbyte k = s.fbyte k := by unfold Dev.inc64; exact Dev.wr64_fbyte ..

@[simp] theorem Dev.takeFree_regs : s.takeFree.regs = s.regs := rfl
@[simp] theorem Dev.takeFree_latch : s.takeFree.latch = s.latch := rfl
@[simp] theorem Dev.takeFree_mem : s.takeFree.mem = s.mem := rfl
@[simp] theorem Dev.takeFree_flash : s.takeFree.flash = s.flash := rfl
@[simp] theorem Dev.takeFree_rdata : s.takeFree.rdata = s.rdata := rfl
@[simp] theorem Dev.takeFree_busErr : s.takeFree.busErr = s.busErr := rfl
@[simp] theorem Dev.takeFree_raised : s.takeFree.raised = s.raised := rfl
@[simp] theorem Dev.takeFree_time : s.takeFree.time = s.time := rfl
@[simp] theorem Dev.takeFree_eth : s.takeFree.eth = s.eth := rfl
@[simp] theorem Dev.takeFree_lnk : s.takeFree.lnk = s.lnk := rfl
@[simp] theorem Dev.takeFree_sto : s.takeFree.sto = s.sto := rfl
@[simp] theorem Dev.takeFree_mov : s.takeFree.mov = s.mov := rfl
@[simp] theorem Dev.takeFree_fex : s.takeFree.fex = s.fex := rfl
@[simp] theorem Dev.takeFree_sca : s.takeFree.sca = s.sca := rfl
@[simp] theorem Dev.takeFree_cod : s.takeFree.cod = s.cod := rfl
@[simp] theorem Dev.takeFree_eng : s.takeFree.eng = s.eng := rfl
@[simp] theorem Dev.takeFree_tsk : s.takeFree.tsk = s.tsk := rfl
@[simp] theorem Dev.takeFree_plc : s.takeFree.plc = s.plc := rfl
@[simp] theorem Dev.takeFree_boot : s.takeFree.boot = s.boot := rfl
@[simp] theorem Dev.takeFree_mgt : s.takeFree.mgt = s.mgt := rfl
@[simp] theorem Dev.takeFree_sns : s.takeFree.sns = s.sns := rfl
@[simp] theorem Dev.takeFree_age : s.takeFree.age = s.age := rfl
@[simp] theorem Dev.takeFree_pwr : s.takeFree.pwr = s.pwr := rfl
@[simp] theorem Dev.takeFree_rd (k : Nat) : s.takeFree.rd k = s.rd k := rfl
@[simp] theorem Dev.takeFree_get (g : Field) : s.takeFree.get g = s.get g := rfl
@[simp] theorem Dev.takeFree_flag (g : Field) : s.takeFree.flag g = s.flag g := rfl
@[simp] theorem Dev.takeFree_byte (k : Nat) : s.takeFree.byte k = s.byte k := rfl
@[simp] theorem Dev.takeFree_fbyte (k : Nat) : s.takeFree.fbyte k = s.fbyte k := rfl

@[simp] theorem Dev.raiseSrc_regs (c x : Nat) (l : List (Nat × Int)) : (s.raiseSrc c x l).regs = s.regs := rfl
@[simp] theorem Dev.raiseSrc_latch (c x : Nat) (l : List (Nat × Int)) : (s.raiseSrc c x l).latch = s.latch := rfl
@[simp] theorem Dev.raiseSrc_mem (c x : Nat) (l : List (Nat × Int)) : (s.raiseSrc c x l).mem = s.mem := rfl
@[simp] theorem Dev.raiseSrc_flash (c x : Nat) (l : List (Nat × Int)) : (s.raiseSrc c x l).flash = s.flash := rfl
@[simp] theorem Dev.raiseSrc_rdata (c x : Nat) (l : List (Nat × Int)) : (s.raiseSrc c x l).rdata = s.rdata := rfl
@[simp] theorem Dev.raiseSrc_busErr (c x : Nat) (l : List (Nat × Int)) : (s.raiseSrc c x l).busErr = s.busErr := rfl
@[simp] theorem Dev.raiseSrc_freeCtr (c x : Nat) (l : List (Nat × Int)) : (s.raiseSrc c x l).freeCtr = s.freeCtr := rfl
@[simp] theorem Dev.raiseSrc_time (c x : Nat) (l : List (Nat × Int)) : (s.raiseSrc c x l).time = s.time := rfl
@[simp] theorem Dev.raiseSrc_eth (c x : Nat) (l : List (Nat × Int)) : (s.raiseSrc c x l).eth = s.eth := rfl
@[simp] theorem Dev.raiseSrc_lnk (c x : Nat) (l : List (Nat × Int)) : (s.raiseSrc c x l).lnk = s.lnk := rfl
@[simp] theorem Dev.raiseSrc_sto (c x : Nat) (l : List (Nat × Int)) : (s.raiseSrc c x l).sto = s.sto := rfl
@[simp] theorem Dev.raiseSrc_mov (c x : Nat) (l : List (Nat × Int)) : (s.raiseSrc c x l).mov = s.mov := rfl
@[simp] theorem Dev.raiseSrc_fex (c x : Nat) (l : List (Nat × Int)) : (s.raiseSrc c x l).fex = s.fex := rfl
@[simp] theorem Dev.raiseSrc_sca (c x : Nat) (l : List (Nat × Int)) : (s.raiseSrc c x l).sca = s.sca := rfl
@[simp] theorem Dev.raiseSrc_cod (c x : Nat) (l : List (Nat × Int)) : (s.raiseSrc c x l).cod = s.cod := rfl
@[simp] theorem Dev.raiseSrc_eng (c x : Nat) (l : List (Nat × Int)) : (s.raiseSrc c x l).eng = s.eng := rfl
@[simp] theorem Dev.raiseSrc_tsk (c x : Nat) (l : List (Nat × Int)) : (s.raiseSrc c x l).tsk = s.tsk := rfl
@[simp] theorem Dev.raiseSrc_plc (c x : Nat) (l : List (Nat × Int)) : (s.raiseSrc c x l).plc = s.plc := rfl
@[simp] theorem Dev.raiseSrc_boot (c x : Nat) (l : List (Nat × Int)) : (s.raiseSrc c x l).boot = s.boot := rfl
@[simp] theorem Dev.raiseSrc_mgt (c x : Nat) (l : List (Nat × Int)) : (s.raiseSrc c x l).mgt = s.mgt := rfl
@[simp] theorem Dev.raiseSrc_sns (c x : Nat) (l : List (Nat × Int)) : (s.raiseSrc c x l).sns = s.sns := rfl
@[simp] theorem Dev.raiseSrc_age (c x : Nat) (l : List (Nat × Int)) : (s.raiseSrc c x l).age = s.age := rfl
@[simp] theorem Dev.raiseSrc_pwr (c x : Nat) (l : List (Nat × Int)) : (s.raiseSrc c x l).pwr = s.pwr := rfl
@[simp] theorem Dev.raiseSrc_rd (c x : Nat) (l : List (Nat × Int)) (k : Nat) : (s.raiseSrc c x l).rd k = s.rd k := rfl
@[simp] theorem Dev.raiseSrc_get (c x : Nat) (l : List (Nat × Int)) (g : Field) : (s.raiseSrc c x l).get g = s.get g := rfl
@[simp] theorem Dev.raiseSrc_flag (c x : Nat) (l : List (Nat × Int)) (g : Field) : (s.raiseSrc c x l).flag g = s.flag g := rfl
@[simp] theorem Dev.raiseSrc_byte (c x : Nat) (l : List (Nat × Int)) (k : Nat) : (s.raiseSrc c x l).byte k = s.byte k := rfl
@[simp] theorem Dev.raiseSrc_fbyte (c x : Nat) (l : List (Nat × Int)) (k : Nat) : (s.raiseSrc c x l).fbyte k = s.fbyte k := rfl

@[simp] theorem Dev.raise_regs (c : Nat) (l : List (Nat × Int)) : (s.raise c l).regs = s.regs := rfl
@[simp] theorem Dev.raise_latch (c : Nat) (l : List (Nat × Int)) : (s.raise c l).latch = s.latch := rfl
@[simp] theorem Dev.raise_mem (c : Nat) (l : List (Nat × Int)) : (s.raise c l).mem = s.mem := rfl
@[simp] theorem Dev.raise_flash (c : Nat) (l : List (Nat × Int)) : (s.raise c l).flash = s.flash := rfl
@[simp] theorem Dev.raise_rdata (c : Nat) (l : List (Nat × Int)) : (s.raise c l).rdata = s.rdata := rfl
@[simp] theorem Dev.raise_busErr (c : Nat) (l : List (Nat × Int)) : (s.raise c l).busErr = s.busErr := rfl
@[simp] theorem Dev.raise_freeCtr (c : Nat) (l : List (Nat × Int)) : (s.raise c l).freeCtr = s.freeCtr := rfl
@[simp] theorem Dev.raise_time (c : Nat) (l : List (Nat × Int)) : (s.raise c l).time = s.time := rfl
@[simp] theorem Dev.raise_eth (c : Nat) (l : List (Nat × Int)) : (s.raise c l).eth = s.eth := rfl
@[simp] theorem Dev.raise_lnk (c : Nat) (l : List (Nat × Int)) : (s.raise c l).lnk = s.lnk := rfl
@[simp] theorem Dev.raise_sto (c : Nat) (l : List (Nat × Int)) : (s.raise c l).sto = s.sto := rfl
@[simp] theorem Dev.raise_mov (c : Nat) (l : List (Nat × Int)) : (s.raise c l).mov = s.mov := rfl
@[simp] theorem Dev.raise_fex (c : Nat) (l : List (Nat × Int)) : (s.raise c l).fex = s.fex := rfl
@[simp] theorem Dev.raise_sca (c : Nat) (l : List (Nat × Int)) : (s.raise c l).sca = s.sca := rfl
@[simp] theorem Dev.raise_cod (c : Nat) (l : List (Nat × Int)) : (s.raise c l).cod = s.cod := rfl
@[simp] theorem Dev.raise_eng (c : Nat) (l : List (Nat × Int)) : (s.raise c l).eng = s.eng := rfl
@[simp] theorem Dev.raise_tsk (c : Nat) (l : List (Nat × Int)) : (s.raise c l).tsk = s.tsk := rfl
@[simp] theorem Dev.raise_plc (c : Nat) (l : List (Nat × Int)) : (s.raise c l).plc = s.plc := rfl
@[simp] theorem Dev.raise_boot (c : Nat) (l : List (Nat × Int)) : (s.raise c l).boot = s.boot := rfl
@[simp] theorem Dev.raise_mgt (c : Nat) (l : List (Nat × Int)) : (s.raise c l).mgt = s.mgt := rfl
@[simp] theorem Dev.raise_sns (c : Nat) (l : List (Nat × Int)) : (s.raise c l).sns = s.sns := rfl
@[simp] theorem Dev.raise_age (c : Nat) (l : List (Nat × Int)) : (s.raise c l).age = s.age := rfl
@[simp] theorem Dev.raise_pwr (c : Nat) (l : List (Nat × Int)) : (s.raise c l).pwr = s.pwr := rfl
@[simp] theorem Dev.raise_rd (c : Nat) (l : List (Nat × Int)) (k : Nat) : (s.raise c l).rd k = s.rd k := rfl
@[simp] theorem Dev.raise_get (c : Nat) (l : List (Nat × Int)) (g : Field) : (s.raise c l).get g = s.get g := rfl
@[simp] theorem Dev.raise_flag (c : Nat) (l : List (Nat × Int)) (g : Field) : (s.raise c l).flag g = s.flag g := rfl
@[simp] theorem Dev.raise_byte (c : Nat) (l : List (Nat × Int)) (k : Nat) : (s.raise c l).byte k = s.byte k := rfl
@[simp] theorem Dev.raise_fbyte (c : Nat) (l : List (Nat × Int)) (k : Nat) : (s.raise c l).fbyte k = s.fbyte k := rfl

@[simp] theorem Dev.raiseOf_regs (c w v : Nat) (l : List (Nat × Int)) : (s.raiseOf c w v l).regs = s.regs := rfl
@[simp] theorem Dev.raiseOf_latch (c w v : Nat) (l : List (Nat × Int)) : (s.raiseOf c w v l).latch = s.latch := rfl
@[simp] theorem Dev.raiseOf_mem (c w v : Nat) (l : List (Nat × Int)) : (s.raiseOf c w v l).mem = s.mem := rfl
@[simp] theorem Dev.raiseOf_flash (c w v : Nat) (l : List (Nat × Int)) : (s.raiseOf c w v l).flash = s.flash := rfl
@[simp] theorem Dev.raiseOf_rdata (c w v : Nat) (l : List (Nat × Int)) : (s.raiseOf c w v l).rdata = s.rdata := rfl
@[simp] theorem Dev.raiseOf_busErr (c w v : Nat) (l : List (Nat × Int)) : (s.raiseOf c w v l).busErr = s.busErr := rfl
@[simp] theorem Dev.raiseOf_freeCtr (c w v : Nat) (l : List (Nat × Int)) : (s.raiseOf c w v l).freeCtr = s.freeCtr := rfl
@[simp] theorem Dev.raiseOf_time (c w v : Nat) (l : List (Nat × Int)) : (s.raiseOf c w v l).time = s.time := rfl
@[simp] theorem Dev.raiseOf_eth (c w v : Nat) (l : List (Nat × Int)) : (s.raiseOf c w v l).eth = s.eth := rfl
@[simp] theorem Dev.raiseOf_lnk (c w v : Nat) (l : List (Nat × Int)) : (s.raiseOf c w v l).lnk = s.lnk := rfl
@[simp] theorem Dev.raiseOf_sto (c w v : Nat) (l : List (Nat × Int)) : (s.raiseOf c w v l).sto = s.sto := rfl
@[simp] theorem Dev.raiseOf_mov (c w v : Nat) (l : List (Nat × Int)) : (s.raiseOf c w v l).mov = s.mov := rfl
@[simp] theorem Dev.raiseOf_fex (c w v : Nat) (l : List (Nat × Int)) : (s.raiseOf c w v l).fex = s.fex := rfl
@[simp] theorem Dev.raiseOf_sca (c w v : Nat) (l : List (Nat × Int)) : (s.raiseOf c w v l).sca = s.sca := rfl
@[simp] theorem Dev.raiseOf_cod (c w v : Nat) (l : List (Nat × Int)) : (s.raiseOf c w v l).cod = s.cod := rfl
@[simp] theorem Dev.raiseOf_eng (c w v : Nat) (l : List (Nat × Int)) : (s.raiseOf c w v l).eng = s.eng := rfl
@[simp] theorem Dev.raiseOf_tsk (c w v : Nat) (l : List (Nat × Int)) : (s.raiseOf c w v l).tsk = s.tsk := rfl
@[simp] theorem Dev.raiseOf_plc (c w v : Nat) (l : List (Nat × Int)) : (s.raiseOf c w v l).plc = s.plc := rfl
@[simp] theorem Dev.raiseOf_boot (c w v : Nat) (l : List (Nat × Int)) : (s.raiseOf c w v l).boot = s.boot := rfl
@[simp] theorem Dev.raiseOf_mgt (c w v : Nat) (l : List (Nat × Int)) : (s.raiseOf c w v l).mgt = s.mgt := rfl
@[simp] theorem Dev.raiseOf_sns (c w v : Nat) (l : List (Nat × Int)) : (s.raiseOf c w v l).sns = s.sns := rfl
@[simp] theorem Dev.raiseOf_age (c w v : Nat) (l : List (Nat × Int)) : (s.raiseOf c w v l).age = s.age := rfl
@[simp] theorem Dev.raiseOf_pwr (c w v : Nat) (l : List (Nat × Int)) : (s.raiseOf c w v l).pwr = s.pwr := rfl
@[simp] theorem Dev.raiseOf_rd (c w v : Nat) (l : List (Nat × Int)) (k : Nat) : (s.raiseOf c w v l).rd k = s.rd k := rfl
@[simp] theorem Dev.raiseOf_get (c w v : Nat) (l : List (Nat × Int)) (g : Field) : (s.raiseOf c w v l).get g = s.get g := rfl
@[simp] theorem Dev.raiseOf_flag (c w v : Nat) (l : List (Nat × Int)) (g : Field) : (s.raiseOf c w v l).flag g = s.flag g := rfl
@[simp] theorem Dev.raiseOf_byte (c w v : Nat) (l : List (Nat × Int)) (k : Nat) : (s.raiseOf c w v l).byte k = s.byte k := rfl
@[simp] theorem Dev.raiseOf_fbyte (c w v : Nat) (l : List (Nat × Int)) (k : Nat) : (s.raiseOf c w v l).fbyte k = s.fbyte k := rfl

@[simp] theorem Dev.latchAt_regs (a v : Nat) : (s.latchAt a v).regs = s.regs := rfl
@[simp] theorem Dev.latchAt_mem (a v : Nat) : (s.latchAt a v).mem = s.mem := rfl
@[simp] theorem Dev.latchAt_flash (a v : Nat) : (s.latchAt a v).flash = s.flash := rfl
@[simp] theorem Dev.latchAt_rdata (a v : Nat) : (s.latchAt a v).rdata = s.rdata := rfl
@[simp] theorem Dev.latchAt_busErr (a v : Nat) : (s.latchAt a v).busErr = s.busErr := rfl
@[simp] theorem Dev.latchAt_raised (a v : Nat) : (s.latchAt a v).raised = s.raised := rfl
@[simp] theorem Dev.latchAt_freeCtr (a v : Nat) : (s.latchAt a v).freeCtr = s.freeCtr := rfl
@[simp] theorem Dev.latchAt_time (a v : Nat) : (s.latchAt a v).time = s.time := rfl
@[simp] theorem Dev.latchAt_eth (a v : Nat) : (s.latchAt a v).eth = s.eth := rfl
@[simp] theorem Dev.latchAt_lnk (a v : Nat) : (s.latchAt a v).lnk = s.lnk := rfl
@[simp] theorem Dev.latchAt_sto (a v : Nat) : (s.latchAt a v).sto = s.sto := rfl
@[simp] theorem Dev.latchAt_mov (a v : Nat) : (s.latchAt a v).mov = s.mov := rfl
@[simp] theorem Dev.latchAt_fex (a v : Nat) : (s.latchAt a v).fex = s.fex := rfl
@[simp] theorem Dev.latchAt_sca (a v : Nat) : (s.latchAt a v).sca = s.sca := rfl
@[simp] theorem Dev.latchAt_cod (a v : Nat) : (s.latchAt a v).cod = s.cod := rfl
@[simp] theorem Dev.latchAt_eng (a v : Nat) : (s.latchAt a v).eng = s.eng := rfl
@[simp] theorem Dev.latchAt_tsk (a v : Nat) : (s.latchAt a v).tsk = s.tsk := rfl
@[simp] theorem Dev.latchAt_plc (a v : Nat) : (s.latchAt a v).plc = s.plc := rfl
@[simp] theorem Dev.latchAt_boot (a v : Nat) : (s.latchAt a v).boot = s.boot := rfl
@[simp] theorem Dev.latchAt_mgt (a v : Nat) : (s.latchAt a v).mgt = s.mgt := rfl
@[simp] theorem Dev.latchAt_sns (a v : Nat) : (s.latchAt a v).sns = s.sns := rfl
@[simp] theorem Dev.latchAt_age (a v : Nat) : (s.latchAt a v).age = s.age := rfl
@[simp] theorem Dev.latchAt_pwr (a v : Nat) : (s.latchAt a v).pwr = s.pwr := rfl
@[simp] theorem Dev.latchAt_rd (a v : Nat) (k : Nat) : (s.latchAt a v).rd k = s.rd k := rfl
@[simp] theorem Dev.latchAt_get (a v : Nat) (g : Field) : (s.latchAt a v).get g = s.get g := rfl
@[simp] theorem Dev.latchAt_flag (a v : Nat) (g : Field) : (s.latchAt a v).flag g = s.flag g := rfl
@[simp] theorem Dev.latchAt_byte (a v : Nat) (k : Nat) : (s.latchAt a v).byte k = s.byte k := rfl
@[simp] theorem Dev.latchAt_fbyte (a v : Nat) (k : Nat) : (s.latchAt a v).fbyte k = s.fbyte k := rfl

@[simp] theorem Dev.answer_regs (v : Nat) : (s.answer v).regs = s.regs := rfl
@[simp] theorem Dev.answer_latch (v : Nat) : (s.answer v).latch = s.latch := rfl
@[simp] theorem Dev.answer_mem (v : Nat) : (s.answer v).mem = s.mem := rfl
@[simp] theorem Dev.answer_flash (v : Nat) : (s.answer v).flash = s.flash := rfl
@[simp] theorem Dev.answer_busErr (v : Nat) : (s.answer v).busErr = s.busErr := rfl
@[simp] theorem Dev.answer_raised (v : Nat) : (s.answer v).raised = s.raised := rfl
@[simp] theorem Dev.answer_freeCtr (v : Nat) : (s.answer v).freeCtr = s.freeCtr := rfl
@[simp] theorem Dev.answer_time (v : Nat) : (s.answer v).time = s.time := rfl
@[simp] theorem Dev.answer_eth (v : Nat) : (s.answer v).eth = s.eth := rfl
@[simp] theorem Dev.answer_lnk (v : Nat) : (s.answer v).lnk = s.lnk := rfl
@[simp] theorem Dev.answer_sto (v : Nat) : (s.answer v).sto = s.sto := rfl
@[simp] theorem Dev.answer_mov (v : Nat) : (s.answer v).mov = s.mov := rfl
@[simp] theorem Dev.answer_fex (v : Nat) : (s.answer v).fex = s.fex := rfl
@[simp] theorem Dev.answer_sca (v : Nat) : (s.answer v).sca = s.sca := rfl
@[simp] theorem Dev.answer_cod (v : Nat) : (s.answer v).cod = s.cod := rfl
@[simp] theorem Dev.answer_eng (v : Nat) : (s.answer v).eng = s.eng := rfl
@[simp] theorem Dev.answer_tsk (v : Nat) : (s.answer v).tsk = s.tsk := rfl
@[simp] theorem Dev.answer_plc (v : Nat) : (s.answer v).plc = s.plc := rfl
@[simp] theorem Dev.answer_boot (v : Nat) : (s.answer v).boot = s.boot := rfl
@[simp] theorem Dev.answer_mgt (v : Nat) : (s.answer v).mgt = s.mgt := rfl
@[simp] theorem Dev.answer_sns (v : Nat) : (s.answer v).sns = s.sns := rfl
@[simp] theorem Dev.answer_age (v : Nat) : (s.answer v).age = s.age := rfl
@[simp] theorem Dev.answer_pwr (v : Nat) : (s.answer v).pwr = s.pwr := rfl
@[simp] theorem Dev.answer_rd (v : Nat) (k : Nat) : (s.answer v).rd k = s.rd k := rfl
@[simp] theorem Dev.answer_get (v : Nat) (g : Field) : (s.answer v).get g = s.get g := rfl
@[simp] theorem Dev.answer_flag (v : Nat) (g : Field) : (s.answer v).flag g = s.flag g := rfl
@[simp] theorem Dev.answer_byte (v : Nat) (k : Nat) : (s.answer v).byte k = s.byte k := rfl
@[simp] theorem Dev.answer_fbyte (v : Nat) (k : Nat) : (s.answer v).fbyte k = s.fbyte k := rfl

@[simp] theorem Dev.setByte_regs (a v : Nat) : (s.setByte a v).regs = s.regs := rfl
@[simp] theorem Dev.setByte_latch (a v : Nat) : (s.setByte a v).latch = s.latch := rfl
@[simp] theorem Dev.setByte_flash (a v : Nat) : (s.setByte a v).flash = s.flash := rfl
@[simp] theorem Dev.setByte_rdata (a v : Nat) : (s.setByte a v).rdata = s.rdata := rfl
@[simp] theorem Dev.setByte_busErr (a v : Nat) : (s.setByte a v).busErr = s.busErr := rfl
@[simp] theorem Dev.setByte_raised (a v : Nat) : (s.setByte a v).raised = s.raised := rfl
@[simp] theorem Dev.setByte_freeCtr (a v : Nat) : (s.setByte a v).freeCtr = s.freeCtr := rfl
@[simp] theorem Dev.setByte_time (a v : Nat) : (s.setByte a v).time = s.time := rfl
@[simp] theorem Dev.setByte_eth (a v : Nat) : (s.setByte a v).eth = s.eth := rfl
@[simp] theorem Dev.setByte_lnk (a v : Nat) : (s.setByte a v).lnk = s.lnk := rfl
@[simp] theorem Dev.setByte_sto (a v : Nat) : (s.setByte a v).sto = s.sto := rfl
@[simp] theorem Dev.setByte_mov (a v : Nat) : (s.setByte a v).mov = s.mov := rfl
@[simp] theorem Dev.setByte_fex (a v : Nat) : (s.setByte a v).fex = s.fex := rfl
@[simp] theorem Dev.setByte_sca (a v : Nat) : (s.setByte a v).sca = s.sca := rfl
@[simp] theorem Dev.setByte_cod (a v : Nat) : (s.setByte a v).cod = s.cod := rfl
@[simp] theorem Dev.setByte_eng (a v : Nat) : (s.setByte a v).eng = s.eng := rfl
@[simp] theorem Dev.setByte_tsk (a v : Nat) : (s.setByte a v).tsk = s.tsk := rfl
@[simp] theorem Dev.setByte_plc (a v : Nat) : (s.setByte a v).plc = s.plc := rfl
@[simp] theorem Dev.setByte_boot (a v : Nat) : (s.setByte a v).boot = s.boot := rfl
@[simp] theorem Dev.setByte_mgt (a v : Nat) : (s.setByte a v).mgt = s.mgt := rfl
@[simp] theorem Dev.setByte_sns (a v : Nat) : (s.setByte a v).sns = s.sns := rfl
@[simp] theorem Dev.setByte_age (a v : Nat) : (s.setByte a v).age = s.age := rfl
@[simp] theorem Dev.setByte_pwr (a v : Nat) : (s.setByte a v).pwr = s.pwr := rfl
@[simp] theorem Dev.setByte_rd (a v : Nat) (k : Nat) : (s.setByte a v).rd k = s.rd k := rfl
@[simp] theorem Dev.setByte_get (a v : Nat) (g : Field) : (s.setByte a v).get g = s.get g := rfl
@[simp] theorem Dev.setByte_flag (a v : Nat) (g : Field) : (s.setByte a v).flag g = s.flag g := rfl
@[simp] theorem Dev.setByte_fbyte (a v : Nat) (k : Nat) : (s.setByte a v).fbyte k = s.fbyte k := rfl

@[simp] theorem Dev.setFbyte_regs (a v : Nat) : (s.setFbyte a v).regs = s.regs := rfl
@[simp] theorem Dev.setFbyte_latch (a v : Nat) : (s.setFbyte a v).latch = s.latch := rfl
@[simp] theorem Dev.setFbyte_mem (a v : Nat) : (s.setFbyte a v).mem = s.mem := rfl
@[simp] theorem Dev.setFbyte_rdata (a v : Nat) : (s.setFbyte a v).rdata = s.rdata := rfl
@[simp] theorem Dev.setFbyte_busErr (a v : Nat) : (s.setFbyte a v).busErr = s.busErr := rfl
@[simp] theorem Dev.setFbyte_raised (a v : Nat) : (s.setFbyte a v).raised = s.raised := rfl
@[simp] theorem Dev.setFbyte_freeCtr (a v : Nat) : (s.setFbyte a v).freeCtr = s.freeCtr := rfl
@[simp] theorem Dev.setFbyte_time (a v : Nat) : (s.setFbyte a v).time = s.time := rfl
@[simp] theorem Dev.setFbyte_eth (a v : Nat) : (s.setFbyte a v).eth = s.eth := rfl
@[simp] theorem Dev.setFbyte_lnk (a v : Nat) : (s.setFbyte a v).lnk = s.lnk := rfl
@[simp] theorem Dev.setFbyte_sto (a v : Nat) : (s.setFbyte a v).sto = s.sto := rfl
@[simp] theorem Dev.setFbyte_mov (a v : Nat) : (s.setFbyte a v).mov = s.mov := rfl
@[simp] theorem Dev.setFbyte_fex (a v : Nat) : (s.setFbyte a v).fex = s.fex := rfl
@[simp] theorem Dev.setFbyte_sca (a v : Nat) : (s.setFbyte a v).sca = s.sca := rfl
@[simp] theorem Dev.setFbyte_cod (a v : Nat) : (s.setFbyte a v).cod = s.cod := rfl
@[simp] theorem Dev.setFbyte_eng (a v : Nat) : (s.setFbyte a v).eng = s.eng := rfl
@[simp] theorem Dev.setFbyte_tsk (a v : Nat) : (s.setFbyte a v).tsk = s.tsk := rfl
@[simp] theorem Dev.setFbyte_plc (a v : Nat) : (s.setFbyte a v).plc = s.plc := rfl
@[simp] theorem Dev.setFbyte_boot (a v : Nat) : (s.setFbyte a v).boot = s.boot := rfl
@[simp] theorem Dev.setFbyte_mgt (a v : Nat) : (s.setFbyte a v).mgt = s.mgt := rfl
@[simp] theorem Dev.setFbyte_sns (a v : Nat) : (s.setFbyte a v).sns = s.sns := rfl
@[simp] theorem Dev.setFbyte_age (a v : Nat) : (s.setFbyte a v).age = s.age := rfl
@[simp] theorem Dev.setFbyte_pwr (a v : Nat) : (s.setFbyte a v).pwr = s.pwr := rfl
@[simp] theorem Dev.setFbyte_rd (a v : Nat) (k : Nat) : (s.setFbyte a v).rd k = s.rd k := rfl
@[simp] theorem Dev.setFbyte_get (a v : Nat) (g : Field) : (s.setFbyte a v).get g = s.get g := rfl
@[simp] theorem Dev.setFbyte_flag (a v : Nat) (g : Field) : (s.setFbyte a v).flag g = s.flag g := rfl
@[simp] theorem Dev.setFbyte_byte (a v : Nat) (k : Nat) : (s.setFbyte a v).byte k = s.byte k := rfl

@[simp] theorem Dev.canon_latch : s.canon.latch = s.latch := rfl
@[simp] theorem Dev.canon_rdata : s.canon.rdata = s.rdata := rfl
@[simp] theorem Dev.canon_busErr : s.canon.busErr = s.busErr := rfl
@[simp] theorem Dev.canon_raised : s.canon.raised = s.raised := rfl
@[simp] theorem Dev.canon_freeCtr : s.canon.freeCtr = s.freeCtr := rfl
@[simp] theorem Dev.canon_time : s.canon.time = s.time := rfl
@[simp] theorem Dev.canon_eth : s.canon.eth = s.eth := rfl
@[simp] theorem Dev.canon_lnk : s.canon.lnk = s.lnk := rfl
@[simp] theorem Dev.canon_sto : s.canon.sto = s.sto := rfl
@[simp] theorem Dev.canon_mov : s.canon.mov = s.mov := rfl
@[simp] theorem Dev.canon_fex : s.canon.fex = s.fex := rfl
@[simp] theorem Dev.canon_sca : s.canon.sca = s.sca := rfl
@[simp] theorem Dev.canon_cod : s.canon.cod = s.cod := rfl
@[simp] theorem Dev.canon_eng : s.canon.eng = s.eng := rfl
@[simp] theorem Dev.canon_tsk : s.canon.tsk = s.tsk := rfl
@[simp] theorem Dev.canon_plc : s.canon.plc = s.plc := rfl
@[simp] theorem Dev.canon_boot : s.canon.boot = s.boot := rfl
@[simp] theorem Dev.canon_mgt : s.canon.mgt = s.mgt := rfl
@[simp] theorem Dev.canon_sns : s.canon.sns = s.sns := rfl
@[simp] theorem Dev.canon_age : s.canon.age = s.age := rfl
@[simp] theorem Dev.canon_pwr : s.canon.pwr = s.pwr := rfl

end Sys2Proof.Machine
end

