-- ==== Sys2Proof/Laws/Memory.lean ====
section
/-!
SUPPORT. Memory and flash: every operation keeps the canonical form, a read after a write gives what was written, and a write leaves every other
byte alone.
-/

namespace Sys2Proof.Machine

/-! ### Byte order -/

@[simp] theorem leBytes_length (n v : Nat) : (leBytes n v).length = n := by
  induction n generalizing v with
  | zero => rfl
  | succ n ih => simp [leBytes, ih]

theorem leBytes_lt (n v : Nat) : ∀ b ∈ leBytes n v, b < 256 := by
  induction n generalizing v with
  | zero => simp [leBytes]
  | succ n ih =>
    intro b hb
    simp only [leBytes, List.mem_cons] at hb
    rcases hb with rfl | hb
    · omega
    · exact ih _ b hb

/-- A number laid out in bytes and read again. -/
theorem leNat_leBytes (n v : Nat) : leNat (leBytes n v) = v % 256 ^ n := by
  induction n generalizing v with
  | zero => simp [leBytes, leNat, Nat.mod_one]
  | succ n ih =>
    rw [leBytes, leNat, ih, Nat.mod_mod, Nat.pow_succ, Nat.mul_comm (256 ^ n) 256, Nat.mod_mul]

theorem leNat_map_mod (l : List Nat) : leNat (l.map (· % 256)) = leNat l := by
  induction l with
  | nil => rfl
  | cons b r ih => simp [leNat, ih]

theorem nums_zero (a : Nat) : nums a 0 = [] := rfl

theorem nums_succ (a n : Nat) : nums a (n + 1) = a :: nums (a + 1) n := by
  simp only [nums, List.range_succ_eq_map, List.map_cons, List.map_map, Nat.add_zero]
  congr 1
  apply List.map_congr_left; intro i _
  simp only [Function.comp_apply]; omega

/-! ### Memory -/

variable (s : Dev)

/-- A list of bytes written keeps the canonical form of memory. -/
theorem Dev.memory_wf_setBytes (a : Nat) (l : List Nat) (h : Memory.wf s.mem = true) : Memory.wf (s.setBytes a l).mem = true := by
  induction l generalizing a s with
  | nil => exact h
  | cons b r ih => exact ih _ _ (twf_tput (fun _ => memDefault) s.mem a _ h)

/-- So does a value written. -/
theorem Dev.memory_wf_setLe (a n v : Nat) (h : Memory.wf s.mem = true) : Memory.wf (s.setLe a n v).mem = true := s.memory_wf_setBytes a _ h

/-- A byte after a list of bytes was written from `a` upward. -/
theorem Dev.byte_setBytes (a : Nat) (l : List Nat) (b : Nat) :
    (s.setBytes a l).byte b = if a ≤ b ∧ b < a + l.length then lget 0 l (b - a) % 256 else s.byte b := by
  induction l generalizing a s with
  | nil => simp [Dev.setBytes] <;> omega
  | cons x r ih =>
    rw [Dev.setBytes, ih]
    by_cases h : a + 1 ≤ b ∧ b < a + 1 + r.length
    · have h1 : a ≤ b ∧ b < a + (x :: r).length := by simp only [List.length_cons]; omega
      have h2 : b - a = (b - (a + 1)) + 1 := by omega
      simp only [h, h1, and_self, if_true, h2, lget, List.getElem?_cons_succ]
    · simp only [h, if_false, Dev.byte_setByte]
      by_cases e : b = a
      · subst e; simp [lget]
      · have h3 : ¬ (a ≤ b ∧ b < a + (x :: r).length) := by simp only [List.length_cons]; omega
        rw [if_neg e, if_neg h3]

/-- Bytes outside those written read as before. -/
theorem Dev.byte_setBytes_ne (a : Nat) (l : List Nat) {b : Nat} (h : b < a ∨ a + l.length ≤ b) : (s.setBytes a l).byte b = s.byte b := by
  rw [Dev.byte_setBytes, if_neg]; omega

theorem Dev.bytes_setBytes (a : Nat) (l : List Nat) : (s.setBytes a l).bytes a l.length = l.map (· % 256) := by
  apply List.ext_getElem?
  intro i
  simp only [Dev.bytes, nums, List.map_map, List.getElem?_map]
  by_cases h : i < l.length
  · simp [h, Dev.byte_setBytes, lget]
  · have h' : l.length ≤ i := by omega
    rw [List.getElem?_eq_none (by simpa using h'), List.getElem?_eq_none h']; rfl

/-- A value written and read again (R7). -/
theorem Dev.le_setLe (a n v : Nat) : (s.setLe a n v).le a n = v % 256 ^ n := by
  have := s.bytes_setBytes a (leBytes n v)
  rw [leBytes_length] at this
  rw [Dev.le, Dev.setLe, this, leNat_map_mod, leNat_leBytes]

theorem Dev.byte_setLe_ne (a n v : Nat) {b : Nat} (h : b < a ∨ a + n ≤ b) : (s.setLe a n v).byte b = s.byte b := by
  apply s.byte_setBytes_ne; rwa [leBytes_length]

/-! ### Flash -/

theorem Dev.fbyte_setFbytes (a : Nat) (l : List Nat) (b : Nat) :
    (s.setFbytes a l).fbyte b = if a ≤ b ∧ b < a + l.length then lget 0 l (b - a) % 256 else s.fbyte b := by
  induction l generalizing a s with
  | nil => simp [Dev.setFbytes] <;> omega
  | cons x r ih =>
    rw [Dev.setFbytes, ih]
    by_cases h : a + 1 ≤ b ∧ b < a + 1 + r.length
    · have h1 : a ≤ b ∧ b < a + (x :: r).length := by simp only [List.length_cons]; omega
      have h2 : b - a = (b - (a + 1)) + 1 := by omega
      simp only [h, h1, and_self, if_true, h2, lget, List.getElem?_cons_succ]
    · simp only [h, if_false, Dev.fbyte_setFbyte]
      by_cases e : b = a
      · subst e; simp [lget]
      · have h3 : ¬ (a ≤ b ∧ b < a + (x :: r).length) := by simp only [List.length_cons]; omega
        rw [if_neg e, if_neg h3]

theorem Dev.fbyte_setFbytes_ne (a : Nat) (l : List Nat) {b : Nat} (h : b < a ∨ a + l.length ≤ b) : (s.setFbytes a l).fbyte b = s.fbyte b := by
  rw [Dev.fbyte_setFbytes, if_neg]; omega

/-- A key kept by a filter reads as before; one dropped reads as the default. -/
theorem tget_filter {α : Type} (d : α) (p : Nat → Bool) (t : Tbl α) (k : Nat) : tget d (t.filter fun e => p e.1) k = if p k then tget d t k else d := by
  induction t with
  | nil => simp [tget]
  | cons e r ih =>
    obtain ⟨j, v⟩ := e
    by_cases hj : p j = true
    · by_cases hk : k = j
      · subst hk; simp [hj, tget]
      · simp [hj, tget, hk, ih]
    · by_cases hk : k = j
      · subst hk; simp [hj, ih]
      · simp [hj, tget, hk, ih]

/-- An erased span of flash reads as all ones; every other byte is as before. -/
theorem Dev.fbyte_eraseFlash (a n b : Nat) : (s.eraseFlash a n).fbyte b = if a ≤ b ∧ b < a + n then 0xFF else s.fbyte b := by
  unfold Dev.fbyte Dev.eraseFlash
  rw [tget_filter flashDefault (fun k => decide (k < a) || decide (a + n ≤ k))]
  by_cases h : a ≤ b ∧ b < a + n
  · have : ¬ (b < a ∨ a + n ≤ b) := by omega
    simp [h, this, flashDefault]
  · have : b < a ∨ a + n ≤ b := by omega
    simp [h, this]

end Sys2Proof.Machine
end

