-- ==== Sys2Proof/Laws/Ops.lean ====
section
/-!
SUPPORT. What each shared operation can do, said once: running a command, counters, sticky bits, posted events, the phases of the start
sequence, messages, and the order in which Laruri serves requests.
-/

namespace Sys2Proof.Machine

/-! ### Running a command -/

/-- A command whose meaning is a change `f` of the block does what holds of `f s` in canonical form. -/
theorem does_act {c : Instr} {f : Dev → Dev} {s : Dev} {P : Dev → Prop} (hc : ∀ q, exec c { pending := q, dev := s } = act f { pending := q, dev := s })
    (h : P (f s).canon) : Does c s P := fun q => ⟨(f s).canon, hc q, h⟩

/-- What a command does is what its next state satisfies. -/
theorem does_iff {c : Instr} {s t : Dev} {P : Dev → Prop} (hc : ∀ q, exec c { pending := q, dev := s } = .next { pending := q, dev := t }) : Does c s P ↔ P t := by
  constructor
  · intro h
    obtain ⟨u, hu, hP⟩ := h []
    have := (hc []).symm.trans hu
    injection this with this; injection this with _ this
    exact this ▸ hP
  · exact fun h q => ⟨t, hc q, h⟩

/-- Every command leaves the registers, memory and flash in their canonical forms. -/
theorem act_inv (f : Dev → Dev) (s t : State) (h : act f s = .next t) : t.Inv := by
  injection h with h; subst h
  exact Dev.canonical_canon _

/-! ### Frames -/

theorem SameMem.refl (s : Dev) : SameMem s s := fun _ => rfl
theorem SameFlash.refl (s : Dev) : SameFlash s s := fun _ => rfl
theorem SameRegs.refl (l : List Nat) (s : Dev) : SameRegs l s s := fun _ _ => rfl
theorem SameMem.trans {s t u : Dev} (h : SameMem s t) (k : SameMem t u) : SameMem s u := fun a => (k a).trans (h a)
theorem SameFlash.trans {s t u : Dev} (h : SameFlash s t) (k : SameFlash t u) : SameFlash s u := fun a => (k a).trans (h a)
theorem SameRegs.trans {l : List Nat} {s t u : Dev} (h : SameRegs l s t) (k : SameRegs l t u) : SameRegs l s u := fun a ha => (k a ha).trans (h a ha)
theorem SameRegs.mono {l m : List Nat} {s t : Dev} (hl : ∀ a ∈ l, a ∈ m) (h : SameRegs l s t) : SameRegs m s t := fun a ha => h a fun k => ha (hl a k)
theorem SameMem.canon {s t : Dev} (h : SameMem s t) : SameMem s t.canon := fun a => by rw [Dev.byte_canon]; exact h a
theorem SameFlash.canon {s t : Dev} (h : SameFlash s t) : SameFlash s t.canon := fun a => by rw [Dev.fbyte_canon]; exact h a
theorem SameRegs.canon {l : List Nat} {s t : Dev} (h : SameRegs l s t) : SameRegs l s t.canon := fun a ha => by rw [Dev.rd_canon]; exact h a ha

/-- A register written: only it reads otherwise. -/
theorem SameRegs.wr (s : Dev) (a v : Nat) : SameRegs [a] s (s.wr a v) := fun b hb => Dev.rd_wr_ne s v (by simpa using hb)
theorem SameRegs.set (s : Dev) (f : Field) (v : Nat) : SameRegs [f.addr] s (s.set f v) := fun b hb => Dev.rd_set_ne s v (by simpa using hb)
theorem SameRegs.setB (s : Dev) (f : Field) (v : Bool) : SameRegs [f.addr] s (s.setB f v) := fun b hb => Dev.rd_setB_ne s v (by simpa using hb)

/-! ### Counters (R13) -/

/-- Everything an advance can do: nothing at the greatest value or by 0; the sum below the greatest; or the greatest, its sticky bit and one event. -/
theorem Dev.incSat_cases (s : Dev) (a : Nat) (ovf : Field) (ev : Nat) (pre : List (Nat × Int)) (n : Nat) :
    ((s.rd a = 0xFFFFFFFF ∨ n = 0) ∧ s.incSat a ovf ev pre n = s) ∨
      (s.rd a + n < 0xFFFFFFFF ∧ n ≠ 0 ∧ s.incSat a ovf ev pre n = s.wr a (s.rd a + n)) ∨
        (s.rd a ≠ 0xFFFFFFFF ∧ 0xFFFFFFFF ≤ s.rd a + n ∧
          ∃ src items, s.incSat a ovf ev pre n = ((s.wr a 0xFFFFFFFF).setB ovf true).raiseSrc ev src items) := by
  by_cases h : s.rd a = 0xFFFFFFFF ∨ n = 0
  · exact .inl ⟨h, by simp only [Dev.incSat, h, if_true]⟩
  · refine .inr ?_
    by_cases hv : s.rd a + n < 0xFFFFFFFF
    · have h1 : min (s.rd a + n) 0xFFFFFFFF = s.rd a + n := by omega
      have h3 : ¬ s.rd a + n = 0xFFFFFFFF := by omega
      exact .inl ⟨hv, by omega, by simp only [Dev.incSat, h, if_false, h1, h3]⟩
    · have h1 : min (s.rd a + n) 0xFFFFFFFF = 0xFFFFFFFF := by omega
      exact .inr ⟨by omega, by omega, _, _, by simp only [Dev.incSat, h, if_false, h1, if_true]; rfl⟩

/-- An S32 counter after an advance. -/
theorem Dev.rd_incSat_same (s : Dev) (a : Nat) (ovf : Field) (ev : Nat) (pre : List (Nat × Int)) (n : Nat) (h : a ≠ ovf.addr) :
    (s.incSat a ovf ev pre n).rd a = min (s.rd a + n) 0xFFFFFFFF := by
  have hlt := s.rd_lt a
  rcases s.incSat_cases a ovf ev pre n with ⟨h1, e⟩ | ⟨h1, _, e⟩ | ⟨_, h1, _, _, e⟩ <;> rw [e]
  · omega
  · rw [Dev.rd_wr_same]; omega
  · rw [Dev.raiseSrc_rd, Dev.rd_setB_ne _ _ h, Dev.rd_wr_same]; omega

/-- An advance writes the counter and its overflow bit's register only. -/
theorem SameRegs.incSat (s : Dev) (a : Nat) (ovf : Field) (ev : Nat) (pre : List (Nat × Int)) (n : Nat) :
    SameRegs [a, ovf.addr] s (s.incSat a ovf ev pre n) := by
  intro b hb
  simp only [List.mem_cons, List.not_mem_nil, or_false, not_or] at hb
  rcases s.incSat_cases a ovf ev pre n with ⟨_, e⟩ | ⟨_, _, e⟩ | ⟨_, _, _, _, e⟩ <;> rw [e]
  · exact Dev.rd_wr_ne _ _ hb.1
  · rw [Dev.raiseSrc_rd, Dev.rd_setB_ne _ _ hb.2, Dev.rd_wr_ne _ _ hb.1]

/-- Beside the registers an advance changes only the events raised. -/
theorem Dev.incSat_parts (s : Dev) (a : Nat) (ovf : Field) (ev : Nat) (pre : List (Nat × Int)) (n : Nat) :
    { s.incSat a ovf ev pre n with regs := s.regs, raised := s.raised } = s := by
  rcases s.incSat_cases a ovf ev pre n with ⟨_, e⟩ | ⟨_, _, e⟩ | ⟨_, _, _, _, e⟩ <;> rw [e] <;> rfl

/-- An S32 counter of the MGT block after an advance. -/
theorem Dev.mgtCount_countsOne (s : Dev) (a : Nat) (h1 : a ≠ R.MGT_CNT_OVF) (h2 : a ≠ R.MGT_STAT) : CountsOne a s (s.mgtCount a) := by
  unfold Dev.mgtCount CountsOne
  dsimp only
  split
  · rw [Dev.rd_setB_ne _ _ h2, Dev.rd_incSat_same _ _ _ _ _ _ h1]
  · rw [Dev.rd_incSat_same _ _ _ _ _ _ h1]

theorem SameRegs.mgtCount (s : Dev) (a : Nat) : SameRegs (mgtCountRegs a) s (s.mgtCount a) := by
  have h : SameRegs (mgtCountRegs a) s (s.incSat a ⟨R.MGT_CNT_OVF, (a - R.MGT_SESS) / 4, 1⟩ Ev.MGT_CNT_SAT [] 1) :=
    (SameRegs.incSat s a _ _ _ 1).mono (by simp [mgtCountRegs])
  unfold Dev.mgtCount
  dsimp only
  split
  · exact h.trans ((SameRegs.setB _ _ _).mono (by simp [mgtCountRegs]))
  · exact h

/-! ### Sticky bits and posted events -/

/-- A sticky bit is set afterwards. -/
theorem Dev.flag_stick (s : Dev) (f : Field) (ev : Dev → Dev) (he : ∀ d : Dev, (ev d).flag f = d.flag f) (h : f.lo + f.width ≤ 32) (w : 1 ≤ f.width) :
    (s.stick f ev).flag f = true := by
  unfold Dev.stick
  split
  · assumption
  · rw [he, Dev.flag_setB_same _ _ _ h w]

/-- An event posted stands last in its class's input; every other input is as it was. -/
theorem Dev.input_post (s : Dev) (cls desc payload k : Nat) (h : desc ≠ 0xFFFF) :
    (s.post cls desc payload).input k = if k = cls then s.input cls ++ [{ desc := desc, payload := payload % 2 ^ 32 }] else s.input k := by
  unfold Dev.post Dev.input
  rw [if_neg h]
  dsimp only
  by_cases e : k = cls
  · subst e; simp
  · simp only [e, if_false]; exact tget_tput_ne _ _ _ _ e

theorem Dev.post_none (s : Dev) (cls payload : Nat) : s.post cls 0xFFFF payload = s := if_pos rfl

/-! ### Messages and requests (R410, R412–R414) -/

/-- A response is the next message, and answers its request. -/
theorem Dev.respond_answers (s : Dev) (r : MgtReq) (status : Nat) (body : List Nat) :
    ∃ x, (s.respond r status body).mgt.tx = s.mgt.tx ++ [x] ∧ Answers r status body x :=
  ⟨_, rfl, rfl, _, Nat.mod_lt _ (Nat.two_pow_pos 32), rfl⟩

/-- After silence it is the only one, and is kept. -/
theorem Dev.respond_responds (s : Dev) (r : MgtReq) (status : Nat) (body : List Nat) (h : s.mgt.tx = []) : Responds r status body s (s.respond r status body) := by
  refine ⟨(r.src, mgtHeader 1 r.cmd r.tag body.length status (Config.freeNat s.freeCtr 0 % 2 ^ 32) ++ body), ?_,
    ⟨rfl, _, Nat.mod_lt _ (Nat.two_pow_pos 32), rfl⟩, rfl⟩
  simp only [Dev.respond, Dev.takeFree, h, List.nil_append]

/-- A response writes no register, no memory and no flash. -/
theorem Dev.respond_parts (s : Dev) (r : MgtReq) (status : Nat) (body : List Nat) :
    { s.respond r status body with mgt := s.mgt, freeCtr := s.freeCtr } = s := rfl

/-- A T command that is not the oldest, or that the device does not serve, only ends the messages of the command before. -/
theorem serveT_waits (cmd len : Nat) (f : MgtReq → Dev → Reply) (s : Dev) (h : ∀ r q, ¬ TakesT s cmd r q) : serveT cmd len f s = s.quietTx := by
  unfold serveT
  dsimp only
  split
  · next r q hq =>
    split
    · rfl
    · next hn =>
      simp only [not_or, Decidable.not_not, Bool.not_eq_true', Bool.not_eq_false] at hn
      exact absurd ⟨hq, hn.1, show s.quietTx.serving = true by simpa using hn.2⟩ (h r q)
  · rfl

/-- The oldest T request, with a body of the right length, answered. -/
theorem serveT_runs (cmd len : Nat) (f : MgtReq → Dev → Reply) (s : Dev) {r : MgtReq} {q : List MgtReq} (h : TakesT s cmd r q) (hl : r.body.length = len) :
    serveT cmd len f s =
      (f r { s with mgt := { s.mgt with tx := [], tq := q } }).2.2.respond r (f r { s with mgt := { s.mgt with tx := [], tq := q } }).1
        (f r { s with mgt := { s.mgt with tx := [], tq := q } }).2.1 := by
  obtain ⟨hq, hc, hs⟩ := h
  have hq' : s.quietTx.mgt.tq = r :: q := hq
  have hs' : s.quietTx.serving = true := hs
  simp only [serveT, hq', hc, ne_eq, not_true_eq_false, hs', Bool.not_true, Bool.false_eq_true, or_self, if_false, hl]
  rfl

/-- An S or P command that is not the oldest, that the device does not serve, or that a re-placement holds back, only ends the messages before it. -/
theorem serveS_waits (cmd : Nat) (len : Nat → Bool) (f : MgtReq → Dev → Reply) (s : Dev) (h : ∀ r q, ¬ TakesS s cmd r q) : serveS cmd len f s = s.quietTx := by
  unfold serveS
  dsimp only
  split
  · next r q hq =>
    split
    · rfl
    · next hn =>
      simp only [not_or, Decidable.not_not, Bool.not_eq_true', Bool.not_eq_false, Option.isSome_iff_ne_none] at hn
      exact absurd ⟨hq, hn.1, show s.quietTx.serving = true by simpa using hn.2.1, show s.quietTx.plc.current = none by simpa using hn.2.2⟩ (h r q)
  · rfl

/-- A P command without the cinch is refused (R410). -/
theorem serveS_refuses (cmd : Nat) (len : Nat → Bool) (f : MgtReq → Dev → Reply) (s : Dev) {r : MgtReq} {q : List MgtReq} (h : TakesS s cmd r q)
    (hp : isPresence cmd = true) (hc : s.cinch = false) : serveS cmd len f s = Dev.refuse r { s with mgt := { s.mgt with tx := [], sq := q } } := by
  obtain ⟨hq, hcmd, hs, hk⟩ := h
  have hq' : s.quietTx.mgt.sq = r :: q := hq
  have hs' : s.quietTx.serving = true := hs
  have hk' : s.quietTx.plc.current = none := hk
  have hc' : Dev.cinch { s.quietTx with mgt := { s.quietTx.mgt with sq := q } } = false := hc
  simp only [serveS, hq', hcmd, ne_eq, not_true_eq_false, hs', Bool.not_true, Bool.false_eq_true, hk', Option.isSome_none, or_self, if_false, hp, hc',
    Bool.not_false, Bool.and_self, if_true]
  rfl

/-- A command that runs, with a body of a length it takes: its reply, logged for a P command, and the response. -/
theorem serveS_runs (cmd : Nat) (len : Nat → Bool) (f : MgtReq → Dev → Reply) (s : Dev) {r : MgtReq} {q : List MgtReq} (h : RunsS s cmd r q)
    (hl : len r.body.length = true) :
    serveS cmd len f s =
      ((f r { s with mgt := { s.mgt with tx := [], sq := q } }).2.2.logCmd r (f r { s with mgt := { s.mgt with tx := [], sq := q } }).1).respond r
        (f r { s with mgt := { s.mgt with tx := [], sq := q } }).1 (f r { s with mgt := { s.mgt with tx := [], sq := q } }).2.1 := by
  obtain ⟨⟨hq, hcmd, hs, hk⟩, hc, he⟩ := h
  have hq' : s.quietTx.mgt.sq = r :: q := hq
  have hs' : s.quietTx.serving = true := hs
  have hk' : s.quietTx.plc.current = none := hk
  have he' : Dev.flag { s.quietTx with mgt := { s.quietTx.mgt with sq := q } } R.MGT_STAT_env_stop = false := he
  have hc' : (isPresence cmd && !Dev.cinch { s.quietTx with mgt := { s.quietTx.mgt with sq := q } }) = false := by
    cases hp : isPresence cmd
    · rfl
    · have : Dev.cinch { s.quietTx with mgt := { s.quietTx.mgt with sq := q } } = true := hc hp
      simp [this]
  simp only [serveS, hq', hcmd, ne_eq, not_true_eq_false, hs', Bool.not_true, Bool.false_eq_true, hk', Option.isSome_none, or_self, if_false, hc', he',
    Bool.false_and, hl]
  rfl

/-! ### The phases of the start sequence (R382) -/

/-- A phase begins: of the registers only SYS_BOOT_STAT changes. -/
theorem SameRegs.toPhase (s : Dev) (k : Nat) : SameRegs [R.SYS_BOOT_STAT] s (s.toPhase k) := SameRegs.set s R.SYS_BOOT_STAT_phase k

theorem Dev.phase_toPhase (s : Dev) (k : Nat) (h : k < 16) : (s.toPhase k).phase = k := by
  have : (s.set R.SYS_BOOT_STAT_phase k).get R.SYS_BOOT_STAT_phase = k % 2 ^ 4 := Dev.get_set_same s R.SYS_BOOT_STAT_phase k (by decide)
  exact this.trans (Nat.mod_eq_of_lt h)

/-- A phase ends: the next one stands, and only SYS_BOOT_STAT and the phase's duration change. -/
theorem Dev.phase_endPhase (s : Dev) (k : Nat) (h : k < 16) : (s.endPhase k).phase = k := Dev.phase_toPhase _ k h

theorem SameRegs.endPhase (s : Dev) (k : Nat) : SameRegs [R.SYS_BOOT_STAT, R.SYS_PHASE_MS s.phase] s (s.endPhase k) := by
  refine SameRegs.trans ?_ ((SameRegs.toPhase _ k).mono (by simp))
  intro a ha
  simp only [List.mem_cons, List.not_mem_nil, or_false, not_or] at ha
  rw [Dev.raise_rd]
  split
  · exact Dev.rd_wr_ne _ _ ha.2
  · rfl

end Sys2Proof.Machine
end

