-- ==== Sys2Proof/Tests/Slice0.lean ====
section
/-!
SUPPORT. Tests. For every statement with hypotheses, concrete states and operands that meet them, clause by clause (`test_hyp_…`); a valid image and a good
factory calibration, built from the spec's tables outside the model; and the well-formedness smoke tests.
-/

set_option Elab.async false

open Sys2Proof Sys2Proof.Machine
namespace Sys2Proof.Tests

/-! ### States -/

/-- The device after reset. -/
abbrev base : Dev := State.reset.dev

/-- A state with registers at values. -/
def regs (l : List (Nat × Nat)) (s : Dev) : Dev := l.foldl (fun s e => s.wr e.1 e.2) s

/-- A state with register fields at values. -/
def flds (l : List (Field × Nat)) (s : Dev) : Dev := l.foldl (fun s e => s.set e.1 e.2) s

/-- A state with memory bytes at values. -/
def mems (a : Nat) (l : List Nat) (s : Dev) : Dev := s.setBytes a l

/-- The state at an elapsed time, in cycles of the time base. -/
def at_ (n : Nat) (s : Dev) : Dev := { s with time := { s.time with clk := n } }

/-- The state at an air count. -/
def cnt (n : Nat) (s : Dev) : Dev := { s with time := { s.time with cnt := n } }

/-- The device in a phase. -/
def ph (k : Nat) (s : Dev) : Dev := flds [(R.SYS_BOOT_STAT_phase, k)] s

/-- The device after a command. -/
def run (c : Instr) (s : Dev) : Dev :=
  match exec c { pending := [], dev := s } with
  | .next t => t.dev
  | _ => s

/-- Ring `k` of class 0 with base_g 1, its entry's word 0 with `w0` besides and its source `src`, created. -/
def ringOn (k w0 src : Nat) (s : Dev) : Dev :=
  createRing k (((flds [(R.STO_CLS_quota 0, 100)] s).setRw k 0 (w0 + 1024)).setRw k 1 src)

/-- Words written into ring `k`. -/
def fill (k : Nat) (l : List (BitVec 64)) (s : Dev) : Dev := l.foldl (fun s v => (s.ringPut k v.toNat).2) s

/-- Port 0 of a quad in use, its link at `up`. -/
def port0 (up : Nat) (l : List (Nat × Nat)) : Dev :=
  flds [(R.ETH_PORT_STAT_link 0, up)] (regs ([(R.ETH_QUAD_CTL 0, 0x61), (R.ETH_PORT_CFG 0, 9216)] ++ l) base)

/-- A frame of 64 bytes with an ethertype. -/
def frame64 (e0 e1 : Byte) : List Byte := List.replicate 12 0 ++ [e0, e1] ++ List.replicate 50 0

/-- The first classifier entry that takes a frame at port 0. -/
def hit (s : Dev) (f : List Nat) : Option Nat := (List.range 1024).find? (fun k => s.clsMatch k 0 f (l2View f) (l3View f (l2View f)))

/-- Lane `n` in a state, its group's power domain on, with these fields besides. -/
def lane_ (n st : Nat) (l : List (Field × Nat)) : Dev :=
  flds ((R.LNK_LINE_STAT_state n, st) :: l) (regs [(R.PWR_DOM_LO, 0xFFFFFFFF), (R.PWR_DOM_HI, 0xFFFF)] base)

/-- The same with what the lane holds beside its registers. -/
def laneX (n st : Nat) (l : List (Field × Nat)) (x : LaneSt) : Dev := (lane_ n st l).modLane n fun _ => x

/-- Link 0, one lane, in a state, with these fields besides and what it holds beside its registers. -/
def link_ (st : Nat) (l : List (Field × Nat)) (k : LinkSt) : Dev :=
  (flds ((R.LNK_LINK_STAT_state 0, st) :: (R.LNK_LINK_CFG_en 0, 1) :: (R.AIR_STAT_state, 2) :: l) (lane_ 0 8 [])).modLink 0 fun _ => k

/-- Channel 127 with this running and these queued. -/
def chan (x : MovCh) (s : Dev) : Dev := (flds [(R.MOV_CH_CFG_en 127, 1), (R.AIR_STAT_state, 2)] s).setMovCh 127 x

/-- Core `g` at a level, in RUN at pc 0, one protection region letting S and T read, write and execute everything; scalar registers and the rest
as `e` gives. -/
def core_ (g lvl : Nat) (e : Eng) (l : List (Field × Nat)) : Dev :=
  (flds ((R.CSR_MPU_CFG_en g 7, 1) :: (R.CSR_MPU_CFG_size g 7, 40) :: (R.CSR_MPU_CFG_perm g 7, 63) :: l)
    ((regs [(R.PWR_DOM_LO, 0xFFFFFFFF), (R.PWR_DOM_HI, 0xFFFF)] base).setCoreState g 1)).setLvl g lvl |>.setCore g e

/-- An instruction of core `g`. -/
abbrev iss (g : Fin 193) : Issue := { core := g }

/-- The parts of `runs` that a state shows. -/
def runsB (s : Dev) (i : Issue) : Bool :=
  s.coreState i.core == 1 && decide ((s.core i.core).wait = .none) && (s.cops i.core).all (fun c => c.confirmed || c.squashed) &&
    s.fetchOk i.core (s.pc i.core) && decide ((i.fails : Nat) < 3)

theorem test_hyp_runs {s : Dev} {i : Issue} (h : runsB s i = true) : s.runs i := by
  simp only [runsB, Bool.and_eq_true, beq_iff_eq, decide_eq_true_eq, List.all_eq_true, Bool.or_eq_true] at h
  exact ⟨h.1.1.1.1, h.1.1.1.2, h.1.1.2, h.1.2, h.2⟩

/-- A coprocessor command. -/
def cmd_ (slot tag op : Nat) (d : List Nat) : CopCmd := { slot := slot, tag := tag, op := op, keep := true, d := d, arg := 0, rd := 3 }

/-- Core 191 at T with s1 = `a`. -/
def at1 (a : BitVec 64) : Dev := core_ 191 0 { s := [(1, a)] } []

/-- An activation of descriptor 0xFFFF. -/
def act_ : Activation := { desc := 0xFFFF, gen := 3, cls := 0, pri := 0, seq := 0, ready := 0, dead := some 9 }

/-! ### The hypotheses of each statement can be met -/

theorem test_hyp_StepKeepsInv : State.reset.dev.canonical = true ∧ (match step State.reset with | .next _ => true | _ => false) = true := by decide +kernel

theorem test_hyp_IdleIsOneCycle :
    base.time.cnt + 2 < 2 ^ 64 ∧ base.time.todAt = none ∧
    (let s : Dev := at_ (3 * hz) { base with time := { base.time with todAt := some 0 } }
     s.time.cnt + 2 < 2 ^ 64 ∧ s.time.todAt = some 0 ∧ 0 * 1000 + 3000 * hz ≤ (s.time.clk + 1) * 1000) := by decide +kernel

theorem test_hyp_RegisterWriteCodes :
    (R.PLC_STAT / 2 ^ 24 = 0x30D ∧ R.PLC_STAT % 4 = 0 ∧ ∃ r, rowOf R.PLC_STAT = some r ∧ r.rwl = 0) ∧
    (R.PLC_POLICY / 2 ^ 24 = 0x30D ∧ R.PLC_POLICY % 4 = 0 ∧ (∃ r, rowOf R.PLC_POLICY = some r ∧ r.rwl ≠ 0) ∧
      (flds [(R.SYS_BOOT_STAT_done, 1)] base).flag R.SYS_BOOT_STAT_done = true ∧ base.flag R.SYS_BOOT_STAT_done = false) ∧
    isCtl 0x2FFFFFFFC = false ∧ isCtl (R.PLC_STAT + 1) = false ∧ rowOf 0x30DFFFFFC = none := by
  refine ⟨⟨by decide, by decide, _, rfl, by decide⟩, ⟨by decide, by decide, ⟨_, rfl, by decide⟩, by decide⟩, by decide⟩

theorem test_hyp_LowHalfLatches :
    isWide R.AIR_START_LO = true ∧ R.AIR_START_LO < 0x30B000000 ∧ isWide (R.POD_EBUSY 191) = true ∧
    isWide (R.MOV_DESC 0) = true ∧ isWide R.PWR_SW_CNT = true ∧ isWide 0x30E000020 = true ∧
    (let s := base.latchAt (R.MOV_DESC 0 + 4) 7
     isHigh (R.MOV_DESC 0 + 4) = true ∧ s.latch.find? (fun e => e.1 == R.MOV_DESC 0 + 4) = some (R.MOV_DESC 0 + 4, 7)) ∧
    (let s := base.latchAt (R.TDOM_FRC_LO + 8) 7
     isHigh (R.TDOM_FRC_LO + 8) = true ∧ s.latch.find? (fun e => e.1 == R.TDOM_FRC_LO + 8) = some (R.TDOM_FRC_LO + 8, 7)) ∧
    base.time.cnt < 2 ^ 64 ∧ base.regValue (R.TDOM_CLK_SEC_LO 1) < 2 ^ 32 ∧ base.regValue (R.TDOM_CLK_SEC_LO 1 + 4) < 2 ^ 32 ∧
    base.regValue (R.TDOM_CLK_SEC_LO 1 + 8) < 2 ^ 32 := by decide +kernel

theorem test_hyp_AirStatesAndStart :
    (let s := ph 6 base
     s.airState = 0 ∧ s.time.catchUp = false ∧ s.time.hold = false ∧ s.time.frcRun = true ∧ 6 ≤ s.phase ∧ s.phase ≤ 11 ∧
      (cnt (2 ^ 60) s).reselect.lockTarget < (cnt (2 ^ 60) s).reselect.time.cnt ∧ s.reselect.time.cnt ≤ s.reselect.lockTarget) ∧
    (flds [(R.AIR_STAT_state, 1)] base).airState ≠ 0 ∧ base.phase < 6 ∧ 11 < (ph 12 base).phase ∧
    (let s : Dev := { base with time := { base.time with catchUp := true } }
     s.airState = 0 ∧ s.time.catchUp = true ∧ s.time.cnt ≤ s.lockTarget) ∧
    (flds [(R.AIR_STAT_state, 2)] base).airState = 2 ∧
    (let s := at_ (60 * hz) (flds [(R.AIR_STAT_state, 3)] base); s.airState = 3 ∧ s.elapsed s.time.fallbackAt 60000 = true) ∧
    (let s := ph 10 (regs [(R.AIR_START_LO, 2 * frameTc)] (flds [(R.AIR_STAT_state, 1)] base))
     s.airState = 1 ∧ 10 ≤ s.phase ∧ s.phase ≤ 11 ∧ s.time.start = none ∧ (ph 9 s).phase < 10 ∧ s.time.cnt + frameTc ≤ frameAtOrAfter s.startTarget ∧ frameAtOrAfter (cnt (frameTc + 1) s).startTarget < (cnt (frameTc + 1) s).time.cnt + frameTc) ∧
    (let s : Dev := cnt frameTc { flds [(R.AIR_STAT_state, 1)] base with time := { base.time with start := some (frameTc, 5) } }
     s.time.start = some (frameTc, 5) ∧ s.airState = 1 ∧ frameTc ≤ s.time.cnt) := by decide +kernel

/-- Slot 15 as an output with a target. -/
def trgOut (target width per : Nat) : Dev :=
  let s := flds [(R.AIR_STAT_state, 2), (R.AIR_TRG_CTL_en 15, 1), (R.AIR_TRG_CTL_dir 15, 0), (R.AIR_TRG_STAT_armed 15, 1)] (regs [(R.AIR_TRG_PER 15, per)] base)
  let s1 := regs [(R.AIR_TRG_CTL 15, s.rd (R.AIR_TRG_CTL 15) + width * 65536)] s
  { s1 with time := { s1.time with trg := [(15, { target := target })] } }

/-- Slots 14 and 15 due at one target. -/
def trgTwo : Dev :=
  let s := trgOut 0 1 0
  let s1 := flds [(R.AIR_TRG_CTL_en 14, 1), (R.AIR_TRG_CTL_dir 14, 0), (R.AIR_TRG_STAT_armed 14, 1)] (regs [(R.AIR_TRG_CTL 14, s.rd (R.AIR_TRG_CTL 15))] s)
  { s1 with time := { s1.time with trg := [(14, { target := 0 }), (15, { target := 0 })] } }

/-- Slot 15 as an input with captures. -/
def trgIn (caps : List Nat) : Dev :=
  let s := flds [(R.AIR_STAT_state, 2), (R.AIR_TRG_CTL_en 15, 1), (R.AIR_TRG_CTL_dir 15, 1)] base
  { s with time := { s.time with trg := [(15, { caps := caps, pulseEnd := some 0 })] } }

theorem test_hyp_TriggersAndTimeQuery :
    base.trgDue 0 = false ∧ base.trgDue 15 = false ∧ (trgOut 0 1 0).trgDue 15 = true ∧ (trgOut 0 1 0).trgAllowed 15 = true ∧ (trgOut 0 1 0).trgBad 15 = false ∧
    (flds [(R.AIR_STAT_state, 1)] (trgOut 0 1 0)).trgDue 15 = true ∧ (flds [(R.AIR_STAT_state, 1)] (trgOut 0 1 0)).trgAllowed 15 = false ∧
    (∀ m : Nat, m < 15 → (trgOut 0 1 0).trgDue m = true → ((trgOut 0 1 0).trg m).target ≠ ((trgOut 0 1 0).trg 15).target) ∧
    (trgTwo.trgDue 14 = true ∧ trgTwo.trgDue 15 = true ∧ (trgTwo.trg 14).target = (trgTwo.trg 15).target ∧ trgTwo.trgAllowed 14 = true ∧ trgTwo.trgBad 14 = false ∧
      trgTwo.trgAllowed 15 = true ∧ trgTwo.trgBad 15 = false) ∧
    base.time.cnt + 256 ≤ (256 : Word).toNat + base.rd (R.AIR_TRG_T_HI 0) * 2 ^ 32 ∧ (255 : Word).toNat + base.rd (R.AIR_TRG_T_HI 15) * 2 ^ 32 < base.time.cnt + 256 ∧
    (let s := trgOut 0 1 0; s.flag (R.AIR_TRG_CTL_en 15) = true ∧ s.flag (R.AIR_TRG_CTL_dir 15) = false ∧ s.flag (R.AIR_TRG_STAT_armed 15) = true ∧
      (s.trg 15).target ≤ s.time.cnt ∧ s.trgAllowed 15 = true ∧ s.trgWidth 15 ≠ 0 ∧ s.rd (R.AIR_TRG_PER 15) = 0) ∧
    ((trgOut 0 1 2).trgWidth 15 < (trgOut 0 1 2).rd (R.AIR_TRG_PER 15) ∧ (trgOut 0 0 0).trgWidth 15 = 0 ∧
      (trgOut 0 2 2).rd (R.AIR_TRG_PER 15) ≠ 0 ∧ (trgOut 0 2 2).rd (R.AIR_TRG_PER 15) ≤ (trgOut 0 2 2).trgWidth 15) ∧
    ((trgIn []).trg 15).pulseEnd = some 0 ∧
    (let s := trgIn [1, 2, 3]; s.flag (R.AIR_TRG_CTL_en 15) = true ∧ s.flag (R.AIR_TRG_CTL_dir 15) = true ∧ s.trgAllowed 15 = true ∧ (s.trg 15).caps.length < 4) ∧
    (4 ≤ ((trgIn [1, 2, 3, 4]).trg 15).caps.length ∧ (trgIn [1, 2, 3, 4]).rd (R.AIR_TRG_DROP 15) < 0xFFFFFFFE) ∧
    ((trgIn [9]).trg 15).caps = [9] ∧ ((trgIn []).trg 15).caps = [] ∧
    (let s := cnt 4 (flds [(R.AIR_CTL_tqb_en, 1)] base); s.flag R.AIR_CTL_tqb_en = true ∧ s.tqbCount ≤ s.time.cnt) ∧ base.flag R.AIR_CTL_tqb_en = false := by decide +kernel

theorem test_hyp_DomainTime :
    ({ base with time := { base.time with frcRun := false } } : Dev).time.frcRun = false ∧ base.time.frcRun = true ∧
    (let s : Dev := flds [(R.AIR_STAT_state, 1)] { base with time := { base.time with frc := 4 + hz * 65536, hold3 := { last := some (0, 4) } } }
     s.airFollows = true ∧ s.src ≠ 3 ∧ s.time.hold3.last = some (0, 4) ∧ 4 + hz * 65536 ≤ s.time.frc ∧ base.time.frc < 4 + hz * 65536) ∧
    (let s : Dev := flds [(R.TDOM_DCTL_en 3, 1)] base; s.airFollows = false ∧ s.airState ≠ 3 ∧ s.flag (R.TDOM_DCTL_en 3) = true) ∧
    (let s := flds [(R.AIR_STAT_state, 2)] base; s.airFollows = true ∧ s.src ≠ 3 ∧ s.time.hold3.last = none) := by decide +kernel

/-- Domain 1 on, with its servo, in a state. -/
def dom1 (st : Nat) : Dev := flds [(R.TDOM_DCTL_en 1, 1), (R.TDOM_DCTL_servo_en 1, 1), (R.TDOM_STAT_state 1, st), (R.TDOM_SRV_step_ok 1, 1)] base

theorem test_hyp_DomainServo :
    base.flag (R.TDOM_DCTL_en 7) = false ∧
    (let s := dom1 1; s.follows 1 = false ∧ s.flag (R.TDOM_DCTL_en 1) = true ∧ s.flag (R.TDOM_DCTL_servo_en 1) = true ∧ s.get (R.TDOM_STAT_state 1) = 1 ∧
      s.flag (R.TDOM_SRV_step_ok 1) = true ∧ s.rd (R.TDOM_STEP 1) * 256 ≤ ((0x7FFFFFFF : Word).toInt).natAbs ∧ s.airSource 1 = false) ∧
    (dom1 2).get (R.TDOM_STAT_state 1) = 2 ∧
    (let s := at_ (300 * hz) (dom1 2); s.flag (R.TDOM_DCTL_servo_en 1) = true ∧
      (((if s.get (R.TDOM_LCK_meas_to 1) = 0 then 256 else s.get (R.TDOM_LCK_meas_to 1)) * hz : Nat) : Int) * pow2 (s.logIntv 1 + 8) ≤
        ((s.time.clk - (s.domain 1).lastMeas : Nat) : Int) * 256 ∧ s.rd (R.TDOM_TOUT 1) < 0xFFFFFFFF) ∧
    base.flag (R.TDOM_DCTL_servo_en 0) = false ∧ (dom1 0).get (R.TDOM_STAT_state 1) ≠ 1 ∧
    ((1 : Nat) = (9 : Word).toNat % 8 ∧ (dom1 1).get (R.TDOM_STAT_state 1) ≤ 1 ∧ (dom1 1).airSource 1 = false ∧ (dom1 1).follows 1 = false) ∧ (flds [(R.TDOM_DCTL_follow 6, 1)] base).follows 6 = true ∧
    ((3 : Nat) = (11 : Word).toNat % 8 ∧ 2 ≤ (dom1 2).get (R.TDOM_STAT_state 1)) := by decide +kernel

/-- Air time on domain 1 while priority 0 is domain `f`. -/
def sel (state src f : Nat) : Dev :=
  flds [(R.AIR_STAT_state, state), (R.AIR_STAT_src_dom, src), (R.TDOM_SEL_pri0, f), (R.TDOM_SEL_pri1, 7), (R.TDOM_SEL_pri2, 7),
    (R.TDOM_DCTL_src_ok 1, 1), (R.TDOM_STAT_state 1, 2), (R.TDOM_DCTL_en 1, 1)] base

theorem test_hyp_SourceSelection :
    (sel 3 1 1).airState = 3 ∧
    (let s := flds [(R.TDOM_SEL_forced, 1)] (sel 2 1 1); s.airState ≠ 3 ∧ s.flag R.TDOM_SEL_forced = true) ∧
    ((sel 2 1 2).flag R.TDOM_SEL_forced = false ∧ (sel 2 1 2).priorities.find? ((sel 2 1 2).setB (R.TDOM_DCTL_src_ok 1) false).requalify.qualified = none) ∧
    ((sel 2 3 1).priorities.find? (sel 2 3 1).requalify.qualified = some 1 ∧ (sel 2 3 1).src = 3) ∧
    ((sel 2 1 1).requalify.qualified (sel 2 1 1).src = true ∧ (sel 2 1 1).src ≠ 3 ∧ (sel 2 1 1).priorities.contains (sel 2 1 1).src = true ∧
      (sel 2 1 1).get R.TDOM_SEL_wtr = 0 ∧ (sel 2 1 1).airFollows = true ∧ (sel 2 1 1).flag R.AIR_STAT_fbc = false ∧ (sel 2 1 1).requalify.choose ≠ 3) ∧
    ((sel 2 1 1).time.resid = 0 ∧ (sel 2 1 1).time.slew = 0) ∧
    (let s := at_ (10 * hz) (flds [(R.TDOM_HOLD_lim, 1)] (sel 2 3 1)); s.airFollows = true ∧ s.src = 3 ∧ s.get R.TDOM_HOLD_lim ≠ 0 ∧ s.time.holdLim = false ∧
      s.elapsed s.time.hold3.since (s.get R.TDOM_HOLD_lim * 10000) = true) ∧
    (let s : Dev := { sel 2 1 1 with time := { (sel 2 1 1).time with offAir := true } }
     s.time.offAir = true ∧ s.qualified s.src = true ∧ (flds [(R.TDOM_LCK_lock_thr 1, 1)] s).resid16.natAbs < (flds [(R.TDOM_LCK_lock_thr 1, 1)] s).get (R.TDOM_LCK_lock_thr 1) * 2 ^ 16) := by decide +kernel

/-- The PLL on reference 0, its second 1. -/
def pll (ok : Nat) (r : Option Nat) : Dev :=
  let s := flds [(R.TDOM_PLL_ref, 0), (R.TDOM_PLL_ref2, 1), (R.TDOM_PLL_revert, 1), (R.TDOM_PLL_ref_ok, ok), (R.TDOM_GNSS_en, 1)] base
  { s with time := { s.time with pllRef := r, primaryOk := some 0, clk := 10 * hz, ppsLast := some 0, ppsEdge := some (10 * hz, 7) } }

theorem test_hyp_ReferencesAndClocks :
    ((pll 3 (some 0)).time.pllRef = some 0 ∧ (pll 3 (some 0)).primary = 0 ∧ (pll 3 (some 0)).get R.TDOM_PLL_ref2 = 1 ∧ ((pll 3 (some 0)).setRefOk 0 false).refOk 1 = true ∧ ((pll 1 (some 0)).setRefOk 0 false).refOk 1 = false) ∧
    (pll 3 (some 0)).time.pllRef ≠ some 1 ∧
    (let s := pll 3 (some 1); s.time.primaryOk = some 0 ∧ s.flag R.TDOM_PLL_revert = true ∧ s.time.pllRef.isSome = true ∧ s.refOk s.primary = true ∧
      s.elapsed 0 10000 = true) ∧
    ((pll 2 none).time.pllRef = none ∧ 0 = (pll 2 none).primary ∧ (pll 2 none).refOk 0 = false ∧ (pll 3 none).refOk 0 = true) ∧
    (let s := pll 3 (some 0); s.flag R.TDOM_GNSS_en = true ∧ s.time.ppsLast = some 0 ∧ s.elapsed 0 900 = true ∧ s.time.frc + 15 * 4096 < 2 ^ 96) ∧
    (let s := at_ (hz / 2) (pll 3 (some 0)); s.elapsed 0 900 = false ∧ s.rd R.TDOM_PPS_EXTRA < 0xFFFFFFFE) ∧
    ((pll 3 (some 0)).time.ppsEdge = some (10 * hz, 7) ∧ (pll 3 (some 0)).elapsed (10 * hz) 500 = false) ∧
    (19 * 2 ^ 32 ≤ (19 : Word).toNat % 256 * 2 ^ 32 + base.rd (R.TDOM_CLK_INC_FRAC 0) ∧ (21 : Word).toNat % 256 * 2 ^ 32 + base.rd (R.TDOM_CLK_INC_FRAC 1) ≤ 21 * 2 ^ 32) ∧
    ((18 : Word).toNat % 256 * 2 ^ 32 + base.rd (R.TDOM_CLK_INC_FRAC 0) < 19 * 2 ^ 32 ∧ 21 * 2 ^ 32 < (22 : Word).toNat % 256 * 2 ^ 32 + base.rd (R.TDOM_CLK_INC_FRAC 1)) ∧
    Level.s ≠ Level.m ∧ base.flag R.AIR_STAT_fbc = false := by decide +kernel

theorem test_hyp_EthernetReceive :
    ((port0 0 []).portLanes 0 ≠ 0 ∧ (port0 0 []).flag (R.ETH_PORT_STAT_link 0) = false) ∧ (regs [(R.ETH_QUAD_CTL 3, 0)] base).portLanes 15 = 0 ∧
    ((port0 1 []).flag (R.ETH_PORT_STAT_link 0) = true ∧ (port0 1 []).rd (R.ETH_RX_FCS 0) < 0xFFFFFFFE) ∧
    (⟨false, 3, 0⟩ : EthFec).unc = 0 ∧ (⟨true, 3, 1⟩ : EthFec).unc ≠ 0 ∧ (port0 1 []).rd (R.ETH_FEC_UNC 0) + (⟨true, 3, 1⟩ : EthFec).unc.toNat < 0xFFFFFFFF ∧
    overTagged ((frame64 0x08 0).map (·.toNat)) = false ∧
    ((List.replicate 63 (0 : Byte)).length < 64 ∧ 64 ≤ (frame64 0x08 0).length ∧ (frame64 0x08 0).length ≤ (port0 1 []).maxLen 0) := by decide +kernel

/-- Classifier entry `k` of port 0 with action `act_` and queue 0. -/
def cls (k act_ : Nat) (s : Dev) : Dev := regs [(0x305100000 + k * 0x20, 1 + act_ * 64), (0x305100004 + k * 0x20, 1)] s

def hit0 (s : Dev) : Option Nat := hit s ((frame64 0x88 0xF7).map (·.toNat))

theorem test_hyp_EthernetReceive_class :
    (hit0 (port0 1 []) = none ∧ (port0 1 []).rd (R.ETH_CLS_MISS 0) < 0xFFFFFFFE) ∧
    (hit0 (cls 1023 1 (port0 1 [])) = some 1023 ∧ bits ((cls 1023 1 (port0 1 [])).clsWord 1023 0) 6 2 = 1 ∧
      (l2View ((frame64 0x88 0xF7).map (·.toNat))).etype = 0x88F7) ∧
    (hit0 (cls 0 2 (port0 1 [])) = some 0 ∧ bits ((cls 0 2 (port0 1 [])).clsWord 0 0) 6 2 = 2) ∧
    (hit0 (cls 0 3 (port0 1 [])) = some 0 ∧ bits ((cls 0 3 (port0 1 [])).clsWord 0 0) 6 2 = 3) ∧
    (let s := cls 0 0 (port0 1 [])
     hit0 s = some 0 ∧ bits (s.clsWord 0 0) 6 2 = 0 ∧ s.flag (R.ETH_RXQ_CFG_en (bits (s.clsWord 0 0) 8 8)) = false ∧ s.rd (R.ETH_RXQ_DROP 0) < 0xFFFFFFFE) := by
  decide +kernel

/-- Receive queue 0 enabled on ring 1, which holds one word. -/
def rx0 (s : Dev) : Dev := fill 1 [1] (ringOn 1 0 0xFFF (flds [(R.ETH_RXQ_CFG_en 0, 1), (R.ETH_RXQ_CFG_ring 0, 1)] s))

theorem test_hyp_EthernetReceive_write :
    (let s := rx0 (cls 0 0 (port0 1 []))
     hit0 s = some 0 ∧ bits (s.clsWord 0 0) 6 2 = 0 ∧ bits (s.clsWord 0 0) 8 8 = 0 ∧ s.get (R.ETH_RXQ_CFG_ring 0) = 1 ∧ s.flag (R.ETH_RXQ_CFG_en 0) = true ∧
      s.ringValid 1 = true ∧ s.ringStalled 1 = [] ∧ s.ringW 1 + 16 ≤ s.ringOldest 1 + s.ringCap 1 ∧ s.ringW 1 = 1 ∧
      (∀ j, j < 2 → tget 0 s.fex.debt (1 * 2 + j) = 0) ∧ 80 ≤ s.ringHead 1) ∧
    (let s := flds [(R.ETH_RXQ_CFG_en 0, 1), (R.ETH_RXQ_CFG_ring 0, 1)] (cls 0 0 (port0 1 []))
     hit0 s = some 0 ∧ s.roomWords (s.get (R.ETH_RXQ_CFG_ring 0)) < (64 + 79) / 64 * 8) := by decide +kernel

/-- Queue 255 on port 0 with one descriptor: address 64 and the rest of its words. -/
def txOn (len launch cnt : Nat) : Dev :=
  let s := fill 1 [BitVec.ofNat 64 (5120 * 64 + len * 2 ^ 32), BitVec.ofNat 64 launch, 0, 0] (ringOn 1 0 0xFFF (port0 1 [(R.ETH_TXQ_CFG 255, 1)]))
  txqDoorbell 255 1 { flds [(R.AIR_STAT_state, 2), (R.ETH_TXQ_CFG_en 255, 1), (R.ETH_TXQ_CFG_port 255, 0), (R.ETH_TXQ_CFG_dring 255, 1)] s with
    time := { base.time with cnt := cnt } }

/-- The same with a malformed descriptor that asks for a record, ring 2 its completion ring. -/
def txBad_ : Dev :=
  fill 2 [1] (ringOn 2 0 0xFFF (flds [(R.ETH_TXQ_CFG_cring 255, 2)] (
    let s := fill 1 [BitVec.ofNat 64 (5120 * 64 + 59 * 2 ^ 32 + 2 ^ 48), 0, 7, 0] (ringOn 1 0 0xFFF (port0 1 [(R.ETH_TXQ_CFG 255, 1)]))
    txqDoorbell 255 1 (flds [(R.ETH_TXQ_CFG_en 255, 1), (R.ETH_TXQ_CFG_port 255, 0), (R.ETH_TXQ_CFG_dring 255, 1)] s))))

theorem test_hyp_EthernetTransmit_record :
    let s := txBad_
    s.flag (R.ETH_PORT_STAT_link 0) = true ∧ (s.port 0).busyUntil ≤ s.time.cnt ∧ (s.portQueues 0).find? (fun i => s.txBad 0 (s.txHead i)) = some 255 ∧
      s.get (R.ETH_TXQ_CFG_cring 255) = 2 ∧ (s.txHead 255).ts = true ∧ (s.txHead 255).seq = 7 ∧ s.ringValid 2 = true ∧ s.ringStalled 2 = [] ∧
      s.ringW 2 + 2 ≤ s.ringOldest 2 + s.ringCap 2 ∧ s.ringW 2 = 1 ∧ (∀ j, j < 2 → tget 0 s.fex.debt (2 * 2 + j) = 0) ∧ 80 ≤ s.ringHead 2 ∧
      s.get (R.ETH_TXQ_CFG_dring 255) = 1 := by decide +kernel

theorem test_hyp_EthernetTransmit :
    (base.flag (R.ETH_PORT_STAT_link 0) = false ∧ (let s := (txOn 60 0 5).setPort 0 { busyUntil := 6 }; s.time.cnt < (s.port 0).busyUntil)) ∧
    (let s := txOn 59 0 5
     s.flag (R.ETH_PORT_STAT_link 0) = true ∧ (s.port 0).busyUntil ≤ s.time.cnt ∧ (s.portQueues 0).find? (fun i => s.txBad 0 (s.txHead i)) = some 255) ∧
    (let s := txOn 60 0 5
     (s.portQueues 0).find? (fun i => s.txBad 0 (s.txHead i)) = none ∧ winner s ((s.portQueues 0).filter (s.txReady 0)) = some 255 ∧ (s.txq 255).posts ≠ [] ∧ (base.txq 255).posts = []) ∧
    (let s := txOn 9212 1 5
     0 = s.get (R.ETH_TXQ_CFG_port 255) ∧ 0 < (s.txq 255).posted ∧ s.flag (R.ETH_TXQ_CFG_en 255) = true ∧ s.flag (R.ETH_PORT_STAT_link 0) = true ∧
      s.txBad 0 (s.txHead 255) = false ∧ (s.txHead 255).launch ≠ 0 ∧ (s.txHead 255).launch < (s.txq 255).headAt + tickTc) ∧
    (let s := at_ 0 (txOn 60 tickTc 0)
     let t : Dev := { s with time := { s.time with cnt := tickTc } }
     (t.txq 255).headAt + tickTc ≤ (t.txHead 255).launch ∧ 2 ≤ t.airState ∧ (t.txHead 255).launch ≤ t.time.cnt ∧ t.txBad 0 (t.txHead 255) = false ∧ t.classPaused 0 (t.get (R.ETH_TXQ_CFG_tc 255)) = false ∧
      (t.port 0).busyUntil ≤ (t.txHead 255).launch ∧
      (t.txHead 255).launch < ((t.setPort 0 { busyUntil := tickTc + 1 }).port 0).busyUntil) := by
  decide +kernel

/-- A line asked for again of ring 4095, whose producer reads ring 1. -/
def regenReq : RegenReq := { prod := 3, ring := 4095, words := 0, line := 5184 }

/-- The unit with that line. -/
def regenUnit : RegenUnit := { reader := 0, at_ := 0, lines := [(Vector.replicate 8 7, false)] }

/-- The same, the producer's reader with a mark (`mv` 1) or none. -/
def regenOn (mv : Nat) : Dev :=
  let s := (fill 4095 (List.replicate 8 1) (ringOn 4095 (64 + 256) 1 (ringOn 1 0 0xFFF base))).setRf 1 12 0 1 mv
  { s with sto := { s.sto with regen := [regenReq] } }

theorem test_hyp_StoreLines :
    (let s := ringOn 4095 (64 + 256) 1 (ringOn 1 0 0xFFF base)
     s.poisoned (0xFFFFF * 64) = false ∧ s.ringValid 4095 = true ∧ (s.setPoison (5120 * 64) true).poisoned (5120 * 64) = true ∧
      s.rd R.STO_PERR_XFER < 0xFFFFFFFE ∧ s.rd R.STO_PERR_STORED < 0xFFFFFFFE ∧ s.rd R.STO_ERASED < 0xFFFFFFFE ∧
      s.lineRing (2 ^ 20 - 1) = none ∧ s.lineRing 5120 = some 1 ∧ s.ringKind 1 = 0 ∧ s.lineRing 5184 = some 4095 ∧ s.ringKind 4095 ≠ 0) ∧
    ((0x80 : BitVec 8) ≠ 0 ∧ (0xFF : BitVec 8) ≠ 0) ∧
    (let s := regenOn 1
     s.sto.regen.find? (fun r => r.ring == 4095) = some regenReq ∧ s.ringValid 4095 = true ∧ s.ringSrc 4095 = 1 ∧ (1 : Nat) ≠ 0xFFF ∧ s.hasReader 1 0 = true ∧
      s.rewindStatus 1 0 = 0 ∧ s.regenFits 4095 regenUnit regenReq = true ∧ 80 * 4096 ≤ s.ringOff 4095 0 ∧ s.ringOff 4095 0 < 2 ^ 26 ∧
      s.ringHeld 1 ≤ s.ringBase 1 ∧ s.rd R.STO_REGEN < 0xFFFFFFFE) ∧
    ((regenOn 0).rewindStatus 1 0 ≠ 0 ∧ (regenOn 0).hasReader 1 1 = false) := by
  decide +kernel

/-- A state in which ring `k` may be created: base_g 1 within the quota. -/
def ringNew (k w0 : Nat) : Dev := (flds [(R.STO_CLS_quota 0, 1)] base).setRw k 0 w0

theorem test_hyp_RingCommands :
    (ringNew 4095 1024).createResult 4095 = 0 ∧ (ringNew 0 0).createResult 0 ≠ 0 ∧ (ringNew 0 (257 * 1024)).createResult 0 ≠ 0 ∧
    (ringOn 4095 0 0xFFF base).ringValid 4095 = true ∧ base.ringValid 0 = false ∧
    (let b := base.wr (R.STO_CLS 15) ((0x10 : Word).toNat &&& 0x3FFFBFFF)
     b.partQuota (b.clsTbl 15) ≤ b.partSize (b.clsTbl 15) ∧ b.partOwed (b.clsTbl 15) ≤ b.partFree (b.clsTbl 15)) ∧
    (let b := base.wr (R.STO_CLS 0) ((0x3FFF : Word).toNat &&& 0x3FFFBFFF); b.partSize (b.clsTbl 0) < b.partQuota (b.clsTbl 0)) := by decide +kernel

/-- A full HOLD ring 7 of one grain, its one word stalled or not. -/
def ringFull : Dev := (ringOn 7 2 0xFFF base).setRq 7 2 512

theorem test_hyp_RingPorts :
    (let s := ringOn 7 0 0xFFF base
     s.ringValid 7 = true ∧ s.ringStalled 7 = [] ∧ s.ringW 7 + 7 - s.ringOldest 7 < s.ringCap 7 ∧ s.ringW 7 + 8 < 2 ^ 64 ∧ 80 ≤ s.ringHead 7 ∧ s.ringW 7 % 8 = 0 ∧
      (∀ j, j < 2 → tget 0 s.fex.debt (7 * 2 + j) = 0)) ∧
    (let s := (ringFull.setRq 7 4 512).setRq 7 6 512
     s.ringW 7 % 512 = 0 ∧ 0 < s.ringW 7 ∧ s.ringW 7 - s.ringOldest 7 < s.ringCap 7 ∧ 80 ≤ s.succ (s.ringHead 7)) ∧
    (ringFull.ringValid 7 = true ∧ ringFull.ringStalled 7 = [] ∧ ringFull.ringHold 7 = true ∧ ringFull.ringCap 7 ≤ ringFull.ringW 7 - ringFull.ringOldest 7 ∧
      (ringFull.grainRequest 7).1 = none) ∧
    (base.ringValid 7 = false ∧ base.ringStalled 7 = []) ∧
    (let s := (run (.ringWrite 7 [9] true) ringFull).setRq 7 4 1
     s.ringStalled 7 = [(9, true)] ∧ s.ringValid 7 = true ∧ s.ringW 7 - s.ringOldest 7 < s.ringCap 7 ∧ s.ringW 7 + 1 < 2 ^ 64 ∧ 80 ≤ s.ringHead 7 ∧
      80 ≤ s.succ (s.ringHead 7)) ∧
    ((ringOn 7 512 0xFFF base).hasReader 7 1 = true ∧ ringFull.hasReader 7 1 = false ∧ ringFull.hasReader 7 0 = true) := by decide +kernel

theorem test_hyp_ScrubAndCrossings :
    (let s := at_ (10 ^ 12) (flds [(R.STO_CTL_scrub_en, 1)] base)
     s.flag R.STO_CTL_scrub_en = true ∧ (s.scrubBank 255).req = false ∧ (s.scrubBank 255).done = false ∧
      (s.scrubBank 255).last * 625 + s.scrubIntv * 512 ≤ s.time.clk * 625) ∧
    (let s := (ringOn 7 0 0xFFF base).setScrub 255 { row := 4094, req := true }
     (s.scrubBank 255).req = true ∧ s.grainFree (storeLine 255 (s.scrubBank 255).row / 64 / 64) = true ∧ (s.scrubBank 255).row < 4095 ∧ s.sto.scrubDone < 256) ∧
    (let s := (ringOn 7 0 0xFFF base).setScrub 0 { row := 0, req := true }
     (s.scrubBank 0).req = true ∧ s.grainFree (storeLine 0 (s.scrubBank 0).row / 64 / 64) = false ∧ (s.scrubBank 0).row < 4095) ∧
    (fifoShape (0x9000 : BitVec 16).toNat = some (16, 64) ∧
      (let s := run (.fifoWrite 0x9000 1 true true) base
       ((s.fifo 0x9000).wptr + 2 * 16 - (s.fifo 0x9000).rptr) % (2 * 16) ≠ 16 ∧ (s.fifo 0x9000).entries = [(1, true)] ∧ (s.fifo 0x9000).rptr ≠ (s.fifo 0x9000).wptr) ∧
      (let s := base.setFifo 0x9000 { wptr := 16, rptr := 0 }; ((s.fifo 0x9000).wptr + 2 * 16 - (s.fifo 0x9000).rptr) % (2 * 16) = 16) ∧
      (base.fifo 0x9000).entries = []) ∧
    (base.rd R.STO_PERR_LOST < 0xFFFFFFFE ∧ base.rd R.STO_PERR_XFER < 0xFFFFFFFC) := by decide +kernel

/-- A descriptor for a linear range of one word: mode, further bits of word 0, source, destination. -/
def movD (mode bits_ src dst : Nat) : List Nat :=
  [mode + bits_ + 0xFFFF * 65536, 8, 77, 0xFFF, 1, 0, src % 2 ^ 32, src / 2 ^ 32, dst % 2 ^ 32, dst / 2 ^ 32, 0, 0, 0, 0, 0, 0xFFF]

/-- Linear descriptors in the store's pool. -/
def okD : List Nat := movD 1 0 0 (storeBase + 5120 * 64)

theorem test_hyp_MoverChannels :
    ((chan {} base).flag (R.MOV_CH_CFG_en 127) = true ∧ ((chan { queue := List.replicate 15 okD } base).movCh 127).queue.length < 16 ∧
      16 ≤ ((chan { queue := List.replicate 16 okD } base).movCh 127).queue.length) ∧
    (base.flag (R.MOV_CH_CFG_en 0) = false ∧ base.rd (R.MOV_BAD 0) < 0xFFFFFFFE) ∧
    (let s := chan { queue := [okD] } base
     (s.movCh 127).cur = none ∧ (s.movCh 127).link = none ∧ (s.movCh 127).fetched = none ∧ (s.movCh 127).queue = [okD] ∧ (s.movCh 127).held = [] ∧
      s.movCheck okD = 0 ∧ movLen okD ≠ 0 ∧ s.movCheck (movD 3 0 0 0) ≠ 0) ∧
    (let s := chan { link := some (5120 * 64, 0xFFF) } base
     s.linkDue 127 = some (5120 * 64, false) ∧ (chan {} base).linkDue 127 = none ∧ 5120 * 64 % 64 = 0 ∧ s.poisoned (5120 * 64) = false ∧ (s.setPoison (5120 * 64) true).poisoned (5120 * 64) = true) ∧
    (let r : MovRun := { d := okD, waitTime := true }
     let s := chan { cur := some r } base
     (s.movCh 127).cur = some r ∧ r.waitTime = true ∧ movStart r.d ≤ s.time.cnt ∧ 2 ≤ s.airState ∧ (flds [(R.AIR_STAT_state, 1)] s).airState < 2 ∧ s.movStalled r = 0) ∧
    (let r : MovRun := { d := movD 1 8 0 0, done := 1 }
     (((chan { cur := some r } base).movCh 127).cur = some r ∧ movFlag r.d 3 = true ∧ r.halfDone = false ∧ max 1 (movLen r.d / 2) ≤ (chan { cur := some r } base).movDone r) ∧
      ({ r with halfDone := true } : MovRun).halfDone = true ∧
      movSq r.d = 0xFFFF ∧ movSq (7 * 65536 :: okD.tail) ≠ 0xFFFF) ∧
    (let r : MovRun := { d := movD 1 1024 0 4095, done := 1, era := true }
     let s := chan { cur := some r } base
     r.done = movLen r.d ∧ s.movStalled r = 0 ∧ (s.movCh 127).stop = none ∧ ((chan { cur := some r, stop := some [] } base).movCh 127).stop = some [] ∧
      ({ s with sto := { s.sto with stalled := [(4095, [(1, false)])] } } : Dev).movStalled r ≠ 0) := by decide +kernel

/-- Unit 7's channel 15 asks for the burst of a descriptor. -/
def burst (d : List Nat) : Dev := chan { cur := some { d := d, req := true } } base

theorem test_hyp_MoverBurst :
    (base.burstPick 0 = none ∧
      (let d := movD 1 1024 0 7; (({ burst d with sto := { (burst d).sto with stalled := [(7, [(1, false)])] } } : Dev).unitStalled 7 = true))) ∧
    (let s := burst okD
     s.unitStalled 7 = false ∧ s.burstPick 7 = some 15 ∧ (s.requesting 7 15).isSome = true ∧ movMode okD = 1 ∧ movFlag okD 10 = false) ∧
    (let d := movD 0 0 (storeBase + 5121 * 64) (storeBase + 5120 * 64)
     let s := burst d
     s.unitStalled 7 = false ∧ s.burstPick 7 = some 15 ∧ (s.requesting 7 15).isSome = true ∧ movMode d = 0 ∧ movFlag d 8 = false ∧ movFlag d 10 = false) ∧
    (let d := movD 2 0 (storeBase + 5121 * 64) (storeBase + 5120 * 64)
     let s := burst d
     s.unitStalled 7 = false ∧ s.burstPick 7 = some 15 ∧ (s.requesting 7 15).isSome = true ∧ movMode d = 2 ∧ movFlag d 8 = false) := by decide +kernel

/-- The pair of words that two sync words, as their bits, spell. -/
def pair (l : List Bool) : SyncPair := ⟨BitVec.ofNat 64 (lsbNat l), BitVec.ofNat 64 (lsbNat l)⟩

theorem test_hyp_LaneAcquisition :
    ((regs [(R.PWR_DOM_HI, 0)] base).domOn (laneDom 1023) = false) ∧
    ((lane_ 1022 0 []).domOn (laneDom 1022) = true ∧ (lane_ 1022 0 []).isPairOdd 1022 = false ∧ bit (0x40 : Word).toNat 0 = false) ∧
    (let s := lane_ 1022 0 []
     let b := s.wr (R.LNK_LINE_CFG 1022) (lineCfgValue 1022 (1 : Word).toNat)
     s.laneState 1022 = 0 ∧ b.get (R.LNK_LINE_CFG_rate_code 1022) ≠ 7 ∧ b.get (R.LNK_LINE_CFG_fec 1022) ≠ 3) ∧
    (let v := (lane_ 0 0 [(R.LNK_LINE_CFG_rate_code 0, 7), (R.LNK_LINE_CFG_en 0, 1)]).rd (R.LNK_LINE_CFG 0)
     let b := (lane_ 0 0 []).wr (R.LNK_LINE_CFG 0) (lineCfgValue 0 (BitVec.ofNat 32 v).toNat)
     bit (BitVec.ofNat 32 v).toNat 0 = true ∧ b.get (R.LNK_LINE_CFG_rate_code 0) = 7) ∧
    (lane_ 1023 1 []).laneState 1023 ≠ 0 ∧ (lane_ 1023 1 []).isPairOdd 1023 = false ∧ (lane_ 2 1 [(R.LNK_LINE_CFG_split 2, 1)]).isPairOdd 3 = true ∧
    (syncMatch 0 syncU (pair syncU) = some false ∧ syncMatch 0 syncU (pair (reversePair syncU)) = some true ∧ syncMatch 0 syncU (pair syncD) = none ∧
      syncMatch 0 syncD (pair syncD) = some false) ∧
    (let s := lane_ 0 1 []
     s.laneState 0 = 1 ∧ s.domOn (laneDom 0) = true ∧ s.linkState (s.linkOf 0) ≠ 5 ∧ s.isPairOdd 0 = false ∧ (s.lane 0).eff.loop ≠ 1 ∧ (s.lane 0).warmReq = false ∧ s.get (R.LNK_SRCH_busy (0 / 256)) < 64) ∧
    (let s := laneX 1023 2 [(R.LNK_SRCH_waiting 3, 1), (R.LNK_SRCH_busy 3, 63)] { waits := true }
     (nums (256 * 3) 256).find? (fun n => (s.lane n).waits) = some 1023 ∧ s.flag (R.LNK_LINE_STAT_searcher 1023) = false ∧ s.get (R.LNK_SRCH_busy 3) < 64 ∧ 0 < s.get (R.LNK_SRCH_waiting 3)) ∧
    (let s := lane_ 9 2 [(R.LNK_LINE_STAT_searcher 9, 1), (R.LNK_LINE_CFG_rate_code 9, 6)]
     s.acquiring 9 = true ∧ s.syncTol 9 = 0 ∧ (s.lane 9).eff.loop ≠ 1 ∧ s.flag (R.LNK_LINE_STAT_searcher 9) = true ∧ s.get (R.LNK_LINE_CFG_rate_code 9) = (6 : Fin 7) ∧
      s.get (R.LNK_LINE_CFG_rate_code 9) ≠ 0 ∧ s.get (R.LNK_LINE_CFG_rate_code 9) ≠ (5 : Fin 7)) ∧
    (let s := lane_ 9 2 [(R.LNK_LINE_CFG_rate_code 9, 6)]
     s.acquiring 9 = true ∧ s.flag (R.LNK_LINE_STAT_searcher 9) = false ∧ s.syncRate 9 ≠ 0 ∧ s.syncWant 9 = syncU) ∧
    (let s := laneX 9 2 [(R.LNK_LINE_CFG_rate_code 9, 6)] { eff := { loop := 1 } }
     s.acquiring 9 = true ∧ s.syncRate 9 ≠ 0 ∧ (s.lane 9).eff.loop = 1 ∧ s.syncWant 9 = syncD) ∧
    (let s := at_ (hz / 10) (lane_ 1023 3 [])
     1 ≤ s.laneState 1023 ∧ s.laneState 1023 ≤ 3 ∧ s.isPairOdd 1023 = false ∧ s.elapsed (s.lane 1023).since 100 = true) := by
  decide +kernel

/-- A header of P`phase` with a count: the sync word U, the count, the flags with the phase, and the CRC of both. -/
def header (count phase : Nat) : Nat :=
  let b := msbBits 16 count ++ msbBits 8 phase
  lsbNat (syncU ++ b ++ msbBits 8 (crc8 b))

theorem test_hyp_LaneTraining :
    (let s := lane_ 3 6 []
     let l := s.unInvert 3 (lsbBits 96 (0 : BitVec 96).toNat)
     s.laneState 3 = 6 ∧ s.onGrid 3 = true ∧ s.isPairOdd 3 = false ∧ s.syncTol 3 < bitDiff (l.take 64) (s.syncWant 3)) ∧
    (let s := laneX 3 2 [] { acquired := true }
     let l := s.unInvert 3 (lsbBits 96 (BitVec.ofNat 96 (header 512 1)).toNat)
     bitDiff (l.take 64) (s.syncWant 3) ≤ s.syncTol 3 ∧ crc8 ((l.drop 64).take 24) = fieldAt l 88 8 ∧ s.laneState 3 = 2 ∧ s.onGrid 3 = false ∧ (s.lane 3).acquired = true ∧
      fieldAt l 86 2 = 1 ∧ fieldAt l 64 16 = 512) ∧
    (let s := lane_ 3 4 []
     let l := s.unInvert 3 (lsbBits 96 (BitVec.ofNat 96 (header 0 1)).toNat)
     bitDiff (l.take 64) (s.syncWant 3) ≤ s.syncTol 3 ∧ crc8 ((l.drop 64).take 24) = fieldAt l 88 8 ∧ s.laneState 3 = 4 ∧ fieldAt l 86 2 = 1 ∧ fieldAt l 64 16 = 0) ∧
    (let s := lane_ 3 6 []
     let l := s.unInvert 3 (lsbBits 96 (BitVec.ofNat 96 (header 0 3)).toNat)
     bitDiff (l.take 64) (s.syncWant 3) ≤ s.syncTol 3 ∧ crc8 ((l.drop 64).take 24) = fieldAt l 88 8 ∧ s.laneState 3 = 6 ∧ fieldAt l 86 2 = 3) ∧
    (let s := at_ 200 (laneX 3 4 [] { p1End := some 0 }); s.laneState 3 = 4 ∧ (s.lane 3).p1End = some 0 ∧ s.uiWindow 3 0 1024 2048 = true) ∧
    (let s := at_ 634550 (lane_ 3 5 []); s.laneState 3 = 5 ∧ s.ownBlocks 3 = 4096 ∧ s.uiWindow 3 (s.lane 3).phaseAt (4096 * 1024 + 1024) (4096 * 1024 + 2048) = true) ∧
    (let s := at_ hz (lane_ 3 6 []); s.laneState 3 = 6 ∧ (s.lane 3).gotP3 = false ∧ s.elapsedUi 3 (s.lane 3).p2End (8192 * 1024) = true) ∧
    (let s := at_ hz (laneX 4 7 [] { gotP3 := true, far0 := true })
     s.laneState 4 = 7 ∧ (s.lane 4).gotP3 = true ∧ (s.lane 4).far0 = true ∧ s.elapsedUi 4 (s.lane 4).phaseAt (s.ownBlocks 4 * 1024) = true) ∧
    (let s := laneX 4 8 [] { badRun := 3 }; 4 ≤ s.laneState 4 ∧ 3 ≤ (s.lane 4).badRun ∧ s.rd (R.LNK_LOL 4) < 0xFFFFFFFE) ∧
    ((lane_ 4 8 []).laneState 4 = 8 ∧ (lane_ 4 8 [(R.LNK_LINE_CFG_fec 4, 0)]).get (R.LNK_LINE_CFG_fec 4) = 0 ∧
      (lane_ 4 8 [(R.LNK_LINE_CFG_fec 4, 2)]).get (R.LNK_LINE_CFG_fec 4) ≠ 0 ∧ ((lane_ 4 8 []).slicer 4 0 0).isSome = true ∧ ldpcGood 2 (1 : BitVec 2048).toNat = false ∧ base.rd (R.LNK_CW_UNC 4) < 0xFFFFFFFE) ∧
    (let s := at_ hz (lane_ 4 8 []); s.laneState 4 = 8 ∧ s.elapsedUi 4 (s.lane 4).qAt (2 ^ 24) = true ∧
      dB10 ((0x800000 : BitVec 24).toInt - snrReq (s.get (R.LNK_LINE_CFG_fec 4))) < s.getS (R.LNK_QTHR_thr 4)) ∧
    (let s := (cnt 100000 (lane_ 4 8 [(R.LNK_LINE_CFG_tdd_frz_en 4, 1)])).modLink 4 fun k => { k with tddAir := [100000 + tickTc] }
     s.flag (R.LNK_LINE_CFG_tdd_frz_en 4) = true ∧ (100000 + tickTc) ∈ (s.link (s.linkOf 4)).tddAir ∧ 100000 + tickTc ≤ s.time.cnt + tickTc ∧
      s.time.cnt < 100000 + tickTc + 4 * tickTc) ∧
    (let s := laneX 4 8 [] { frozen := true, frzEnd := 0 }; (s.lane 4).frozen = true ∧ (s.lane 4).frzEnd ≤ s.time.cnt) := by decide +kernel

theorem test_hyp_LinkFrames :
    ((lane_ 1023 8 []).laneState 1023 = 8 ∧ (lane_ 1023 8 []).linkState ((lane_ 1023 8 []).linkOf 1023) ≠ 5 ∧
      (let s := link_ 5 [] {}; s.laneState 0 = 8 ∧ s.linkState (s.linkOf 0) = 5 ∧ (s.link (s.linkOf 0)).wake = none) ∧ (lane_ 1023 8 []).isPairOdd 1023 = false ∧ base.rd (R.LNK_SYNC_BAD (base.linkOf 1023)) < 0xFFFFFF00) ∧
    (let m := descramble (scrTap false) 0 ((lsbBits 128 0).drop 64); crc16 (m.1.take 48) ≠ fieldAt m.1 48 16) ∧
    (let b := msbBits 48 0 ++ msbBits 16 (crc16 (msbBits 48 0))
     let m := descramble (scrTap false) 0 (scramble (scrTap false) 0 b).1
     crc16 (m.1.take 48) = fieldAt m.1 48 16) ∧
    (let s := link_ 2 [(R.LNK_LINK_STAT_radio_lock 0, 1), (R.LNK_DL_MARGIN_margin 0, 1)] { rtOk := true, pages := [3, 4] }
     s.linkState 0 = 2 ∧ s.flag (R.LNK_LINK_STAT_radio_lock 0) = true ∧ (s.link 0).rtOk = true ∧ (s.link 0).pages.contains 3 = true ∧
      (s.link 0).pages.contains 4 = true ∧ 2 ≤ s.airState ∧
      (let g := s.rd (R.LNK_RPAGE 0 3) + s.get (R.LNK_DL_MARGIN_margin 0); g ≤ (s.wr (R.LNK_RPAGE 0 4) g).rd (R.LNK_RPAGE 0 4) ∧ s.rd (R.LNK_RPAGE 0 4) < g)) ∧
    (let s := flds [(R.LNK_LINK_CFG_en 0, 1), (R.LNK_LINK_CFG_bsize 0, 1)] base; s.linkOf 1 ≠ 1) ∧
    (let s := link_ 3 [] {}
     s.linkOf 0 = 0 ∧ s.rd (R.LNK_LINK_CFG 0) % 2 ^ 25 ≠ (0 : Word).toNat % 2 ^ 25 ∧
      (s.wr (R.LNK_LINK_CFG 0) ((0 : Word).toNat % 2 ^ 26)).flag (R.LNK_LINK_CFG_en 0) = false) := by decide +kernel

theorem test_hyp_RadioCommands :
    (let s := link_ 3 [] {}
     let d := s.framesTc 0 2
     let s1 := s.wr (R.LNK_CMD_LO 0) d
     d = (s1.rd (R.LNK_CMD_LO 0) + 2 ^ 32 - s1.time.cnt % 2 ^ 32) % 2 ^ 32 ∧ d ≤ 2 ^ 31 ∧ s1.linkOf 0 = 0 ∧ bits ((0 : Word).toNat * 2 ^ 32 + d) 60 4 ≠ 5 ∧
      (s1.link 0).queue.length < 16 ∧ s1.time.cnt + s1.framesTc 0 2 ≤ s1.time.cnt + d) ∧
    16 ≤ ((link_ 3 [] { queue := List.replicate 16 ⟨0, 0, 9, false⟩ }).link 0).queue.length ∧
    ((link_ 3 [] {}).rd (R.LNK_TDD_PER 0) = 0 ∧ (link_ 5 [] {}).linkState 0 = 5 ∧ (link_ 4 [] {}).linkState 0 ≠ 5) ∧
    (let s := link_ 3 [] {}
     let d := s.framesTc 0 2
     let s1 := s.wr (R.LNK_CMD_LO 0) d
     d = (s1.rd (R.LNK_CMD_LO 0) + 2 ^ 32 - s1.time.cnt % 2 ^ 32) % 2 ^ 32 ∧ bits ((0x54000000 : Word).toNat * 2 ^ 32 + d) 60 4 = 5 ∧
      bits ((0x54000000 : Word).toNat * 2 ^ 32 + d) 58 2 = 1 ∧ (s1.link 0).queue.length < 16 ∧ max tickTc (s1.framesTc 0 2) ≤ d) ∧
    (let s := (link_ 3 [] {}).wr (R.LNK_TDD_PER 0) 61440
     s.rd (R.LNK_TDD_PER 0) ≠ 0 ∧ s.linkState 0 = 3 ∧ max ((s.link 0).tddLast.getD 0) (s.time.cnt + s.framesTc 0 2 - 1) < s.time.cnt + s.framesTc 0 4) ∧
    (let s := (link_ 3 [(R.LNK_TDD_ofs 0 0, 5), (R.LNK_TDD_dir 0 0, 2), (R.LNK_TDD_dir 0 1, 3)] {}).wr (R.LNK_TDD_PER 0) 19660800
     let per := s.rd (R.LNK_TDD_PER 0)
     let lo := max ((s.link 0).tddLast.getD 0) (s.time.cnt + s.framesTc 0 2 - 1)
     let s1 := cnt (per + 5 - s.framesTc 0 3) s
     s.tddList 0 = [(5, 2)] ∧ s1.tddList 0 = [(5, 2)] ∧ s.linkOf 0 = 0 ∧ s1.time.cnt + s1.framesTc 0 2 - 1 < per + 5 ∧ per + 5 ≤ s1.time.cnt + s1.framesTc 0 4 ∧
      s1.time.cnt + s1.framesTc 0 4 - (s1.time.cnt + s1.framesTc 0 2 - 1) ≤ per ∧ (s1.link 0).tddLast = none ∧ (per + 5) % per = 5 % per ∧
      (s1.link 0).queue.length < 16 ∧ lo < s.time.cnt + s.framesTc 0 4) ∧
    (let s := link_ 3 [] { tddDue := [(0, 1), (0, 2), (1, 1)] }
     ((s.link 0).tddDue.filter fun d => decide (d.1 ≤ s.time.cnt)).getLast? = some (0, 2)) ∧
    ((link_ 3 [] {}).link 0).newE = none ∧
    (let s := link_ 3 [(R.LNK_LINK_CFG2_master 0, 5)] { newE := some 65 }; (s.link 0).newE = some 65 ∧ s.master 0 ≠ 0) ∧
    (let s := link_ 4 [(R.LNK_LINK_STAT_steer 0, 1)] { newE := some 65, skip := 1 }
     s.master 0 = 0 ∧ s.get (R.LNK_LINK_STAT_steer 0) ≠ 0 ∧ s.linkState 0 = 4 ∧ s.time.cnt / halfSubTc < (s.link 0).skip) ∧
    (let s := link_ 3 [(R.LNK_LINK_STAT_steer 0, 1)] { newE := some 65 }
     s.linkState 0 = 3 ∧ (s.link 0).skip ≤ s.time.cnt / halfSubTc ∧ s.get (R.LNK_LINK_STAT_steer 0) = 1 ∧ s.samplePeriod 0 < 2 * (65 : Int).natAbs) ∧
    (let s := link_ 3 [(R.LNK_LINK_STAT_steer 0, 2), (R.LNK_STEER_CFG_bw 0, 1)] { newE := some 1 }
     (s.link 0).skip ≤ s.time.cnt / halfSubTc ∧ s.get (R.LNK_LINK_STAT_steer 0) = 2 ∧ s.steerBw 0 ≠ 0) ∧
    (let s := cnt (64 * halfSubTc) (link_ 3 [(R.LNK_LINK_STAT_steer 0, 1)] {})
     s.linkState 0 = 3 ∧ (s.link 0).lastE + 64 * halfSubTc ≤ s.time.cnt ∧ s.get (R.LNK_LINK_STAT_steer 0) = 1) := by decide +kernel

theorem test_hyp_LinkPower :
    (let s := link_ 3 [] { power := [(0, 1)] }; s.powerDue 0 1 0 = some 0 ∧ s.linkState 0 = 3) ∧
    (let s := link_ 4 [] {}
     let t := link_ 4 [] { power := [(s.uiTc 0 1024, 0)] }
     t.powerDue 0 0 (t.uiTc 0 1024) = some (s.uiTc 0 1024) ∧ t.linkState 0 = 4) ∧
    (let s := link_ 4 [] { power := [(0, 2)] }; s.powerDue 0 2 0 = some 0 ∧ s.linkState 0 = 4) ∧
    (let s := link_ 5 [] { power := [(168 * tickTc, 0)] }; s.linkState 0 = 5 ∧ (s.link 0).wake = none ∧ s.powerDue 0 0 (168 * tickTc) = some (168 * tickTc)) ∧
    (let s := link_ 5 [] { wake := some 0 }; (s.link 0).wake = some 0 ∧ 0 ≤ s.time.cnt ∧ s.linkState 0 ≠ 2 ∧ s.linkState 0 ≠ 3) := by decide +kernel

theorem test_hyp_LinkTests :
    ((link_ 3 [] {}).testWhy 0 ((link_ 3 [] {}).testWith 0 2 1 1) = some 0 ∧ (link_ 3 [] {}).isPairOdd 0 = false ∧
      (∀ v ∈ [(0, 2, 2), (2, 1, 1), (3, 1, 1), (4, 1, 1), (6, 1, 1), (7, 1, 1)],
        (flds [(R.LNK_TEST_CTL_loop 0, 1)] (link_ 3 [] {})).testWhy 0 ((flds [(R.LNK_TEST_CTL_loop 0, 1)] (link_ 3 [] {})).testWith 0 v.1 v.2.1 v.2.2) = some 0 ∧
        (link_ 2 [] {}).testWhy 0 ((link_ 2 [] {}).testWith 0 v.1 v.2.1 v.2.2) = none)) ∧
    (let s := link_ 3 [] {}; bit 4 2 = true ∧ s.linkState (s.linkOf 0) = 3 ∧ bit 4 5 = false) ∧
    (let s := link_ 3 [(R.LNK_TEST_CTL_live 0, 1), (R.LNK_LINK_STAT_radio_lock 0, 1), (R.LNK_LINE_CFG_rate_code 0, 1)] {}
     s.testWhy 0 (s.testWith 0 0 2 3) = none ∧ s.get (R.LNK_TEST_CTL_loop 0) ≠ 3 ∧ s.linkOf 0 = 0) ∧
    ((laneX 0 8 [] { clrPend := true }).lane 0).clrPend = true ∧
    (let s := link_ 3 [] { feLoop := some (0, true) }; (s.link 0).feLoop = some (0, true) ∧ 0 ≤ s.time.cnt) ∧
    (let s := laneX 0 8 [(R.LNK_INJ_CFG_type_ 0, 4)] { injOne := 1, injUnits := [(0, 8)] }
     s.get (R.LNK_INJ_CFG_type_ 0) < 5 ∧ s.injUnit 0 = some 0 ∧ 0 < (s.lane 0).injUnits.length) ∧
    (let s := laneX 0 8 [] { eff := { chk := true }, chk := { due := true } }
     (s.lane 0).eff.chk = true ∧ (s.lane 0).chk.due = true ∧ s.flag (R.LNK_TEST_STAT_chk_sync 0) = false ∧
      (flds [(R.LNK_TEST_STAT_chk_sync 0, 1)] s).flag (R.LNK_TEST_STAT_chk_sync 0) = true ∧ s.rd (R.LNK_CHK_LOSS 0) < 0xFFFFFFFE) := by decide +kernel

/-- Cluster 16, slot 127, valid with these bits of word 0, on stream 0 of link 0 in RUN; clusters on; `a` gives further registers. -/
def slot_ (w0 : Nat) (a : List (Nat × Nat)) (l : List (Field × Nat)) : Dev :=
  flds ([(R.LNK_LINK_CFG_nstr 0, 1), (R.FEX_XB_LO_valid 0, 1), (R.FEX_XB_LO_cl 0, 16), (R.FEX_XB_LO_slot 0, 127)] ++ l)
    (regs ((slotAddr 16 127 0, 1 + w0) :: a) (link_ 3 [] {}))

theorem test_hyp_FrontEndStreams :
    (let s := flds [(R.FEX_XB_LO_dual 2047, 1), (R.FEX_XB_LO_new_cl 2047, 16)] base
     s.flag (R.FEX_XB_LO_dual 2047) = true ∧ (s.time.cnt / frameTc + 2 ^ 32 - s.rd (R.FEX_XB_HI 2047)) % 2 ^ 32 < 2 ^ 31 ∧
      2 ^ 31 ≤ (s.time.cnt / frameTc + 2 ^ 32 - (regs [(R.FEX_XB_HI 2047, 1)] s).rd (R.FEX_XB_HI 2047)) % 2 ^ 32) ∧
    (bit (base.sd 16 127 0) 0 = false ∧ bit ((slot_ 0 [] []).sd 16 127 0) 0 = true) ∧
    ((bit (1 : Word).toNat 0 && !base.slotOk 16 127 fun i => if i = 0 then (1 : Word).toNat else base.sd 16 127 i) = true) ∧
    ((bit (0 : Word).toNat 0 && !base.slotOk 16 127 fun i => if i = 0 then (0 : Word).toNat else base.sd 16 127 i) = false) ∧
    (let s := base.setFcl 16 { events := [⟨7, 9, 0, 0, 0⟩] }
     (s.fcl 16).events = [⟨7, 9, 0, 0, 0⟩] ∧ s.eventReady ⟨7, 9, 0, 0, 0⟩ = true ∧ s.eventReady ⟨7, 9, 0, 0, 1⟩ = false ∧ (s.input 0).length < 32 ∧ 32 ≤ (({ s with tsk := { s.tsk with inputs := [(0, List.replicate 32 { desc := 1, payload := 2 })] } } : Dev).input 0).length) ∧
    (let s := (slot_ 2 [] []).modLink 0 fun k => { k with tdd := 2 }
     (s.carrier 16 127 false).isSome = true ∧ s.linkOfStream 0 = some 0 ∧ s.fexOn 16 = true ∧ bit (s.sd 16 127 0) 1 = true ∧ s.xbIn 0 16 127 = true ∧
      s.linkState 0 ≠ 4 ∧ s.linkState 0 ≠ 5 ∧ 2 ≤ s.airState ∧ ((s.fslot 16 127).view false).ulLast = none ∧ ((s.fslot 16 127).view false).dlLast = none ∧
      (s.carrier 16 127 false).all (fun c => c.a == 0 && s.tddAt 0 (lastEnded c s.time.cnt).2.2.1 == 2) = true) ∧
    (let s := (slot_ 4 [] []).modLink 0 fun k => { k with tdd := 1 }
     bit (s.sd 16 127 0) 2 = true ∧ s.flag (R.FEX_XB_LO_dual 0) = false ∧ (s.carrier 16 127 false).all (fun c => c.a == 0 &&
        s.tddAt 0 (symbolAt c ((32 * (s.time.cnt + tSym c + tickTc) + s.dlAdvance 0) / 32).toNat).2.2.1 == 1) = true) ∧
    (let s := slot_ 4 [(clBase 16 + 0xA200 + 15 * 4, 2 ^ 18)] []
     bit (s.sd 16 127 0) 0 = true ∧ bit (s.sd 16 127 0) 2 = true ∧ s.fexOn 16 = true ∧
      (∀ i < 16, (bit (0x7FFF : BitVec 16).toNat i && s.maskBand 16 127 i) = false) ∧
      (bit (0x8000 : BitVec 16).toNat 15 && s.maskBand 16 127 15) = true ∧ (∀ k < 15, (bit (0x8000 : BitVec 16).toNat k && s.maskBand 16 127 k) = false) ∧
      s.rd (R.FEX_MASK_VIOL 16) < 0xFFFFFFFE) := by decide +kernel

/-- A front-end command: op and sq in word 0, target, ring or address, length. -/
def fexC (op target addr len : Nat) : List Nat := [op + 127 * 16 + 9 * 65536, 5, target, 0, addr, len, 0, 0xFFF]

/-- The same armed at cluster 16. -/
def armed_ (c : List Nat) (s : Dev) : Dev := s.setFcl 16 { armed := [c] }

theorem test_hyp_FrontEndCommands :
    (let s := slot_ 0 [] []
     s.fexOn 16 = true ∧ base.fexOn 16 = false ∧ (s.fcl 16).queue = [] ∧ (s.fcl 16).held = [] ∧ (s.fcl 16).armed.length < 16 ∧ s.armStatus 16 (fexC 0 0 0 0) = none ∧
      s.armStatus 16 (fexC 5 0 0 0) ≠ none ∧ s.armStatus 16 (fexC 1 4095 0 0) = some 1 ∧ s.armStatus 16 (fexC 1 4096 0 0) = none) ∧
    (let s := armed_ (fexC 0 0 0 0) (slot_ 0 [] []); (s.fcl 16).armed = [fexC 0 0 0 0] ∧ (s.fcl 16).queue = [] ∧ (s.fcl 16).held = [] ∧ cmdOp (fexC 0 0 0 0) = 0) ∧
    (let s := cnt (2 ^ 20) (armed_ (fexC 2 0 1 1) (slot_ 0 [] [])); cmdOp (fexC 2 0 1 1) = 2 ∧ s.windowOver 16 (fexC 2 0 1 1) = true) ∧
    (let s := cnt (2 ^ 20) (armed_ (fexC 3 0 1 1) (slot_ 0 [] [])); cmdOp (fexC 3 0 1 1) = 3 ∧ s.windowOver 16 (fexC 3 0 1 1) = true) ∧
    (let s := armed_ (fexC 4 0 1 1) (slot_ 0 [] []); cmdOp (fexC 4 0 1 1) = 4 ∧ cmdTarget (fexC 4 0 1 1) ≤ s.time.cnt ∧
      bit (s.sd 16 (cmdSlot (fexC 4 0 1 1)) 0) 2 = false) ∧
    (let c := fexC 3 0 7 2
     let s := cnt (2 ^ 20) (armed_ c (ringOn 7 0 0xFFF (slot_ 0 [] [])))
     (s.fcl 16).armed = [c] ∧ s.windowOver 16 c = true ∧ cmdRing c = 7 ∧ cmdLen c = 2 ∧ bits (dw c 7) 0 12 = 0xFFF ∧ s.ringValid 7 = true ∧ s.ringStalled 7 = [] ∧
      s.ringW 7 - s.ringOldest 7 < s.ringCap 7 ∧ s.ringW 7 + 1 < 2 ^ 64 ∧ (∀ j, j < 2 → tget 0 s.fex.debt (7 * 2 + j) = 0) ∧ 80 ≤ s.ringHead 7) ∧
    (let c := fexC 1 0 (5120 * 64) 0
     let s := armed_ c (slot_ 0 [] [])
     cmdOp c = 1 ∧ s.erasedIn (bits (dw c 4) 0 26) 64 = false ∧ (s.fslot 16 (cmdSlot c)).load = none ∧ bits (dw c 0) 16 16 ≠ 0xFFFF) ∧
    (let s := (slot_ 0 [] []).modFslot 16 127 fun x => { x with load := some (fexC 1 0 0 0, 0) }
     (s.fslot 16 127).load = some (fexC 1 0 0 0, 0) ∧ 0 ≤ s.time.cnt ∧ s.fexOn 16 = true) ∧
    (let s := slot_ 0 [(prachAddr 16 15 0, 1 + 3 * 256), (prachAddr 16 15 2, 2 ^ 24 + 31 * 2 ^ 15)] []
     bit (s.pw 16 15 0) 0 = true ∧ ((7 : Fin 8) : Nat) < 2 ^ bits (s.pw 16 15 0) 8 2 ∧ s.fexOn 16 = true ∧ (s.prachSt 16 15).got < bits (s.pw 16 15 2) 24 3 ∧
      bits (s.pw 16 15 2) 24 3 ≤ ((s.setPrach 16 15 { got := 1 }).prachSt 16 15).got ∧ bits (s.pw 16 15 2) 15 5 = 31) ∧
    (let s := base.setPrach 16 15 { inbox := [([], 4)] }; (s.prachSt 16 15).inbox = [([], 4)] ∧ (s.prachSt 16 15).own = none) ∧
    (let s := slot_ 2 [] [(R.FEX_CL_CFG_q_en 16, 1)]
     (s.carrier 16 127 false).isSome = true ∧ s.flag (R.FEX_CL_CFG_q_en 16) = true ∧ s.fexOn 16 = true ∧ bit (s.sd 16 127 0) 1 = true) := by decide +kernel

/-- Every power domain on, and set 0's entry with these words 0 and 1. -/
def sca_ (w0 w1 : Nat) (l : List (Field × Nat)) : Dev :=
  let s := flds ((R.SCA_SET_BASE_grain, 100) :: l) (regs [(R.PWR_DOM_LO, 0xFFFFFFFF), (R.PWR_DOM_HI, 0xFFFF)] base)
  (s.setLe (storeBase + s.setOff 0) 4 w0).setLe (storeBase + s.setOff 0 + 4) 4 w1

/-- A combiner job: op, symbols. -/
def scaJ (op nsym : Nat) : List Nat := [op + nsym * 8 + 9 * 65536, 5, 0, 0, 5120 * 64, 0, 0, 0, 0, 0, 0xFFF, 0, 0, 0, 0, 0]

/-- Harness 31 running this job. -/
def scaR (d : List Nat) (ended : Bool) (s : Dev) : Dev := s.setHarness 31 { cur := some { d := d, ended := ended } }

/-- One input ring in range with nothing to read, or with 6 words. -/
def scaIn (k : Nat) (s : Dev) : Dev :=
  let s1 := (ringOn 3 0 0xFFF s).setRq 3 2 k
  s1.setLe (storeBase + s1.setOff 0 + 0x40) 4 3

theorem test_hyp_SpatialCombiner :
    (let v : Word := 1
     ((base.harness 31).cur.isNone && (base.harness 31).queue.isEmpty && bits v.toNat 7 2 != 3 && bits v.toNat 9 2 != 3 &&
      bits v.toNat 1 6 % (blocks (bits v.toNat 7 2) * blocks (bits v.toNat 9 2)) == 0 &&
      (List.range 32).all fun k => k == 31 || !base.flag (R.SCA_HCFG_en k) ||
        decide (bits v.toNat 1 6 + blocks (bits v.toNat 7 2) * blocks (bits v.toNat 9 2) ≤ base.get (R.SCA_HCFG_tile0 k)) ||
        decide (base.get (R.SCA_HCFG_tile0 k) + base.hRows k * base.hCols k ≤ bits v.toNat 1 6)) = true) ∧
    bits (0x180 : Word).toNat 7 2 = 3 ∧
    (let s := sca_ 0 0 [(R.SCA_HCFG_en 31, 1)]
     s.hOn 31 = true ∧ (s.harness 31).queue.length < 32 ∧ 32 ≤ ((s.setHarness 31 { queue := List.replicate 32 (scaJ 0 1) }).harness 31).queue.length) ∧
    (base.hOn 0 = false ∧ base.rd R.SCA_BAD < 0xFFFFFFFE) ∧
    (let d := scaJ 0 1
     let s := base.setHarness 31 { queue := [d] }
     (s.harness 31).queue = [d] ∧ (s.harness 31).cur = none ∧ jobStart d ≤ s.time.cnt ∧ jobDead d = 0 ∧ jobMalformed d = false ∧ s.setOk (jobSet d) 31 = false) ∧
    (let d := scaJ 0 1
     let s := (sca_ (1 + 31 * 2 ^ 14) 12 []).setHarness 31 { queue := [d] }
     s.setOk (jobSet d) 31 = true ∧ s.jobStale d (s.readSet d) = false ∧
      (let t := s.setLe (storeBase + 5120 * 64) 4 1; t.jobStale d (t.readSet d) = true)) ∧
    (let d := scaJ 0 14
     let s := (scaIn 6 (sca_ (1 + 31 * 2 ^ 14) 12 [])).setHarness 31 { cur := some { d := d, set := (scaIn 6 (sca_ (1 + 31 * 2 ^ 14) 12 [])).readSet d, sym := 13 } }
     ∃ r, (s.harness 31).cur = some r ∧ r.ended = false ∧ s.scaStalled r = false ∧ jobOp r.d = 0 ∧ r.sym + 1 = jobNsym r.d ∧ s.inputsReady r.set.ins r.words = true) ∧
    (let d := scaJ 1 1
     let r : ScaRun := { d := d }
     let s := scaR d false (sca_ (1 + 31 * 2 ^ 14) 12 [])
     (s.harness 31).cur = some r ∧ s.scaStalled r = false ∧ jobOp r.d = 1 ∧ r.sym + 1 = jobNsym r.d ∧ s.inputsReady r.set.ins r.words = true) ∧
    (jobOp (scaJ 2 1) = 2 ∧ ((scaR (scaJ 2 1) false base).harness 31).cur = some { d := scaJ 2 1 }) ∧
    (let d := scaJ 0 1
     let s0 := scaIn 0 (sca_ (1 + 31 * 2 ^ 14) 12 [])
     let r : ScaRun := { d := d, set := s0.readSet d }
     let s := cnt 1966081 (s0.setHarness 31 { cur := some r })
     (s.harness 31).cur = some r ∧ s.scaStalled r = false ∧ jobOp r.d ≠ 2 ∧ s.inputsReady r.set.ins r.words = false ∧ r.since + 1966080 < s.time.cnt) ∧
    (let s := cnt 5 (base.setHarness 31 { queue := [[9 * 65536]], cur := some { d := scaJ 0 1 } }); (s.harness 31).queue = [[9 * 65536]] ∧ (s.harness 31).cur ≠ none) ∧
    (scaR (scaJ 0 1) true base).scaStalled { d := scaJ 0 1, ended := true } = false ∧
    ((scaR (scaJ 0 1) true base).harness 31).cur = some { d := scaJ 0 1, ended := true } := by decide +kernel

/-- A coding job: op, word 6, word 7, and what differs from zero elsewhere. -/
def codJ (op w6 w7 : Nat) : List Nat := [op + 9 * 65536, 5, 0, 0, 0, 0, w6, w7, 0, 0, 0, 0, 0, 0, 0, 0]

/-- Queue 31 with this job at its front and coding powered, its masks full. -/
def cod_ (j : CodJob) : Dev :=
  (flds [(R.COD_QCFG2_en 31, 1)] (regs [(R.PWR_DOM_HI, 0xFFFF), (R.COD_QCFG 31, 0xFFFFFFFF), (R.COD_QCFG2 31, 0x3FFFF)] base)).setCq 31 { jobs := [j] }

/-- The same with unit `u` at work on the job's piece 0. -/
def codU (u : Nat) (j : CodJob) (r : Option CbRes) : Dev := (cod_ j).setCunit u { work := some ⟨31, j.id, 0, false, r⟩ }

theorem test_hyp_CodingJobs :
    (let s := cod_ { id := 0, d := codJ 0 0 0 }
     s.flag (R.COD_QCFG2_en 31) = true ∧ s.domOn 46 = true ∧ (s.cq 31).jobs.length < 64 ∧
      64 ≤ ((s.setCq 31 { jobs := List.replicate 64 { id := 0, d := [] } }).cq 31).jobs.length) ∧
    (base.flag (R.COD_QCFG2_en 0) = false ∧ base.rd R.COD_BAD < 0xFFFFFFFE) ∧
    (let j : CodJob := { id := 0, d := codJ 7 0 12 }
     let s := cod_ j
     s.settleAll.unitFree 24 = true ∧ s.settleAll.cod.clearing = false ∧ s.settleAll.domOn 46 = true ∧ s.settleAll.unitPick 24 = some 31 ∧
      frontJob (s.settleAll.cq 31).jobs = some j ∧ s.settleAll.job 31 j.id = some j ∧ j.redo = [] ∧ j.t0 = none ∧ cOp j.d ∈ [1, 4, 7, 8, 9]) ∧
    (let j : CodJob := { id := 0, d := codJ 7 0 12, t0 := some 0, todo := [0] }
     let s := cod_ j
     s.settleAll.unitFree 27 = true ∧ s.settleAll.unitPick 27 = some 31 ∧ frontJob (s.settleAll.cq 31).jobs = some j ∧ s.settleAll.job 31 j.id = some j ∧
      j.t0.isSome = true ∧ j.todo = 0 :: []) ∧
    (let j : CodJob := { id := 0, d := codJ 0 0 0 }
     let s := cod_ j
     (s.cq 31).jobs = [j] ∧ j.ended = false ∧ j.t0 = none ∧ s.cod.clearing = false ∧ s.codMalformed 31 j.d = false ∧ cDead j.d = 0 ∧ cOp j.d = 0) ∧
    (let j : CodJob := { id := 0, d := codJ 10 0 0 }
     let s := cod_ j
     s.codMalformed 31 j.d = false ∧ cOp j.d = 10 ∧ s.hidFree j = true) ∧
    (let j : CodJob := { id := 0, d := codJ 0 0 0, ended := true }
     let s := cod_ j
     (s.cq 31).jobs = [j] ∧ (s.cq 31).held = [] ∧ j.ended = true ∧ j.out = 0) ∧
    (let s := cod_ { id := 0, d := codJ 2 0 0, t0 := some 0 }
     (s.cod.queue.any fun e => e.2.jobs.any fun j => j.t0.isSome && !j.ended) = true ∧
      (base.cod.queue.any fun e => e.2.jobs.any fun j => j.t0.isSome && !j.ended) = false) := by decide +kernel

/-- A result of a code block. -/
def cbR : CbRes := ⟨0, true, 3, [], [], false⟩

theorem test_hyp_CodingUnits :
    (let j : CodJob := { id := 0, d := codJ 1 (2 ^ 13 + 12 * 2 ^ 17) 0, t0 := some 0 }
     let s := cnt 1966081 (codU 41 j none)
     s.workOf (34 + 7) 1 = some (⟨31, 0, 0, false, none⟩, j) ∧ s.ringW (cRing j.d) < j.pos + cNsym j.d * cNsc j.d / 2 ∧ j.t0.getD 0 + 1966080 < s.time.cnt ∧
      (let t := (ringOn 0 0 0xFFF s).setRq 0 2 6; j.pos + cNsym j.d * cNsc j.d / 2 ≤ t.ringW (cRing j.d) ∧ t.workOf 41 1 = some (⟨31, 0, 0, false, none⟩, j))) ∧
    (let j : CodJob := { id := 0, d := codJ 9 0 0 }; (codU 49 j none).workOf (42 + 7) 9 = some (⟨31, 0, 0, false, none⟩, j)) ∧
    (let j : CodJob := { id := 0, d := codJ 2 0 0 }; (codU 15 j none).workOf 15 2 = some (⟨31, 0, 0, false, none⟩, j)) ∧
    (let j : CodJob := { id := 0, d := codJ 3 0 0 }; (codU 31 j none).workOf (28 + 3) 3 = some (⟨31, 0, 0, false, none⟩, j)) ∧
    ((codU 15 { id := 0, d := codJ 2 0 0 } (some cbR)).cunit 15).work = some ⟨31, 0, 0, false, some cbR⟩ ∧
    (let j : CodJob := { id := 0, d := codJ 4 0 0 }; (codU 27 j none).workOf (24 + 3) 4 = some (⟨31, 0, 0, false, none⟩, j)) ∧
    (let j : CodJob := { id := 0, d := codJ 5 0 0, out := 1 }
     (codU 23 j none).workOf (16 + 7) 5 = some (⟨31, 0, 0, false, none⟩, j) ∧ j.todo = [] ∧ j.redo = [] ∧ j.out ≤ 1 ∧ j.ended = false) ∧
    (let j : CodJob := { id := 0, d := codJ 6 0 0 }; (codU 33 j none).workOf (32 + 1) 6 = some (⟨31, 0, 0, false, none⟩, j)) ∧
    (let j : CodJob := { id := 0, d := codJ 7 0 0 }; (codU 27 j none).workOf (24 + 3) 7 = some (⟨31, 0, 0, false, none⟩, j)) ∧
    (let j : CodJob := { id := 0, d := codJ 8 0 0 }; (codU 33 j none).workOf (32 + 1) 8 = some (⟨31, 0, 0, false, none⟩, j)) := by decide +kernel

theorem test_hyp_ScalarArithmetic : runsB (core_ 191 0 {} []) (iss 191) = true ∧ runsB (core_ 192 2 {} []) { core := 192, fails := 2 } = true ∧
    (5 : Fin 32) ≠ 0 ∧ (63 : BitVec 16).toNat < 64 ∧ 64 ≤ (64 : BitVec 16).toNat := by decide +kernel

theorem test_hyp_LoadsAndStores :
    (let s := at1 0x1FFF8
     runsB s (iss 191) = true ∧ (s.x 191 1 + (0 : BitVec 16).signExtend 64).toNat % 8 = 0 ∧ s.loadOk 191 0x1FFF8 8 = true ∧ s.storeOk 191 0x1FFF8 8 = true ∧
      s.amoOk 191 0x1FFF8 = true ∧ s.homeAddr 191 0x1FFF8 = some (ownBase 191 + 0x1FFF8)) ∧
    (let s := core_ 192 2 { s := [(1, 0x1FFFF8)] } []
     runsB s { core := 192, fails := 2 } = true ∧ (s.x 192 1).toNat % 8 = 0 ∧ s.loadOk 192 0x1FFFF8 8 = true ∧ s.storeOk 192 0x1FFFF8 8 = true ∧
      s.amoOk 192 0x1FFFF8 = true ∧ s.homeAddr 192 0x1FFFF8 = some 0x1FFFF8) ∧
    (let a := storeBase + 5120 * 64 + 8
     let s := core_ 191 2 { s := [(1, BitVec.ofNat 64 a)] } []
     runsB s (iss 191) = true ∧ (s.x 191 1).toNat = a ∧ s.loadOk 191 a 8 = true ∧ s.storeOk 191 a 8 = true ∧ s.amoOk 191 a = true ∧ s.homeAddr 191 a = some a ∧
      s.poisoned (a - storeBase) = false) ∧
    ((at1 0x10001).x 191 1).toNat % 2 ≠ 0 ∧
    (let s := at1 0x20000; (s.x 191 1).toNat % 8 = 0 ∧ s.loadOk 191 0x20000 8 = false ∧ s.storeOk 191 0x20000 8 = false ∧ s.amoOk 191 0x20000 = false) := by
  decide +kernel

/-- Core 191 at T with pc = `p`. -/
def pcAt (p : Nat) : Dev := core_ 191 0 { pc := p } []

theorem test_hyp_BranchesAndJumps :
    (let s := pcAt 0xFFF8
     let target := BitVec.ofNat 64 (s.pc 191) + 4 * (1 : BitVec 16).signExtend 64
     runsB s (iss 191) = true ∧ decide (s.x 191 1 = s.x 191 2) = true ∧ decide (s.x 191 1 ≠ s.x 191 2) = false ∧ target.toNat < 0x10000 ∧ target.toNat % 4 = 0) ∧
    (let s := pcAt 0xFFFC
     let target := BitVec.ofNat 64 (s.pc 191) + 4 * (1 : BitVec 16).signExtend 64
     runsB s (iss 191) = true ∧ 0x10000 ≤ target.toNat) ∧
    (let s := core_ 192 2 { pc := 0x1FFFFC } []
     let target := BitVec.ofNat 64 (s.pc 192) + 4 * (1 : BitVec 16).signExtend 64
     runsB s { core := 192, fails := 2 } = true ∧ 0x10000 ≤ target.toNat ∧ target.toNat < 0x210000 ∧ target.toNat % 4 = 0) ∧
    (let s := at1 2
     let target := s.x 191 1 + 4 * (0 : BitVec 16).signExtend 64
     target.toNat % 4 ≠ 0) := by decide +kernel

theorem test_hyp_SystemInstructions :
    (let s := core_ 191 1 {} []
     runsB s (iss 191) = true ∧ csrLevels 5 = some (1, some 1) ∧ 1 ≤ s.lvl 191 ∧ s.lvl 191 ≤ 2 ∧ s.latch = [] ∧ csrLevels 0x20 = some (0, none) ∧
      csrLevels 0x40 = some (2, some 2) ∧ s.lvl 191 < 2 ∧ csrLevels 0xFFF = none ∧ s.lvl 191 ≠ 2) ∧
    (let s := core_ 191 2 {} []; runsB s (iss 191) = true ∧ s.lvl 191 = 2) := by decide +kernel

theorem test_hyp_TrapReturn :
    (runsB (core_ 191 1 {} []) (iss 191) = true ∧ (core_ 191 1 {} []).lvl 191 = 1) ∧ (runsB (core_ 192 2 {} []) (iss 192) = true ∧ (core_ 192 2 {} []).lvl 192 = 2) ∧
    (runsB (core_ 0 0 {} []) (iss 0) = true ∧ (core_ 0 0 {} []).lvl 0 = 0) := by decide +kernel

/-- An alarm pending and enabled at core 191, at S with interrupts on. -/
def alarm_ (e : Eng) (l : List (Field × Nat)) : Dev :=
  core_ 191 1 e ([(R.CSR_IPEND_alarm 191, 1), (R.CSR_IEN_alarm 191, 1), (R.CSR_STATUS_sie 191, 1)] ++ l)

/-- A maintenance interrupt pending and enabled at core 191, at M with interrupts on. -/
def maint_ (e : Eng) : Dev := core_ 191 2 e [(R.CSR_IPEND_maint 191, 1), (R.CSR_IEN_maint 191, 1), (R.CSR_STATUS_mie 191, 1)]

theorem test_hyp_CoreInterrupts :
    (let s := alarm_ {} []; runsB s (iss 191) = true ∧ s.lvl 191 = 1 ∧ (s.alarmEligible 191 || s.maintEligible 191) = true ∧ s.coreState 191 = 1 ∧
      (s.core 191).wait = .none ∧ s.alarmEligible 191 = true ∧ s.maintEligible 191 = false) ∧
    (let s := core_ 191 2 {} []; runsB s (iss 191) = true ∧ s.lvl 191 = 2 ∧ (s.alarmEligible 191 || s.maintEligible 191) = false) ∧
    (let s := maint_ {}; s.coreState 191 = 1 ∧ (s.core 191).wait = .none ∧ s.maintEligible 191 = true ∧ s.alarmEligible 191 = false) ∧
    (let s := (alarm_ { wait := .wfe } []).setCoreState 191 2; s.coreState 191 = 2 ∧ (s.core 191).wait = .wfe ∧ s.alarmEligible 191 = true) ∧
    (let s := (maint_ { wait := .wfe }).setCoreState 191 2; s.coreState 191 = 2 ∧ (s.core 191).wait = .wfe ∧ s.maintEligible 191 = true) ∧
    (let s := core_ 191 1 { alarm := some 0 } []; (s.core 191).alarm = some 0 ∧ 0 ≤ s.time.cnt) ∧
    (let s := core_ 191 1 { alarm := some 1 } []; (s.core 191).alarm = some 1 ∧ s.time.cnt < 1) ∧
    (let s := (core_ 191 0 { task := 5 } [(R.CSR_TK_STAT_valid 191, 1)]).wr (R.CSR_TK_LIM 191) 5
     s.coreState 191 = 1 ∧ (s.core 191).wait = .none ∧ s.lvl 191 = 0 ∧ s.flag (R.CSR_TK_STAT_valid 191) = true ∧ s.rd (R.CSR_TK_LIM 191) ≠ 0 ∧
      s.rd (R.CSR_TK_LIM 191) ≤ ((s.coreSync 191).core 191).task ∧
      ((s.wr (R.CSR_TK_LIM 191) 6).coreSync 191 |>.core 191).task < (s.wr (R.CSR_TK_LIM 191) 6).rd (R.CSR_TK_LIM 191)) := by decide +kernel

theorem test_hyp_EngineRunControl :
    (base.coreState 191 = 0) ∧ (core_ 191 2 {} []).coreState 191 ≠ 0 ∧
    (let s := core_ 191 2 {} []; s.coreState 191 = 1 ∧ (s.core 191).wait = .none ∧ s.copsOver 191 = true ∧ s.coreState 191 ∈ [1, 2, 6]) ∧
    (let s := core_ 191 2 { cops := [{ cmd_ 0 0 1 [] with confirmed := true }] } []
     s.copsOver 191 = false ∧ (∀ c ∈ s.cops 191, c.confirmed = true ∨ c.squashed = true)) ∧
    (base.coreState 191 ∉ [1, 2, 6]) ∧
    (let s := (core_ 191 2 { wait := .store 0x307000040 4 9 true } []).setCoreState 191 6
     (s.core 191).wait = .store 0x307000040 4 9 true ∧ (s.core 191).haltReq = false ∧ s.portStoreFull 0x307000040 4 = false) ∧
    (let s := chan { queue := List.replicate 16 [] } (core_ 191 2 { wait := .store (0x307000000 + 127 * 256 + 0x7C) 4 9 true } [])
     (s.core 191).haltReq = false ∧ s.portStoreFull (0x307000000 + 127 * 256 + 0x7C) 4 = true) := by decide +kernel

theorem test_hyp_TaskInstructions :
    (let s := (core_ 191 1 {} []).setSlot 191 (some act_)
     runsB s (iss 191) = true ∧ s.lvl 191 = 1 ∧ s.flag (R.CSR_TK_STAT_valid 191) = false ∧ s.slot 191 = some act_) ∧
    (let s := core_ 191 1 {} []; s.flag (R.CSR_TK_STAT_valid 191) = false ∧ s.slot 191 = none) ∧
    (let s := core_ 191 1 {} [(R.CSR_TK_STAT_valid 191, 1)]
     runsB s (iss 191) = true ∧ s.flag (R.CSR_TK_STAT_valid 191) = true ∧ s.get (R.CSR_TK_PC_pc 191) % 4 = 0 ∧ s.get (R.CSR_TK_RET_pc 191) % 4 = 0 ∧
      s.copsOver 191 = true ∧ s.completionWaits 191 = false ∧ s.lvl 191 ≤ 1) ∧
    (core_ 191 1 {} [(R.CSR_TK_STAT_valid 191, 1), (R.CSR_TK_PC_pc 191, 2)]).get (R.CSR_TK_PC_pc 191) % 4 ≠ 0 ∧
    (let s := (core_ 191 1 { wait := .tnext 31 } []).setSlot 191 (some act_); (s.core 191).wait = .tnext 31 ∧ s.slot 191 = some act_) ∧
    (let s := core_ 191 0 { cops := [{ cmd_ 0 0 1 [] with confirmed := true }] } [(R.CSR_TK_STAT_valid 191, 1)]
     runsB s (iss 191) = true ∧ s.flag (R.CSR_TK_STAT_valid 191) = true ∧ s.copsOver 191 = false) ∧
    (runsB (core_ 192 2 {} []) (iss 192) = true ∧ 2 ≤ (core_ 192 2 {} []).lvl 192) := by decide +kernel

/-- Vector fields: destination, sources, type, predicate, span. -/
def vf (a b c : Fin 32) (ty : Fin 16) (pg : Fin 8) (span : Fin 4) : VecFields := { a := a, b := b, c := c, ty := ty, pg := pg, span := span }

theorem test_hyp_VectorElementwise :
    runsB (core_ 191 0 {} []) (iss 191) = true ∧
    (let f := vf 8 16 24 8 0 3; groupOf f = 8 ∧ (f.ty : Nat) ≤ 8 ∧ f.a.val % groupOf f = 0 ∧ f.b.val % groupOf f = 0 ∧ f.c.val % groupOf f = 0) ∧
    (tyInt 0 = true ∧ tyInt 8 = false ∧ intFp 8 = true ∧ intFp 4 = false ∧ intCx 5 = true ∧ tyCx 4 = true ∧ tyFp 6 = true) ∧
    (let f := vf 1 0 0 0 0 3; f.a.val % groupOf f ≠ 0) ∧
    (let f := vf 8 4 4 2 0 2; (decide ((f.ty : Nat) ≤ 8) && tyWide f.ty != 9 && decide (groupOf f ≤ 4) && f.c.val % groupOf f == 0) = true ∧
      f.a.val % (2 * groupOf f) = 0 ∧ f.b.val % groupOf f = 0) ∧
    (let f := vf 4 8 1 1 0 3; ([1, 2, 3, 5].contains (f.ty : Nat) && decide (2 ≤ groupOf f)) = true ∧ f.a.val % (groupOf f / 2) = 0) ∧
    (let f := vf 0 8 6 1 0 3
     (decide ((f.ty : Nat) ≤ 8) && cvtAllowed f.ty f.c && groupOf f * tyBytes f.c % tyBytes f.ty == 0 && decide (1 ≤ groupOf f * tyBytes f.c / tyBytes f.ty) &&
      decide (groupOf f * tyBytes f.c / tyBytes f.ty ≤ 8)) = true) := by decide +kernel

theorem test_hyp_VectorMoves :
    runsB (core_ 191 0 {} []) (iss 191) = true ∧ (let f := vf 15 1 2 8 0 0; intFp f.ty = true ∧ f.span = 0 ∧ f.a.val < 16 ∧ (f.ty : Nat) ≤ 8) ∧
    (let f := vf 15 15 15 0 0 0; (f.ty : Nat) = 0 ∧ f.pg = 0 ∧ f.a.val < 16 ∧ f.b.val < 16 ∧ f.c.val < 16) ∧
    (let f := vf 15 15 0 0 0 0; f.c = 0 ∧ f.b.val < 16) ∧
    (let s := core_ 191 0 { p := [(1, 16#128)] } []; (s.preg 191 1).testBit (4 * 1) = true ∧ ∀ m, m < 4 → (s.preg 191 1).testBit (m * 1) = false) ∧
    (let f := vf 31 24 0 3 0 3; f.b.val % groupOf f = 0 ∧ f.c = 0 ∧ intFp f.ty = true) ∧
    (let f := vf 0 8 16 2 0 3; f.a.val % groupOf f = 0 ∧ f.b.val % groupOf f = 0 ∧ (intCx f.ty && f.c.val % groupOf f == 0) = true ∧ (f.c.val % groupOf f == 0) = true) := by
  decide +kernel

theorem test_hyp_VectorMemory :
    (let s := at1 0x1FF80
     let f := vf 0 1 0 3 0 0
     runsB s (iss 191) = true ∧ f.a.val % groupOf f = 0 ∧ (decide ((f.ty : Nat) ≤ 8) && f.c == 0) = true ∧ (s.active 191 f.pg 1 8).length = 16 ∧
      (List.range 16).all (fun k => decide (s.elemFault 191 false 8 (strided (s.x 191 1) 8 k) true = none) && decide (s.elemFault 191 true 8 (strided (s.x 191 1) 8 k) true = none) &&
        decide (strided (s.x 191 1) 8 k < storeBase)) = true) ∧
    (let s := core_ 191 2 { s := [(1, BitVec.ofNat 64 (storeBase + 5120 * 64))] } []
     runsB s (iss 191) = true ∧ (List.range 16).all (fun k => decide (s.elemFault 191 false 8 (strided (s.x 191 1) 8 k) true = none) &&
        decide (s.elemFault 191 true 8 (strided (s.x 191 1) 8 k) true = none) && decide (s.elemFault 191 true 1 (strided (s.x 191 1) 1 k) true = none) &&
        decide (storeBase ≤ strided (s.x 191 1) 8 k) && !s.poisoned (strided (s.x 191 1) 8 k - storeBase)) = true ∧ (s.x 191 1).toNat % 8 = 0) ∧
    (let s := (at1 0x1FFF8).setCore 191 { s := [(1, 0x1FFF8)], p := [(1, BitVec.ofNat 128 (2 ^ 128 - 1))] }
     runsB s (iss 191) = true ∧ lget false (s.active 191 1 1 8) 1 = true ∧ s.elemFault 191 false 8 (strided (s.x 191 1) 8 1) true = some 0x11 ∧
      s.elemFault 191 false 8 (strided (s.x 191 1) 8 0) true = none) ∧
    (let s := at1 0x1FFF0
     let f := vf 15 1 0 0 0 0
     (f.ty : Nat) = 0 ∧ f.span = 0 ∧ f.pg = 0 ∧ f.c = 0 ∧ f.a.val < 16 ∧
      (List.range 16).all (fun k => decide (s.elemFault 191 false 1 (strided (s.x 191 1) 1 k) true = none) && decide (s.elemFault 191 true 1 (strided (s.x 191 1) 1 k) false = none) &&
        decide (strided (s.x 191 1) 1 k < storeBase)) = true) := by decide +kernel

/-- Core 191 at T, every slot enabled, with these commands and s1 = `a`, a descriptor of words `d` at data-memory offset 0. -/
def cop_ (l : List CopCmd) (a : BitVec 64) (d : List Nat) : Dev :=
  (core_ 191 0 { cops := l, s := [(1, a)] } [(R.CSR_COP_EN_en 191, 511)]).setBytes (ownBase 191 + 0x10000) (d.flatMap (leBytes 4))

/-- A CRC over the 8 bits at offset 64. -/
def crcD : List Nat := [0, 64, 8, 0, 0, 0, 0, 0]

def desc_ (s : Dev) (off : Nat) : List Nat := (List.range 8).map fun k => s.le (ownBase 191 + 0x10000 + off + 4 * k) 4

theorem test_hyp_CopIssue :
    (let s := cop_ [] 0 crcD
     runsB s (iss 191) = true ∧ (s.get (R.CSR_COP_EN_en 191)).testBit (3 * 1 + s.lvl 191) = true ∧ s.mpuOk 191 (0x10000 + 0) 32 [0] = true ∧ desc_ s 0 = crcD ∧
      copMalformed 1 1 crcD = false ∧ (∀ e ∈ (copRanges 1 1 crcD).zipIdx, s.rangeBad 191 1 1 (copRanges 1 1 crcD) e.2 e.1 = false) ∧
      (∀ c ∈ s.cops 191, ¬(c.slot = 1 ∧ c.tag = 0))) ∧
    ((core_ 191 0 {} []).get (R.CSR_COP_EN_en 191)).testBit (3 * 2 + 0) = false ∧
    (((cop_ [] 65505 []).x 191 1).toNat % 32 ≠ 0 ∧ 65536 < 65536 + 32 ∧ (65504 : Nat) + 32 ≤ 65536) ∧
    copMalformed 2 3 crcD = true ∧
    (let d := [0, 65535, 16, 0, 0, 0, 0, 0]
     let s := cop_ [] 0 d
     copMalformed 1 1 d = false ∧ ∃ e ∈ (copRanges 1 1 d).zipIdx, s.rangeBad 191 1 1 (copRanges 1 1 d) e.2 e.1 = true) ∧
    (let l := (List.range 16).map fun t => { cmd_ 1 t 1 crcD with confirmed := true, done := true }
     let s := cop_ l 0 crcD
     runsB s (iss 191) = true ∧ (∀ m, m < 16 → ∃ c ∈ s.cops 191, c.slot = 1 ∧ c.tag = m) ∧ (∀ c ∈ s.cops 191, c.slot = 1 → c.done = true ∧ c.keep = true)) ∧
    (let l := (List.range 16).map fun t => { cmd_ 1 t 1 crcD with confirmed := true }
     let s := cop_ l 0 crcD
     (∀ m, m < 16 → ∃ c ∈ s.cops 191, c.slot = 1 ∧ c.tag = m) ∧ ∃ c ∈ s.cops 191, c.slot = 1 ∧ (c.done = false ∨ c.keep = false)) ∧
    (let s := cop_ [cmd_ 1 0 1 crcD] 0 crcD
     s.coreState 191 = 1 ∧ s.cops 191 = [] ++ cmd_ 1 0 1 crcD :: [] ∧ (cmd_ 1 0 1 crcD).confirmed = false ∧ (cmd_ 1 0 1 crcD).squashed = false) ∧
    base.coreState 191 ≠ 1 := by decide +kernel

/-- COP fields of slot 1 with rs1 = 1. -/
def cf : CopFields := { rd := 3, rs1 := 1, rs2 := 0, slot := 1, keep := false, op := 0 }

theorem test_hyp_CopResults :
    (let c := { cmd_ 1 15 1 crcD with confirmed := true, done := true, result := some 7 }
     let s := cop_ [c] 15 []
     runsB s (iss 191) = true ∧ (s.get (R.CSR_COP_EN_en 191)).testBit (3 * 1 + s.lvl 191) = true ∧ (s.x 191 1).toNat % 16 = 15 ∧ s.cops 191 = [] ++ c :: [] ∧
      c.keep = true ∧ c.squashed = false ∧ c.done = true ∧ cf.rs2 = 0 ∧ cf.keep = false ∧ cf.op = 0) ∧
    (let c := { cmd_ 1 15 1 crcD with confirmed := true }
     let s := cop_ [c] 15 []
     runsB s (iss 191) = true ∧ c.done = false ∧ (∃ c ∈ s.cops 191, c.slot = 1 ∧ c.done = false ∧ c.squashed = false)) ∧
    (let s := cop_ [] 15 []; (∀ c ∈ s.cops 191, ¬(c.slot = 1 ∧ c.tag = 15)) ∧ (∀ c ∈ s.cops 191, c.slot = 1 → c.done = true ∨ c.squashed = true)) ∧
    (let c := { cmd_ 1 15 1 crcD with squashed := true }
     let s := cop_ [c] 15 []
     runsB s (iss 191) = true ∧ s.cops 191 = [] ++ c :: [] ∧ c.slot = (1 : Fin 3).val ∧ c.tag = (15 : Fin 16).val ∧ c.squashed = true ∧
      ((s.core 191).wait = .none ∧ (s.core 191).haltReq = false)) := by decide +kernel

/-- A confirmed command at the head of its slot, started where the slot is the shared one. -/
def head_ (k : Nat × Nat) (d : List Nat) : CopCmd := { cmd_ k.1 0 k.2 d with confirmed := true, started := k.1 == 2 }

theorem test_hyp_CopUnits :
    (∀ k ∈ [(1, 1), (1, 2), (1, 3), (2, 1), (2, 2), (0, 1), (0, 2), (0, 3), (0, 4)], (cop_ [head_ k [5]] 0 []).copHead 191 k.1 = some (head_ k [5]) ∧
      (head_ k [5]).squashed = false ∧ (head_ k [5]).result = none ∧ (head_ k [5]).confirmed = true ∧ (k.1 = 2 → (head_ k [5]).started = true) ∧
      bits (dw (head_ k [5]).d 0) 0 12 ≠ 0) ∧
    (let c := { head_ (1, 2) crcD with result := some 1, writes := [(5, 9)] }
     let s := cop_ [c] 0 []
     s.copHead 191 1 = some c ∧ c.result = some 1 ∧ (s.core 191).wait = .none ∧ (s.core 191).haltReq = false ∧ c.confirmed = true ∧ c.squashed = false ∧
      c.writes = [] ++ (5, 9) :: []) ∧
    (let c := { cmd_ 2 0 1 crcD with result := some 0 }; (cop_ [c] 0 []).copHead 191 2 = some c ∧ c.confirmed = false) ∧
    (let s := cop_ [cmd_ 2 0 1 crcD] 0 []
     tget none s.eng.sxuRun 23 = none ∧ s.copHead (8 * 23 + (tget 7 s.eng.sxuLast 23 + 1 + 7) % 8) 2 = some (cmd_ 2 0 1 crcD) ∧
      (∀ m, m < 7 → s.copHead (8 * 23 + (tget 7 s.eng.sxuLast 23 + 1 + m) % 8) 2 = none) ∧ (∀ m, m < 8 → s.copHead (8 * 22 + m) 2 = none)) := by decide +kernel

/-- Descriptor 0xFFFF with these words (its table at grain 200), the scheduler on, one event at class 7's input. -/
def td_ (l : List (Nat × Nat)) (s : Dev) : Dev :=
  let s1 := flds [(R.TSK_DBASE_grain, 200), (R.TSK_CTL_en, 1)] s
  l.foldl (fun s e => s.setLe (s.tdAddr 0xFFFF e.1) 4 e.2) s1

def tskIn (cls n : Nat) (s : Dev) : Dev := { s with tsk := { s.tsk with inputs := [(cls, List.replicate n { desc := 0xFFFF, payload := 8 })] } }

theorem test_hyp_EventAcceptance :
    (let s := tskIn 7 1 (td_ [] base); s.input 7 = [{ desc := 0xFFFF, payload := 8 }] ∧ s.tdEn 0xFFFF = false) ∧
    (let s := td_ [(0, 2 ^ 23 + 2 ^ 24), (7, 65535)] base; s.tdEn 0xFFFF = true ∧ s.tdState 0xFFFF ≠ 5 ∧ s.tdEvc 0xFFFF = 65535) ∧
    (let s := td_ [(0, 2 ^ 23 + 2 ^ 24)] (flds [(R.TSK_CLS_rsv 0, 16384)] base)
     s.tdEvc 0xFFFF ≠ 65535 ∧ s.tdState 0xFFFF = 1 ∧ s.tdEvc 0xFFFF + 1 = s.tdNeed 0xFFFF ∧ s.mayEnter 7 = false) ∧
    (let s := td_ [(0, 2 ^ 23 + 2 ^ 24), (1, 255 * 2 ^ 16), (5, 0xFFF * 2 ^ 16)] base
     s.tdEn 0xFFFF = true ∧ s.tdEvc 0xFFFF + 1 < s.tdNeed 0xFFFF ∧ s.td 0xFFFF 5 16 12 = 0xFFF ∧ (∀ x ∈ s.counted 0xFFFF, x.2 < 8)) ∧
    (let s := td_ [(0, 2 ^ 23 + 2 ^ 24), (5, 0xFFF * 2 ^ 16)] base
     s.tdState 0xFFFF = 1 ∧ s.tdEvc 0xFFFF + 1 = s.tdNeed 0xFFFF ∧ s.mayEnter 7 = true ∧ (s.counted 0xFFFF).length = s.tdEvc 0xFFFF) := by decide +kernel

/-- The delay list. -/
def late_ (l : List DelayEntry) (s : Dev) : Dev := { s with tsk := { s.tsk with delay := l } }

/-- A ready activation of descriptor 0xFFFF. -/
def ready_ (dead : Option Nat) (s : Dev) : Dev := { s with tsk := { s.tsk with ready := [⟨0xFFFF, 3, 7, 7, 0, 0, dead⟩] } }

theorem test_hyp_PortsAndDelays :
    ((base.input 5).length < 32 ∧ 32 ≤ ((tskIn 5 32 base).input 5).length ∧ base.tsk.delay.length < 8192) ∧
    (base.tsk.delay = [] ∧ ((late_ [⟨1, 0, 0, false, false⟩] base).time.cnt < 1 * tickTc)) ∧
    (let e : DelayEntry := ⟨0, 0xFFFF, 0, false, true⟩
     let s := tskIn 6 32 (late_ [e] (flds [(R.AIR_STAT_state, 2)] base))
     s.airState ≠ 0 ∧ s.tsk.delay = e :: [] ∧ e.tick * tickTc ≤ s.time.cnt ∧ 32 ≤ (s.input 6).length ∧ e.slip = true) ∧
    (let e : DelayEntry := ⟨0, 0xFFFF, 0, true, false⟩
     let s := td_ [(0, 2 ^ 23), (6, 1)] (late_ [e] (flds [(R.AIR_STAT_state, 2)] base))
     s.airState ≠ 0 ∧ (s.input 6).length < 32 ∧ e.periodic = true ∧ s.tdEn e.desc = true ∧ s.td e.desc 6 0 24 ≠ 0 ∧ (td_ [] s).td e.desc 6 0 24 = 1 ∧ base.tdEn 0xFFFF = false) ∧
    (base.tdGen 0 ≠ (1 : Word).toNat % 2 ^ 20 ∧ base.tdState 0 ∉ [2, 3, 4]) ∧
    (let s := (td_ [(0, 2 ^ 24 * 4 + 2 ^ 23 + 3)] (flds [(R.CAN_LO_idx 192, 0xFFFF)] base)).setLoaded 191 (some act_)
     s.get (R.CAN_LO_idx 192) = 0xFFFF ∧ s.tdGen 0xFFFF = (3 : Word).toNat % 2 ^ 20 ∧ s.tdState 0xFFFF = 4 ∧ s.engineOf 0xFFFF = some 191) ∧
    (let s := ready_ none (td_ [(0, 2 ^ 24 * 2 + 2 ^ 23 + 3)] base)
     s.tdGen 0xFFFF = 3 ∧ s.tdState 0xFFFF = 2 ∧ s.tsk.starved = [] ∧ s.tdEvc 0xFFFF < s.tdNeed 0xFFFF ∧
      s.tsk.ready.find? (·.desc == 0xFFFF) = some ⟨0xFFFF, 3, 7, 7, 0, 0, none⟩) ∧
    (let s := (td_ [(0, 2 ^ 24 * 3 + 2 ^ 23 + 3)] base).setSlot 191 (some act_)
     s.tdState 0xFFFF = 3 ∧ s.tsk.ready.find? (·.desc == 0xFFFF) = none ∧ s.slotOf 0xFFFF = some 191) := by decide +kernel

theorem test_hyp_PortsAndDelays_full : 8192 ≤ (late_ (List.replicate 8192 ⟨1, 0, 0, false, false⟩) base).tsk.delay.length := by decide +kernel

/-- Engine 191 alone runs, and may run descriptor 0xFFFF. -/
def one_ (dead : Option Nat) (w0 : Nat) : Dev := ready_ dead (td_ [(0, 2 ^ 24 * 2 + 2 ^ 23 + w0), (4, 2 ^ 23)] (core_ 191 1 {} []))

theorem test_hyp_DispatchAndUpkeep :
    ((List.range 192).all (fun k => !base.eligible k) = true) ∧
    (let s := one_ none 0
     s.eligible 191 = true ∧ s.slot 191 = none ∧ (List.range 191).all (fun m => !s.eligible m) = true ∧ s.tsk.starved = [] ∧
      s.tsk.ready = [] ++ ⟨0xFFFF, 3, 7, 7, 0, 0, none⟩ :: [] ∧ (s.td 0xFFFF 4 0 24).testBit (191 / 8) = true ∧ s.ddrop 0xFFFF = false) ∧
    (∀ a ∈ (one_ none 0).tsk.ready, (one_ none 0).ddrop a.desc = false) ∧
    (let s := cnt 6 (one_ (some 5) (2 ^ 28))
     s.tsk.ready.filter (fun x => s.ddrop x.desc && x.overdue s.time.cnt) = [⟨0xFFFF, 3, 7, 7, 0, 0, some 5⟩] ∧ s.tsk.starved = [] ∧
      s.tdEvc 0xFFFF < s.tdNeed 0xFFFF ∧ s.tdState 0xFFFF ≠ 5) ∧
    (base.tdEn 0xFFFF = false ∧ base.tdState 0xFFFF = 0) ∧
    ((td_ [(0, 2 ^ 23 + 2 ^ 24)] base).tdEn 0xFFFF = true ∧ (td_ [(0, 2 ^ 23 + 2 ^ 24)] base).tdState 0xFFFF ∉ [2, 3, 4]) ∧
    (base.rsvSum - base.rsv 7 + (0 : Word).toNat % 2 ^ 15 ≤ 16384 ∧ 16384 < base.rsvSum - base.rsv 7 + (0x7FFF : Word).toNat % 2 ^ 15) := by decide +kernel

/-- The planner in RUN with this re-placement and these triggers. -/
def plc_ (r : Option Replacement) (l : List (Nat × PlcUnit)) (f : List (Field × Nat)) : Dev :=
  let s := flds ([(R.PLC_STAT_state, 1), (R.PLC_CTL_auto_en, 1)] ++ f) (regs [(R.PWR_DOM_LO, 0xFFFFFFFF), (R.PWR_DOM_HI, 0xFFFF)] base)
  { s with plc := { s.plc with current := r, triggers := l } }

theorem test_hyp_ReplacementFlow :
    (base.plc.triggers = [] ∧ base.get R.PLC_STAT_state = 0) ∧
    (let s := plc_ none [(2, ⟨4, 7⟩), (1, ⟨4, 4095⟩)] [(R.PLC_CTL_auto_en, 0)]
     s.nextTrigger = some (1, ⟨4, 4095⟩) ∧ s.get R.PLC_STAT_state ≠ 0 ∧ s.flag R.PLC_CTL_auto_en = false) ∧
    (let s := plc_ none [(2, ⟨4, 7⟩), (1, ⟨4, 4095⟩)] []
     s.nextTrigger = some (1, ⟨4, 4095⟩) ∧ s.flag R.PLC_CTL_auto_en = true ∧ s.retired ⟨4, 4095⟩ = false ∧ s.plc.testing.contains ⟨4, 4095⟩ = false ∧
      s.plc.current = none ∧ s.nextSpare ⟨4, 4095⟩ [] = some 4095) ∧
    (let s := plc_ (some { kind := 2, old := [], new := [], at_ := 0, switched := true }) [(3, ⟨4, 7⟩)] []
     s.nextTrigger = some (3, ⟨4, 7⟩) ∧ (s.plc.current.all (·.switched)) = true) ∧
    (let r : Replacement := { kind := 1, old := [⟨3, 49⟩], new := [none], at_ := 0 }
     (plc_ (some r) [] []).plc.current = some r ∧ r.prepared = false ∧ ∀ u ∈ r.old, u.kind = 3) ∧
    (let r : Replacement := { kind := 2, old := [⟨0, 22⟩], new := [some 23], at_ := 0 }
     (plc_ (some r) [] []).plc.current = some r ∧ r.prepared = false ∧ r.kind = 2 ∧ r.old = [⟨0, 22⟩] ∧ r.new = [some 23]) ∧
    (let r : Replacement := { kind := 1, old := [⟨3, 49⟩], new := [none], at_ := 0, prepared := true }
     let s := plc_ (some r) [] []
     s.plc.current = some r ∧ r.switched = false ∧ r.frame ≤ s.frameNo ∧ r.new.length = r.old.length ∧ (∀ u ∈ r.old, u.kind = 3 ∧ u.index < 50)) ∧
    (let r : Replacement := { kind := 2, old := [⟨0, 22⟩], new := [some 23], at_ := 0, prepared := true, frame := 0 }
     let s := plc_ (some r) [] []
     s.plc.current = some r ∧ r.frame ≤ s.frameNo ∧ (∀ c ∈ s.plc.cells, c.cell < 256)) ∧
    (let r : Replacement := { kind := 2, old := [], new := [], at_ := 0, prepared := true, switched := true }
     (cnt frameTc (plc_ (some r) [] [])).plc.current = some r ∧ r.switched = true ∧ r.frame + 1 ≤ (cnt frameTc (plc_ (some r) [] [])).frameNo ∧
      base.frameNo < r.frame + 1) := by decide +kernel

/-- Units that wait for their self-test. -/
def testing_ (l : List PlcUnit) (s : Dev) : Dev := { s with plc := { s.plc with testing := l } }

theorem test_hyp_SelfTestAndOutage :
    base.plc.testing.contains ⟨3, 63⟩ = false ∧
    (let s := testing_ [⟨0, 23⟩, ⟨1, 16⟩, ⟨2, 63⟩, ⟨3, 49⟩] base
     (∀ u ∈ s.plc.testing, s.plc.testing.contains u = true ∧ s.faultsAgain u = false) ∧ s.harnessOf 63 = none ∧ s.flag (R.AGE_GRP_INFO_exh 23) = false) ∧
    (let s : Dev := { testing_ [⟨3, 49⟩] base with plc := { (testing_ [⟨3, 49⟩] base).plc with faults := [(⟨3, 49⟩, 0), (⟨3, 49⟩, 0)] } }
     s.faultsAgain ⟨3, 49⟩ = true) ∧
    (let s : Dev := { flds [(R.PLC_CELL_state 255, 4)] base with plc := { base.plc with cells := [{ cell := 255 }, { cell := 0 }] } }
     (s.plc.cells.map (·.cell)).Nodup ∧ (∀ c ∈ s.plc.cells, c.cell < 256) ∧ s.cellOut { cell := 255 } = true ∧ s.cellOut { cell := 0 } = false) := by decide +kernel

/-! ### A valid image and a good factory calibration -/

/-- The smallest valid image (2,480 bytes), as one little-endian number, 80 bytes a part: built outside from Tables 17-4 to 17-6, its digest by another
program's SHA-256. -/
@[irreducible] def imgNum : Nat :=
  ([ 0x19fe92c659dea2896fd054235ed7076400000000000000000000000000000000000000000000000000000000000000000000000000000002000000000000000500000008000009b0000000014e4e4f47,
     0x88489e308cb6c958e8b119bac9525350, 0x0,
     0x1000000000000000000000000000000000000010000000000000000000000000000000000000001d31afd00000000500000000100000000000000000000000000000000,
     0x1c9a957ce0000006000000002000000000000000000000000000000000000000000000000000000000000000000000001000000000000000000000000, 0x6400000001,
     0xa00000000000000000000000000000000000000000000000000000000000000000000000000000000000000000000000155ece4cb000002000000000300000000000000000000000000000000,
     0x0, 0x0, 0x18000000180000, 0x0, 0x0, 0x0, 0x2ee00a0032002bc00000000000000000000000000000000000000000000000000000001674a821d0000008000000004,
     0x0,
     0x18a9136aa0000002000000011000000000000000000000000000000000000000000000000000000000000000000000000000000000000000000000000000000018a9136aa0000002000000010,
     0x135bbb2940000040000000020000000000000000000000000000000000000000000000000000000000000000000000000000000000000000000000000, 0x18,
     0x1000000012000000100000001100000010000000100000001000000000000000000000000000000000000000000000000000000000000000000000000000000000000000000000000000000000,
     0x100000001c000000100000001b000000100000001a0000001000000019000000100000001800000010000000170000001000000016000000100000001500000010000000140000001000000013,
     0x1000000026000000100000002500000010000000240000001000000023000000100000002200000010000000210000001000000020000000100000001f000000100000001e000000100000001d,
     0x1000000017000000100000001600000010000000150000001000000014000000100000001300000010000000120000001000000011000000100000001000000010000000000000001000000027,
     0x10000000210000001000000020000000100000001f000000100000001e000000100000001d000000100000001c000000100000001b000000100000001a00000010000000190000001000000018,
     0x1000000012000000100000001100000010000000100000001000000000000000100000002700000010000000260000001000000025000000100000002400000010000000230000001000000022,
     0x100000001c000000100000001b000000100000001a0000001000000019000000100000001800000010000000170000001000000016000000100000001500000010000000140000001000000013,
     0x2aaa2555, 0x0, 0x0, 0x0,
     0x103c8eb67000000400000003000000000000000000000000000000000000000000000000000000000000000000000000000000000000000000000000000000000000000000000000000000000,
     0x0 ] : List Nat).foldr (fun r n => r + 2 ^ 640 * n) 0

/-- A byte of the image. -/
def imgAt (o : Nat) : Nat := imgNum / 2 ^ (8 * o) % 256

/-- The device with that image, committed, in bank 1, and an erased bank 0 marked committed. -/
def withImg (s : Dev) : Dev :=
  { s with flash := (nums 0x20 4).map (fun a => (a, 0)) ++ (nums (bankBase 1) 2480).zip ((List.range 2480).map fun o => BitVec.ofNat 8 (imgAt o)) }

/-- A good copy of the factory calibration: five dies of revision code 2. -/
def otpCopy : List Byte := (List.replicate 32 0 ++ [2] ++ List.replicate 15 0 ++ [2] ++ List.replicate 15 0 ++ [2] ++ List.replicate 15 0 ++ [2] ++ List.replicate 15 0 ++ [2] ++ List.replicate 3995 0 ++ [107, 74, 222, 118] : List Nat).map (BitVec.ofNat 8)

/-- A number evaluated before it is handed on. -/
def now {α : Type} (n : Nat) (k : Nat → α) : α :=
  match n with
  | 0 => k 0
  | m + 1 => k (m + 1)

theorem now_eq {α : Type} (n : Nat) (k : Nat → α) : now n k = k n := by cases n <;> rfl

/-- The CRC's register over a list, evaluated byte by byte. -/
def crcNow (c : Nat) (l : List Nat) : Nat :=
  match l with
  | [] => c
  | b :: r => now (crc32cByte c b) fun c => crcNow c r

theorem crc32c_now (l : List Nat) : crc32c l = Nat.xor (crcNow 0xFFFFFFFF l) 0xFFFFFFFF := by
  suffices h : ∀ c, l.foldl crc32cByte c = crcNow c l by rw [crc32c, h]
  induction l with
  | nil => intro c; rfl
  | cons b r ih => intro c; rw [List.foldl_cons, ih, crcNow, now_eq]
/-- Words evaluated before they are handed on. -/
def nowV {α : Type} (v : List (BitVec 32)) (k : List (BitVec 32) → α) : α :=
  match v with
  | [] => k []
  | x :: r => now x.toNat fun n => nowV r fun r => k (BitVec.ofNat 32 n :: r)

theorem nowV_eq {α : Type} (v : List (BitVec 32)) : ∀ k : List (BitVec 32) → α, nowV v k = k v := by
  induction v with
  | nil => intro k; rfl
  | cons x r ih => intro k; rw [nowV, now_eq, ih, BitVec.ofNat_toNat, BitVec.setWidth_eq]

/-- The message schedule, evaluated word by word. -/
def growNow (n : Nat) (w : List (BitVec 32)) : List (BitVec 32) :=
  match n with
  | 0 => w
  | n + 1 => nowV ((shaGrow 1 w).take 1) fun x => growNow n (x ++ w)

theorem growNow_eq (n : Nat) : ∀ w, growNow n w = shaGrow n w := by
  induction n with
  | zero => intro w; rfl
  | succ n ih => intro w; rw [growNow, nowV_eq, ih, shaGrow]; rfl

/-- The rounds of a block, evaluated one by one. -/
def roundsNow (v : List (BitVec 32)) (l : List (BitVec 32 × BitVec 32)) : List (BitVec 32) :=
  match l with
  | [] => v
  | p :: r => nowV (shaRound v (p.1 + p.2)) fun v => roundsNow v r

theorem roundsNow_eq (l : List (BitVec 32 × BitVec 32)) : ∀ v, roundsNow v l = l.foldl (fun v p => shaRound v (p.1 + p.2)) v := by
  induction l with
  | nil => intro v; rfl
  | cons p r ih => intro v; rw [roundsNow, nowV_eq, ih, List.foldl_cons]

/-- The hash value after `n` blocks, evaluated block by block. -/
def blocksNow (n : Nat) (h : List (BitVec 32)) (l : List Nat) : List (BitVec 32) :=
  match n with
  | 0 => h
  | n + 1 =>
    nowV ((List.range 16).map fun i => BitVec.ofNat 32 (beNat (((l.take 64).drop (4 * i)).take 4))) fun w =>
      nowV (growNow 48 w.reverse).reverse fun sched =>
        nowV ((h.zip (roundsNow h (sched.zip shaK))).map fun p => p.1 + p.2) fun h => blocksNow n h (l.drop 64)

theorem blocksNow_eq (n : Nat) : ∀ h l, blocksNow n h l = shaBlocks n h l := by
  induction n with
  | zero => intro h l; rfl
  | succ n ih => intro h l; rw [blocksNow, nowV_eq, nowV_eq, nowV_eq, ih, growNow_eq, roundsNow_eq, shaBlocks]; rfl

theorem sha256_now (l : List Nat) :
    sha256 l = (blocksNow ((shaPad l).length / 64) shaInit (shaPad l)).flatMap fun w => beBytes 4 w.toNat := by rw [blocksNow_eq, sha256]
theorem tget_nums {α : Type} (d : α) (l : List α) : ∀ b k, tget d ((nums b l.length).zip l) (b + k) = (l[k]?).getD d := by
  have hn : ∀ b n, nums b (n + 1) = b :: nums (b + 1) n := by
    intro b n
    simp only [nums, List.range_succ_eq_map, List.map_cons, List.map_map, Nat.add_zero]
    exact congrArg _ (List.map_congr_left fun a _ => by simp only [Function.comp]; omega)
  induction l with
  | nil => intro b k; rfl
  | cons x r ih =>
    intro b k
    rw [List.length_cons, hn, List.zip_cons_cons, tget]
    cases k with
    | zero => simp
    | succ k => rw [if_neg (by omega), show b + (k + 1) = b + 1 + k by omega, ih]; simp

theorem tget_append {α : Type} (d : α) (l m : Tbl α) (k : Nat) (h : ∀ p ∈ l, k ≠ p.1) : tget d (l ++ m) k = tget d m k := by
  induction l with
  | nil => rfl
  | cons p r ih => rw [List.cons_append, tget, if_neg (h p (List.mem_cons_self ..)), ih fun q hq => h q (List.mem_cons_of_mem _ hq)]

/-- The byte of the bank at an offset, 0xFF after the image's end. -/
theorem withImg_fbyte (s : Dev) (o : Nat) : (withImg s).fbyte (bankBase 1 + o) = if o < 2480 then imgAt o else 255 := by
  have hlow : ∀ p ∈ (nums 0x20 4).map (fun a => (a, (0 : Byte))), p.1 < 0x24 := by decide
  have h : tget flashDefault (withImg s).flash (bankBase 1 + o) =
      (((List.range 2480).map fun o => BitVec.ofNat 8 (imgAt o))[o]?).getD flashDefault := by
    rw [← tget_nums flashDefault ((List.range 2480).map fun o => BitVec.ofNat 8 (imgAt o)) (bankBase 1), List.length_map, List.length_range]
    refine tget_append flashDefault _ _ _ fun p hp => ?_
    have := hlow p hp
    have hb : bankBase 1 = 0x03800000 := rfl
    omega
  rw [Dev.fbyte, h, List.getElem?_map]
  by_cases ho : o < 2480
  · rw [List.getElem?_range ho, if_pos ho]
    exact (BitVec.toNat_ofNat ..).trans (Nat.mod_eq_of_lt (Nat.mod_lt _ (by decide)))
  · rw [List.getElem?_eq_none (by rw [List.length_range]; omega), if_neg ho]; rfl

/-- Bytes inside the image. -/
theorem withImg_fbytes (s : Dev) (o n : Nat) (h : o + n ≤ 2480) : (withImg s).fbytes (bankBase 1 + o) n = (List.range n).map fun j => imgAt (o + j) := by
  rw [Dev.fbytes, nums, List.map_map]
  refine List.map_congr_left fun j hj => ?_
  have := List.mem_range.mp hj
  rw [Function.comp, Nat.add_assoc, withImg_fbyte, if_pos (by omega)]

theorem leNat_imgAt (n : Nat) : ∀ o, leNat ((List.range n).map fun j => imgAt (o + j)) = imgNum / 2 ^ (8 * o) % 2 ^ (8 * n) := by
  induction n with
  | zero => intro o; simp [leNat, Nat.mod_one]
  | succ n ih =>
    intro o
    have h : (List.range n).map ((fun j => imgAt (o + j)) ∘ Nat.succ) = (List.range n).map fun j => imgAt (o + 1 + j) :=
      List.map_congr_left fun j _ => by rw [Function.comp, show o + j.succ = o + 1 + j by omega]
    rw [List.range_succ_eq_map, List.map_cons, List.map_map, leNat, h, ih, show 2 ^ (8 * (n + 1)) = 2 ^ 8 * 2 ^ (8 * n) by rw [← Nat.pow_add]; congr 1; omega, Nat.mod_mul, Nat.div_div_eq_div_mul, ← Nat.pow_add,
      imgAt, Nat.mod_mod, Nat.add_zero, show 8 * o + 8 = 8 * (o + 1) by omega] <;> rfl

/-- A little-endian value at an offset of the bank. -/
def val (o n : Nat) : Nat :=
  if o + n ≤ 2480 then imgNum / 2 ^ (8 * o) % 2 ^ (8 * n) else leNat ((List.range n).map fun j => if o + j < 2480 then imgAt (o + j) else 255)

theorem withImg_ib (s : Dev) (o n : Nat) : (withImg s).ib 1 o n = val o n := by
  rw [Dev.ib, val]
  by_cases h : o + n ≤ 2480
  · rw [if_pos h, withImg_fbytes s o n h, leNat_imgAt]
  · rw [if_neg h, Dev.fbytes, nums, List.map_map]
    congr 1
    exact List.map_congr_left fun j _ => by rw [Function.comp, Nat.add_assoc, withImg_fbyte]
/-- The sections of the image, walked over its values. -/
def walkV (stop o n : Nat) : Option (List Section) :=
  match n with
  | 0 => if o = stop then some [] else none
  | n + 1 =>
    let len := val (o + 4) 4
    let next := o + 32 + (len + 7) / 8 * 8
    if stop < next then none
    else (walkV stop next n).map (⟨val o 2, val (o + 2) 2, len, val (o + 8) 4, val (o + 12) 2, val (o + 14) 2, o + 32, val (o + 16) 16 == 0⟩ :: ·)

theorem withImg_walk (s : Dev) (stop n : Nat) : ∀ o, (withImg s).walkSections 1 stop o n = walkV stop o n := by
  induction n with
  | zero => intro o; rfl
  | succ n ih => intro o; simp only [Dev.walkSections, walkV, withImg_ib, ih]

/-- The eight sections of the image. -/
def imgSections : List Section := (walkV 2480 256 8).getD []
theorem withImg_sections (s : Dev) : (withImg s).sections 1 = some imgSections := by
  rw [Dev.sections, Dev.imgLength, withImg_ib, withImg_ib, withImg_walk]; decide +kernel

theorem withImg_body (s : Dev) (x : Section) (h : x.at_ + x.len ≤ 2480) :
    (withImg s).sectionBody 1 x = (List.range x.len).map fun j => imgAt (x.at_ + j) := by rw [Dev.sectionBody, withImg_fbytes s _ _ h]

theorem withImg_check3 (s : Dev) : (withImg s).check3 1 = true := by
  have h := fun n h => withImg_fbytes s 0 n h
  simp only [Nat.add_zero] at h
  simp only [Dev.check3, Dev.imgLength, withImg_ib, show val 8 4 - 0x60 = 2384 by decide +kernel]
  rw [h 0x20 (by decide), withImg_fbytes s 0x24 28 (by decide), withImg_fbytes s 0x60 2384 (by decide), withImg_fbytes s 0x40 32 (by decide), sha256_now]
  decide +kernel

theorem withImg_check4 (s : Dev) (x : Section) (h : x ∈ imgSections) : (withImg s).check4 1 x = true := by
  have hx : ∀ x ∈ imgSections, x.at_ + x.len ≤ 2480 ∧ (Nat.xor (crcNow 0xFFFFFFFF ((List.range x.len).map fun j => imgAt (x.at_ + j))) 0xFFFFFFFF == x.crc &&
      x.sver == 1 && decide (x.flags < 2) && x.blank && (x.type == 0x10 || x.inst == 0)) = true := by decide +kernel
  rw [Dev.check4, withImg_body s x (hx x h).1, crc32c_now]
  exact (hx x h).2

theorem withImg_check6 (s : Dev) (x : Section) (h : x ∈ imgSections) : (withImg s).check6 1 x = true := by
  revert x
  simp only [Dev.check6, Dev.cellPlanOk, Dev.linkPlanOk, Dev.timePlanOk, Dev.powerPlanOk, Dev.userCalOk, Dev.engineFwOk, Dev.laruriFwOk, Dev.senseOk,
    Dev.senseFieldsOk, Dev.senseRingsOk, Dev.senseRings, Dev.senseGuardOk, Dev.senseEntries, Dev.policyOk, Dev.preloadOk, Dev.iw, Dev.iz, withImg_ib]
  decide +kernel

/-- The image in bank 1 is valid, and the erased bank 0 is not. -/
theorem test_image_valid (s : Dev) : (withImg s).imageBad 1 = none := by
  have h1 : (withImg s).check1 1 = true := by simp only [Dev.check1, withImg_ib]; decide +kernel
  have h2 : (withImg s).check2 1 = true := by simp only [Dev.check2, Dev.imgLength, withImg_ib, withImg_sections]; decide +kernel
  have h4 : ((imgSections.zip (List.range imgSections.length)).find? fun p => !(withImg s).check4 1 p.1) = none :=
    List.find?_eq_none.mpr fun p hp => by simp [withImg_check4 s p.1 (List.of_mem_zip hp).1]
  have h6 : ((imgSections.zip (List.range imgSections.length)).find? fun p => !(withImg s).check6 1 p.1) = none :=
    List.find?_eq_none.mpr fun p hp => by simp [withImg_check6 s p.1 (List.of_mem_zip hp).1]
  have h5 : ((imgSections.zip (List.range imgSections.length)).find? fun p => !check5At (imgSections.take p.2) p.1) = none := by decide +kernel
  simp only [Dev.imageBad, h1, h2, withImg_check3, withImg_sections, Option.getD_some, h4, h5, h6]
  decide +kernel
/-- A word of the image's plan of a type. -/
def planV (type i : Nat) : Nat := match imgSections.find? (·.type == type) with | some x => val (x.at_ + 4 * i) 4 | none => 0

theorem withImg_regs (s : Dev) : (withImg s).regs = s.regs := rfl

theorem withImg_get (s : Dev) (f : Field) : (withImg s).get f = s.get f := by simp only [Dev.get, Dev.rd, withImg_regs]

theorem withImg_planWord (s : Dev) (h : s.get R.SYS_BOOT_STAT_bank = 1) (type i : Nat) : (withImg s).planWord type i = planV type i := by
  have hb : (withImg s).get R.SYS_BOOT_STAT_bank = 1 := by rw [withImg_get, h]
  simp only [Dev.planWord, Dev.sectionOf, hb, withImg_sections, Option.getD_some, planV, Dev.iw, withImg_ib] <;>
  cases imgSections.find? (·.type == type) <;> rfl

theorem test_otp_crc : crc32c ((otpCopy.map (·.toNat)).take 0xFFC) = leNat ((otpCopy.map (·.toNat)).drop 0xFFC) := by
  rw [crc32c_now]; decide +kernel

/-- A copy that holds its CRC is good. -/
theorem test_otp_good : otpGood (otpCopy.map (·.toNat)) = true := by
  simp only [otpGood, test_otp_crc, Bool.and_eq_true, beq_iff_eq, and_true]
  simp only [otpCopy, List.length_map, List.length_append, List.length_replicate, List.length_cons, List.length_nil]

/-- An erased copy does not hold its CRC. -/
theorem test_otp_erased : otpGood ((List.replicate 4096 (0xFF : Byte)).map (·.toNat)) = false := by
  rw [otpGood, crc32c_now]
  have h : (Nat.xor (crcNow 0xFFFFFFFF (((List.replicate 4096 (0xFF : Byte)).map (·.toNat)).take 0xFFC)) 0xFFFFFFFF ==
    leNat (((List.replicate 4096 (0xFF : Byte)).map (·.toNat)).drop 0xFFC)) = false := by decide +kernel
  rw [h, Bool.and_false]

/-! ### Start-up -/

theorem test_hyp_ResetsAndRestarts :
    ((ph 12 base).phase ≠ 0 ∧ { base.boot with dead := true }.dead = true ∧
      (let s : Dev := { base with boot := { base.boot with cause := 5 } }
       2 ≤ s.boot.cause ∧ s.elapsed s.boot.phaseAt 10 = false)) ∧
    (base.phase = 0 ∧ base.boot.dead = false ∧ base.boot.cause < 2 ∧ base.boot.loop = false) ∧
    (let s : Dev := at_ 9830400 { base with boot := { base.boot with cause := 5, loop := true } }
     s.phase = 0 ∧ s.boot.dead = false ∧ s.boot.cause < 6 ∧ s.elapsed s.boot.phaseAt 10 = true ∧ s.boot.loop = true) ∧
    ((ph 12 base).phase ≠ 0 ∧ (ph 12 base).boot.dead = false ∧ (ph 12 base).mgt.lockstep = none) ∧
    (let s := at_ hz { base with mgt := { base.mgt with lockstep := some 0 } }
     s.boot.dead = false ∧ (∀ m ∈ s.mgt.lockstep.toList, s.elapsed m 1000 = true) ∧ s.mgt.lockstep ≠ none) ∧
    (let s := at_ hz (flds [(R.SYS_BOOT_CTL_fw_ready, 1)] base)
     s.mgt.lockstep = none ∧ s.firmware = true ∧ s.elapsed s.mgt.fedAt 1000 = true ∧ base.firmware = false) ∧
    (let s : Dev := at_ (hz - 1) { base with mgt := { base.mgt with lockstep := some 0 } }
     s.mgt.lockstep = some 0 ∧ s.elapsed 0 1000 = false) ∧
    (let s : Dev := at_ 98304000 { base with mgt := { base.mgt with restartAt := some 0 } }
     s.mgt.restartAt = some 0 ∧ s.elapsed 0 100 = true ∧ base.mgt.restartAt = none ∧ (at_ 98303999 s).elapsed 0 100 = false) ∧
    (let s : Dev := at_ (3600 * hz) (ph 11 { base with boot := { base.boot with runAt := some 0 } })
     s.boot.runAt = some 0 ∧ s.phase = 11 ∧ s.elapsed 0 3600000 = true ∧ (at_ (3600 * hz - 1) s).elapsed 0 3600000 = false) ∧
    (R.MGT_SEAL ∈ sealRegs ∧ R.SYS_ID ∉ sealRegs) := by decide +kernel

theorem test_hyp_EnvironmentStop :
    (base.flag R.MGT_STAT_env_stop = false ∧ (flds [(R.MGT_STAT_env_stop, 1)] base).flag R.MGT_STAT_env_stop = true) ∧
    (base.domOn (24 + 4 * 3 + 3) = false ∧ (regs [(R.PWR_DOM_HI, 0x80)] base).domOn (24 + 4 * 3 + 3) = true ∧
      (regs [(R.PWR_DOM_HI, 0x80)] base).flag R.MGT_STAT_env_stop = false ∧
      (flds [(R.MGT_STAT_env_stop, 1)] (regs [(R.PWR_DOM_HI, 0x80)] base)).flag R.MGT_STAT_env_stop = true) ∧
    (let s : Dev := at_ (60 * hz) { flds [(R.MGT_STAT_env_stop, 1)] base with mgt := { base.mgt with envOk := some 0 } }
     s.flag R.MGT_STAT_env_stop = true ∧ s.envSeconds = 60 ∧ s.firmware = false ∧ s.trialRecord = none ∧ (at_ (60 * hz - 1) s).envSeconds ≠ 60) := by
  decide +kernel

theorem test_hyp_EarlyPhases :
    (base.inPhase 1 = false ∧ base.inPhase 2 = false ∧ base.inPhase 3 = false ∧ base.inPhase 4 = false) ∧
    ((ph 1 base).inPhase 1 = true ∧ badRevs (otpCopy.map (·.toNat)) = [] ∧
      badRevs ((List.replicate 200 (0 : Byte)).map (·.toNat)) ≠ []) ∧
    ((ph 2 base).inPhase 2 = true ∧ (127#16).toNat < 128 ∧ 128 ≤ (128#16).toNat) ∧
    (let s := flds [(R.SYS_STRAP_bank, 3)] (ph 3 base)
     s.inPhase 3 = true ∧ s.get R.SYS_STRAP_bank = 3) ∧
    (let s : Dev := { ph 3 base with flash := (nums 0x20 4).map (fun a => (a, 0)) }
     s.inPhase 3 = true ∧ s.get R.SYS_STRAP_bank ≠ 3 ∧ s.candidates = [(0, false)] ∧ (∀ c ∈ s.candidates, s.imageBad c.1 ≠ none)) ∧
    ((ph 4 base).inPhase 4 = true ∧ (at_ hz (ph 4 base)).elapsed (ph 4 base).boot.phaseAt 1000 = true ∧
      (at_ (hz - 1) (ph 4 base)).elapsed (ph 4 base).boot.phaseAt 1000 = false) := by decide +kernel

/-- SELECT in phase 3 with the straps at 0: bank 0 is tried first and fails, bank 1 holds the valid image. -/
theorem test_hyp_EarlyPhases_select :
    let s := withImg (ph 3 base)
    s.inPhase 3 = true ∧ s.get R.SYS_STRAP_bank ≠ 3 ∧ s.candidates = [(0, false)] ++ (1, false) :: [] ∧ (∀ c ∈ [((0 : Nat), false)], s.imageBad c.1 ≠ none) ∧
      s.imageBad 1 = none :=
  ⟨by decide +kernel, by decide +kernel, by decide +kernel, by decide +kernel, test_image_valid _⟩

/-- With bank 1 marked failed the valid image there is none of the candidates. -/
theorem test_hyp_EarlyPhases_failed :
    let s := withImg (flds [(R.SYS_BOOT_ATT_b_failed, 1)] (ph 3 base))
    s.candidates = [(0, false)] ∧ s.imageBad 0 ≠ none ∧ (s.allowedBanks.any fun k => s.imgCommitted k && s.bankFailed k && (s.imageBad k).isNone) = true := by
  refine ⟨by decide +kernel, by decide +kernel, List.any_eq_true.mpr ⟨1, by decide +kernel, ?_⟩⟩
  rw [test_image_valid]; decide +kernel

/-- The device in a phase with the image of bank 1 running. -/
def planned (k : Nat) (s : Dev) : Dev := withImg (flds [(R.SYS_BOOT_STAT_bank, 1)] (ph k s))

theorem test_hyp_LatePhases :
    (let l : List MonReading := List.replicate 384 (.replica none)
     let s := ph 5 base
     s.inPhase 5 = true ∧ l.length = 384 ∧ (List.replicate 16 (0 : BitVec 14)).length = 16 ∧ base.inPhase 5 = false ∧
      s.sectionOf (s.get R.SYS_BOOT_STAT_bank) 0x40 = none) ∧
    (base.inPhase 6 = false ∧ base.inPhase 7 = false ∧ base.inPhase 8 = false ∧ base.inPhase 9 = false ∧ base.inPhase 10 = false ∧ base.inPhase 11 = false) ∧
    ((ph 7 base).inPhase 7 = true ∧ (ph 7 base).boot.lanesSet = false) ∧
    (let s : Dev := { ph 7 base with boot := { base.boot with lanesSet := true } }
     s.inPhase 7 = true ∧ s.boot.lanesSet = true) ∧
    (let s := ph 8 base
     s.inPhase 8 = true ∧
      (let l : PlcLayout := ⟨[], [], [], some (6, 9)⟩
       s.admitFails (s.writePlacement l) l = some (6, 9))) ∧
    (let s : Dev := { ph 9 base with plc := { base.plc with podFw := [(23, 5)], ref := { base.plc.ref with fw := [(5, List.replicate 32 0)] } } }
     let t := regs [(R.PWR_DOM_LO, 0x800000)] s
     t.inPhase 9 = true ∧ t.mgt.roll = none ∧ (t.podBody 23).isSome = true ∧ t.domOn 23 = true) ∧
    (let s := flds [(R.AIR_STAT_state, 1)] (ph 10 base)
     s.inPhase 10 = true ∧ s.airState = 1 ∧ s.time.start = none ∧ s.startBoundary < 2 ^ 64 ∧ base.airState ≠ 1) := by decide +kernel

/-- With an empty memory no descriptor is enabled. -/
theorem podMasked_empty (s : Dev) (p : Nat) (h : s.mem = []) : s.podMasked p = false := by
  refine List.any_eq_false.mpr fun d _ => ?_
  have hb : ∀ a, s.byte a = 0 := fun a => by rw [Dev.byte, h]; rfl
  simp [Dev.tdEn, Dev.td, Dev.tdWord, Dev.le, Dev.bytes, hb, nums, List.range, List.range.loop, leNat, bits]

/-- PLACE with every domain on admits a plan of no cell. -/
def place_ : Dev := regs [(R.PWR_DOM_LO, 0xFFFFFFFF), (R.PWR_DOM_HI, 0xFFFF)] (ph 8 base)

theorem test_hyp_LatePhases_place :
    let l : PlcLayout := ⟨[], [], [], none⟩
    place_.inPhase 8 = true ∧ place_.admitFails (place_.writePlacement l) l = none := by
  intro l
  refine ⟨by decide +kernel, List.findSome?_eq_none_iff.mpr fun k hk => ?_⟩
  have h : ∀ k ∈ nums 1 0x13, k ≠ 0x10 → place_.admitCheck (place_.writePlacement l) l k = none := by decide +kernel
  have hs : (place_.writePlacement l).podSpare 0 = true := by
    rw [Dev.podSpare, Dev.podIdle, podMasked_empty _ _ (by decide +kernel)]; decide +kernel
  have hn : 0 < ((List.range 24).filter (place_.writePlacement l).podSpare).length :=
    List.length_pos_of_mem (List.mem_filter.mpr ⟨List.mem_range.mpr (by decide), hs⟩)
  have hr : (place_.writePlacement l).sparePods = 1 ∧ (place_.writePlacement l).clusterSpare 16 = true ∧
      ((List.range 32).any fun h => (place_.writePlacement l).flag (R.SCA_HCFG_en h)) = false := by decide +kernel
  by_cases hk0 : k = 0x10
  · subst hk0
    have : place_.admitCheck (place_.writePlacement l) l 0x10 = none := by
      simp only [Dev.admitCheck, Dev.admitSpares, hr]
      refine if_neg ?_
      rintro (h | h | h)
      · omega
      · exact absurd h (by decide)
      · exact absurd h.1 (by decide)
    simp only [this]; rfl
  · simp only [h k hk hk0]; rfl

/-- Oscillators that agree, and replicas that fail at once. -/
def calm : List MonReading := (List.range 384).map fun m => if m % 2 = 0 then .pair 1 1 else .replica (some 0)

/-- The values that follow a write of the power plan in APPLY. -/
def applied (s : Dev) : Dev := (s.applyPower.ageApply true calm).applyVdd

/-- Readings of the 384 monitors that show no ageing where the baselines, which are free values (log 254), are zero. -/
theorem calm_readings (s : Dev) (hb : ∀ m w, Config.ageBaseline m w = 0) : s.monReadings calm = List.replicate 384 (0, false) := by
  have h0 : ∀ m, s.monD m (.pair 1 1) = if m % 2 = 1 then none else some (0, 1) := fun m => by
    simp only [Dev.monD, hb]; split <;> simp_all
  have h1 : ∀ m, s.monD m (.replica (some 0)) = if m % 2 = 0 then none else some (0, 100) := fun m => by
    simp only [Dev.monD, hb]; split <;> simp_all
  refine List.ext_getElem (by rw [Dev.monReadings, List.length_map, List.length_zip, List.length_range, List.length_replicate, calm, List.length_map, List.length_range]; rfl) fun i hi _ => ?_
  have h : s.monD i (if i % 2 = 0 then .pair 1 1 else .replica (some 0)) = if i % 2 = 0 then some (0, 1) else some (0, 100) := by
    split
    · rw [h0, if_neg (by omega)]
    · rw [h1, if_neg (by omega)]
  simp only [Dev.monReadings, calm, List.getElem_map, List.getElem_zip, List.getElem_range, List.getElem_replicate, List.length_map, List.length_range, h]
  by_cases he : i % 2 = 0 <;> simp only [he, if_true, if_false] <;> rfl

theorem foldl_still {α β : Type} (f : α → β → α) (a : α) (l : List β) (h : ∀ b ∈ l, f a b = a) : l.foldl f a = a := by
  induction l with
  | nil => rfl
  | cons b r ih => rw [List.foldl_cons, h b (List.mem_cons_self ..), ih fun x hx => h x (List.mem_cons_of_mem _ hx)]

theorem test_hyp_LatePhases_apply (hb : ∀ m w, Config.ageBaseline m w = 0) :
    calm.length = 384 ∧ (applied (ph 5 base)).vddReached (List.replicate 16 0) = true ∧ (applied (ph 5 base)).vddReached (List.replicate 16 9000) = false := by
  have h : (ph 5 base).applyPower.takeFree.ageMonitors (List.replicate 384 (0, false)) = (ph 5 base).applyPower.takeFree := by
    refine foldl_still _ _ _ ?_
    decide +kernel
  rw [applied, Dev.ageApply, calm_readings _ hb, h]
  decide +kernel

theorem planned_word (k : Nat) (s : Dev) (h : (flds [(R.SYS_BOOT_STAT_bank, 1)] (ph k s)).get R.SYS_BOOT_STAT_bank = 1) (type i : Nat) :
    (planned k s).planWord type i = planV type i := withImg_planWord _ h type i

theorem test_hyp_LatePhases_power :
    (planned 5 base).inPhase 5 = true ∧ (planned 5 base).applyPower.regulators.contains 0 = true ∧
      (planned 5 base).applyPower.regulators.contains 7 = false := by
  simp only [Dev.applyPower, planned_word 5 base (by decide +kernel)]
  decide +kernel

theorem test_hyp_LatePhases_time :
    let s := planned 6 (at_ (10 * hz) base)
    let t := planned 6 (at_ (10 * hz - 1) base)
    s.inPhase 6 = true ∧ 0 < s.planWord 3 7 ∧ s.elapsed s.boot.phaseAt ((s.boot.waits + 1) * s.planWord 3 7 * 1000) = true ∧
      t.elapsed t.boot.phaseAt ((t.boot.waits + 1) * t.planWord 3 7 * 1000) = false := by
  intro s t
  rw [planned_word 6 (at_ (10 * hz) base) (by decide +kernel), planned_word 6 (at_ (10 * hz - 1) base) (by decide +kernel)]
  decide +kernel

/-- LANES with the link plan written, at a time, lane 0 in a state. -/
def lanes_ (n st : Nat) : Dev := at_ n (flds [(R.LNK_LINE_STAT_state 0, st)] { base with boot := { base.boot with lanesSet := true } })

theorem test_hyp_LatePhases_lanes :
    (let s := planned 7 (lanes_ (hz / 10) 0)
     s.inPhase 7 = true ∧ s.boot.lanesSet = true ∧ s.elapsed s.boot.phaseAt (s.planWord 2 1) = true ∧ s.lanesDown ≠ 0) ∧
    (let s := planned 7 (lanes_ (hz / 10 - 1) 8)
     s.elapsed s.boot.phaseAt (s.planWord 2 1) = false ∧ s.lanesDown = 0) := by
  simp only [Dev.lanesDown]
  delta Dev.recLanes Dev.linkRec
  simp only [planned_word 7 (lanes_ (hz / 10) 0) (by decide +kernel),
    planned_word 7 (lanes_ (hz / 10 - 1) 8) (by decide +kernel)]
  decide +kernel

/-! ### Management -/

/-- The console's request of a command with a body. -/
def req_ (cmd : Nat) (body : List Nat) : MgtReq := { src := .console, slot := 15, cmd := cmd, tag := 9, body := body }

/-- Laruri's firmware serves, with these fields besides. -/
def serves (l : List (Field × Nat)) : Dev := flds ((R.SYS_BOOT_CTL_fw_ready, 1) :: l) base

/-- The same with a T request, or an S or P request, that is the oldest; the cinch open. -/
def askT (cmd : Nat) (body : List Nat) (l : List (Field × Nat)) : Dev :=
  let s := serves l; { s with mgt := { s.mgt with tq := [req_ cmd body] } }
def askS (cmd : Nat) (body : List Nat) (l : List (Field × Nat)) : Dev :=
  let s := serves ((R.MGT_CINCH_open_, 1) :: l); { s with mgt := { s.mgt with sq := [req_ cmd body], key := true } }

def mgt_ (f : MgtSt → MgtSt) (s : Dev) : Dev := { s with mgt := f s.mgt }

/-- The parts of `TakesT` and `RunsS` that a state shows. -/
def takesB (s : Dev) (cmd : Nat) : Bool := (s.mgt.tq.head?.all (·.cmd == cmd)) && !s.mgt.tq.isEmpty && s.serving
def runsSB (s : Dev) (cmd : Nat) : Bool :=
  (s.mgt.sq.head?.all (·.cmd == cmd)) && !s.mgt.sq.isEmpty && s.serving && decide (s.plc.current = none) && (!isPresence cmd || s.cinch) &&
    !s.flag R.MGT_STAT_env_stop

theorem test_hyp_TakesT {s : Dev} {cmd : Nat} (h : takesB s cmd = true) : ∃ r q, TakesT s cmd r q := by
  simp only [takesB, Bool.and_eq_true] at h
  cases hq : s.mgt.tq with
  | nil => simp [hq] at h
  | cons r q => rw [hq] at h; exact ⟨r, q, hq, by simpa using h.1.1, h.2⟩

theorem test_hyp_RunsS {s : Dev} {cmd : Nat} (h : runsSB s cmd = true) : ∃ r q, RunsS s cmd r q := by
  simp only [runsSB, Bool.and_eq_true, Bool.or_eq_true, Bool.not_eq_true', decide_eq_true_eq] at h
  cases hq : s.mgt.sq with
  | nil => simp [hq] at h
  | cons r q =>
    rw [hq] at h
    exact ⟨r, q, ⟨hq, by simpa using h.1.1.1.1.1, h.1.1.1.2, h.1.1.2⟩, fun hp => h.1.2.resolve_left (by simp [hp]), h.2⟩

theorem test_hyp_PresenceAndSeal :
    (base.pinReset = true ∧ (ph 11 base).pinReset = false ∧ (ph 11 base).flag R.MGT_CINCH_open_ = false ∧
      (flds [(R.MGT_CINCH_open_, 1)] (ph 11 base)).flag R.MGT_CINCH_open_ = true ∧ (flds [(R.MGT_CINCH_open_, 1)] (ph 11 base)).pinReset = false) ∧
    (base.mgt.key = false ∧ (mgt_ (fun m => { m with key := true }) base).mgt.key = true) ∧
    (let s := at_ 9 (mgt_ (fun m => { m with cinchEnd := 10 }) (flds [(R.MGT_CINCH_open_, 1)] base))
     s.flag R.MGT_CINCH_open_ = true ∧ s.mgt.key = false ∧ s.time.clk < s.mgt.cinchEnd ∧ (at_ 10 s).mgt.cinchEnd ≤ (at_ 10 s).time.clk ∧
      (mgt_ (fun m => { m with sq := [req_ 0x22 []] }) (at_ 10 s)).mgt.sq.filter (fun r => isPresence r.cmd) = [req_ 0x22 []]) ∧
    (base.flag R.MGT_SEAL_loop_open = false ∧ (flds [(R.MGT_SEAL_loop_open, 1)] base).flag R.MGT_SEAL_loop_open = true) := by decide +kernel

/-- A message from the console with this header and these bytes after it. -/
def msg_ (ver cmd len target : Nat) (rest : List Nat) : List Byte :=
  ([ver, 0] ++ leBytes 2 cmd ++ leBytes 4 9 ++ leBytes 2 len ++ [0, 0] ++ leBytes 4 target ++ rest).map (BitVec.ofNat 8)

theorem test_hyp_MessagesAndTelemetry_receive :
    (base.serving = false ∧ (serves []).serving = true ∧ (serves []).msgSource (.console true) 16 2 = some .console ∧
      (serves []).msgSource (.console false) 16 2 = none ∧ (serves []).msgSource (.port 5 0xFFFFFFFFFFFF 0x88B5 1) 46 1 = some (.mac 5) ∧
      (serves []).msgSource (.port 5 0xFFFFFFFFFFFF 0x88B5 1) 46 2 = none ∧ (serves []).msgSource (.port 5 0xFFFFFFFFFFFF 0x88B5 2) 46 1 = none ∧
      (serves []).msgSource (.port 5 0xFFFFFFFFFFFF 0x88B5 0) 45 1 = none) ∧
    (((msg_ 1 2 0 0 []).take 15).length < 16 ∧ lget 0 ((msg_ 2 2 0 0 []).map (·.toNat)) 0 ≠ 1) ∧
    (let b := (msg_ 1 2 0 7 []).map (·.toNat)
     16 ≤ b.length ∧ lget 0 b 0 = 1 ∧ lget 0 b 1 = 0 ∧ leNat ((b.drop 12).take 4) = 7 ∧ (serves []).otp 8 4 ≠ 7) ∧
    (let s := mgt_ (fun m => { m with sources := [(.console, 15, [⟨2, 9, 0, [1]⟩])] }) (serves [])
     (s.hear .console).2.1.find? (fun k => k.cmd == 2 && k.tag == 9 && decide (s.time.clk ≤ k.at_ + 60 * hz)) = some ⟨2, 9, 0, [1]⟩ ∧
      ((at_ (60 * hz + 1) s).hear .console).2.1.find? (fun k => k.cmd == 2 && k.tag == 9 && decide ((at_ (60 * hz + 1) s).time.clk ≤ k.at_ + 60 * hz)) = none) ∧
    ((serves []).romServes = false ∧ (ph 12 base).romServes = true ∧ (ph 12 base).serving = true ∧ knownCmds.contains 8 = false ∧ romCmds.contains 2 = false ∧
      knownCmds.contains 2 = true ∧ knownCmds.contains 0x26 = true) ∧
    ((msg_ 1 2 10 0 (List.replicate 10 0)).length = 16 + 10 ∧ (msg_ 1 2 11 0 (List.replicate 10 0)).length < 16 + 11 ∧
      (serves []).mgt.sq.length < 16 ∧ 16 ≤ (mgt_ (fun m => { m with sq := List.replicate 16 (req_ 0x21 []) }) (serves [])).mgt.sq.length) := by decide +kernel

/-- Subscriptions of other sources. -/
def subs_ (n : Nat) : List Subscription := (List.range n).map fun k => ⟨.mac k, 0, 1, 0, 0, 0, 0⟩

theorem test_hyp_MessagesAndTelemetry :
    ([(1, 0), (2, 10), (3, 0), (4, 7), (5, 8), (6, 10), (7, 0)].all (fun (c : Nat × Nat) =>
      takesB (askT c.1 (List.replicate c.2 0) []) c.1 && !takesB base c.1 && takesB (askT c.1 (List.replicate (c.2 + 1) 0) []) c.1) = true) ∧
    (let b := fun (a n : Nat) => leBytes 8 a ++ leBytes 2 n
     (b 0 0).length = 10 ∧ fld (b 0 0) 8 2 < 1 ∧ 256 < fld (b 0 257) 8 2 ∧ fld (b 0x1FFC00 256) 0 8 + 4 * fld (b 0x1FFC00 256) 8 2 ≤ 0x200000 ∧
      fld (b 0x1FFC00 256) 8 2 ≤ 256 ∧ readable (fld (b 0x200000 1) 0 8) = false ∧ readable (fld (b R.SYS_ID 1) 0 8) = true ∧
      isCtl (fld (b R.SYS_ID 1) 0 8) = true ∧ fld (b R.SYS_ID 1) 8 2 = 1) ∧
    (let b := fun (i n a : Nat) => leBytes 4 i ++ leBytes 2 n ++ leBytes 1 a
     (b 0 33 0).length = 7 ∧ 32 < fld (b 0 33 0) 4 2 ∧ 1 < fld (b 0 32 2) 6 1 ∧ fld (b 0 32 1) 4 2 ≤ 32 ∧ 1 ≤ fld (b 0 32 1) 4 2 ∧ fld (b 0 32 1) 6 1 ≤ 1) ∧
    (let b := fun (i o n : Nat) => leBytes 2 i ++ leBytes 4 o ++ leBytes 2 n
     let s := askT 5 (b 0 0 1024) []
     (b 0 0 1024).length = 8 ∧ 1024 < fld (b 0 0 1025) 6 2 ∧ fld (b 0 0 1024) 6 2 ≤ 1024 ∧
      (∀ x ∈ ((s.sections (s.get R.SYS_BOOT_STAT_bank)).getD [])[fld (b 0 0 1024) 0 2]?.toList, x.type ≠ 0xF0)) ∧
    (let b := fun (m p : Nat) => leBytes 8 m ++ leBytes 2 p
     let s := fun n => mgt_ (fun m => { m with subs := subs_ n }) (askT 6 (b 1 3600) [])
     (b 1 3600).length = 10 ∧ 3600 < fld (b 1 3601) 8 2 ∧ fld (b 1 3600) 8 2 ≤ 3600 ∧
      ((s 4).mgt.subs.filter (fun x => !(s 4).lapsed x)).length = 4 ∧ (∀ y ∈ (s 4).mgt.subs, y.src ≠ .console) ∧ ((s 3).mgt.subs.filter (fun x => !(s 3).lapsed x)).length < 4 ∧
      (at_ (300 * hz) (s 4)).mgt.subs.filter (fun x => !(at_ (300 * hz) (s 4)).lapsed x) = []) ∧
    ((askT 7 [] []).mgt.key = false ∧ (askT 7 [] []).flag R.MGT_CINCH_open_ = false ∧ (askT 7 [] [(R.MGT_CINCH_open_, 1)]).flag R.MGT_CINCH_open_ = true ∧
      (mgt_ (fun m => { m with key := true }) (askT 7 [] [])).mgt.key = true) := by decide +kernel

/-- Flash bytes at offsets. -/
def flash_ (l : List (Nat × List Nat)) (s : Dev) : Dev := l.foldl (fun s e => s.setFbytes e.1 e.2) s

/-- The header and one empty section of a type in bank `k`, enough to be walked. -/
def tiny (k type : Nat) : List (Nat × List Nat) :=
  [(bankBase k + 8, [0x20, 1, 0, 0]), (bankBase k + 12, [1, 0]), (bankBase k + 256, leBytes 2 type ++ [0, 0, 0, 0, 0, 0])]

theorem test_hyp_NotesRead :
    let s := flash_ (tiny 0 0xF0) (askT 5 (leBytes 2 0 ++ leBytes 4 0 ++ leBytes 2 1) [])
    takesB s 5 = true ∧ (((s.sections (s.get R.SYS_BOOT_STAT_bank)).getD [])[fld [0, 0, 0, 0, 0, 0, 1, 0] 0 2]?.map (·.type)) = some 0xF0 := by decide +kernel

/-- A staging record's bytes at the first place of the journal. -/
def staged_ (l : List (Nat × List Nat)) (s : Dev) : Dev := mgt_ (fun m => { m with journal := 1 }) (flash_ ((journalAt 0, journalBytes 2 1 7 0 0xFFFFFFFF) :: l) s)

/-- Staging by the console into bank 1. -/
def stg_ (got length : Nat) (last : Option Nat) : Staging := { src := .console, bank := 1, seq := 7, length := length, got := got, last := last }

def staging_ (x : Staging) (s : Dev) : Dev := mgt_ (fun m => { m with staging := some x }) s

theorem test_hyp_StagingAndActivation :
    ([(0x10, 12, 12), (0x11, 5, 1028), (0x12, 0, 0), (0x13, 0, 0), (0x20, 0, 0), (0x21, 0, 0), (0x22, 16, 16), (0x23, 1, 1), (0x24, 0, 0), (0x25, 0, 0),
      (0x26, 0, 0)].all (fun (c : Nat × Nat × Nat) =>
        runsSB (askS c.1 (List.replicate c.2.1 0) []) c.1 && runsSB (askS c.1 (List.replicate (c.2.2 + 1) 0) []) c.1 && base.mgt.sq.isEmpty &&
        (askS c.1 [] [(R.MGT_STAT_env_stop, 1)]).flag R.MGT_STAT_env_stop && (askS c.1 [] [(R.MGT_STAT_env_stop, 1)]).cinch &&
        !(mgt_ (fun m => { m with key := false }) (askS c.1 [] [])).cinch) = true) ∧
    (let b := fun (s n : Nat) => leBytes 8 s ++ leBytes 4 n
     let s := askS 0x10 (b 7 bankSize) []
     let rom := ph 12 (flds [(R.SYS_BOOT_CTL_fw_ready, 0)] (askS 0x10 (b (2 ^ 62 + 7) 16) []))
     (b 7 16).length = 12 ∧ s.romServes = false ∧ 1 - s.get R.SYS_BOOT_STAT_bank ≤ 1 ∧ s.flag R.MGT_STAT_trial = false ∧ s.mgt.roll = none ∧
      fld (b 7 bankSize) 8 4 ≤ bankSize ∧ bankSize < fld (b 7 (bankSize + 1)) 8 4 ∧ s.stagingHeld .console = false ∧ s.mgt.journal + 1 < journalSlots ∧
      (staging_ { stg_ 0 8 none with src := .mac 1 } s).stagingHeld .console = true ∧ (askS 0x10 (b 7 16) [(R.MGT_STAT_trial, 1)]).flag R.MGT_STAT_trial = true ∧
      runsSB rom 0x10 = true ∧ rom.romServes = true ∧ fld (b (2 ^ 62 + 7) 16) 0 8 / 2 ^ 62 ≤ 1 ∧
      (mgt_ (fun m => { m with key := false }) rom).cinch = false) ∧
    (let b := fun (o : Nat) (l : List Nat) => leBytes 4 o ++ l
     let s := fun (o : Nat) (x : Staging) => staging_ x (askS 0x11 (b o [1, 2, 3, 4]) [])
     runsSB (s 0 (stg_ 0 8 none)) 0x11 = true ∧ (s 0 (stg_ 0 8 none)).mgt.staging = some (stg_ 0 8 none) ∧ (b 0 [1, 2, 3, 4]).length = 4 + 4 ∧
      (∀ x ∈ b 0 [1, 2, 3, 4], x < 256) ∧ (stg_ 0 8 none).active = true ∧ fld (b 4 [1]) 0 4 = (stg_ 4 8 (some 0)).got ∧ (stg_ 4 8 (some 0)).last ≠ some 4 ∧
      4 + 4 ≤ (stg_ 4 8 (some 0)).length ∧ (stg_ 4 7 (some 0)).length < 4 + 4 ∧ fld (b 0 [1]) 0 4 = 0 ∧ (stg_ 4 8 (some 0)).last = some 0 ∧
      fld (b 5 [1]) 0 4 ≠ (stg_ 4 8 (some 0)).got ∧ (stg_ 4 8 (some 4)).src ≠ .mac 1) ∧
    (runsSB (staging_ (stg_ 4 8 none) (askS 0x12 [] [])) 0x12 = true ∧ (stg_ 4 8 none).got ≠ (stg_ 4 8 none).length ∧ (stg_ 8 8 none).got = (stg_ 8 8 none).length ∧
      (staging_ (stg_ 8 8 none) (askS 0x12 [] [])).imageBad 1 = some (1, none)) ∧
    ((askS 0x12 [] []).mgt.staging = none ∧ ({ stg_ 8 8 none with active := false } : Staging).active = false) ∧
    (let s := staging_ (stg_ 4 8 none) (askS 0x13 [] [])
     runsSB s 0x13 = true ∧ s.stagingHeld .console = false ∧ s.stagingHeld (.mac 1) = true ∧ s.stagedRecord = none ∧ s.mgt.journal + 1 < journalSlots ∧
      (staged_ [] s).stagedRecord = some 0) ∧
    (let s := askS 0x20 [] []
     let kind := fun (s : Dev) => activationKind (s.differing 1 (s.get R.SYS_BOOT_STAT_bank))
     runsSB s 0x20 = true ∧ s.stagedRecord = none ∧ (staged_ [] s).stagedRecord ≠ none ∧ (staged_ [] s).rd64 R.SYS_IMG_SEQ_LO < (staged_ [] s).imgSeq 1 ∧
      (staged_ [] s).mgt.roll = none ∧ (staged_ [] s).mgt.journal + 1 < journalSlots ∧ kind (staged_ [] s) = 0 ∧ kind (staged_ (tiny 1 0x10) s) = 1 ∧
      (staged_ (tiny 1 0x10) s).bothFit 1 = true ∧ kind (staged_ (tiny 1 1) s) = 2 ∧ (staged_ (tiny 1 1) s).stagedRecord ≠ none) ∧
    runsSB (askS 0x21 [] []) 0x21 = true := by decide +kernel

/-- A roll with a cell at pod 23. -/
def roll_ (x : Roll) : Dev :=
  let s := flds [(R.PLC_CELL_pod 255, 23)] base
  { s with mgt := { s.mgt with roll := some x }, plc := { s.plc with cells := [{ cell := 255 }] } }

theorem test_hyp_Roll :
    (base.mgt.roll = none ∧ (roll_ { todo := [] }).plc.current = none ∧ (roll_ { todo := [] }).plc.triggers = [] ∧
      (List.range 24).all (fun p => !(roll_ { todo := [] }).podSpare p) = true ∧ (roll_ { todo := [] }).rollNext { todo := [] } = some 23 ∧
      ({ todo := [], ended := some 0 } : Roll).ended ≠ none ∧ (roll_ { todo := [], last := some 0 }).frameNo < 0 + 100 ∧
      0 + 100 ≤ (cnt (100 * frameTc) (roll_ { todo := [], last := some 0 })).frameNo) ∧
    (let s : Dev := at_ (600 * hz) { ph 11 (flds [(R.SYS_BOOT_STAT_trial, 1)] base) with boot := { base.boot with runAt := some 0 } }
     s.flag R.MGT_STAT_env_stop = false ∧ s.mgt.roll = none ∧ s.flag R.SYS_BOOT_STAT_trial = true ∧ s.phase = 11 ∧ s.boot.runAt = some 0 ∧
      s.elapsed 0 600000 = true ∧ (at_ (600 * hz - 1) s).elapsed 0 600000 = false ∧ s.mgt.journal + 1 < journalSlots) ∧
    (let x : Roll := { todo := [], ended := some 0 }
     let s := at_ (600 * hz) (roll_ x)
     s.mgt.roll = some x ∧ x.back = false ∧ s.elapsed 0 600000 = true ∧ s.flag R.MGT_STAT_env_stop = false ∧ (List.range 24).all (fun p => !s.podSpare p) = true ∧
      s.mgt.journal + 1 < journalSlots) := by decide +kernel

/-- STAGE_END of the valid image staged in bank 1. -/
theorem test_hyp_StagingAndActivation_end :
    let s := withImg (staging_ (stg_ 2480 2480 none) (askS 0x12 [] []))
    runsSB s 0x12 = true ∧ s.mgt.staging = some (stg_ 2480 2480 none) ∧ (stg_ 2480 2480 none).got = (stg_ 2480 2480 none).length ∧ s.imageBad 1 = none ∧
      (stg_ 2480 2480 none).bank = 1 - s.get R.SYS_BOOT_STAT_bank ∧ s.mgt.journal + 1 < journalSlots :=
  ⟨by decide +kernel, by decide +kernel, by decide +kernel, test_image_valid _, by decide +kernel, by decide +kernel⟩

/-- An event, and a log with entries. -/
def ev_ (code : Nat) : LogEvent := { code := code }
def log_ (l : LogSt) (e : List LogEvent) (s : Dev) : Dev := { mgt_ (fun m => { m with log := l }) s with raised := e }

/-- A subscriber to every code of class 0, heard at 0. -/
def sub0 : Subscription := { src := .console, mask := 1, period := 3, at_ := 0, last := 0 }

theorem test_hyp_PresenceCommandsAndLog :
    (let b := fun (a v m : Nat) => leBytes 8 a ++ leBytes 4 v ++ leBytes 4 m
     let s := askS 0x22 (b R.AIR_CTL 1 1) []
     runsSB s 0x22 = true ∧ (b R.AIR_CTL 1 1).length = 16 ∧ s.writeBarred (fld (b R.AIR_CTL 1 1) 0 8) 1 = false ∧ s.writeBarred 0x200000 1 = true ∧
      s.writeBarred R.MGT_CINCH 1 = true) ∧
    ((askS 0x23 [1] []).cinch = true ∧ 1 < fld [2] 0 1 ∧ fld [1] 0 1 ≤ 1 ∧ runsSB (askS 0x23 [1] []) 0x23 = true) ∧
    ((askS 0x25 [] []).flag R.MGT_SEAL_loop_open = false ∧ (askS 0x25 [] [(R.MGT_SEAL_loop_open, 1)]).flag R.MGT_SEAL_loop_open = true ∧
      (askS 0x25 [] []).cinch = true ∧ (askS 0x24 [] []).flag R.MGT_STAT_dbg = false) ∧
    (let s := log_ {} [ev_ 5] base
     base.raised = [] ∧ s.raised = ev_ 5 :: [] ∧ (alwaysPinned (ev_ 5) || (!s.mgt.log.first && startsStop (ev_ 5))) = false ∧
      (alwaysPinned (ev_ Ev.MGT_CINCH_OPEN) || (!s.mgt.log.first && startsStop (ev_ Ev.MGT_CINCH_OPEN))) = true ∧
      (!s.mgt.log.first && startsStop (ev_ Ev.SYS_HOLD)) = true ∧ s.mgt.log.waiting.length ≤ 4096 ∧ s.mgt.log.pinned.length < 64 ∧ s.mgt.log.lost = 0 ∧
      (∀ x ∈ s.mgt.subs, x.mask.testBit ((ev_ 5).code / 1024) = false)) ∧
    ((log_ { lost := 3 } [ev_ 5] base).mgt.log.lost = 3 ∧
      (log_ { pinned := List.replicate 64 ⟨ev_ Ev.SYS_HOLD, 0, true⟩ } [ev_ Ev.MGT_CINCH_OPEN] base).mgt.log.pinned.length = 64) ∧
    (let s := fun (x : Subscription) => mgt_ (fun m => { m with subs := [x] }) (log_ {} [ev_ 5] (serves []))
     (s sub0).mgt.subs = [sub0] ∧ sub0.mask.testBit ((ev_ 5).code / 1024) = true ∧ (s sub0).lapsed sub0 = false ∧ sub0.sent < 64 ∧
      sub0.sec = (s sub0).time.clk / hz ∧ 64 ≤ ({ sub0 with sent := 64 } : Subscription).sent) ∧
    (let s := log_ { waiting := [⟨ev_ 5, 0, false⟩] } [] (serves [])
     base.firmware = false ∧ s.firmware = true ∧ s.mgt.noFlash = false ∧ s.mgt.log.waiting ≠ [] ∧ (s.mgt.log.head + 1) % 2048 ≠ 0 ∧ s.mgt.log.bad = [] ∧
      (let t := log_ { waiting := [⟨ev_ 5, 0, false⟩], head := 69631 } [] (serves [])
       (t.mgt.log.head + 1) % 2048 = 0 ∧ t.mgt.log.head < 69632) ∧
      (let t := log_ { pinned := [⟨ev_ 5, 0, true⟩], pinHead := pinSlots } [] (serves [])
       t.firmware = true ∧ t.mgt.log.waiting = [] ∧ pinSlots ≤ t.mgt.log.pinHead ∧ 0 < pinSlots)) ∧
    (let s := fun (n : Nat) => at_ n (mgt_ (fun m => { m with subs := [sub0] }) (serves []))
     (s (3 * hz)).mgt.subs[0]? = some sub0 ∧ (s (3 * hz)).elapsed sub0.last (sub0.period * 1000) = true ∧ (s (3 * hz)).lapsed sub0 = false ∧
      (s (3 * hz)).serving = true ∧ sub0.sec ≠ (s (3 * hz)).time.clk / hz ∧ (s (3 * hz - 1)).elapsed sub0.last (sub0.period * 1000) = false ∧
      (s (300 * hz)).lapsed sub0 = true ∧ ({ sub0 with sec := 3, sent := 64 } : Subscription).sec = (s (3 * hz)).time.clk / hz) := by decide +kernel

/-- A full log: its oldest entry pinned, the next not. -/
theorem test_hyp_PresenceCommandsAndLog_full :
    let s := log_ { waiting := ⟨ev_ 5, 0, true⟩ :: List.replicate 4095 ⟨ev_ 5, 1, false⟩ } [ev_ 5] base
    s.mgt.log.waiting.length = 4096 ∧ s.mgt.log.waiting = [⟨ev_ 5, 0, true⟩] ++ ⟨ev_ 5, 1, false⟩ :: List.replicate 4094 ⟨ev_ 5, 1, false⟩ :=
  ⟨by rw [show (log_ { waiting := ⟨ev_ 5, 0, true⟩ :: List.replicate 4095 ⟨ev_ 5, 1, false⟩ } [ev_ 5] base).mgt.log.waiting =
        ⟨ev_ 5, 0, true⟩ :: List.replicate 4095 ⟨ev_ 5, 1, false⟩ from rfl, List.length_cons, List.length_replicate], rfl⟩

/-! ### Sense converter, ageing, power -/

def sns_ (f : SnsSt → SnsSt) (s : Dev) : Dev := { s with sns := f s.sns }

/-- The sequencer on SNS_SEQ at entry 0 with these two words, at a converter clock. -/
def seq_ (w0 w1 clk : Nat) : Dev :=
  at_ ((clk * 1536 + 124) / 125) (sns_ (fun x => { x with fixed := false, last := 0 }) (regs [(R.SNS_SEQ 0 0, w0), (R.SNS_SEQ 0 1, w1)] (ph 11 base)))

theorem test_hyp_SenseConverter_sequencer :
    (base.flag R.SYS_BOOT_STAT_done = false ∧ (flds [(R.SYS_BOOT_STAT_done, 1)] base).flag R.SYS_BOOT_STAT_done = true ∧
      (sns_ (fun x => { x with run := false }) base).sns.run = false ∧ base.sns.run = true ∧ base.phase = 0) ∧
    (let s := seq_ 44 0 0
     s.sns.run = true ∧ s.phase ≠ 0 ∧ s.snsEntry s.sns.k = (44, 0) ∧ 44 ≤ (44 : Nat) % 64 ∧ s.sns.logged.contains s.sns.k = false) ∧
    (let w := 39 + 3 * 2 ^ 6 + 10 * 2 ^ 16
     let s := seq_ w 8 15
     s.sns.run = true ∧ s.phase ≠ 0 ∧ s.snsEntry s.sns.k = (w, 8) ∧ w % 64 < 44 ∧ s.snsDelayEnd w = some 11 ∧ 11 + s.snsSettle 39 ≤ s.snsClk ∧
      s.manFirst 11 = false ∧ s.snsSlipped w = false ∧ s.sns.k + 1 < s.snsLen ∧ (seq_ w 8 14).snsClk < 11 + (seq_ w 8 14).snsSettle 39 ∧
      (sns_ (fun x => { x with man := some (0, 10) }) s).manFirst 11 = true ∧ (sns_ (fun x => { x with len := 1 }) s).snsLen ≤ 0 + 1) ∧
    (let w := 2 ^ 14 + 2 ^ 16
     (seq_ w 0 0).snsDelayEnd w = none ∧ (seq_ w 0 1005).airState = 0 ∧
      (let s := flds [(R.AIR_STAT_state, 1)] (cnt (tickTc + 400) (sns_ (fun x => { x with byMan := true, last := 1000 }) (seq_ w 0 1005)))
       s.snsSlipped w = true ∧ s.snsDelayEnd w = some 1001 ∧ 1001 + s.snsSettle 0 ≤ s.snsClk)) := by decide +kernel

/-- One conversion of input 0 done, its result due at converter clock 8. -/
def run_ (i : Nat) (ring : Option Nat) : SnsRun := { input := i, reps := 1, avg := false, ring := ring, entry := 5, start := 0, tick := 9 }

/-- Its result due now, both factory copies bad (gain 1), with these fields and words besides. -/
def due_ (x : SnsRun) (up : Tbl Nat) (l : List (Field × Nat)) (w : List (Nat × Nat)) : Dev :=
  at_ 99 (sns_ (fun s => { s with runs := [x], calBad := true, up := up }) (flds l (regs w base)))

/-- The result of a code in a state. -/
def res_ (s : Dev) (i c : Nat) : Int := s.snsCorrect i (snsMean [c])

theorem test_hyp_SenseConverter_result :
    (base.sns.runs = [] ∧ (due_ (run_ 0 none) [] [] []).sns.runs = run_ 0 none :: [] ∧ 0 + 0 + 8 ≤ (due_ (run_ 0 none) [] [] []).snsClk ∧
      base.snsClk < 0 + 0 + 8 ∧ (run_ 43 none).input < 44) ∧
    (let s := due_ (run_ 1 none) [] [] []
     s.flag R.MGT_STAT_env_stop = false ∧ s.snsOut 1 (res_ s 1 0) = (false, false) ∧ s.flag (R.SNS_LAST_above 1) = false ∧ s.flag (R.SNS_LAST_below 1) = false ∧
      (flds [(R.SNS_LAST_above 1, 1)] s).flag (R.SNS_LAST_above 1) = true) ∧
    (let s := due_ (run_ 1 (some 7)) [] [] []
     (s.rd64 (R.SNS_RING_WR_LO 7) + 2 ^ 32 - s.rd (R.SNS_RING_RD 7)) % 2 ^ 32 < s.snsRecords 7 ∧
      s.rd (R.SNS_RING_BASE 7) / 8 * 8 + s.rd64 (R.SNS_RING_WR_LO 7) % s.snsRecords 7 * 8 + 8 ≤ 0x200000 ∧
      (let t := due_ (run_ 1 (some 7)) [] [] [(R.SNS_RING_WR_LO 7, 16)]
       t.snsRecords 7 ≤ (t.rd64 (R.SNS_RING_WR_LO 7) + 2 ^ 32 - t.rd (R.SNS_RING_RD 7)) % 2 ^ 32 ∧ t.flag R.SNS_STAT_ovf = false)) ∧
    (let s := due_ (run_ 0 none) [] [] []
     s.snsOut 0 (res_ s 0 16383) = (true, !true) ∧ s.flag (R.SNS_LAST_above 0) = false ∧ s.sns.nthr < tget 0 s.sns.up 0 + 1 ∧ s.snsAct 0 = 2 ∧
      s.snsOut 0 (res_ s 0 0) = (false, !false)) ∧
    (let s := fun (a : Nat) => due_ (run_ 15 none) [] [(R.SNS_ICFG_act 15, a), (R.SNS_LIM_hi 15, 5)] []
     (s 1).snsOut 15 (res_ (s 1) 15 6) = (true, !true) ∧ (s 0).snsAct 15 = 0 ∧ (s 1).snsAct 15 = 1 ∧ (s 2).snsAct 15 = 2 ∧
      tget 0 (s 1).sns.up 15 + 1 ≤ (sns_ (fun x => { x with nthr := 1 }) (s 1)).sns.nthr) := by decide +kernel

theorem test_hyp_SenseConverter_manual :
    (44 ≤ (44 : Word).toNat % 64 ∧ (43 : Word).toNat % 64 < 44 ∧ base.sns.man = none) ∧
    (let s := at_ 999 (sns_ (fun x => { x with man := some (2 ^ 6 + 43, 0), run := false }) base)
     s.sns.man = some (2 ^ 6 + 43, 0) ∧ s.sns.runs = [] ∧ max (s.sns.last + 1) 0 + s.snsSettle 43 + 2 + 7 ≤ s.snsClk ∧ s.sns.run = false ∧
      bits (2 ^ 6 + 43) 6 8 + 1 = 2 ∧ (at_ 9 s).snsClk < max (s.sns.last + 1) 0 + s.snsSettle 43 + 2 + 7) ∧
    (let s := sns_ (fun x => { x with man := some (43, 0) }) (seq_ (10 * 2 ^ 16) 0 99)
     s.sns.run = true ∧ s.snsDelayEnd (s.snsEntry s.sns.k).1 = some 11 ∧ 0 < 11) := by decide +kernel

/-- Readings of the 384 monitors: the first a pair that has aged by 20 %, the others without a value. -/
def mons : List MonReading := .pair 800000 1000000 :: List.replicate 383 (.replica none)

def age_ (f : AgeSt → AgeSt) (s : Dev) : Dev := { s with age := f s.age }

theorem test_hyp_AgeingAndPower :
    (base.age.busy = none ∧ (age_ (fun a => { a with busy := some 0 }) base).age.busy ≠ none ∧ base.age.lastSec = none) ∧
    (let s := at_ 0 (age_ (fun a => { a with lastSec := some 0 }) (flds [(R.SYS_BOOT_STAT_done, 1)] base))
     s.flag R.SYS_BOOT_STAT_done = true ∧ s.mtcSec < 0 + 86400 ∧ s.age.lastSec = some 0) ∧
    (let s := at_ 20615844 (age_ (fun a => { a with busy := some 0 }) base)
     s.age.busy = some 0 ∧ 0 + 20615844 ≤ s.time.clk ∧ mons.length = 384 ∧ mons[383]? = some (.replica none) ∧ (ageLimit 0 0 0 : Int) < 200000 ∧ s.age.clk.find? (·.1 == 0) = none ∧
      s.get (R.POD_PSTAT_clk 0) < clockFor 0 200000) ∧
    (let s := at_ 983040 (flds [(R.AGE_VOFS_ofs, 12), (R.SYS_BOOT_STAT_done, 1), (R.AGE_VSET_mv, 700)] (age_ (fun a => { a with start := 700 }) base))
     s.get R.AGE_VSET_mv - s.age.start < s.get R.AGE_VOFS_ofs ∧ s.flag R.SYS_BOOT_STAT_done = true ∧ s.age.stepAt + 983040 ≤ s.time.clk ∧
      s.coreRegulators.contains 7 = false ∧ (regs [(R.PWR_REG 7, 0xA0)] s).coreRegulators.contains 7 = true ∧ (at_ 983039 s).time.clk < s.age.stepAt + 983040) ∧
    ((regs [(R.PWR_REG 7, 0xA0)] base).regulators = [7] ∧ ([none, none, none, none, none, none, none, some 0x20] : List (Option (BitVec 16)))[7]? = some (some 0x20)) ∧
    ((∀ d, d < 32 → bit (0 : Word).toNat (d % 32) = base.domReq d) ∧ (∀ d, d < 48 → 32 ≤ d → bit (0 : Word).toNat (d % 32) = base.domReq d)) ∧
    ((bit (0x80000000 : Word).toNat (31 % 32) = true ∧ base.domReq 31 = !true ∧ base.autoGroup 31 = false ∧
      (∀ e, e < 32 → e ≠ 31 → bit (0x80000000 : Word).toNat (e % 32) = base.domReq e)) ∧
     (regs [(R.PWR_LAUTO, 0x80)] base).autoGroup 31 = true) ∧
    (let s := regs [(R.PWR_REQ_HI, 0x8000), (R.PWR_DOM_HI, 0x8000)] base
     bit (0 : Word).toNat (47 % 32) = false ∧ s.domReq 47 = !false ∧ s.domUsed 47 = false ∧ isGroup 47 = false ∧
      ({ s with plc := { s.plc with cells := [{ cell := 255 }] } } : Dev).domUsed 47 = true) ∧
    (let s := { regs [(R.PWR_DOM_LO, 0x800000), (R.PWR_REQ_LO, 0x800000)] base with pwr := { todo := [(23, false, 2)] } }
     base.domDue 23 = none ∧ s.domDue 23 = some (false, 2)) ∧
    ((regs [(R.PWR_LAUTO, 0x80), (R.PWR_DOM_LO, 0x80000000)] base).autoGroup 31 = true ∧
      (regs [(R.PWR_LAUTO, 0x80), (R.PWR_DOM_LO, 0x80000000)] base).domOn 31 = true) := by decide +kernel

/-- Its value where the baseline, which is a free value (log 254), is zero. -/
theorem test_hyp_AgeingAndPower_readings (hb : Config.ageBaseline 0 (base.otp 0x9E0 4) = 0) : groupD (base.monReadings mons) 0 = some (200000, 0) := by
  have h0 : base.monD 0 (.pair 800000 1000000) = some (200000000000, 1000000) := by simp only [Dev.monD, Nat.mul_zero, Nat.add_zero, hb]; rfl
  have hr : List.range mons.length = 0 :: List.range' 1 383 := by rw [mons, List.length_cons, List.length_replicate, List.range_eq_range']; rfl
  rw [Dev.monReadings, hr, mons, List.zip_cons_cons, List.map_cons]
  simp only [h0]
  rfl

theorem test_hyp_AgeingAndPower_group :
    let s := regs [(R.PWR_LAUTO, 0x80), (R.PWR_DOM_LO, 0x80000000)] base
    s.groupParked 31 = true ∧ (groupLanes 31).any (fun n => (s.link (s.linkOf n)).wake.isSome) = false ∧
      (flds [(R.LNK_LINE_CFG_en 511, 1)] s).groupParked 31 = false := by decide +kernel

/-! ### Well-formedness -/

/-- Each check refuses a command of a wrong length. -/
theorem test_ill_formed :
    WellFormed (.senseResult []) = false ∧ WellFormed (.senseResult (List.replicate 257 0)) = false ∧
      WellFormed (.manualConversionRun []) = false ∧ WellFormed (.manualConversionRun (List.replicate 257 0)) = false ∧
      WellFormed (.pwrAlert (List.replicate 7 none)) = false ∧ WellFormed (.ageMeasure (List.replicate 383 (.replica none))) = false ∧
      WellFormed (.applyPhase [] (List.replicate 383 (.replica none)) (List.replicate 16 0)) = false ∧
      WellFormed (.applyPhase [] (List.replicate 384 (.replica none)) (List.replicate 17 0)) = false := by decide +kernel

theorem test_ill_formed_long :
    WellFormed (.messageReceive (.console true) (List.replicate 1501 0)) = false ∧ WellFormed (.romPhase false [] otpCopy) = false ∧
      WellFormed (.romPhase false otpCopy []) = false :=
  ⟨by rw [WellFormed, List.length_replicate]; rfl, rfl, by rw [WellFormed]; exact Bool.and_false _⟩

/-- And takes one of the right length. -/
theorem test_well_formed :
    WellFormed (.senseResult (List.replicate 256 0)) = true ∧ WellFormed (.manualConversionRun [0]) = true ∧ WellFormed (.pwrAlert (List.replicate 8 none)) = true ∧
      WellFormed (.ageMeasure (List.replicate 384 (.replica none))) = true ∧ WellFormed (.applyPhase [] (List.replicate 384 (.replica none)) (List.replicate 16 0)) = true ∧
      WellFormed .sysPllUnlock = true := by decide +kernel

end Sys2Proof.Tests
end

section
/-!
Reads of the low and high halves of wide registers (R14, R48, R54): which addresses a read treats in its own way, where the wide registers stand among
them, and what a read answers and latches.
-/

namespace Sys2Proof.Machine

/-! ### Latches -/

theorem find?_tins_same {α : Type} (t : Tbl α) (k : Nat) (v : α) : (tins t k v).find? (fun e => e.1 == k) = some (k, v) := by
  induction t with
  | nil => simp [tins]
  | cons e r ih =>
    obtain ⟨j, w⟩ := e
    by_cases hlt : k < j
    · simp [tins, hlt]
    · by_cases heq : k = j
      · simp [tins, heq]
      · simp [tins, hlt, heq, Ne.symm heq, ih]

theorem find?_tins_ne {α : Type} (t : Tbl α) {k i : Nat} (v : α) (h : i ≠ k) :
    (tins t k v).find? (fun e => e.1 == i) = t.find? (fun e => e.1 == i) := by
  induction t with
  | nil => simp [tins, h.symm]
  | cons e r ih =>
    obtain ⟨j, w⟩ := e
    by_cases hlt : k < j
    · simp [tins, hlt, h.symm]
    · by_cases heq : k = j
      · subst heq; simp [tins, h.symm]
      · simp [tins, hlt, heq, List.find?_cons, ih]

theorem Dev.readLatched_latchAt_same (s : Dev) (a : Nat) {v : Nat} (hv : v < 2 ^ 32) : (s.latchAt a v).readLatched a = v := by
  simp only [Dev.readLatched, Dev.latchAt, find?_tins_same]
  exact Nat.mod_eq_of_lt hv

theorem Dev.readLatched_latchAt_ne (s : Dev) {a b : Nat} (v : Nat) (h : b ≠ a) : (s.latchAt a v).readLatched b = s.readLatched b := by
  simp only [Dev.readLatched, Dev.latchAt, find?_tins_ne _ _ h]
  rfl

@[simp] theorem Dev.readLatched_answer (s : Dev) (v b : Nat) : (s.answer v).readLatched b = s.readLatched b := rfl

@[simp] theorem Dev.readLatched_canon (s : Dev) (b : Nat) : s.canon.readLatched b = s.readLatched b := by
  simp only [Dev.readLatched, Dev.canon_latch, Dev.rd_canon]

/-- The word answered, where it is one. -/
theorem Dev.rdata_answer (s : Dev) {v : Nat} (hv : v < 2 ^ 32) : (s.answer v).rdata = v := Nat.mod_eq_of_lt hv

/-! ### What a read leaves alone -/

/-- A port is in use as long as the registers read the same. -/
theorem Dev.portDead_congr {s t : Dev} (h : ∀ a, t.rd a = s.rd a) (a : Nat) : t.portDead a = s.portDead a := by
  simp only [Dev.portDead, Dev.portUsed, Dev.get, h]

/-- A read of a latched word changes the answer only. -/
theorem only_answer_canon (s : Dev) (v : Nat) : Only (fun s t => { t with rdata := s.rdata }) s (s.answer v).canon :=
  ⟨SameMem.canon fun _ => rfl, SameFlash.canon fun _ => rfl, rfl⟩

/-- Words latched change the latches alone. -/
theorem Dev.latchWords_eq (s : Dev) (a : Nat) (l : List Nat) : ∃ m, s.latchWords a l = { s with latch := m } := by
  induction l generalizing s a with
  | nil => exact ⟨s.latch, rfl⟩
  | cons w r ih => exact ih (s.latchAt a w) (a + 4)

/-- A read that latches changes the answer and the latches only. -/
theorem only_latchWords_canon (s : Dev) (a v : Nat) (l : List Nat) :
    Only (fun s t => { t with rdata := s.rdata, latch := s.latch }) s ((s.latchWords a l).answer v).canon ∧
      SameRegs [] s ((s.latchWords a l).answer v).canon := by
  obtain ⟨m, hm⟩ := s.latchWords_eq a l
  rw [hm]
  exact ⟨⟨SameMem.canon fun _ => rfl, SameFlash.canon fun _ => rfl, rfl⟩, SameRegs.canon fun _ _ => rfl⟩

@[simp] theorem Dev.setCore_byte (s : Dev) (g : Nat) (e : Eng) (b : Nat) : (s.setCore g e).byte b = s.byte b := rfl
@[simp] theorem Dev.setCore_fbyte (s : Dev) (g : Nat) (e : Eng) (b : Nat) : (s.setCore g e).fbyte b = s.fbyte b := rfl

/-- A core's counts brought up to now change no memory and no flash. -/
theorem Dev.coreSync_sameMem (s : Dev) (g : Nat) : SameMem s (s.coreSync g) := by
  intro b
  unfold Dev.coreSync
  dsimp only
  simp only [apply_ite (fun t : Dev => t.byte b), Dev.inc64_byte, Dev.setCore_byte, ite_self]

theorem Dev.coreSync_sameFlash (s : Dev) (g : Nat) : SameFlash s (s.coreSync g) := by
  intro b
  unfold Dev.coreSync
  dsimp only
  simp only [apply_ite (fun t : Dev => t.fbyte b), Dev.inc64_fbyte, Dev.setCore_fbyte, ite_self]

/-! ### Zones of addresses -/

/-- A range of addresses, or those of it whose remainder by `m` lies in a range. -/
structure Zone where
  lo : Nat
  hi : Nat
  m : Nat
  o1 : Nat
  o2 : Nat

def Zone.has (z : Zone) (a : Nat) : Bool :=
  decide (z.lo ≤ a) && decide (a < z.hi) && decide (z.o1 ≤ a % z.m) && decide (a % z.m < z.o2)

theorem Zone.has_iff {z : Zone} {a : Nat} : z.has a = true ↔ z.lo ≤ a ∧ a < z.hi ∧ z.o1 ≤ a % z.m ∧ a % z.m < z.o2 := by
  simp only [Zone.has, Bool.and_eq_true, decide_eq_true_eq, and_assoc]

/-- Every address of a range. -/
def Zone.range (lo hi : Nat) : Zone := ⟨lo, hi, 1, 0, 1⟩

/-- A row of `wideRows` as a row of the register map. -/
def wideRow (r : Nat × Nat × Nat × Nat × Nat) : RegRow := ⟨r.1, r.2.1, r.2.2.1, r.2.2.2.1, r.2.2.2.2, 0, 0, 0, 0⟩

/-- The last address of a row. -/
def RegRow.last (r : RegRow) : Nat := r.base + (r.c1 - 1) * r.s1 + (r.c2 - 1) * r.s2

/-- All addresses of a row are equal modulo this. -/
def RegRow.pitch (r : RegRow) : Nat := if r.c2 = 1 then r.s1 else Nat.gcd r.s1 r.s2

/-- The addresses of a row, each `k` further, are outside the zone. -/
def Zone.clear (z : Zone) (k : Nat) (r : RegRow) : Bool :=
  decide (r.last + k < z.lo) || decide (z.hi ≤ r.base + k) ||
    (decide (z.m ∣ r.pitch) && (decide ((r.base + k) % z.m < z.o1) || decide (z.o2 ≤ (r.base + k) % z.m)))

/-- The zone that a row fills. -/
def RegRow.zone (r : RegRow) : Zone := ⟨r.base, r.last + 1, r.pitch, r.base % r.pitch, r.base % r.pitch + 1⟩

theorem RegRow.covers_bounds {r : RegRow} {a : Nat} (h : r.covers a = true) :
    r.base ≤ a ∧ a ≤ r.last ∧ ∃ n, a = r.base + r.pitch * n := by
  simp only [RegRow.covers, Bool.and_eq_true, decide_eq_true_eq, beq_iff_eq] at h
  obtain ⟨hb, ⟨hi, hj⟩, h0⟩ := h
  have hd := Nat.div_add_mod (a - r.base) r.s1
  have he := Nat.div_add_mod ((a - r.base) % r.s1) r.s2
  generalize (a - r.base) / r.s1 = i at *
  generalize (a - r.base) % r.s1 / r.s2 = j at *
  have hi' : r.s1 * i ≤ (r.c1 - 1) * r.s1 := by rw [Nat.mul_comm]; exact Nat.mul_le_mul_right _ (by omega)
  have hj' : r.s2 * j ≤ (r.c2 - 1) * r.s2 := by rw [Nat.mul_comm]; exact Nat.mul_le_mul_right _ (by omega)
  have ha : a = r.base + (r.s1 * i + r.s2 * j) := by omega
  refine ⟨hb, by unfold RegRow.last; omega, ?_⟩
  unfold RegRow.pitch
  split
  · next h1 =>
    have : j = 0 := by omega
    exact ⟨i, by rw [ha, this]; simp⟩
  · obtain ⟨n, hn⟩ := Nat.dvd_add (Nat.dvd_mul_right_of_dvd (Nat.gcd_dvd_left r.s1 r.s2) i) (Nat.dvd_mul_right_of_dvd (Nat.gcd_dvd_right r.s1 r.s2) j)
    exact ⟨n, by rw [ha, hn]⟩

/-- A row covers no address outside its zone. -/
theorem RegRow.zone_has {r : RegRow} {a : Nat} (h : r.covers a = true) : r.zone.has a = true := by
  obtain ⟨hb, hl, n, ha⟩ := RegRow.covers_bounds h
  have hm : a % r.pitch = r.base % r.pitch := by rw [ha, Nat.add_mul_mod_self_left]
  rw [Zone.has_iff]
  simp only [RegRow.zone]
  omega

/-- What `clear` says of a row holds of each address. -/
theorem Zone.not_has_of_clear {z : Zone} {k a : Nat} {r : RegRow} (hc : z.clear k r = true) (h : r.covers a = true) : z.has (a + k) = false := by
  obtain ⟨hb, hl, n, ha⟩ := RegRow.covers_bounds h
  simp only [Zone.clear, Bool.or_eq_true, Bool.and_eq_true, decide_eq_true_eq] at hc
  have key : ¬ (z.lo ≤ a + k ∧ a + k < z.hi ∧ z.o1 ≤ (a + k) % z.m ∧ (a + k) % z.m < z.o2) := by
    rcases hc with (hc | hc) | ⟨⟨q, hq⟩, hc⟩
    · omega
    · omega
    · have hm : (a + k) % z.m = (r.base + k) % z.m := by
        rw [ha, hq, Nat.mul_assoc, Nat.add_right_comm, Nat.add_mul_mod_self_left]
      omega
  rwa [← Bool.not_eq_true, Zone.has_iff]

/-! ### Where a read is not of the register's own word -/

/-- Zones that hold every register whose read has an effect or whose value is not the word stored: AIR_CTL to AIR_CNT_LO, the capture FIFOs, the TDOM
block, the queue and ring ports with the descriptor window, and single registers of the other blocks. -/
def specialZones : List Zone :=
  [ .range R.AIR_CTL (R.AIR_CNT_LO + 1)
  , ⟨R.AIR_TRG_CAP_LO 0, R.AIR_TRG_CAP_LO 16, 0x20, 0x10, 0x11⟩
  , .range 0x303000000 0x304000000
  , .range 0x304400000 0x305000000
  , .range 0x305003800 0x305003C00
  , .range R.STO_RCMD (R.STO_RCMD + 1)
  , .range 0x306100000 0x307000000
  , ⟨0x307000000, 0x307008000, 0x100, 0x40, 0x80⟩
  , ⟨0x308010000, 0x308120000, 0x10000, 0x100, 0x120⟩
  , .range 0x309001000 0x309001800
  , .range 0x30A001000 0x30A001800
  , ⟨R.TSK_ESTAT 0, R.TSK_ESTAT 192, 0x10, 0, 1⟩
  , .range 0x30C100000 0x30D000000
  , .range R.SYS_CLK_STAT (R.SYS_CLK_STAT + 1)
  , .range R.MGT_CINCH (R.MGT_WDOG + 1)
  , .range R.SNS_MAN (R.SNS_MAN + 1)
  , .range (R.SNS_ICFG 0) (R.SNS_ICFG 0 + 1)
  , .range 0x310000000 0x311000000 ]

/-- The address is in one of these zones. -/
def special (a : Nat) : Bool := specialZones.any (·.has a)

theorem ne_of_not_special {a x : Nat} (ha : special a = false) (hx : special x = true) : a ≠ x := by
  rintro rfl; simp [ha] at hx

theorem special_of_has {a : Nat} {z : Zone} (hz : z ∈ specialZones) (h : z.has a = true) : special a = true :=
  List.any_eq_true.mpr ⟨z, hz, h⟩

theorem not_zone_of_not_special {a : Nat} (ha : special a = false) {z : Zone} (hz : z ∈ specialZones) :
    ¬ (z.lo ≤ a ∧ a < z.hi ∧ z.o1 ≤ a % z.m ∧ a % z.m < z.o2) := fun h => by
  have := special_of_has hz (Zone.has_iff.mpr h)
  simp [ha] at this

theorem not_range_of_not_special {a lo hi : Nat} (ha : special a = false) (hz : Zone.range lo hi ∈ specialZones) : ¬ (lo ≤ a ∧ a < hi) := by
  have := not_zone_of_not_special ha hz
  simp only [Zone.range, Nat.mod_one] at this
  omega

/-- An address outside an array has no index in it. -/
theorem regIdx_eq_none {base stride n a : Nat} (h : ∀ i < n, a ≠ base + stride * i) : regIdx base stride n a = none := by
  unfold regIdx
  rw [if_neg]
  rintro ⟨hb, hl, hm⟩
  have hd := Nat.div_add_mod (a - base) stride
  refine h ((a - base) / stride) ?_ (by omega)
  rw [Nat.div_lt_iff_lt_mul (Nat.pos_of_ne_zero ?_), Nat.mul_comm]
  · omega
  · rintro rfl; omega

/-- An array that lies in the zones has no index for an address outside them. -/
theorem regIdx_of_not_special {base stride n a : Nat} (ha : special a = false) (h : ∀ i < n, special (base + stride * i) = true) :
    regIdx base stride n a = none := regIdx_eq_none fun i hi => ne_of_not_special ha (h i hi)

/-- A register outside the zones is no port and has no write-only field alone. -/
theorem readsZero_of_not_special {a : Nat} (ha : special a = false) : readsZero a = false := by
  have hlist : [R.STO_RCMD, R.SNS_MAN, R.MGT_WDOG, R.AGE_CTL].contains a = false := by
    simp [ne_of_not_special ha (x := R.STO_RCMD) (by decide), ne_of_not_special ha (x := R.SNS_MAN) (by decide),
      ne_of_not_special ha (x := R.MGT_WDOG) (by decide), ne_of_not_special ha (x := R.AGE_CTL) (by decide)]
  have hmov := not_zone_of_not_special ha (z := ⟨0x307000000, 0x307008000, 0x100, 0x40, 0x80⟩) (by simp [specialZones])
  have hfex := not_zone_of_not_special ha (z := ⟨0x308010000, 0x308120000, 0x10000, 0x100, 0x120⟩) (by simp [specialZones])
  have heth := not_range_of_not_special (lo := 0x305003800) (hi := 0x305003C00) ha (by simp [specialZones])
  have hsto := not_range_of_not_special (lo := 0x306100000) (hi := 0x307000000) ha (by simp [specialZones])
  have hsca := not_range_of_not_special (lo := 0x309001000) (hi := 0x309001800) ha (by simp [specialZones])
  have hcod := not_range_of_not_special (lo := 0x30A001000) (hi := 0x30A001800) ha (by simp [specialZones])
  have htsk := not_range_of_not_special (lo := 0x30C100000) (hi := 0x30D000000) ha (by simp [specialZones])
  dsimp only at hmov hfex
  have hplace : portPlace ((a - 0x30C100000) / 0x40) a = .none := by
    unfold portPlace
    dsimp only
    rw [if_neg, if_neg, if_neg]
    all_goals
      simp only [Bool.or_eq_true, Bool.and_eq_true, decide_eq_true_eq]
      omega
  simp only [readsZero, hplace, hlist, Bool.or_self]

/-- The value of a register outside the zones is the word stored. -/
theorem Dev.regValue_of_not_special (s : Dev) {a : Nat} (ha : special a = false) :
    s.regValue a = if s.portDead a then 0 else s.rd a := by
  have ne : ∀ {x : Nat}, special x = true → a ≠ x := ne_of_not_special ha
  have hcal : ¬ (R.CAL_SEL ≤ a ∧ a ≤ R.CAL_EFF) := fun h =>
    not_range_of_not_special (lo := 0x310000000) (hi := 0x311000000) ha (by simp [specialZones])
      ⟨Nat.le_trans (by decide) h.1, Nat.lt_of_le_of_lt h.2 (by decide)⟩
  have htd : ¬ (0x30C800000 ≤ a ∧ a < 0x30CA00000) := by
    have := not_range_of_not_special (lo := 0x30C100000) (hi := 0x30D000000) ha (by simp [specialZones])
    omega
  have hlnk : regIdx (R.LNK_REF_STAT 0) 0x1000 4 a = none := regIdx_of_not_special ha (by decide)
  have hstat : regIdx (R.TDOM_STAT 4) 0x40 4 a = none := regIdx_of_not_special ha (by decide)
  have htsk : regIdx (R.TSK_ESTAT 0) 0x10 192 a = none := regIdx_of_not_special ha fun i hi =>
    special_of_has (z := ⟨R.TSK_ESTAT 0, R.TSK_ESTAT 192, 0x10, 0, 1⟩) (by simp [specialZones]) (Zone.has_iff.mpr (by dsimp only [R.TSK_ESTAT]; omega))
  simp only [Dev.regValue, readsZero_of_not_special ha, hcal, htd, hlnk, hstat, htsk, Bool.false_or, if_false, Option.isSome_none, Bool.false_eq_true,
    or_self,
    ne (x := R.TDOM_FRC_LO) (by decide), ne (x := R.TDOM_FRC_MID) (by decide), ne (x := R.TDOM_FRC_HI) (by decide),
    ne (x := R.TDOM_CLK_SEC_LO 0) (by decide), ne (x := R.TDOM_CLK_SEC_LO 1) (by decide), ne (x := R.TDOM_CLK_SEC_HI 0) (by decide),
    ne (x := R.TDOM_CLK_SEC_HI 1) (by decide), ne (x := R.TDOM_CLK_NS 0) (by decide), ne (x := R.TDOM_CLK_NS 1) (by decide),
    ne (x := R.AIR_CTL) (by decide), ne (x := R.TDOM_RATE 3) (by decide), ne (x := R.SNS_ICFG 0) (by decide), ne (x := R.MGT_CINCH) (by decide),
    ne (x := R.MGT_ENV_T) (by decide), ne (x := R.AGE_NEXT) (by decide), ne (x := R.SYS_CLK_STAT) (by decide)]

/-! ### The wide registers -/

/-- A low half lies in a row. -/
theorem isWide_iff {a : Nat} : isWide a = true ↔ ∃ r ∈ wideRows, (wideRow r).covers a = true := List.any_eq_true

/-- What a check says of every row of low halves holds of each of them. -/
theorem not_has_of_isWide {z : Zone} {k a : Nat} (hc : wideRows.all (fun r => z.clear k (wideRow r)) = true) (h : isWide a = true) : z.has (a + k) = false := by
  obtain ⟨r, hr, hcov⟩ := isWide_iff.mp h
  exact Zone.not_has_of_clear (List.all_eq_true.mp hc r hr) hcov

/-- No low half and no high half is in the zones. -/
theorem special_of_isWide {a : Nat} (h : isWide a = true) : special a = false ∧ special (a + 4) = false := by
  have zones : ∀ k ∈ [0, 4], ∀ z ∈ specialZones, wideRows.all (fun r => z.clear k (wideRow r)) = true := by decide +kernel
  have clear : ∀ k ∈ [0, 4], special (a + k) = false := fun k hk =>
    List.any_eq_false.mpr fun z hz => by simp [not_has_of_isWide (zones k hk z hz) h]
  exact ⟨clear 0 (by simp), clear 4 (by simp)⟩

/-- No high half is a low half. -/
theorem isWide_high {a : Nat} (h : isWide a = true) : isWide (a + 4) = false := by
  have zones : ∀ q ∈ wideRows, wideRows.all (fun r => (wideRow q).zone.clear 4 (wideRow r)) = true := by decide +kernel
  rw [← Bool.not_eq_true, isWide_iff]
  rintro ⟨q, hq, hcov⟩
  have := RegRow.zone_has hcov
  simp [not_has_of_isWide (zones q hq) h] at this

/-- The halves of wide registers are words of the control blocks. -/
theorem isCtl_of_isWide {a : Nat} (h : isWide a = true) : isCtl a = true ∧ isCtl (a + 4) = true := by
  have bounds : ∀ r ∈ wideRows, 0x300000000 ≤ (wideRow r).base ∧ (wideRow r).last + 4 < 0x311000000 ∧ (wideRow r).base % 4 = 0 ∧ (wideRow r).pitch % 4 = 0 := by
    decide +kernel
  obtain ⟨r, hr, hcov⟩ := isWide_iff.mp h
  obtain ⟨hlo, hhi, hb, hp⟩ := bounds r hr
  obtain ⟨hba, hal, n, ha⟩ := RegRow.covers_bounds hcov
  have h4 : a % 4 = 0 := by rw [ha, Nat.add_mod, Nat.mul_mod, hb, hp]; simp
  simp only [isCtl, Bool.and_eq_true, decide_eq_true_eq, beq_iff_eq]
  omega

/-! ### Reads -/

/-- The device that a read of a register sees: a read of a core's busy count brings the core's counts up to now. -/
def Dev.readSync (a : Nat) (s : Dev) : Dev := (regIdx (R.POD_EBUSY 0) 0x40 192 a).elim s fun g => s.coreSync g

theorem Dev.readSync_cases (s : Dev) (a : Nat) : s.readSync a = s ∨ ∃ g, s.readSync a = s.coreSync g := by
  unfold Dev.readSync
  cases regIdx (R.POD_EBUSY 0) 0x40 192 a with
  | none => exact .inl rfl
  | some g => exact .inr ⟨g, rfl⟩

/-- The busy counts stand in the POD block. -/
theorem Dev.readSync_of_outside (s : Dev) {a : Nat} (h : a < 0x30B000000 ∨ 0x30D000000 ≤ a) : s.readSync a = s := by
  have : regIdx (R.POD_EBUSY 0) 0x40 192 a = none := regIdx_eq_none fun i hi => by dsimp only [R.POD_EBUSY]; omega
  simp only [Dev.readSync, this, Option.elim]

/-- The low words of the 96-bit values: the FRC, a PPS capture, FBC and MTC. -/
abbrev longLows : List Nat := [R.TDOM_FRC_LO, R.TDOM_PPS_LO, R.TDOM_CLK_SEC_LO 0, R.TDOM_CLK_SEC_LO 1]

/-- Reads that answer by a rule of their own: the air count, a capture FIFO, a domain's time, and the low words of 96-bit values. -/
def ownRead (a : Nat) : Bool :=
  a == R.AIR_CNT_LO || (regIdx (R.AIR_TRG_CAP_LO 0) 0x20 16 a).isSome || (regIdx (R.TDOM_RD_LO 0) 0x40 8 a).isSome ||
    longLows.contains a

theorem ownRead_of_not_special {a : Nat} (ha : special a = false) : ownRead a = false := by
  have ne : ∀ {x : Nat}, special x = true → a ≠ x := ne_of_not_special ha
  have hcap : regIdx (R.AIR_TRG_CAP_LO 0) 0x20 16 a = none := regIdx_of_not_special ha (by decide)
  have hrd : regIdx (R.TDOM_RD_LO 0) 0x40 8 a = none := regIdx_of_not_special ha (by decide)
  simp [ownRead, hcap, hrd, ne (x := R.AIR_CNT_LO) (by decide), ne (x := R.TDOM_FRC_LO) (by decide), ne (x := R.TDOM_PPS_LO) (by decide),
    ne (x := R.TDOM_CLK_SEC_LO 0) (by decide), ne (x := R.TDOM_CLK_SEC_LO 1) (by decide)]

theorem not_ownRead {a : Nat} (h : ownRead a = false) :
    a ≠ R.AIR_CNT_LO ∧ regIdx (R.AIR_TRG_CAP_LO 0) 0x20 16 a = none ∧ regIdx (R.TDOM_RD_LO 0) 0x40 8 a = none ∧
      ¬ (a = R.TDOM_FRC_LO ∨ a = R.TDOM_PPS_LO ∨ a = R.TDOM_CLK_SEC_LO 0 ∨ a = R.TDOM_CLK_SEC_LO 1) := by
  simpa only [ownRead, Bool.or_eq_false_iff, Option.isSome_eq_false_iff, Option.isNone_iff_eq_none, beq_eq_false_iff_ne, List.contains_eq_mem,
    decide_eq_false_iff_not, List.mem_cons, List.not_mem_nil, or_false, and_assoc] using h

/-- A pair read at its low half: the one half is answered and the other latched. -/
def Dev.readPair (a : Nat) (s : Dev) : Dev := (s.latchAt (a + 4) (s.regValue (a + 4))).answer (s.regValue a)

/-- A read of a low half is that of its pair (R14). -/
theorem Dev.regRead_of_isWide (s : Dev) {a : Nat} (h : isWide a = true) : s.regRead a = (s.readSync a).readPair a := by
  have hctl := (isCtl_of_isWide h).1
  obtain ⟨hcnt, hcap, hrd, hlong⟩ := not_ownRead (ownRead_of_not_special (special_of_isWide h).1)
  simp only [Dev.regRead, Dev.readSync, hctl, hcnt, hcap, hrd, hlong, h, Bool.not_true, Bool.false_eq_true, if_false, if_true]
  cases regIdx (R.POD_EBUSY 0) 0x40 192 a <;> rfl

/-- A high half is a word of the control blocks, no low half and no busy count, and answers by no rule of its own. -/
theorem isHigh_plain {a : Nat} (h : isHigh a = true) :
    isCtl a = true ∧ ownRead a = false ∧ isWide a = false ∧ regIdx (R.POD_EBUSY 0) 0x40 192 a = none := by
  simp only [isHigh, Bool.or_eq_true, List.any_eq_true, beq_iff_eq] at h
  rcases h with hw | ⟨l, hl, hal⟩
  · have hz : wideRows.all (fun r => (Zone.mk (R.POD_EBUSY 0) (R.POD_EBUSY 192) 0x40 0x10 0x11).clear 4 (wideRow r)) = true := by decide +kernel
    have hpos : a = a - 4 + 4 := by
      have : 4 ≤ a := by
        refine Nat.le_of_not_lt fun hlt => ?_
        rw [show a - 4 = 0 by omega] at hw
        exact absurd hw (by decide)
      omega
    rw [hpos]
    refine ⟨(isCtl_of_isWide hw).2, ownRead_of_not_special (special_of_isWide hw).2, isWide_high hw, regIdx_eq_none fun i hi e => ?_⟩
    have := not_has_of_isWide hz hw
    rw [e, ← Bool.not_eq_true, Zone.has_iff] at this
    dsimp only [R.POD_EBUSY] at this
    omega
  · have words : ∀ l ∈ longLows, ∀ b ∈ [l + 4, l + 8],
        isCtl b = true ∧ ownRead b = false ∧ isWide b = false ∧ regIdx (R.POD_EBUSY 0) 0x40 192 b = none := by decide +kernel
    exact words l hl a (by simpa using hal)

/-- A read of a high half answers the word latched for it (R14). -/
theorem Dev.regRead_of_isHigh (s : Dev) {a k : Nat} {w : Word} (h : isHigh a = true) (hf : s.latch.find? (fun e => e.1 == a) = some (k, w)) :
    s.regRead a = s.answer w.toNat := by
  obtain ⟨hctl, hown, hwide, hpod⟩ := isHigh_plain h
  obtain ⟨hcnt, hcap, hrd, hlong⟩ := not_ownRead hown
  simp only [Dev.regRead, hctl, hcnt, hcap, hrd, hlong, hwide, hpod, hf, Bool.not_true, Bool.false_eq_true, if_false]

/-- A read of the low word of a 96-bit value latches the two words above it (R54). -/
theorem Dev.regRead_long (s : Dev) {a : Nat} (h : a ∈ longLows) :
    s.regRead a = (s.latchWords (a + 4) [s.regValue (a + 4), s.regValue (a + 8)]).answer (s.regValue a) := by
  have plain : ∀ a ∈ longLows,
      isCtl a = true ∧ a ≠ R.AIR_CNT_LO ∧ regIdx (R.AIR_TRG_CAP_LO 0) 0x20 16 a = none ∧ regIdx (R.TDOM_RD_LO 0) 0x40 8 a = none ∧
        regIdx (R.POD_EBUSY 0) 0x40 192 a = none := by decide
  obtain ⟨hctl, hcnt, hcap, hrd, hpod⟩ := plain a h
  simp only [List.mem_cons, List.not_mem_nil, or_false] at h
  simp only [Dev.regRead, hctl, hcnt, hcap, hrd, hpod, h, Bool.not_true, Bool.false_eq_true, if_false, if_true]

/-- A read of a capture FIFO's low half pops it (R43). -/
theorem Dev.regRead_capture (s : Dev) (n : Fin 16) : s.regRead (R.AIR_TRG_CAP_LO n) = trgCapPop n s := by
  have plain : ∀ n : Fin 16, isCtl (R.AIR_TRG_CAP_LO n) = true ∧ R.AIR_TRG_CAP_LO n ≠ R.AIR_CNT_LO ∧
      regIdx (R.AIR_TRG_CAP_LO 0) 0x20 16 (R.AIR_TRG_CAP_LO n) = some (n : Nat) ∧ portIdx 16 (by decide) n = n := by decide
  obtain ⟨hctl, hcnt, hcap, hn⟩ := plain n
  simp only [Dev.regRead, hctl, hcnt, hcap, hn, Bool.not_true, Bool.false_eq_true, if_false]

/-! ### What each kind of read answers -/

/-- The halves of a pair, as they are stored, answered and latched. -/
theorem Dev.readPair_answers (s : Dev) {a : Nat} (h : isWide a = true) :
    (s.readPair a).canon.rdata = (if s.portDead a then 0 else s.rd a) ∧
      (s.readPair a).canon.readLatched (a + 4) = (if s.portDead (a + 4) then 0 else s.rd (a + 4)) := by
  have hv : ∀ b, (if s.portDead b then 0 else s.rd b) < 2 ^ 32 := fun b => by
    split
    · decide
    · exact s.rd_lt b
  obtain ⟨hlo, hhi⟩ := special_of_isWide h
  rw [Dev.readPair, Dev.canon_rdata, Dev.readLatched_canon, Dev.readLatched_answer, s.regValue_of_not_special hlo, s.regValue_of_not_special hhi]
  exact ⟨Dev.rdata_answer _ (hv a), Dev.readLatched_latchAt_same s _ (hv (a + 4))⟩

/-- Beside the answer and the latches it changes nothing. -/
theorem only_readPair_canon (s : Dev) (a : Nat) :
    Only (fun s t => { t with rdata := s.rdata, latch := s.latch }) s (s.readPair a).canon ∧ SameRegs [] s (s.readPair a).canon :=
  only_latchWords_canon s (a + 4) (s.regValue a) [s.regValue (a + 4)]

/-- A read of AIR_CNT_LO answers the count's low half and leaves its high half in AIR_CNT_HI (R48). -/
theorem airCntRead_answers (s : Dev) (h : s.time.cnt < 2 ^ 64) : (airCntRead s).rdata + (airCntRead s).rd R.AIR_CNT_HI * 2 ^ 32 = s.time.cnt := by
  have hhi : (airCntRead s).rd R.AIR_CNT_HI = s.time.cnt / 2 ^ 32 % 2 ^ 32 := by
    unfold airCntRead
    dsimp only
    rw [Dev.answer_rd, Dev.rd_wr_ne _ _ (by decide), Dev.rd_wr_ne _ _ (by decide), Dev.rd_wr_same]
  have hlo : (airCntRead s).rdata = s.time.cnt % 2 ^ 32 := rfl
  rw [hhi, hlo]
  omega

/-- A pop answers the oldest capture's low half, leaves its high half in the slot's register and takes it from the FIFO (R43). -/
theorem trgCapPop_answers (s : Dev) (n : Fin 16) {c : Nat} {r : List Nat} (hc : (s.trg n).caps = c :: r) (h : c < 2 ^ 64) :
    (trgCapPop n s).rdata + (trgCapPop n s).rd (R.AIR_TRG_CAP_HI n) * 2 ^ 32 = c ∧ ((trgCapPop n s).trg n).caps = r := by
  have hpop : trgCapPop n s = (((s.setTrg n { s.trg n with caps := r }).set (R.AIR_TRG_STAT_cap_cnt n) r.length).wr (R.AIR_TRG_CAP_HI n)
      (c / 2 ^ 32)).answer c := by
    simp only [trgCapPop, hc]
  rw [hpop]
  constructor
  · rw [Dev.answer_rd, Dev.rd_wr_same]
    show c % 2 ^ 32 + _ = c
    omega
  · show (tget {} (tput {} s.time.trg n { s.trg n with caps := r }) n).caps = r
    rw [tget_tput_same]

/-- Two words latched one after the other are both kept. -/
theorem Dev.readLatched_latchWords_two (s : Dev) (a : Nat) {v w : Nat} (hv : v < 2 ^ 32) (hw : w < 2 ^ 32) :
    (s.latchWords a [v, w]).readLatched a = v ∧ (s.latchWords a [v, w]).readLatched (a + 4) = w := by
  simp only [Dev.latchWords]
  exact ⟨by rw [Dev.readLatched_latchAt_ne _ _ (by omega), Dev.readLatched_latchAt_same _ _ hv], Dev.readLatched_latchAt_same _ _ hw⟩

/-! ### The command -/

/-- LOW_HALF_READ is the read of its address. -/
theorem does_lowHalfRead {s : Dev} {a : BitVec 40} {P : Dev → Prop} (h : P (s.regRead a.toNat).canon) : Does (.lowHalfRead a) s P :=
  does_act (f := Dev.regRead a.toNat) (fun _ => rfl) h

/-- The same for an address given as a number. -/
theorem does_lowHalfRead_ofNat {s : Dev} {a : Nat} {P : Dev → Prop} (ha : a < 2 ^ 40) (h : P (s.regRead a).canon) :
    Does (.lowHalfRead (BitVec.ofNat 40 a)) s P :=
  does_lowHalfRead (by rwa [BitVec.toNat_ofNat, Nat.mod_eq_of_lt ha])

/-- Every pair: both halves as they stand at the read. -/
theorem does_lowHalfRead_pair (s : Dev) (a : BitVec 40) (h : isWide a.toNat = true) :
    Does (.lowHalfRead a) s fun t => t.rdata = (if t.portDead a.toNat then 0 else t.rd a.toNat) ∧
      t.readLatched (a.toNat + 4) = (if t.portDead (a.toNat + 4) then 0 else t.rd (a.toNat + 4)) ∧ SameMem s t ∧ SameFlash s t := by
  refine does_lowHalfRead ?_
  have hmem : SameMem s (s.readSync a.toNat) ∧ SameFlash s (s.readSync a.toNat) := by
    rcases s.readSync_cases a.toNat with e | ⟨g, e⟩ <;> rw [e]
    · exact ⟨SameMem.refl s, SameFlash.refl s⟩
    · exact ⟨s.coreSync_sameMem g, s.coreSync_sameFlash g⟩
  rw [s.regRead_of_isWide h]
  generalize s.readSync a.toNat = u at *
  obtain ⟨hlo, hhi⟩ := u.readPair_answers h
  obtain ⟨⟨honlyMem, honlyFlash, -⟩, hregs⟩ := only_readPair_canon u a.toNat
  have hrd : ∀ b, (u.readPair a.toNat).canon.rd b = u.rd b := fun b => hregs b List.not_mem_nil
  simp only [Dev.portDead_congr hrd, hrd]
  exact ⟨hlo, hhi, hmem.1.trans honlyMem, hmem.2.trans honlyFlash⟩

/-- A pair outside the POD and TSK blocks: no register changes. -/
theorem does_lowHalfRead_outside (s : Dev) (a : BitVec 40) (h : isWide a.toNat = true) (ho : a.toNat < 0x30B000000 ∨ 0x30D000000 ≤ a.toNat) :
    Does (.lowHalfRead a) s fun t =>
      t.rdata = (if s.portDead a.toNat then 0 else s.rd a.toNat) ∧
      t.readLatched (a.toNat + 4) = (if s.portDead (a.toNat + 4) then 0 else s.rd (a.toNat + 4)) ∧ SameRegs [] s t ∧
      Only (fun s t => { t with rdata := s.rdata, latch := s.latch }) s t := by
  refine does_lowHalfRead ?_
  rw [s.regRead_of_isWide h, s.readSync_of_outside ho]
  obtain ⟨hlo, hhi⟩ := s.readPair_answers h
  obtain ⟨honly, hregs⟩ := only_readPair_canon s a.toNat
  exact ⟨hlo, hhi, hregs, honly⟩

/-- A high half whose low half has been read. -/
theorem does_lowHalfRead_high (s : Dev) (a : BitVec 40) (w : Word) (h : isHigh a.toNat = true)
    (hf : s.latch.find? (fun e => e.1 == a.toNat) = some (a.toNat, w)) :
    Does (.lowHalfRead a) s fun t => t.rdata = w.toNat ∧ SameRegs [] s t ∧ Only (fun s t => { t with rdata := s.rdata }) s t := by
  refine does_lowHalfRead ?_
  rw [s.regRead_of_isHigh h hf]
  exact ⟨Dev.rdata_answer s w.isLt, SameRegs.canon fun _ _ => rfl, only_answer_canon s _⟩

/-- A 96-bit value read at its low word. -/
theorem does_lowHalfRead_long (s : Dev) (a : Nat) (ha : a ∈ longLows)
    (h0 : s.regValue a < 2 ^ 32) (h4 : s.regValue (a + 4) < 2 ^ 32) (h8 : s.regValue (a + 8) < 2 ^ 32) :
    Does (.lowHalfRead (BitVec.ofNat 40 a)) s fun t => t.rdata = s.regValue a ∧ t.readLatched (a + 4) = s.regValue (a + 4) ∧
      t.readLatched (a + 8) = s.regValue (a + 8) ∧ SameRegs [] s t ∧ Only (fun s t => { t with rdata := s.rdata, latch := s.latch }) s t := by
  have small : ∀ a ∈ longLows, a < 2 ^ 40 := by decide
  refine does_lowHalfRead_ofNat (small a ha) ?_
  rw [s.regRead_long ha]
  obtain ⟨hmid, hhi⟩ := s.readLatched_latchWords_two (a + 4) h4 h8
  obtain ⟨honly, hregs⟩ := only_latchWords_canon s (a + 4) (s.regValue a) [s.regValue (a + 4), s.regValue (a + 8)]
  rw [Dev.readLatched_canon, Dev.readLatched_answer, Dev.readLatched_canon, Dev.readLatched_answer, Dev.canon_rdata]
  exact ⟨Dev.rdata_answer _ h0, hmid, hhi, hregs, honly⟩

/-- Settles O6: the rows of low halves, shifted by a word or not, lie outside the zones of registers with a read of their own, so a read of one answers
and latches the words stored; the air count, the captures and the 96-bit values each by their own rule (R14, R48, R54; which pairs latch is log 13). -/
theorem lowHalfLatches : Obligations.LowHalfLatches := by
  refine ⟨does_lowHalfRead_pair, does_lowHalfRead_outside, does_lowHalfRead_high, ?_, ?_, does_lowHalfRead_long⟩
  · intro s h
    refine does_lowHalfRead_ofNat (by decide) ?_
    rw [Dev.canon_rdata, Dev.rd_canon]
    exact airCntRead_answers s h
  · intro s n c r hc h
    refine does_lowHalfRead_ofNat (by dsimp only [R.AIR_TRG_CAP_LO]; omega) ?_
    rw [s.regRead_capture n, Dev.canon_rdata, Dev.rd_canon]
    exact trgCapPop_answers s n hc h

end Sys2Proof.Machine
end

section
/-!
The frame that every core instruction runs in (R290, R291, R302): what its issue changes before its own effect.
-/

namespace Sys2Proof.Machine

/-! ### Reads of registers that a change leaves alone -/

theorem SameRegs.get {l : List Nat} {s t : Dev} (h : SameRegs l s t) {f : Field} (hf : f.addr ∉ l) : t.get f = s.get f := by
  simp only [Dev.get, h _ hf]

theorem SameRegs.flag {l : List Nat} {s t : Dev} (h : SameRegs l s t) {f : Field} (hf : f.addr ∉ l) : t.flag f = s.flag f := by
  simp only [Dev.flag, h.get hf]

theorem SameRegs.rd64 {l : List Nat} {s t : Dev} (h : SameRegs l s t) {a : Nat} (ha : a ∉ l) (hh : hiOf a ∉ l) : t.rd64 a = s.rd64 a := by
  simp only [Dev.rd64, h _ ha, h _ hh]

theorem SameRegs.inc64 (s : Dev) (a n : Nat) : SameRegs [a, hiOf a] s (s.inc64 a n) := by
  intro b hb
  simp only [List.mem_cons, List.not_mem_nil, or_false, not_or] at hb
  rw [Dev.inc64, Dev.rd_wr64, if_neg hb.2, if_neg hb.1]

/-- An advance of a 64-bit counter writes registers only. -/
theorem Dev.inc64_parts (s : Dev) (a n : Nat) : { s.inc64 a n with regs := s.regs } = s := by
  unfold Dev.inc64 Dev.wr64 Dev.wr
  rfl

theorem hiOf_cycle (g : Nat) : hiOf (R.CSR_CYCLE_LO g) = R.CSR_CYCLE_HI g := by
  unfold hiOf R.CSR_CYCLE_LO R.CSR_CYCLE_HI; split <;> omega

theorem hiOf_instret (g : Nat) : hiOf (R.CSR_INSTRET_LO g) = R.CSR_INSTRET_HI g := by
  unfold hiOf R.CSR_INSTRET_LO R.CSR_INSTRET_HI; split <;> omega

theorem hiOf_busy {g : Nat} (h : g < 192) : hiOf (R.POD_EBUSY g) = R.POD_EBUSY_HI g := by
  unfold hiOf R.POD_EBUSY R.POD_EBUSY_HI; split <;> omega

/-- A field beside the one written, in the same register. -/
theorem Dev.get_set_beside (s : Dev) {a l w lo n : Nat} (v : Nat) (h : l + w ≤ 32) (d : lo + n ≤ l ∨ l + w ≤ lo) :
    (s.set ⟨a, l, w⟩ v).get ⟨a, lo, n⟩ = s.get ⟨a, lo, n⟩ := s.get_set_disjoint v rfl h d

theorem estat_cases (g : Nat) : (g < 192 ∧ estat g = 0x30B000008 + g * 0x40) ∨ (192 ≤ g ∧ estat g = 0x100000C0F00) := by
  unfold estat R.POD_ESTAT; split <;> omega

/-! ### Cores -/

@[simp] theorem Dev.core_setCore_same (s : Dev) (g : Nat) (e : Eng) : (s.setCore g e).core g = e := tget_tput_same ..
@[simp] theorem Dev.setPc_rd (s : Dev) (g a k : Nat) : (s.setPc g a).rd k = s.rd k := rfl
@[simp] theorem Dev.setPc_get (s : Dev) (g a : Nat) (f : Field) : (s.setPc g a).get f = s.get f := rfl
@[simp] theorem Dev.setPc_flash (s : Dev) (g a : Nat) : (s.setPc g a).flash = s.flash := rfl
@[simp] theorem Dev.pc_setPc (s : Dev) (g a : Nat) : (s.setPc g a).pc g = a := by simp [Dev.pc, Dev.setPc]
@[simp] theorem Dev.x_setPc (s : Dev) (g a r : Nat) : (s.setPc g a).x g r = s.x g r := by simp [Dev.x, Dev.setPc]
@[simp] theorem Dev.pc_canon (s : Dev) (g : Nat) : s.canon.pc g = s.pc g := rfl
@[simp] theorem Dev.x_canon (s : Dev) (g r : Nat) : s.canon.x g r = s.x g r := rfl
@[simp] theorem Dev.lvl_canon (s : Dev) (g : Nat) : s.canon.lvl g = s.lvl g := Dev.get_canon ..
@[simp] theorem Dev.coreState_canon (s : Dev) (g : Nat) : s.canon.coreState g = s.coreState g := Dev.get_canon ..

theorem Dev.core_of_eng {s t : Dev} (h : t.eng = s.eng) (g : Nat) : t.core g = s.core g := by simp only [Dev.core, h]
theorem Dev.pc_of_eng {s t : Dev} (h : t.eng = s.eng) (g : Nat) : t.pc g = s.pc g := by simp only [Dev.pc, Dev.core_of_eng h]
theorem Dev.x_of_eng {s t : Dev} (h : t.eng = s.eng) (g r : Nat) : t.x g r = s.x g r := by simp only [Dev.x, Dev.core_of_eng h]

theorem Dev.sameFlash_of_flash {s t : Dev} (h : t.flash = s.flash) : SameFlash s t := fun b => by simp only [Dev.fbyte, h]

/-- Beside the registers, only the cores and the events raised may differ. -/
abbrev CoresOnly (s t : Dev) : Prop := { t with regs := s.regs, eng := s.eng, raised := s.raised } = s

theorem CoresOnly.refl (s : Dev) : CoresOnly s s := rfl

theorem CoresOnly.trans {s t u : Dev} (h : CoresOnly s t) (k : CoresOnly t u) : CoresOnly s u :=
  Eq.trans (congrArg (fun d : Dev => { d with regs := s.regs, eng := s.eng, raised := s.raised }) k) h

theorem CoresOnly.set {s t : Dev} (h : CoresOnly s t) (f : Field) (v : Nat) : CoresOnly s (t.set f v) := h.trans (t := t) rfl
theorem CoresOnly.setPc {s t : Dev} (h : CoresOnly s t) (g a : Nat) : CoresOnly s (t.setPc g a) := h.trans (t := t) rfl

theorem CoresOnly.inc64 {s t : Dev} (h : CoresOnly s t) (a n : Nat) : CoresOnly s (t.inc64 a n) :=
  h.trans (congrArg (fun d : Dev => { d with eng := t.eng, raised := t.raised }) (t.inc64_parts a n))

theorem CoresOnly.only_canon {s t : Dev} (h : CoresOnly s t) : Only engParts s t.canon :=
  ⟨SameMem.canon fun b => (congrArg (Dev.byte · b) h :), SameFlash.canon fun b => (congrArg (Dev.fbyte · b) h :),
    congrArg (fun d : Dev => { d with mem := s.mem, flash := s.flash }) h⟩

theorem CoresOnly.sameFlash {s t : Dev} (h : CoresOnly s t) : SameFlash s t := fun b => (congrArg (Dev.fbyte · b) h :)

/-! ### The frame of an instruction -/

/-- The registers in which the issue of an instruction counts, before the instruction's own effect. -/
def issuedRegs (g : Nat) : List Nat :=
  [R.CSR_CYCLE_LO g, R.CSR_CYCLE_HI g, R.POD_EBUSY g, R.POD_EBUSY_HI g, R.POD_EPERR g, R.POD_ECNT_OVF g, R.POD_ESTAT g]

/-- From `s` to `u` core `g` has only counted: cycles, and re-reads of its memory. -/
structure Issued (g : Nat) (s u : Dev) : Prop where
  regs : SameRegs (issuedRegs g) s u
  parts : CoresOnly s u
  pc : u.pc g = s.pc g
  x : ∀ r, u.x g r = s.x g r

theorem Issued.refl (g : Nat) (s : Dev) : Issued g s s := ⟨SameRegs.refl _ s, CoresOnly.refl s, rfl, fun _ => rfl⟩

theorem Issued.trans {g : Nat} {s t u : Dev} (h : Issued g s t) (k : Issued g t u) : Issued g s u :=
  ⟨h.regs.trans k.regs, h.parts.trans k.parts, k.pc.trans h.pc, fun r => (k.x r).trans (h.x r)⟩

/-- A CSR that does not count cycles is as it was. -/
theorem csr_notMem_issuedRegs {g a : Nat} (c : Nat) (ha : a = 0x10000000000 + c + g * 0x1000) (h : c ≠ 0x22 ∧ c ≠ 0x23) : a ∉ issuedRegs g := by
  simp only [issuedRegs, R.CSR_CYCLE_LO, R.CSR_CYCLE_HI, R.POD_EBUSY, R.POD_EBUSY_HI, R.POD_EPERR, R.POD_ECNT_OVF, R.POD_ESTAT,
    List.mem_cons, List.not_mem_nil, or_false]
  omega

/-- What bringing a running core's counts up to now does: its cycles, and the busy cycles of an engine, count on. -/
theorem Dev.coreSync_cases (s : Dev) (g : Nat) (h : s.coreState g = 1) :
    ∃ e c, e.pc = (s.core g).pc ∧ e.s = (s.core g).s ∧ e.cops = (s.core g).cops ∧
      (s.coreSync g = (s.setCore g e).inc64 (R.CSR_CYCLE_LO g) c ∨
        g < 192 ∧ s.coreSync g = ((s.setCore g e).inc64 (R.CSR_CYCLE_LO g) c).inc64 (R.POD_EBUSY g) c) := by
  unfold Dev.coreSync
  dsimp only
  rw [h]
  simp only [if_neg (show ¬ (1 : Nat) = 0 by decide), if_neg (show ¬ (1 : Nat) = 6 by decide)]
  split
  · next hb => refine ⟨_, _, ?_, ?_, ?_, .inr ⟨of_decide_eq_true (Bool.and_eq_true_iff.1 hb).2, rfl⟩⟩ <;> rfl
  · refine ⟨_, _, ?_, ?_, ?_, .inl rfl⟩ <;> rfl

theorem issued_setCore {s : Dev} {g : Nat} {e : Eng} (hp : e.pc = (s.core g).pc) (hs : e.s = (s.core g).s) : Issued g s (s.setCore g e) :=
  ⟨fun _ _ => rfl, rfl, by simpa [Dev.pc] using hp, fun r => by simp [Dev.x, hs]⟩

theorem issued_inc64 (s : Dev) (g : Nat) {a : Nat} (n : Nat) (ha : a ∈ issuedRegs g) (hh : hiOf a ∈ issuedRegs g) : Issued g s (s.inc64 a n) :=
  ⟨(SameRegs.inc64 s a n).mono (by simp [ha, hh]), (CoresOnly.refl s).inc64 a n, Dev.pc_of_eng (s.inc64_eng a n) g, Dev.x_of_eng (s.inc64_eng a n) g⟩

theorem issued_coreSync (s : Dev) (g : Nat) (h : s.coreState g = 1) : Issued g s (s.coreSync g) := by
  obtain ⟨e, c, hp, hs, -, he⟩ := s.coreSync_cases g h
  have hsync : Issued g s ((s.setCore g e).inc64 (R.CSR_CYCLE_LO g) c) :=
    (issued_setCore hp hs).trans (issued_inc64 _ g c (by simp [issuedRegs]) (by simp [hiOf_cycle, issuedRegs]))
  rcases he with he | ⟨hg, he⟩ <;> rw [he]
  · exact hsync
  · exact hsync.trans (issued_inc64 _ g c (by simp [issuedRegs]) (by simp [hiOf_busy hg, issuedRegs]))

theorem Dev.cops_coreSync (s : Dev) (g : Nat) (h : s.coreState g = 1) : (s.coreSync g).cops g = s.cops g := by
  obtain ⟨e, c, -, -, hc, he⟩ := s.coreSync_cases g h
  have heng : (s.coreSync g).eng = (s.setCore g e).eng := by rcases he with he | ⟨-, he⟩ <;> simp only [he, Dev.inc64_eng]
  simp only [Dev.cops, Dev.core_of_eng heng, Dev.core_setCore_same, hc]

theorem Dev.lim_coreSync (s : Dev) (g : Nat) (h : s.coreState g = 1) : (s.coreSync g).eng.lim = s.eng.lim := by
  obtain ⟨e, c, -, -, -, he⟩ := s.coreSync_cases g h
  have heng : (s.coreSync g).eng = (s.setCore g e).eng := by rcases he with he | ⟨-, he⟩ <;> simp only [he, Dev.inc64_eng]
  rw [heng]
  rfl

/-- An S32 counter of the POD block writes itself, its overflow bit and its flag, and may raise an event. -/
theorem SameRegs.podCount (s : Dev) (a : Nat) (ovf flag : Field) (g : Nat) : SameRegs [a, ovf.addr, flag.addr] s (s.podCount a ovf flag g) := by
  have h := (SameRegs.incSat s a ovf Ev.POD_CNT_SAT [(8, (g : Int))] 1).mono (m := [a, ovf.addr, flag.addr]) (by simp)
  unfold Dev.podCount
  dsimp only
  split
  · exact h.trans ((SameRegs.setB _ flag true).mono (by simp))
  · exact h

theorem Dev.podCount_parts (s : Dev) (a : Nat) (ovf flag : Field) (g : Nat) :
    { s.podCount a ovf flag g with regs := s.regs, raised := s.raised } = s := by
  have h := s.incSat_parts a ovf Ev.POD_CNT_SAT [(8, (g : Int))] 1
  unfold Dev.podCount
  dsimp only
  split <;> exact h

theorem issued_raiseOf (s : Dev) (g c w v : Nat) (l : List (Nat × Int)) : Issued g s (s.raiseOf c w v l) :=
  ⟨fun _ _ => rfl, rfl, rfl, fun _ => rfl⟩

theorem issued_podReplays (s : Dev) (g k n : Nat) : Issued g s (s.podReplays g k n) := by
  induction n generalizing s with
  | zero => exact Issued.refl g s
  | succ n ih =>
    have hp := s.podCount_parts (R.POD_EPERR g) ⟨R.POD_ECNT_OVF g, 1, 1⟩ (R.POD_ESTAT_cnt_ovf g) g
    have he := congrArg Dev.eng hp
    have hc : Issued g s (s.podCount (R.POD_EPERR g) ⟨R.POD_ECNT_OVF g, 1, 1⟩ (R.POD_ESTAT_cnt_ovf g) g) :=
      ⟨(SameRegs.podCount s _ _ _ g).mono (by simp [issuedRegs]), congrArg (fun d : Dev => { d with eng := s.eng }) hp, Dev.pc_of_eng he g,
        Dev.x_of_eng he g⟩
    exact (hc.trans (issued_raiseOf _ g Ev.POD_PERR_REPLAY 8 g [(1, (k : Int))])).trans (ih _)

/-- The protection unit asks the level and its own regions, which no count touches. -/
theorem Dev.mpuOk_congr {s t : Dev} {g : Nat} (h : SameRegs (issuedRegs g) s t) (a n : Nat) (kinds : List Nat) :
    t.mpuOk g a n kinds = s.mpuOk g a n kinds := by
  have hl : t.lvl g = s.lvl g := h.get (f := R.CSR_STATUS_lvl g) (csr_notMem_issuedRegs 1 rfl (by decide))
  have hb : ∀ i lo w, t.get ⟨R.CSR_MPU_BASE g i, lo, w⟩ = s.get ⟨R.CSR_MPU_BASE g i, lo, w⟩ := fun i _ _ =>
    h.get (csr_notMem_issuedRegs (0x40 + i * 2) (by dsimp only [R.CSR_MPU_BASE]; omega) (by omega))
  have hc : ∀ i lo w, t.get ⟨R.CSR_MPU_CFG g i, lo, w⟩ = s.get ⟨R.CSR_MPU_CFG g i, lo, w⟩ := fun i _ _ =>
    h.get (csr_notMem_issuedRegs (0x41 + i * 2) (by dsimp only [R.CSR_MPU_CFG]; omega) (by omega))
  simp only [Dev.mpuOk, Dev.mpuRegion, Dev.flag, hl, hb, hc]

theorem Dev.place_congr {s t : Dev} {g : Nat} (h : SameRegs (issuedRegs g) s t) (hlim : t.eng.lim = s.eng.lim) (a : Nat) : t.place g a = s.place g a := by
  have hgrain : t.get R.STO_SYSLIM_grain = s.get R.STO_SYSLIM_grain := h.get (by
    simp only [issuedRegs, R.STO_SYSLIM, R.CSR_CYCLE_LO, R.CSR_CYCLE_HI, R.POD_EBUSY, R.POD_EBUSY_HI, R.POD_EPERR, R.POD_ECNT_OVF, R.POD_ESTAT,
      List.mem_cons, List.not_mem_nil, or_false]
    omega)
  have htable : t.coreTable g = s.coreTable g := by unfold Dev.coreTable Dev.tableStart; rw [hgrain, hlim]
  unfold Dev.place
  rw [htable]

/-- A fetch is let through by the map, the level and the protection unit alone. -/
theorem Dev.fetchOk_congr {s t : Dev} {g : Nat} (h : SameRegs (issuedRegs g) s t) (hlim : t.eng.lim = s.eng.lim) (a : Nat) :
    t.fetchOk g a = s.fetchOk g a := by
  have hl : t.lvl g = s.lvl g := h.get (f := R.CSR_STATUS_lvl g) (csr_notMem_issuedRegs 1 rfl (by decide))
  unfold Dev.fetchOk
  rw [Dev.place_congr h hlim, Dev.mpuOk_congr h, hl]

/-- With no CPI unretired there is nothing to confirm. -/
theorem Dev.copConfirm_of_none (s : Dev) (g : Nat) (h : ∀ c ∈ s.cops g, c.confirmed = true ∨ c.squashed = true) : s.copConfirm g = s := by
  have hf : (s.cops g).find? (fun c => !c.confirmed && !c.squashed) = none :=
    List.find?_eq_none.2 fun c hc => by rcases h c hc with h | h <;> simp [h]
  unfold Dev.copConfirm
  rw [hf]

/-- The device in which an instruction that runs takes effect. -/
def Dev.issued (i : Issue) (s : Dev) : Dev :=
  if 192 ≤ (i.core : Nat) then s.coreSync i.core else (s.coreSync i.core).podReplays i.core 0 (min (i.fails : Nat) 2)

theorem Dev.runs.issued {s : Dev} {i : Issue} (h : s.runs i) : Issued i.core s (s.issued i) := by
  have hs := issued_coreSync s i.core h.1
  unfold Dev.issued
  split
  · exact hs
  · exact hs.trans (issued_podReplays _ _ _ _)

/-- An instruction that runs takes effect after the counts. -/
theorem Dev.runs.issue {s : Dev} {i : Issue} (h : s.runs i) (f : Dev → Dev) : s.issue i f = f (s.issued i) := by
  obtain ⟨hst, hw, hcops, hf, hfails⟩ := h
  have hsync := issued_coreSync s i.core hst
  have hconf : (s.coreSync i.core).copConfirm i.core = s.coreSync i.core :=
    Dev.copConfirm_of_none _ _ (by rwa [s.cops_coreSync i.core hst])
  have hfetch : (s.coreSync i.core).fetchOk i.core (s.pc i.core) = true := by
    rw [Dev.fetchOk_congr hsync.regs (s.lim_coreSync i.core hst), hf]
  simp only [Dev.issue, Dev.issued, hst, hw, ne_eq, not_true_eq_false, or_self, if_false, hconf, hsync.pc, hfetch, Bool.not_true,
    Bool.false_eq_true, hfails, if_true]
  split <;> rfl

/-- A SYS instruction that runs: ILLEGAL off its levels or with an unused field not zero, else its own effect (R291). -/
theorem Dev.runs.sysOp {s : Dev} {i : Issue} (h : s.runs i) (sub : Nat) (levels : List Nat) (useRd useRs1 useImm : Bool) (rd rs1 : Fin 32)
    (imm : BitVec 12) (f : Dev → Dev) :
    sysOp sub levels useRd useRs1 useImm i rd rs1 imm f s =
      if !levels.contains (s.lvl i.core) || (!useRd && (rd : Nat) != 0) || (!useRs1 && (rs1 : Nat) != 0) || (!useImm && imm != 0) then
        (s.issued i).illegal i.core (wordSys sub rd rs1 imm)
      else f (s.issued i) := by
  have hl : (s.issued i).lvl i.core = s.lvl i.core :=
    h.issued.regs.get (f := R.CSR_STATUS_lvl i.core) (csr_notMem_issuedRegs 1 rfl (by decide))
  rw [Machine.sysOp, h.issue]
  dsimp only
  rw [hl]

end Sys2Proof.Machine
end

section
/-!
A core that stops is lost to the scheduler (R352): what that changes lies outside the cores, the flash and the POD block.
-/

namespace Sys2Proof.Machine

/-- The cores, the flash and the registers of the POD block are as they were. -/
structure PodQuiet (s t : Dev) : Prop where
  eng : t.eng = s.eng
  flash : t.flash = s.flash
  regs : ∀ a, 0x30B000000 ≤ a → a < 0x30C000000 → t.rd a = s.rd a

section
variable {s t : Dev}

theorem PodQuiet.refl (s : Dev) : PodQuiet s s := ⟨rfl, rfl, fun _ _ _ => rfl⟩

theorem PodQuiet.trans {u : Dev} (h : PodQuiet s t) (k : PodQuiet t u) : PodQuiet s u :=
  ⟨k.eng.trans h.eng, k.flash.trans h.flash, fun a h1 h2 => (k.regs a h1 h2).trans (h.regs a h1 h2)⟩

/-- Another part of the device replaced. -/
theorem PodQuiet.of_eq {u : Dev} (h : PodQuiet s t) (he : u.eng = t.eng) (hf : u.flash = t.flash) (hr : u.regs = t.regs) : PodQuiet s u :=
  h.trans ⟨he, hf, fun a _ _ => by rw [Dev.rd, Dev.rd, hr]⟩

theorem PodQuiet.tsk (h : PodQuiet s t) (x : TskSt) : PodQuiet s { t with tsk := x } := h.of_eq rfl rfl rfl

theorem PodQuiet.mgt (h : PodQuiet s t) (x : MgtSt) : PodQuiet s { t with mgt := x } := h.of_eq rfl rfl rfl

theorem PodQuiet.set (h : PodQuiet s t) {f : Field} (hf : f.addr < 0x30B000000 ∨ 0x30C000000 ≤ f.addr) (v : Nat) : PodQuiet s (t.set f v) :=
  h.trans ⟨rfl, rfl, fun _ _ _ => Dev.rd_set_ne _ _ (by omega)⟩

theorem PodQuiet.setB (h : PodQuiet s t) {f : Field} (hf : f.addr < 0x30B000000 ∨ 0x30C000000 ≤ f.addr) (v : Bool) : PodQuiet s (t.setB f v) :=
  h.set hf _

theorem PodQuiet.inc64 (h : PodQuiet s t) {a : Nat} (ha : 0x30C000000 ≤ a) (n : Nat) : PodQuiet s (t.inc64 a n) := by
  refine h.trans ⟨t.inc64_eng a n, t.inc64_flash a n, fun b _ _ => SameRegs.inc64 t a n b ?_⟩
  simp only [List.mem_cons, List.not_mem_nil, or_false, hiOf]
  split <;> omega

theorem PodQuiet.setBytes (h : PodQuiet s t) (a : Nat) (l : List Nat) : PodQuiet s (t.setBytes a l) := by
  induction l generalizing t a with
  | nil => exact h
  | cons b r ih => exact ih (h.of_eq (u := t.setByte a b) rfl rfl rfl) (a + 1)

theorem PodQuiet.setTd (h : PodQuiet s t) (d k lo w v : Nat) : PodQuiet s (t.setTd d k lo w v) := h.setBytes _ _

theorem PodQuiet.setTdState (h : PodQuiet s t) (d v : Nat) : PodQuiet s (t.setTdState d v) := h.setTd _ _ _ _ _

theorem PodQuiet.post (h : PodQuiet s t) (cls desc payload : Nat) : PodQuiet s (t.post cls desc payload) := by
  unfold Dev.post
  split
  · exact h
  · exact h.of_eq rfl rfl rfl

theorem PodQuiet.raiseOf (h : PodQuiet s t) (c w v : Nat) (l : List (Nat × Int)) : PodQuiet s (t.raiseOf c w v l) := h.of_eq rfl rfl rfl

theorem PodQuiet.tskCount (h : PodQuiet s t) {a : Nat} (ha : 0x30C000000 ≤ a) : PodQuiet s (t.tskCount a) := by
  have hinc : PodQuiet s (t.incSat a ⟨R.TSK_CNT_OVF, (a - R.TSK_LATE) / 4, 1⟩ Ev.TSK_CNT_SAT [] 1) := by
    have hp := t.incSat_parts a ⟨R.TSK_CNT_OVF, (a - R.TSK_LATE) / 4, 1⟩ Ev.TSK_CNT_SAT [] 1
    refine h.trans ⟨(congrArg Dev.eng hp :), (congrArg Dev.flash hp :), fun b _ _ => SameRegs.incSat t a _ _ _ 1 b ?_⟩
    simp only [List.mem_cons, List.not_mem_nil, or_false, R.TSK_CNT_OVF]
    omega
  unfold Dev.tskCount
  dsimp only
  split
  · exact hinc.setB (.inr (by decide)) true
  · exact hinc

theorem PodQuiet.enterReady (h : PodQuiet s t) (a : Activation) : PodQuiet s (t.enterReady a) := by
  have hheld : 0x30C000000 ≤ R.TSK_CLS_HELD a.cls := by dsimp only [R.TSK_CLS_HELD]; omega
  have hrdy : 0x30C000000 ≤ R.TSK_RDY a.pri := by dsimp only [R.TSK_RDY]; omega
  unfold Dev.enterReady Dev.showReady
  dsimp only
  exact .set (.set (.set (.set (.set (h.tsk _) (.inr (by decide)) _) (.inr hheld) _) (.inr hheld) _) (.inr hrdy) _) (.inr hrdy) _

theorem PodQuiet.form (h : PodQuiet s t) (d : Nat) : PodQuiet s (t.form d) := by
  unfold Dev.form
  dsimp only
  split
  · exact h
  · split
    · exact h.tsk _
    · refine .enterReady (.inc64 (.tsk ?_ _) (by decide) 1) _
      have htaken : PodQuiet s ((t.setTd d 7 0 16 (t.tdEvc d - t.tdNeed d)).setCounted d ((t.counted d).drop (t.tdNeed d)))  :=
        .tsk (h.setTd d 7 0 16 _) _
      split
      · exact ((htaken.setTd ..).setTdState ..).setTd ..
      · exact (htaken.setTd ..).setTdState ..

theorem PodQuiet.complete (h : PodQuiet s t) (d st : Nat) : PodQuiet s (t.complete d st) := by
  unfold Dev.complete
  exact .form (.post (.setTdState (h.inc64 (by decide) 1) _ _) _ _ _) _

theorem PodQuiet.setSlot_none (h : PodQuiet s t) (g : Nat) : PodQuiet s (t.setSlot g none) := by
  unfold Dev.setSlot
  dsimp only
  refine .setB (.setB (h.tsk _) (.inr ?_) _) (.inr ?_) _
  · dsimp only [R.TSK_ESTAT]; omega
  · dsimp only [R.CSR_TK_STAT]; omega

theorem PodQuiet.setLoaded_none (h : PodQuiet s t) (g : Nat) : PodQuiet s (t.setLoaded g none) := by
  unfold Dev.setLoaded
  refine .setB (h.tsk _) (.inr ?_) _
  dsimp only [R.TSK_ESTAT]; omega

theorem PodQuiet.rollFault (h : PodQuiet s t) (p : Nat) : PodQuiet s (t.rollFault p) := by
  unfold Dev.rollFault
  split
  · dsimp only
    split
    · exact .raiseOf (.setB (.setB (.setB (h.mgt _) (.inr (by decide)) _) (.inr (by decide)) _) (.inl (by decide)) _) _ _ _ _
    · exact h
  · exact h

theorem PodQuiet.engineLost (h : PodQuiet s t) (g : Nat) : PodQuiet s (t.engineLost g) := by
  have hslot : PodQuiet s (match t.slot g with | some a => ((t.setSlot g none).setTdState a.desc 2).enterReady a | none => t) := by
    split
    · exact ((h.setSlot_none g).setTdState _ _).enterReady _
    · exact h
  unfold Dev.engineLost
  dsimp only
  split
  · exact .rollFault (.complete (.raiseOf (.setB (.tskCount (hslot.setLoaded_none g) (by decide)) (.inr (by decide)) true) _ _ _ _) _ _) _
  · exact hslot

theorem PodQuiet.podFault (h : PodQuiet s t) (g : Nat) : PodQuiet s (t.podFault g) := by
  unfold Dev.podFault
  split
  · exact (h.rollFault _).of_eq rfl rfl rfl
  · exact h

end

end Sys2Proof.Machine
end

section
/-!
Exceptions (R294, R295), and the return from them by ERET (R296).
-/

namespace Sys2Proof.Machine

/-! ### Taking an exception (R295) -/

/-- The device with an exception's code and operands shown, before the core enters its handler. -/
def Dev.noteExc (g : Nat) (x : Exc) (s : Dev) : Dev :=
  let s1 := s.set ⟨estat g, 5, 6⟩ x.code
  (if g < 192 ∧ excCounted x.code then s1.podCount (R.POD_EEXC g) ⟨R.POD_ECNT_OVF g, 0, 1⟩ (R.POD_ESTAT_cnt_ovf g) g else s1).excRegs g x

theorem Dev.trap_eq (s : Dev) (g : Nat) (x : Exc) :
    s.trap g x =
      if s.lvl g = 2 ∧ s.flag (R.CSR_STATUS_mtrap g) then
        (((s.noteExc g x).setB ⟨estat g, 11, 1⟩ true).raiseOf Ev.POD_DFAULT 8 g [(6, x.code), (16, s.pc g)]).stopCore g 4 |>.podFault g
      else (s.noteExc g x).enterTrap g (s.lvl g ≠ 0) x.code := rfl

/-- The registers that show an exception. -/
def excShown (g : Nat) : List Nat :=
  [estat g, R.POD_EEXC g, R.POD_ECNT_OVF g, R.POD_ESTAT g, R.CSR_EXC_ADDR g, R.CSR_EXC_ADDRH g, R.CSR_EXC_ELEM g, R.CSR_EXC_INSN g]

/-- The operands of an exception stand in registers of their own. -/
theorem SameRegs.excRegs (s : Dev) (g : Nat) (x : Exc) :
    SameRegs [R.CSR_EXC_ADDR g, R.CSR_EXC_ADDRH g, R.CSR_EXC_ELEM g, R.CSR_EXC_INSN g] s (s.excRegs g x) := by
  obtain ⟨_, addr, elem, insn⟩ := x
  intro a ha
  simp only [List.mem_cons, List.not_mem_nil, or_false, not_or] at ha
  obtain ⟨h1, h2, h3, h4⟩ := ha
  cases addr <;> cases elem <;> cases insn <;> simp [Dev.excRegs, Dev.rd_set, h1, h2, h3, h4]

theorem Dev.excRegs_eng_flash (s : Dev) (g : Nat) (x : Exc) : (s.excRegs g x).eng = s.eng ∧ (s.excRegs g x).flash = s.flash := by
  obtain ⟨_, addr, elem, insn⟩ := x
  cases addr <;> cases elem <;> cases insn <;> exact ⟨rfl, rfl⟩

theorem SameRegs.noteExc (s : Dev) (g : Nat) (x : Exc) : SameRegs (excShown g) s (s.noteExc g x) := by
  unfold Dev.noteExc
  dsimp only
  refine SameRegs.trans ?_ ((SameRegs.excRegs _ g x).mono (by simp [excShown]))
  have hcode : SameRegs (excShown g) s (s.set ⟨estat g, 5, 6⟩ x.code) := (SameRegs.set s _ _).mono (by simp [excShown])
  split
  · exact hcode.trans ((SameRegs.podCount _ _ _ _ g).mono (by simp [excShown]))
  · exact hcode

theorem Dev.noteExc_eng_flash (s : Dev) (g : Nat) (x : Exc) : (s.noteExc g x).eng = s.eng ∧ (s.noteExc g x).flash = s.flash := by
  unfold Dev.noteExc
  dsimp only
  rw [(Dev.excRegs_eng_flash _ g x).1, (Dev.excRegs_eng_flash _ g x).2]
  split
  · have hp := Dev.podCount_parts (s.set ⟨estat g, 5, 6⟩ x.code) (R.POD_EEXC g) ⟨R.POD_ECNT_OVF g, 0, 1⟩ (R.POD_ESTAT_cnt_ovf g) g
    exact ⟨(congrArg Dev.eng hp :), (congrArg Dev.flash hp :)⟩
  · exact ⟨rfl, rfl⟩

/-- A CSR that shows no exception is as it was. -/
theorem csr_notMem_excShown {g a : Nat} (c : Nat) (ha : a = 0x10000000000 + c + g * 0x1000) (h : c < 0x10 ∨ 0x13 < c ∧ c < 0xF00) :
    a ∉ excShown g := by
  have he := estat_cases g
  simp only [excShown, R.POD_EEXC, R.POD_ECNT_OVF, R.POD_ESTAT, R.CSR_EXC_ADDR, R.CSR_EXC_ADDRH, R.CSR_EXC_ELEM, R.CSR_EXC_INSN, List.mem_cons,
    List.not_mem_nil, or_false]
  omega

/-- The status word shows the code; the flag of a counter at its greatest value stands beside it. -/
theorem Dev.code_noteExc (s : Dev) (g : Nat) (x : Exc) (h : x.code < 64) : (s.noteExc g x).get ⟨estat g, 5, 6⟩ = x.code := by
  have he := estat_cases g
  have hcode : (s.set ⟨estat g, 5, 6⟩ x.code).get ⟨estat g, 5, 6⟩ = x.code := (s.get_set_same _ _ (show 5 + 6 ≤ 32 by decide)).trans (Nat.mod_eq_of_lt h)
  unfold Dev.noteExc
  dsimp only
  rw [(SameRegs.excRegs _ g x).get (by
    simp only [R.CSR_EXC_ADDR, R.CSR_EXC_ADDRH, R.CSR_EXC_ELEM, R.CSR_EXC_INSN, List.mem_cons, List.not_mem_nil, or_false]; omega)]
  split
  · next hg =>
    have hpod : estat g = R.POD_ESTAT g := if_pos hg.1
    have hinc : ∀ d : Dev, (d.incSat (R.POD_EEXC g) ⟨R.POD_ECNT_OVF g, 0, 1⟩ Ev.POD_CNT_SAT [(8, (g : Int))] 1).get ⟨estat g, 5, 6⟩ = d.get ⟨estat g, 5, 6⟩ :=
      fun d => (SameRegs.incSat d _ _ _ _ 1).get (by rw [hpod]; simp [R.POD_ESTAT, R.POD_EEXC, R.POD_ECNT_OVF])
    unfold Dev.podCount
    dsimp only
    split
    · rw [Dev.setB, hpod, Dev.get_set_beside _ _ (by decide) (by decide), ← hpod, hinc, hcode]
    · rw [hinc, hcode]
  · exact hcode

/-- An exception or interrupt taken to S (R295). -/
theorem Dev.enterTrap_enteredS (s : Dev) (g c : Nat) (hc : c < 2 ^ 32) : EnteredS g c s (s.enterTrap g false c) := by
  have he := estat_cases g
  have hl : s.get (R.CSR_STATUS_lvl g) % 2 ^ 2 = s.get (R.CSR_STATUS_lvl g) := Nat.mod_eq_of_lt (bits_lt _ 0 2)
  have hi : s.get (R.CSR_STATUS_sie g) % 2 ^ 1 = s.get (R.CSR_STATUS_sie g) := Nat.mod_eq_of_lt (bits_lt _ 6 1)
  simp only [EnteredS, Dev.enterTrap, Dev.setLvl, Dev.lvl, Dev.flag, Bool.false_eq_true, if_false]
  simp (disch := (try dsimp only [R.CSR_STATUS, R.CSR_CAUSE_S, R.CSR_EPC_S, R.CSR_TVEC_S]); omega) only [Dev.setPc_get, Dev.setPc_rd, Dev.pc_setPc,
    Dev.get_set_ne, Dev.get_set_same, Dev.get_set_beside, Dev.rd_set_ne, Dev.rd_wr_same]
  rw [hl, hi, Nat.mod_eq_of_lt hc]
  simp

/-- An exception or interrupt taken to M (R295). -/
theorem Dev.enterTrap_enteredM (s : Dev) (g c : Nat) (hc : c < 2 ^ 32) : EnteredM g c s (s.enterTrap g true c) := by
  have he := estat_cases g
  have hl : s.get (R.CSR_STATUS_lvl g) % 2 ^ 2 = s.get (R.CSR_STATUS_lvl g) := Nat.mod_eq_of_lt (bits_lt _ 0 2)
  have hi : s.get (R.CSR_STATUS_mie g) % 2 ^ 1 = s.get (R.CSR_STATUS_mie g) := Nat.mod_eq_of_lt (bits_lt _ 8 1)
  simp only [EnteredM, Dev.enterTrap, Dev.setLvl, Dev.lvl, Dev.flag, if_true]
  simp (disch := (try dsimp only [R.CSR_STATUS, R.CSR_CAUSE_M, R.CSR_EPC_M, R.CSR_TVEC_M]); omega) only [Dev.setPc_get, Dev.setPc_rd, Dev.pc_setPc,
    Dev.get_set_ne, Dev.get_set_same, Dev.get_set_beside, Dev.rd_set_ne, Dev.rd_wr_same]
  rw [hl, hi, Nat.mod_eq_of_lt hc]
  simp

/-- Trap entry keeps the code shown, the scalar registers and the flash. -/
theorem Dev.enterTrap_keeps (s : Dev) (g c : Nat) (toM : Bool) :
    (s.enterTrap g toM c).get ⟨estat g, 5, 6⟩ = s.get ⟨estat g, 5, 6⟩ ∧ (∀ r, (s.enterTrap g toM c).x g r = s.x g r) ∧
      (s.enterTrap g toM c).flash = s.flash := by
  have he := estat_cases g
  unfold Dev.enterTrap Dev.setLvl
  cases toM
  · rw [if_neg Bool.false_ne_true]
    refine ⟨?_, fun r => (Dev.x_setPc _ g _ r).trans (Dev.x_of_eng (by simp only [Dev.set_eng, Dev.wr_eng]) g r),
      by simp only [Dev.setPc_flash, Dev.set_flash, Dev.wr_flash]⟩
    simp (disch := (try dsimp only [R.CSR_STATUS, R.CSR_CAUSE_S, R.CSR_EPC_S]); omega) only [Dev.setPc_get, Dev.get_set_ne,
      Dev.get_set_beside, Dev.get_wr_ne]
  · rw [if_pos rfl]
    refine ⟨?_, fun r => (Dev.x_setPc _ g _ r).trans (Dev.x_of_eng (by simp only [Dev.set_eng, Dev.wr_eng]) g r),
      by simp only [Dev.setPc_flash, Dev.set_flash, Dev.wr_flash]⟩
    simp (disch := (try dsimp only [R.CSR_STATUS, R.CSR_CAUSE_M, R.CSR_EPC_M]); omega) only [Dev.setPc_get, Dev.get_set_ne,
      Dev.get_set_beside, Dev.get_wr_ne]

theorem PodQuiet.get {s t : Dev} (h : PodQuiet s t) {f : Field} (h1 : 0x30B000000 ≤ f.addr) (h2 : f.addr < 0x30C000000) : t.get f = s.get f := by
  simp only [Dev.get, h.regs _ h1 h2]

/-- The pc shown and the core lost: its status word is as it was. -/
theorem Dev.get_estat_engineLost (s : Dev) {g : Nat} (hg : g < 192) (v lo w : Nat) :
    ((s.set (R.POD_EPC_pc g) v).engineLost g).get ⟨estat g, lo, w⟩ = s.get ⟨estat g, lo, w⟩ := by
  have hpod : estat g = 0x30B000008 + g * 0x40 := if_pos hg
  rw [((PodQuiet.refl _).engineLost g).get (by dsimp only; omega) (by dsimp only; omega), Dev.get_set_ne]
  dsimp only [R.POD_EPC]
  omega

theorem Dev.get_estat_podFault (s : Dev) (g lo w : Nat) : (s.podFault g).get ⟨estat g, lo, w⟩ = s.get ⟨estat g, lo, w⟩ := by
  rcases estat_cases g with ⟨hg, he⟩ | ⟨hg, -⟩
  · exact ((PodQuiet.refl s).podFault g).get (by dsimp only; omega) (by dsimp only; omega)
  · rw [Dev.podFault, if_neg (by omega)]

/-- A core stopped in a state shows it, and keeps the code shown and its scalar registers (R352). -/
theorem Dev.stopCore_keeps (s : Dev) (g st : Nat) (h : st < 8) :
    (s.stopCore g st).coreState g = st ∧ (s.stopCore g st).get ⟨estat g, 5, 6⟩ = s.get ⟨estat g, 5, 6⟩ ∧
      (∀ r, (s.stopCore g st).x g r = s.x g r) ∧ (s.stopCore g st).flash = s.flash := by
  obtain ⟨d, hd, hst, hcode, hx, hf⟩ : ∃ d, (s.setCore g { s.core g with wait := .none, haltReq := false }).setCoreState g st = d ∧
      d.get ⟨estat g, 0, 3⟩ = st ∧ d.get ⟨estat g, 5, 6⟩ = s.get ⟨estat g, 5, 6⟩ ∧ (∀ r, d.x g r = s.x g r) ∧ d.flash = s.flash :=
    ⟨_, rfl, (Dev.get_set_same _ _ _ (show 0 + 3 ≤ 32 by decide)).trans (Nat.mod_eq_of_lt h), Dev.get_set_beside _ _ (by decide) (by decide),
      fun r => (Dev.x_of_eng (Dev.set_eng ..) g r).trans (by simp [Dev.x]), rfl⟩
  unfold Dev.stopCore
  rw [hd]
  dsimp only
  split
  · next hg =>
    have hq := (PodQuiet.refl (d.set (R.POD_EPC_pc g) (s.pc g))).engineLost g
    exact ⟨(d.get_estat_engineLost hg _ 0 3).trans hst, (d.get_estat_engineLost hg _ 5 6).trans hcode,
      fun r => (Dev.x_of_eng hq.eng g r).trans (hx r), hq.flash.trans hf⟩
  · exact ⟨hst, hcode, hx, hf⟩

/-- Reads that agree carry an entry over. -/
theorem EnteredS.of_regs {g c : Nat} {l : List Nat} {s t u : Dev} (h : SameRegs l s t) (hs : R.CSR_STATUS g ∉ l) (hv : R.CSR_TVEC_S g ∉ l)
    (hp : t.pc g = s.pc g) (k : EnteredS g c t u) : EnteredS g c s u := by
  obtain ⟨hc, he, hl, hie, hie', hlvl, hpc⟩ := k
  exact ⟨hc, by rw [he, hp], hl.trans (h.get hs), hie.trans (h.flag hs), hie', hlvl, hpc.trans (h.get hv)⟩

theorem EnteredM.of_regs {g c : Nat} {l : List Nat} {s t u : Dev} (h : SameRegs l s t) (hs : R.CSR_STATUS g ∉ l) (hv : R.CSR_TVEC_M g ∉ l)
    (hp : t.pc g = s.pc g) (k : EnteredM g c t u) : EnteredM g c s u := by
  obtain ⟨hc, he, hl, hie, hie', hm, hlvl, hpc⟩ := k
  exact ⟨hc, by rw [he, hp], hl.trans (h.get hs), hie.trans (h.flag hs), hie', hm, hlvl, hpc.trans (h.get hv)⟩

/-- An exception: a double fault at M in a trap, an entry to S from T, an entry to M from elsewhere. -/
theorem Dev.trapped_trap (s : Dev) (g : Nat) (x : Exc) (hx : x.code < 64) : Trapped g x.code s (s.trap g x) := by
  have hn := SameRegs.noteExc s g x
  obtain ⟨heng, hflash⟩ := s.noteExc_eng_flash g x
  have hcode := s.code_noteExc g x hx
  have hst : R.CSR_STATUS g ∉ excShown g := csr_notMem_excShown 1 rfl (by decide)
  rw [Dev.trap_eq]
  split
  · next hd =>
    obtain ⟨hstate, hcode', hx', hf⟩ := Dev.stopCore_keeps
      (((s.noteExc g x).setB ⟨estat g, 11, 1⟩ true).raiseOf Ev.POD_DFAULT 8 g [(6, x.code), (16, s.pc g)]) g 4 (by decide)
    rw [Dev.raiseOf_flash, Dev.setB_flash, hflash] at hf
    have hq := (PodQuiet.refl (Dev.stopCore g 4
      (((s.noteExc g x).setB ⟨estat g, 11, 1⟩ true).raiseOf Ev.POD_DFAULT 8 g [(6, x.code), (16, s.pc g)]))).podFault g
    refine ⟨fun h0 => absurd (hd.1.symm.trans h0) (by decide), fun _ h => absurd hd h, fun _ _ => (Dev.get_estat_podFault _ g 0 3).trans hstate, ?_,
      fun r => ?_, Dev.sameFlash_of_flash (hq.flash.trans hf)⟩
    · rw [Dev.get_estat_podFault, hcode', Dev.raiseOf_get, Dev.setB, Dev.get_set_beside _ _ (by decide) (by decide), hcode]
    · rw [Dev.x_of_eng hq.eng, hx']
      exact Dev.x_of_eng (by rw [Dev.raiseOf_eng, Dev.setB_eng, heng]) g r
  · next hd =>
    obtain ⟨hcode', hx', hf⟩ := (s.noteExc g x).enterTrap_keeps g x.code (s.lvl g ≠ 0)
    refine ⟨fun h0 => ?_, fun h0 _ => ?_, fun h2 hm => absurd ⟨h2, hm⟩ hd, hcode'.trans hcode,
      fun r => (hx' r).trans (Dev.x_of_eng heng g r), Dev.sameFlash_of_flash (hf.trans hflash)⟩
    · rw [decide_eq_false (fun h => h h0)]
      exact ((s.noteExc g x).enterTrap_enteredS g x.code (by omega)).of_regs hn hst (csr_notMem_excShown 4 rfl (by decide)) (Dev.pc_of_eng heng g)
    · rw [decide_eq_true h0]
      exact ((s.noteExc g x).enterTrap_enteredM g x.code (by omega)).of_regs hn hst (csr_notMem_excShown 0xA rfl (by decide)) (Dev.pc_of_eng heng g)

/-! ### ERET (R296) -/

/-- A return writes the two words that show the level. -/
theorem SameRegs.trapReturn (s : Dev) (g : Nat) : SameRegs [R.CSR_STATUS g, estat g] s (s.trapReturn g) := by
  intro a ha
  simp only [List.mem_cons, List.not_mem_nil, or_false, not_or] at ha
  unfold Dev.trapReturn Dev.setLvl
  split <;> simp [Dev.rd_set, ha.1, ha.2]

theorem Dev.trapReturn_parts (s : Dev) (g : Nat) : CoresOnly s (s.trapReturn g) := by
  unfold Dev.trapReturn Dev.setLvl
  split
  · exact .setPc (.set (.set (.set (.set (.refl s) _ _) _ _) _ _) _ _) _ _
  · exact .setPc (.set (.set (.set (.refl s) _ _) _ _) _ _) _ _

theorem Dev.x_trapReturn (s : Dev) (g r : Nat) : (s.trapReturn g).x g r = s.x g r := by
  unfold Dev.trapReturn Dev.setLvl
  split <;> exact (Dev.x_setPc ..).trans (Dev.x_of_eng (by simp only [Dev.set_eng]) g r)

/-- A return from S takes the stacked level and enable, and the saved pc; mtrap stands. -/
theorem Dev.trapReturn_fromS (s : Dev) (g : Nat) (h : s.lvl g ≠ 2) :
    (s.trapReturn g).lvl g = s.get (R.CSR_STATUS_spl g) ∧ (s.trapReturn g).flag (R.CSR_STATUS_sie g) = s.flag (R.CSR_STATUS_spie g) ∧
      (s.trapReturn g).flag (R.CSR_STATUS_mtrap g) = s.flag (R.CSR_STATUS_mtrap g) ∧ (s.trapReturn g).pc g = s.get (R.CSR_EPC_S_pc g) := by
  have he := estat_cases g
  have hl : s.get (R.CSR_STATUS_spl g) % 2 ^ 2 = s.get (R.CSR_STATUS_spl g) := Nat.mod_eq_of_lt (bits_lt _ 2 2)
  have hi : s.get (R.CSR_STATUS_spie g) % 2 ^ 1 = s.get (R.CSR_STATUS_spie g) := Nat.mod_eq_of_lt (bits_lt _ 7 1)
  rw [Dev.trapReturn, if_neg h]
  simp only [Dev.setLvl, Dev.lvl, Dev.flag]
  simp (disch := (try dsimp only [R.CSR_STATUS]); omega) only [Dev.setPc_get, Dev.pc_setPc, Dev.get_set_ne, Dev.get_set_same, Dev.get_set_beside]
  rw [hl, hi]
  simp

/-- A return from M takes the stacked level and enable, and the saved pc, and clears mtrap. -/
theorem Dev.trapReturn_fromM (s : Dev) (g : Nat) (h : s.lvl g = 2) :
    (s.trapReturn g).lvl g = s.get (R.CSR_STATUS_mpl g) ∧ (s.trapReturn g).flag (R.CSR_STATUS_mie g) = s.flag (R.CSR_STATUS_mpie g) ∧
      (s.trapReturn g).flag (R.CSR_STATUS_mtrap g) = false ∧ (s.trapReturn g).pc g = s.get (R.CSR_EPC_M_pc g) := by
  have he := estat_cases g
  have hl : s.get (R.CSR_STATUS_mpl g) % 2 ^ 2 = s.get (R.CSR_STATUS_mpl g) := Nat.mod_eq_of_lt (bits_lt _ 4 2)
  have hi : s.get (R.CSR_STATUS_mpie g) % 2 ^ 1 = s.get (R.CSR_STATUS_mpie g) := Nat.mod_eq_of_lt (bits_lt _ 9 1)
  rw [Dev.trapReturn, if_pos h]
  simp only [Dev.setLvl, Dev.lvl, Dev.flag]
  simp (disch := (try dsimp only [R.CSR_STATUS]); omega) only [Dev.setPc_get, Dev.pc_setPc, Dev.get_set_ne, Dev.get_set_same, Dev.get_set_beside]
  rw [hl, hi]
  simp

/-- The device after an ERET that returns. -/
def Dev.returned (i : Issue) (s : Dev) : Dev := ((s.issued i).trapReturn i.core).inc64 (R.CSR_INSTRET_LO i.core) 1

theorem does_eret_returns {s : Dev} {i : Issue} {P : Dev → Prop} (h : s.runs i) (hl : s.lvl i.core = 1 ∨ s.lvl i.core = 2)
    (hP : P (s.returned i).canon) : Does (.eret i 0 0 0) s P := by
  refine does_act (fun _ => rfl) ?_
  rw [h.sysOp, if_neg]
  · exact hP
  · rcases hl with hl | hl <;> simp [hl]

theorem does_eret_illegal {s : Dev} {i : Issue} {rd rs1 : Fin 32} {imm : BitVec 12} {P : Dev → Prop} (h : s.runs i)
    (hbad : s.lvl i.core = 0 ∨ rd ≠ 0 ∨ rs1 ≠ 0 ∨ imm ≠ 0) (hP : P ((s.issued i).illegal i.core (wordSys 5 rd rs1 imm)).canon) :
    Does (.eret i rd rs1 imm) s P := by
  refine does_act (fun _ => rfl) ?_
  rw [h.sysOp, if_pos]
  · exact hP
  · rcases hbad with hl | hrd | hrs | himm
    · simp [hl]
    · simp [hrd]
    · simp [hrs]
    · simp [show ¬imm = 0#12 from himm]

/-- INSTRET stands apart from STATUS. -/
theorem Dev.get_status_inc64 (s : Dev) (g n lo w : Nat) : (s.inc64 (R.CSR_INSTRET_LO g) n).get ⟨R.CSR_STATUS g, lo, w⟩ = s.get ⟨R.CSR_STATUS g, lo, w⟩ :=
  (SameRegs.inc64 s _ n).get (by
    rw [hiOf_instret]
    simp only [R.CSR_STATUS, R.CSR_INSTRET_LO, R.CSR_INSTRET_HI, List.mem_cons, List.not_mem_nil, or_false]
    omega)

/-- A return counts in INSTRET, and changes no scalar register, no memory and no other register than STATUS, the status word and the counters. -/
theorem Dev.runs.returned {s : Dev} {i : Issue} (h : s.runs i) :
    (s.returned i).rd64 (R.CSR_INSTRET_LO i.core) = (s.rd64 (R.CSR_INSTRET_LO i.core) + 1) % 2 ^ 64 ∧ (∀ r, (s.returned i).x i.core r = s.x i.core r) ∧
      SameRegs (R.CSR_STATUS i.core :: estat i.core :: issueRegs i.core) s (s.returned i) ∧ CoresOnly s (s.returned i) := by
  have hu := h.issued
  have hr := SameRegs.trapReturn (s.issued i) i.core
  have he := estat_cases i.core
  refine ⟨?_, fun r => ?_, ?_, (hu.parts.trans (Dev.trapReturn_parts _ _)).inc64 _ 1⟩
  · rw [Dev.returned, Dev.rd64_inc64, hr.rd64, hu.regs.rd64]
    · exact csr_notMem_issuedRegs 0x24 rfl (by decide)
    · rw [hiOf_instret]; exact csr_notMem_issuedRegs 0x25 rfl (by decide)
    · simp only [R.CSR_STATUS, R.CSR_INSTRET_LO, List.mem_cons, List.not_mem_nil, or_false]; omega
    · rw [hiOf_instret]
      simp only [R.CSR_STATUS, R.CSR_INSTRET_HI, List.mem_cons, List.not_mem_nil, or_false]; omega
  · rw [Dev.returned, Dev.x_of_eng (Dev.inc64_eng ..), Dev.x_trapReturn, hu.x]
  · refine ((hu.regs.mono ?_).trans (hr.mono (by simp))).trans ((SameRegs.inc64 _ _ 1).mono ?_)
    · simp [issuedRegs, issueRegs]
    · rw [hiOf_instret]; simp [issueRegs]

theorem Dev.runs.returned_fromS {s : Dev} {i : Issue} (h : s.runs i) (hl : s.lvl i.core = 1) :
    (s.returned i).lvl i.core = s.get (R.CSR_STATUS_spl i.core) ∧ (s.returned i).flag (R.CSR_STATUS_sie i.core) = s.flag (R.CSR_STATUS_spie i.core) ∧
      (s.returned i).pc i.core = s.get (R.CSR_EPC_S_pc i.core) ∧
      (s.returned i).flag (R.CSR_STATUS_mtrap i.core) = s.flag (R.CSR_STATUS_mtrap i.core) := by
  have hu := h.issued.regs
  have hst := csr_notMem_issuedRegs (g := i.core) (a := R.CSR_STATUS i.core) 1 rfl (by decide)
  have hul : (s.issued i).lvl i.core = 1 := (hu.get (f := R.CSR_STATUS_lvl i.core) hst).trans hl
  obtain ⟨hlvl, hie, hm, hpc⟩ := Dev.trapReturn_fromS (s.issued i) i.core (by omega)
  refine ⟨?_, ?_, ?_, ?_⟩
  · exact (Dev.get_status_inc64 _ _ 1 0 2).trans (hlvl.trans (hu.get hst))
  · exact (congrArg (· == 1) (Dev.get_status_inc64 _ _ 1 6 1)).trans (hie.trans (hu.flag hst))
  · exact (Dev.pc_of_eng (Dev.inc64_eng ..) _).trans (hpc.trans (hu.get (csr_notMem_issuedRegs 3 rfl (by decide))))
  · exact (congrArg (· == 1) (Dev.get_status_inc64 _ _ 1 10 1)).trans (hm.trans (hu.flag hst))

theorem Dev.runs.returned_fromM {s : Dev} {i : Issue} (h : s.runs i) (hl : s.lvl i.core = 2) :
    (s.returned i).lvl i.core = s.get (R.CSR_STATUS_mpl i.core) ∧ (s.returned i).flag (R.CSR_STATUS_mie i.core) = s.flag (R.CSR_STATUS_mpie i.core) ∧
      (s.returned i).flag (R.CSR_STATUS_mtrap i.core) = false ∧ (s.returned i).pc i.core = s.get (R.CSR_EPC_M_pc i.core) := by
  have hu := h.issued.regs
  have hst := csr_notMem_issuedRegs (g := i.core) (a := R.CSR_STATUS i.core) 1 rfl (by decide)
  have hul : (s.issued i).lvl i.core = 2 := (hu.get (f := R.CSR_STATUS_lvl i.core) hst).trans hl
  obtain ⟨hlvl, hie, hm, hpc⟩ := Dev.trapReturn_fromM (s.issued i) i.core hul
  refine ⟨?_, ?_, ?_, ?_⟩
  · exact (Dev.get_status_inc64 _ _ 1 0 2).trans (hlvl.trans (hu.get hst))
  · exact (congrArg (· == 1) (Dev.get_status_inc64 _ _ 1 8 1)).trans (hie.trans (hu.flag hst))
  · exact (congrArg (· == 1) (Dev.get_status_inc64 _ _ 1 10 1)).trans hm
  · exact (Dev.pc_of_eng (Dev.inc64_eng ..) _).trans (hpc.trans (hu.get (csr_notMem_issuedRegs 9 rfl (by decide))))

/-- An exception of the instruction that runs is one of the device that it was issued in. -/
theorem Trapped.of_issued {g c : Nat} {s u t : Dev} (h : Issued g s u) (k : Trapped g c u t) : Trapped g c s t := by
  obtain ⟨hS, hM, hD, hcode, hx, hf⟩ := k
  have hst := csr_notMem_issuedRegs (g := g) (a := R.CSR_STATUS g) 1 rfl (by decide)
  have hl : u.lvl g = s.lvl g := h.regs.get (f := R.CSR_STATUS_lvl g) hst
  have hm : u.flag (R.CSR_STATUS_mtrap g) = s.flag (R.CSR_STATUS_mtrap g) := h.regs.flag hst
  rw [hl] at hS hM hD
  rw [hm] at hM hD
  exact ⟨fun h0 => (hS h0).of_regs h.regs hst (csr_notMem_issuedRegs 4 rfl (by decide)) h.pc,
    fun h0 hn => (hM h0 hn).of_regs h.regs hst (csr_notMem_issuedRegs 0xA rfl (by decide)) h.pc, hD, hcode, fun r => (hx r).trans (h.x r),
    h.parts.sameFlash.trans hf⟩

theorem Trapped.canon {g c : Nat} {s t : Dev} (h : Trapped g c s t) : Trapped g c s t.canon := by
  obtain ⟨hS, hM, hD, hcode, hx, hf⟩ := h
  refine ⟨fun h0 => ?_, fun h0 hn => ?_, fun h2 hm => (Dev.coreState_canon t g).trans (hD h2 hm), (Dev.get_canon t _).trans hcode, hx, hf.canon⟩
  · simpa only [EnteredS, Dev.rd_canon, Dev.get_canon, Dev.flag_canon, Dev.lvl_canon, Dev.pc_canon] using hS h0
  · simpa only [EnteredM, Dev.rd_canon, Dev.get_canon, Dev.flag_canon, Dev.lvl_canon, Dev.pc_canon] using hM h0 hn

/-- Settles O36: the frame of the instruction only counts; a return moves the stacked level and enable and the saved pc; at T or with an unused field
not zero ILLEGAL is taken as an exception. -/
theorem trapReturn : Obligations.TrapReturn := by
  rintro s i rd rs1 imm g rfl h
  obtain ⟨hcount, hx, hregs, hparts⟩ := h.returned
  refine ⟨?_, fun hbad => ?_⟩
  · rintro rfl rfl rfl
    refine ⟨fun hl => does_eret_returns h (.inl hl) ?_, fun hl => does_eret_returns h (.inr hl) ?_⟩
    · obtain ⟨hlvl, hie, hpc, hm⟩ := h.returned_fromS hl
      exact ⟨(Dev.lvl_canon ..).trans hlvl, (Dev.flag_canon ..).trans hie, (Dev.pc_canon ..).trans hpc, (Dev.flag_canon ..).trans hm,
        (Dev.rd64_canon ..).trans hcount, fun r => (Dev.x_canon ..).trans (hx r), hregs.canon, hparts.only_canon⟩
    · obtain ⟨hlvl, hie, hm, hpc⟩ := h.returned_fromM hl
      exact ⟨(Dev.lvl_canon ..).trans hlvl, (Dev.flag_canon ..).trans hie, (Dev.flag_canon ..).trans hm, (Dev.pc_canon ..).trans hpc,
        (Dev.rd64_canon ..).trans hcount, fun r => (Dev.x_canon ..).trans (hx r), hregs.canon, hparts.only_canon⟩
  · exact does_eret_illegal h hbad (((s.issued i).trapped_trap i.core _ (show 1 < 64 by decide)).of_issued h.issued).canon

end Sys2Proof.Machine
end
